-- ==== Sys2Proof/Word.lean ====
section
/-! DEFINITION. The word types of the TQ40 and the shape of its sparse stores (00_scope.md R1 to R3). -/

namespace Sys2Proof

/-- A byte, the smallest addressable unit. -/
abbrev Byte := BitVec 8
/-- A byte string in ascending address order. -/
abbrev Bytes := List Byte
/-- A strand register, a lane or a tile cell. -/
abbrev W32 := BitVec 32
/-- A control-core scalar register. -/
abbrev W64 := BitVec 64
/-- A control-core instruction word (05_control_core.md). -/
abbrev W256 := BitVec 256

/-- A sparse map: pairs in strictly rising key order; an unlisted key reads as a default that each use states. -/
abbrev NMap (α : Type) := List (Nat × α)
/-- A set of numbers in strictly rising order. -/
abbrev NSet := List Nat

end Sys2Proof
end

