-- ==== Sys2Proof/Machine/Bytes.lean ====
section
/-! DEFINITION. Byte order and byte strings (00_scope.md R1 to R3). -/

namespace Sys2Proof.Machine

/-- The `n` low bytes of a number, little-endian (R1). -/
def leBytes : Nat → Nat → Bytes
  | 0, _ => []
  | n + 1, v => BitVec.ofNat 8 v :: leBytes n (v / 256)

/-- The number a little-endian byte string holds. -/
def leNat : Bytes → Nat
  | [] => 0
  | b :: bs => b.toNat + 256 * leNat bs

/-- The `n` low bytes of a number, big-endian, as the digest and signature standards write them (R2). -/
def beBytes (n v : Nat) : Bytes := (leBytes n v).reverse

/-- The number a big-endian byte string holds. -/
def beNat (b : Bytes) : Nat := leNat b.reverse

/-- `len` bytes from an offset; shorter past the end. -/
def slice (b : Bytes) (off len : Nat) : Bytes := (b.drop off).take len

/-- The little-endian field of `n` bytes at an offset. -/
def fld (b : Bytes) (off n : Nat) : Nat := leNat (slice b off n)

/-- `n` zero bytes. -/
def zeros (n : Nat) : Bytes := List.replicate n 0

/-- Every byte is zero. -/
def allZero (b : Bytes) : Bool := b.all (fun x => x == 0)

/-- The bytes of a range are all zero (reserved fields, R9). -/
def zeroAt (b : Bytes) (off len : Nat) : Bool := allZero (slice b off len)

/-- Round up to a multiple. -/
def roundUp (n m : Nat) : Nat := (n + m - 1) / m * m

/-- Pad with zero bytes to a multiple of `m`. -/
def padTo (m : Nat) (b : Bytes) : Bytes := b ++ zeros (roundUp b.length m - b.length)

/-- Exactly `n` bytes: cut, or filled with zeros. -/
def fit (n : Nat) (b : Bytes) : Bytes := b.take n ++ zeros (n - b.length)

/-- Cut a byte string into pieces of `n` bytes; `fuel` bounds the number of pieces. -/
def pieces (n : Nat) : Nat → Bytes → List Bytes
  | 0, _ => []
  | _, [] => []
  | fuel + 1, b => b.take n :: pieces n fuel (b.drop n)

/-- Pieces of `n` bytes, the last one perhaps shorter. -/
def chunksOf (n : Nat) (b : Bytes) : List Bytes := pieces n (b.length / n + 1) b

/-- Bit `i` of a number. -/
def bit (v i : Nat) : Bool := v.testBit i

/-- Bits `hi` down to `lo` of a number. -/
def bits (v hi lo : Nat) : Nat := v / 2 ^ lo % 2 ^ (hi - lo + 1)

/-- The signed value of an `n`-bit field. -/
def signed (n v : Nat) : Int := if v % 2 ^ n < 2 ^ (n - 1) then (v % 2 ^ n : Nat) else ((v % 2 ^ n : Nat) : Int) - (2 ^ n : Nat)

/-- The `n`-bit two's complement of an integer. -/
def unsigned (n : Nat) (i : Int) : Nat := (i % ((2 ^ n : Nat) : Int)).toNat

end Sys2Proof.Machine
end

