-- ==== Sys2Proof/Machine/Flags.lean ====
section
/-! DEFINITION. The six sticky flags (04_lay_order.md Table Lay-2). -/

namespace Sys2Proof.Machine

/-- A set of sticky flags in the bit order of Table Lay-2. -/
abbrev Flags := BitVec 6

/-- No flag. -/
def noFlags : Flags := 0
/-- Invalid. -/
def flNV : Flags := 0x01
/-- Division by zero. -/
def flDZ : Flags := 0x02
/-- Overflow. -/
def flOF : Flags := 0x04
/-- Underflow. -/
def flUF : Flags := 0x08
/-- Inexact. -/
def flNX : Flags := 0x10
/-- Saturated. -/
def flSAT : Flags := 0x20

/-- A flag when a condition holds. -/
def flagIf (c : Bool) (f : Flags) : Flags := if c then f else noFlags

/-- The union of what several lanes or units raised (R90, R124). -/
def flagUnion (l : List Flags) : Flags := l.foldl (· ||| ·) noFlags

end Sys2Proof.Machine
end

