-- ==== Sys2Proof/Machine/Formats.lean ====
section
/-! DEFINITION. The nine NP-1 formats, the five rounding modes and every conversion (03_number_formats.md). -/

namespace Sys2Proof.Machine

/-- The data formats of Table Formats-1. -/
inductive Fmt where
  | fp32 | fp16 | bf16 | e4m3 | e5m2 | int32 | int16 | int8 | int4
  deriving DecidableEq, Repr

/-- The format a 4-bit code names; none where it is reserved (R68). -/
def Fmt.ofCode : Nat → Option Fmt
  | 0 => some .fp32 | 1 => some .fp16 | 2 => some .bf16 | 3 => some .e4m3 | 4 => some .e5m2
  | 8 => some .int32 | 9 => some .int16 | 10 => some .int8 | 11 => some .int4
  | _ => none

/-- Width in bits (Table Formats-1). -/
def Fmt.width : Fmt → Nat
  | .fp32 => 32 | .fp16 => 16 | .bf16 => 16 | .e4m3 => 8 | .e5m2 => 8
  | .int32 => 32 | .int16 => 16 | .int8 => 8 | .int4 => 4

/-- The format is one of the five floating-point ones. -/
def Fmt.isFloat : Fmt → Bool
  | .fp32 | .fp16 | .bf16 | .e4m3 | .e5m2 => true
  | _ => false

/-- Exponent field bits, fraction field bits of a floating-point format (Table Formats-2). -/
def Fmt.fields : Fmt → Nat × Nat
  | .fp32 => (8, 23) | .fp16 => (5, 10) | .bf16 => (8, 7) | .e4m3 => (4, 3) | .e5m2 => (5, 2)
  | _ => (0, 0)

/-- The exponent bias (Table Formats-2). -/
def Fmt.bias (f : Fmt) : Nat := 2 ^ (f.fields.1 - 1) - 1

/-- The largest finite magnitude's bit pattern (Table Formats-2). -/
def Fmt.maxBits : Fmt → Nat
  | .fp32 => 0x7F7F_FFFF | .fp16 => 0x7BFF | .bf16 => 0x7F7F | .e4m3 => 0x7E | .e5m2 => 0x7B
  | _ => 0

/-- The canonical NaN (Table Formats-2, R70). -/
def Fmt.nanBits : Fmt → Nat
  | .fp32 => 0x7FC0_0000 | .fp16 => 0x7E00 | .bf16 => 0x7FC0 | .e4m3 => 0x7F | .e5m2 => 0x7E
  | _ => 0

/-- The format has infinities. -/
def Fmt.hasInf : Fmt → Bool
  | .fp32 | .fp16 | .bf16 | .e5m2 => true
  | _ => false

/-- The pattern of plus infinity, for a format that has one. -/
def Fmt.infBits (f : Fmt) : Nat := (2 ^ f.fields.1 - 1) * 2 ^ f.fields.2

/-- The rounding modes of Table Formats-3. -/
inductive Rnd where
  | rne | rtz | rdn | rup | rna
  deriving DecidableEq, Repr

/-- The mode a 3-bit code names; none where it is reserved (R78). -/
def Rnd.ofCode : Nat → Option Rnd
  | 0 => some .rne | 1 => some .rtz | 2 => some .rdn | 3 => some .rup | 4 => some .rna
  | _ => none

/-- An exact value: NaN, an infinity, a signed zero, or the non-zero `n / d × 2^e`. -/
inductive Val where
  | nan
  | inf (neg : Bool)
  | zero (neg : Bool)
  | fin (n : Int) (d : Nat) (e : Int)
  deriving DecidableEq, Repr

/-- The exact value of an integer; zero is plus zero. -/
def Val.ofInt (n : Int) (e : Int) : Val := if n = 0 then .zero false else .fin n 1 e

/-- The sign of a value that is not NaN. -/
def Val.neg : Val → Bool
  | .nan => false
  | .inf s => s
  | .zero s => s
  | .fin n _ _ => decide (n < 0)

/-- The value of a floating-point bit pattern (R69, R71). -/
def Fmt.floatVal (f : Fmt) (b : Nat) : Val :=
  let eb := f.fields.1
  let fb := f.fields.2
  let neg := bit b (eb + fb)
  let e := bits b (eb + fb - 1) fb
  let fr := b % 2 ^ fb
  let sg (n : Nat) : Int := if neg then -(n : Int) else n
  let top := e == 2 ^ eb - 1
  if top && f.hasInf then (if fr = 0 then .inf neg else .nan)
  else if top && fr == 2 ^ fb - 1 then .nan
  else if e = 0 then
    (if fr = 0 then .zero neg else .fin (sg fr) 1 (1 - (f.bias : Int) - fb))
  else .fin (sg (2 ^ fb + fr)) 1 ((e : Int) - f.bias - fb)

/-- The value of a bit pattern of any format. -/
def Fmt.val (f : Fmt) (b : Nat) : Val :=
  if f.isFloat then f.floatVal b else Val.ofInt (signed f.width b) 0

/-- Round the magnitude `n / d` of a value of the given sign to an integer (Table Formats-3). -/
def roundMag (m : Rnd) (neg : Bool) (n d : Nat) : Nat :=
  let q := n / d
  let r := n % d
  let up := match m with
    | .rne => decide (d < 2 * r) || (decide (d = 2 * r) && decide (q % 2 = 1))
    | .rtz => false
    | .rdn => neg && decide (r ≠ 0)
    | .rup => !neg && decide (r ≠ 0)
    | .rna => decide (d ≤ 2 * r)
  if up then q + 1 else q

/-- floor(log2(n / d)) for positive n and d. -/
def ilog (n d : Nat) : Int :=
  let l : Int := (Nat.log2 n : Int) - Nat.log2 d
  if n * 2 ^ (-l).toNat < d * 2 ^ l.toNat then l - 1 else l

/-- `n / d × 2^e` as a fraction. -/
def scaleFrac (n d : Nat) (e : Int) : Nat × Nat := (n * 2 ^ e.toNat, d * 2 ^ (-e).toNat)

/-- What overflow of a value of the given sign gives (R81, R82): the pattern without its sign and the flags. -/
def overflowTo (f : Fmt) (m : Rnd) (sat neg : Bool) : Nat × Flags :=
  if sat || !f.hasInf then (f.maxBits, flSAT ||| flNX)
  else
    let away := match m with
      | .rne | .rna => true
      | .rtz => false
      | .rdn => neg
      | .rup => !neg
    (if away then f.infBits else f.maxBits, flOF ||| flNX)

/-- Put the sign bit on a pattern of a floating-point format. -/
def withSign (f : Fmt) (neg : Bool) (b : Nat) : Nat := if neg then b + 2 ^ (f.width - 1) else b

/-- The procedure of R80 on `±n/d × 2^e`, with R81 and R82 on overflow. -/
def roundFloat (f : Fmt) (m : Rnd) (sat neg : Bool) (n d : Nat) (e : Int) : Nat × Flags :=
  let fb := f.fields.2
  let emin : Int := 1 - f.bias
  let lg := ilog n d + e
  let q : Int := (if lg < emin then emin else lg) - fb
  let fr := scaleFrac n d (e - q)
  let r := roundMag m neg fr.1 fr.2
  let inexact := decide (fr.1 % fr.2 ≠ 0)
  let code := (q - (emin - fb)).toNat * 2 ^ fb + r
  if f.maxBits < code then
    let o := overflowTo f m sat neg
    (withSign f neg o.1, o.2)
  else (withSign f neg code, flagIf inexact flNX ||| flagIf (inexact && decide (lg < emin)) flUF)

/-- The smallest and largest values of an integer format. -/
def intMin (w : Nat) : Int := -((2 ^ (w - 1) : Nat) : Int)
/-- The largest value of a `w`-bit integer. -/
def intMax (w : Nat) : Int := ((2 ^ (w - 1) : Nat) : Int) - 1

/-- Clamp an exact integer into `w` bits, raising SAT and NX when it does not fit (R86, R88, R103). -/
def clampInt (w : Nat) (r : Int) : Nat × Flags :=
  if r < intMin w then (unsigned w (intMin w), flSAT ||| flNX)
  else if intMax w < r then (unsigned w (intMax w), flSAT ||| flNX)
  else (unsigned w r, noFlags)

/-- Conversion of an exact value to a `w`-bit integer (R86, R87). -/
def toIntBits (w : Nat) (m : Rnd) : Val → Nat × Flags
  | .nan => (0, flNV)
  | .inf neg => (unsigned w (if neg then intMin w else intMax w), flSAT ||| flNX)
  | .zero _ => (0, noFlags)
  | .fin n d e =>
    let fr := scaleFrac n.natAbs d e
    let r := roundMag m (decide (n < 0)) fr.1 fr.2
    let c := clampInt w (if n < 0 then -(r : Int) else r)
    (c.1, if c.2 = noFlags then flagIf (decide (fr.1 % fr.2 ≠ 0)) flNX else c.2)

/-- Conversion of an exact value to a floating-point format (R80 to R84). -/
def toFloatBits (f : Fmt) (m : Rnd) (sat : Bool) : Val → Nat × Flags
  | .nan => (f.nanBits, noFlags)
  | .inf neg =>
    if sat || !f.hasInf then (withSign f neg f.maxBits, flSAT ||| flNX)
    else (withSign f neg f.infBits, noFlags)
  | .zero neg => (withSign f neg 0, noFlags)
  | .fin n d e => roundFloat f m sat (decide (n < 0)) n.natAbs d e

/-- Multiply a finite value by `2^k` (R85). -/
def Val.scale (k : Int) : Val → Val
  | .fin n d e => .fin n d (e + k)
  | v => v

/-- Round an exact value once into a format (R80 to R88). -/
def Val.to (f : Fmt) (m : Rnd) (sat : Bool) (v : Val) : Nat × Flags :=
  if f.isFloat then toFloatBits f m sat v else toIntBits f.width m v

/-- One conversion: source format and pattern, destination, mode, saturate modifier and scale exponent (R77). -/
def convert (src dst : Fmt) (m : Rnd) (sat : Bool) (k : Int) (b : Nat) : Nat × Flags :=
  ((src.val b).scale k).to dst m sat

/-- Replace every NaN pattern by the canonical NaN (R70). -/
def canonNaN (f : Fmt) (b : Nat) : Nat :=
  match f.val b with
  | .nan => f.nanBits
  | _ => b

/-- The elements of a byte string in a format, INT4 packed two to a byte (R1, R74, R75). -/
def unpackElems (f : Fmt) (count : Nat) (b : Bytes) : List Nat :=
  match f with
  | .int4 => (List.range count).map (fun i => bits (fld b (i / 2) 1) (4 * (i % 2) + 3) (4 * (i % 2)))
  | _ => (List.range count).map (fun i => fld b (i * (f.width / 8)) (f.width / 8))

/-- Pack INT4 elements, an odd last one with a zero upper nibble (R74, R75). -/
def packNibbles : List Nat → Bytes
  | [] => []
  | [a] => [BitVec.ofNat 8 (a % 16)]
  | a :: b :: l => BitVec.ofNat 8 (a % 16 + 16 * (b % 16)) :: packNibbles l

/-- The bytes of a list of elements in a format. -/
def packElems (f : Fmt) (l : List Nat) : Bytes :=
  match f with
  | .int4 => packNibbles l
  | _ => l.flatMap (leBytes (f.width / 8))

/-- Bytes that `count` elements of a format take. -/
def elemBytes (f : Fmt) (count : Nat) : Nat := (count * f.width + 7) / 8

end Sys2Proof.Machine
end

