-- ==== Sys2Proof/Syntax.lean ====
section
/-! DEFINITION. The commands of the TQ40: one constructor per row of the table of operations and events. -/

namespace Sys2Proof

/-- A logical skein, 0 to 127 (R42). -/
abbrev Skein := Fin 128
/-- A strand of a skein. -/
abbrev Strand := Fin 32
/-- An Omius stack and its controller. -/
abbrev Stack := Fin 8
/-- A lanyard port. -/
abbrev Port := Fin 8
/-- A tenant, one PCIe function (R363). -/
abbrev Tenant := Fin 128
/-- A submission ring of a tenant. -/
abbrev Ring := Fin 4
/-- A logical section (R42). -/
abbrev Section := Fin 8

/-! ### Control-core words (05_control_core.md Tables Core-3 to Core-5) -/

/-- The header less the opcode (Table Core-3). -/
structure Hdr where
  pred  : BitVec 4
  pneg  : Bool
  rnd   : BitVec 3
  fmask : BitVec 6
  sat   : Bool
  scale : BitVec 8
  fd    : BitVec 4
  fa    : BitVec 4
  fb    : BitVec 4
  fc    : BitVec 4
  deriving DecidableEq, Repr

/-- Form S (Table Core-4). -/
structure SWord where
  hdr : Hdr
  sd  : BitVec 6
  sa  : BitVec 6
  sb  : BitVec 6
  imm : BitVec 64
  deriving DecidableEq, Repr

/-- Form M (Table Core-4); `param` holds bits 255 to 128 of the word. -/
structure MWord where
  hdr   : Hdr
  sd    : BitVec 6
  sa    : BitVec 6
  sb    : BitVec 6
  sc    : BitVec 6
  imm32 : BitVec 32
  param : BitVec 128
  deriving DecidableEq, Repr

/-- An operand descriptor (Table Core-5). -/
structure Opd where
  kind   : Bool
  trans  : Bool
  base   : BitVec 22
  stride : BitVec 16
  deriving DecidableEq, Repr

/-- Form T (Table Core-4). -/
structure TWord where
  hdr    : Hdr
  mm1    : BitVec 8
  nm1    : BitVec 8
  km1    : BitVec 8
  engine : BitVec 2
  d      : Opd
  a      : Opd
  b      : Opd
  c      : Opd
  deriving DecidableEq, Repr

/-! ### Strand words (06_matrix_vector.md Table Matrix-6) -/

/-- The second source of a SALU (register) or SIMM (immediate) word. -/
inductive SSrc where
  | reg (xb : BitVec 5)
  | imm (v : BitVec 12)
  deriving DecidableEq, Repr

/-- Classes SALU and SIMM. -/
structure SaluW where
  xd  : BitVec 5
  xa  : BitVec 5
  src : SSrc
  deriving DecidableEq, Repr

/-- Class BRANCH. -/
structure BranchW where
  cond : BitVec 3
  xa   : BitVec 5
  xb   : BitVec 5
  off  : BitVec 12
  deriving DecidableEq, Repr

/-- Class VARITH; for CURVE, `vc` and `vb` together are the curve ID. -/
structure VarithW where
  fmt : BitVec 4
  rnd : BitVec 3
  vd  : BitVec 3
  va  : BitVec 3
  vb  : BitVec 3
  vc  : BitVec 3
  deriving DecidableEq, Repr

/-- Class VCVT. -/
structure VcvtW where
  fd    : BitVec 4
  fa    : BitVec 4
  rnd   : BitVec 3
  sat   : Bool
  scale : BitVec 8
  vd    : BitVec 3
  va    : BitVec 3
  deriving DecidableEq, Repr

/-- Class VPERM. -/
structure VpermW where
  fmt  : BitVec 4
  vd   : BitVec 3
  va   : BitVec 3
  vb   : BitVec 3
  xs   : BitVec 5
  imm5 : BitVec 5
  deriving DecidableEq, Repr

/-- Class TILE. -/
structure TileW where
  fmt  : BitVec 4
  tile : BitVec 6
  v    : BitVec 3
  xs   : BitVec 5
  deriving DecidableEq, Repr

/-- Class MEM; for VLD and VST the low three bits of `xd` name the lane register. -/
structure MemW where
  xa  : BitVec 5
  xd  : BitVec 5
  off : BitVec 14
  deriving DecidableEq, Repr

/-- Class CTRL. -/
structure CtrlW where
  xd  : BitVec 5
  imm : BitVec 9
  deriving DecidableEq, Repr

/-! ### What events report -/

/-- What a DMA read of host memory returned (10 R317, 12 R391). -/
inductive HostRead where
  | data (b : Bytes)
  | notPresent
  | failed
  deriving DecidableEq, Repr

/-- How a DMA write to host memory ended. -/
inductive HostWrite where
  | done
  /-- A page is not present: that of the first byte, or of the last one. -/
  | notPresent (last : Bool)
  | failed
  deriving DecidableEq, Repr

/-- A page response (12 R374). -/
inductive PageAnswer where
  | success
  | invalidRequest
  | responseFailure
  deriving DecidableEq, Repr

/-- What the burst code found (07 Faults). -/
inductive BurstCheck where
  | clean
  | corrected
  | uncorrectable
  deriving DecidableEq, Repr

/-- How a near-bank step ended (08 Faults). `burst` counts the 32-byte bursts of the table row that the step read;
`controllerReads`: whether the controller path then read the burst. -/
inductive StepEnd where
  | done
  | corrected (burst : Nat)
  | uncorrectable (burst : Nat) (controllerReads : Bool)
  | residue
  deriving DecidableEq, Repr

/-- Faults of a skein (15 Table Integrity-6). -/
inductive SkeinEvent where
  | residue
  | storage
  | decode
  | stream
  deriving DecidableEq, Repr

/-- A reference clock (18 Table Reset-2). -/
inductive Ref where
  | modref
  | pcie
  | lny (p : Port)
  | tbclk
  | tbpps
  deriving DecidableEq, Repr

/-- A PLL that can fail to lock (R572). -/
inductive Pll where
  | skeinSection (n : Section)
  | stack (s : Stack)
  | frontEnd
  deriving DecidableEq, Repr

/-- A temperature sensor (21 Table Module-5). -/
inductive Sensor where
  | die
  | stack
  | flash
  | bank
  deriving DecidableEq, Repr

/-- Why a pseudo-channel is retrained (R544). -/
inductive RetrainCause where
  | period
  | temperature
  | errors
  deriving DecidableEq, Repr

/-- How a retrain ended (R543, R544, Table Boot-9). -/
inductive RetrainEnd where
  | passed
  | abandoned
  | failed
  deriving DecidableEq, Repr

/-- A reset that passed its limit (18 Table Reset-5). -/
inductive Overrun where
  | skein (k : Skein)
  | skeinSection (n : Section)
  | retaining
  deriving DecidableEq, Repr

/-- Where a weave wait exceeded its bound (R65, R66). -/
inductive WaitSite where
  | skein (k : Skein)
  | other
  deriving DecidableEq, Repr

/-- A feature of Table Host-1 that configuration space tells of. -/
inductive Feature where
  | linkRates | linkWidths | l0p | l0s | l1 | aspm
  | d3hot | noSoftReset
  | totalVfs | firstVfOffset | vfStride | ari
  | maxPayload | maxReadRequest | tags | relaxedOrdering
  | ats | pri | pasidBits | pasidExecute | pasidPrivileged
  | ptmRequester | ptmResponder
  | msixVectors | msi | intx | flr | aer | resizableBar | atomics | tph | doe
  deriving DecidableEq, Repr

/-- What a configuration request asks for: to read a feature, a BAR register or the AER counts; to write the function's power state,
the size of the PF's BAR2, NumVFs, the page request control, or the sizes and ordering of its requests (Tables Host-1, Host-2). -/
inductive ConfigOp where
  | other
  | d3hot
  | pfBar2 (full : Bool)
  | feature (f : Feature)
  | bar (n : Fin 6)
  | aerCounts
  | numVfs (n : Nat)
  /-- Enable, reset, and the outstanding page request allocation. -/
  | pageRequests (on reset : Bool) (alloc : Nat)
  | requestSizes (payload readReq : Nat) (relaxed : Bool)
  deriving DecidableEq, Repr

/-- A 4 KiB page of host memory under a PASID (R320, R370). -/
structure HostPage where
  pasid : BitVec 20
  page  : Nat
  deriving DecidableEq, Repr

/-- An uncorrectable flit of a link: the single-bit errors that the link has corrected since the last one, and launch and
execution of the transaction that failed with it (R61 to R63). -/
structure FlitErrors where
  corrected : Nat
  owner     : Option (Nat × Nat)
  deriving DecidableEq, Repr

/-- How the writes of the sealed outputs' copy ended: all of them done, a page not present, or an access that failed; the last
two at the first byte of output buffer `buf` that was not written (R317, R318). -/
inductive CopyEnd where
  | done
  | notPresent (buf off : Nat)
  | failed (buf off : Nat)
  deriving DecidableEq, Repr

/-- The seal engine's work on a launch: the copy of its outputs, and how it ended. -/
structure SealWork where
  launch : Nat
  copy   : CopyEnd
  deriving DecidableEq, Repr

/-- What training and self-test found during a boot (17 Training and mapping). -/
structure BootFind where
  /-- MODREF present (18 At start-up). -/
  modref  : Bool
  /-- Physical skeins that fail self-test. -/
  skeins  : List Nat
  /-- Media engines that fail the known-answer decode. -/
  engines : List Nat
  /-- Pseudo-channels that fail training: 32 × stack + physical number. -/
  pcs     : List Nat
  /-- Stacks whose NB-READY sideband is fitted and trains (R236). -/
  ready   : BitVec 8
  /-- NB-CAP revision and buffer size. -/
  nbRev   : BitVec 4
  nbKib   : BitVec 8
  /-- THERM_CLASS straps (R611). -/
  therm   : BitVec 2
  /-- Stacks that pass the check without writes (R383). -/
  clean   : BitVec 8
  deriving DecidableEq, Repr

/-- One command: a row of the table with its operands. -/
inductive Instr where
  -- control-core words
  | nop (k : Skein) (w : SWord)
  | add (k : Skein) (w : SWord)
  | sub (k : Skein) (w : SWord)
  | mul (k : Skein) (w : SWord)
  | mulhs (k : Skein) (w : SWord)
  | mulhu (k : Skein) (w : SWord)
  | and (k : Skein) (w : SWord)
  | or (k : Skein) (w : SWord)
  | xor (k : Skein) (w : SWord)
  | shl (k : Skein) (w : SWord)
  | shr (k : Skein) (w : SWord)
  | sar (k : Skein) (w : SWord)
  | min (k : Skein) (w : SWord)
  | max (k : Skein) (w : SWord)
  | minu (k : Skein) (w : SWord)
  | maxu (k : Skein) (w : SWord)
  | cmpeq (k : Skein) (w : SWord)
  | cmplt (k : Skein) (w : SWord)
  | cmpltu (k : Skein) (w : SWord)
  | pand (k : Skein) (w : SWord)
  | por (k : Skein) (w : SWord)
  | pnot (k : Skein) (w : SWord)
  | lds (k : Skein) (w : SWord)
  | sts (k : Skein) (w : SWord)
  | ldc (k : Skein) (w : SWord)
  | br (k : Skein) (w : SWord)
  | bri (k : Skein) (w : SWord)
  | call (k : Skein) (w : SWord)
  | loop (k : Skein) (w : SWord)
  | fence (k : Skein) (w : SWord)
  | rdflags (k : Skein) (w : SWord)
  | ckpt (k : Skein) (w : MWord)
  | endl (k : Skein) (w : SWord)
  | mmul (k : Skein) (w : TWord)
  | mmac (k : Skein) (w : TWord)
  | asplit (k : Skein) (w : SWord)
  | tld (k : Skein) (w : TWord)
  | tst (k : Skein) (w : TWord)
  | tzero (k : Skein) (w : TWord)
  | tcvt (k : Skein) (w : TWord)
  | tcopy (k : Skein) (w : TWord)
  | strgo (k : Skein) (w : MWord)
  | strwait (k : Skein) (w : MWord)
  | stmopen (k : Skein) (w : MWord)
  | stmrearm (k : Skein) (w : MWord)
  | stmclose (k : Skein) (w : MWord)
  | stmcancel (k : Skein) (w : MWord)
  | stmwait (k : Skein) (w : MWord)
  | nbgp (k : Skein) (w : MWord)
  | nbdot (k : Skein) (w : MWord)
  | nbsa (k : Skein) (w : MWord)
  | nbcopy (k : Skein) (w : MWord)
  | tally (k : Skein) (w : MWord)
  | talrd (k : Skein) (w : MWord)
  | rowrd (k : Skein) (w : MWord)
  | splice (k : Skein) (w : MWord)
  | seqf (k : Skein) (w : MWord)
  | frameOpen (k : Skein) (w : MWord)
  | frameNext (k : Skein) (w : MWord)
  | frameRead (k : Skein) (w : MWord)
  | frameClose (k : Skein) (w : MWord)
  -- skein events
  | tileTokenGrant (k : Skein) (tile : Fin 64)
  | arrayPassDone (k : Skein) (job : Nat) (pass : Nat)
  | mvpChunkDone (k : Skein) (job : Nat) (m n chunk : Nat)
  | strandGroupStart (k : Skein) (group : Nat)
  -- strand words
  | sAdd (k : Skein) (i : Strand) (w : SaluW)
  | sSub (k : Skein) (i : Strand) (w : SaluW)
  | sMul (k : Skein) (i : Strand) (w : SaluW)
  | sMulhs (k : Skein) (i : Strand) (w : SaluW)
  | sMulhu (k : Skein) (i : Strand) (w : SaluW)
  | sAnd (k : Skein) (i : Strand) (w : SaluW)
  | sOr (k : Skein) (i : Strand) (w : SaluW)
  | sXor (k : Skein) (i : Strand) (w : SaluW)
  | sShl (k : Skein) (i : Strand) (w : SaluW)
  | sShr (k : Skein) (i : Strand) (w : SaluW)
  | sSar (k : Skein) (i : Strand) (w : SaluW)
  | sMin (k : Skein) (i : Strand) (w : SaluW)
  | sMax (k : Skein) (i : Strand) (w : SaluW)
  | sMinu (k : Skein) (i : Strand) (w : SaluW)
  | sMaxu (k : Skein) (i : Strand) (w : SaluW)
  | branch (k : Skein) (i : Strand) (w : BranchW)
  | vadd (k : Skein) (i : Strand) (w : VarithW)
  | vsub (k : Skein) (i : Strand) (w : VarithW)
  | vmul (k : Skein) (i : Strand) (w : VarithW)
  | vfma (k : Skein) (i : Strand) (w : VarithW)
  | vdiv (k : Skein) (i : Strand) (w : VarithW)
  | vsqrt (k : Skein) (i : Strand) (w : VarithW)
  | vmin (k : Skein) (i : Strand) (w : VarithW)
  | vmax (k : Skein) (i : Strand) (w : VarithW)
  | vabs (k : Skein) (i : Strand) (w : VarithW)
  | vneg (k : Skein) (i : Strand) (w : VarithW)
  | vcmpeq (k : Skein) (i : Strand) (w : VarithW)
  | vcmplt (k : Skein) (i : Strand) (w : VarithW)
  | vcmple (k : Skein) (i : Strand) (w : VarithW)
  | vcmpun (k : Skein) (i : Strand) (w : VarithW)
  | vsel (k : Skein) (i : Strand) (w : VarithW)
  | vdot (k : Skein) (i : Strand) (w : VarithW)
  | vsum (k : Skein) (i : Strand) (w : VarithW)
  | vrmin (k : Skein) (i : Strand) (w : VarithW)
  | vrmax (k : Skein) (i : Strand) (w : VarithW)
  | vcurve (k : Skein) (i : Strand) (w : VarithW)
  | vcvt (k : Skein) (i : Strand) (w : VcvtW)
  | perm (k : Skein) (i : Strand) (w : VpermW)
  | rot (k : Skein) (i : Strand) (w : VpermW)
  | bcast (k : Skein) (i : Strand) (w : VpermW)
  | ziplo (k : Skein) (i : Strand) (w : VpermW)
  | ziphi (k : Skein) (i : Strand) (w : VpermW)
  | unzipe (k : Skein) (i : Strand) (w : VpermW)
  | unzipo (k : Skein) (i : Strand) (w : VpermW)
  | pack (k : Skein) (i : Strand) (w : VpermW)
  | unpack (k : Skein) (i : Strand) (w : VpermW)
  | sort (k : Skein) (i : Strand) (w : VpermW)
  | movx (k : Skein) (i : Strand) (w : VpermW)
  | lane (k : Skein) (i : Strand) (w : VpermW)
  | trd (k : Skein) (i : Strand) (w : TileW)
  | twr (k : Skein) (i : Strand) (w : TileW)
  | trdx (k : Skein) (i : Strand) (w : TileW)
  | ldw (k : Skein) (i : Strand) (w : MemW)
  | stw (k : Skein) (i : Strand) (w : MemW)
  | vld (k : Skein) (i : Strand) (w : MemW)
  | vst (k : Skein) (i : Strand) (w : MemW)
  | strandEnd (k : Skein) (i : Strand) (w : CtrlW)
  | strandRdflags (k : Skein) (i : Strand) (w : CtrlW)
  | strandLdc (k : Skein) (i : Strand) (w : CtrlW)
  -- submission and the launch path
  /-- `reads`: what the 64-byte read of each tenant's doorbell entry returned; a tenant not listed failed. -/
  | doorbellPoll (reads : List (Nat × Bytes))
  /-- `slot`: the 256 bytes read, or none when the read failed after its page request (R392). -/
  | descriptorFetch (t : Tenant) (r : Ring) (seq : BitVec 32) (slot : Option Bytes)
  /-- `lcb`, `replay`: what the reads of the constant block and the replay block returned (step 5). -/
  | admission (t : Tenant) (r : Ring) (lcb : Option Bytes) (replay : Option Bytes)
  | admissionBind (t : Tenant) (r : Ring)
  | dispatch (launch : Nat) (ex : Nat) (k : Skein)
  | holdCopyUnit (launch : Nat) (buf : Fin 8) (unit : HostRead)
  | residentRegionLoaded (k : Skein) (launch : Nat)
  | preloadOpen (k : Skein) (launch : Nat) (ex : Nat)
  | launchEntry (k : Skein)
  /-- `first`, `count`: the elements, counted in stream order over all armings, whose bytes arrived. -/
  | streamDataArrival (k : Skein) (stream : Fin 32) (first count : Nat)
  | outUnitSend (k : Skein) (stream : Fin 32) (res : HostWrite)
  /-- `group`: the Page Request Group index of the request it answers (R372). -/
  | pageResponse (fn : Tenant) (group : Nat) (ans : PageAnswer)
  | priTimeout (fn : Tenant) (page : Nat)
  /-- `buf`: the buffer whose hold copy met the error. -/
  | hostAccessError (launch : Nat) (buf : Fin 8)
  | atsInvalidation (fn : Tenant) (page : HostPage) (count : Nat)
  -- near-bank, tally and memory events
  | nbStepIssue (st : Stack) (k : Skein) (word entry : Nat)
  | nbReadyFrame (st : Stack) (lpc : Fin 30) (bank : Fin 16) (res : StepEnd)
  | nbStatusPoll (st : Stack) (lpc : Fin 30) (bank : Fin 16) (ended : Bool) (res : StepEnd)
  | nbStepTimeout (st : Stack) (lpc : Fin 30) (bank : Fin 16)
  | nbAbortTimeout (st : Stack) (lpc : Fin 30) (bank : Fin 16)
  | poolRingPartial (src : Stack) (k : Skein) (word bag : Nat)
  | nbResultDelivery (k : Skein) (word : Nat)
  | tallyApply (st : Stack)
  | wcIdleFlush (st : Stack) (line : Nat)
  | patrolScrub (st : Stack) (burst : Nat) (check : BurstCheck)
  | lineRebuildDone (line : Nat) (data : Option Bytes)
  | pcRebuildDone (st : Stack)
  | pcRetrain (st : Stack) (lpc : Fin 30) (cause : RetrainCause)
  | skeinFault (k : Skein) (ev : SkeinEvent)
  | skeinSelfTestDone (k : Skein) (passed : Bool)
  | flitDoubleError (link : Fin 294) (errors : FlitErrors)
  | waitBound (site : WaitSite) (number : Fin 160) (cls : Fin 5)
  -- integrity, seal and completion
  | integrityCheck (launch : Nat) (ex : Nat)
  | sealForm (work : SealWork)
  | outcomeStage (launch : Nat)
  | completionWrite (t : Tenant) (written : Bool)
  | msixSend (t : Tenant)
  | msixUnmask (t : Tenant) (entry : Fin 16)
  | watchdogExpiry (launch : Nat)
  | hangResetProceed (find : BootFind)
  -- epoch boundary
  | spliceSequence
  | anchorClose
  | boundaryGatherDone
  | boundaryDrainDone
  | spliceApply
  | boundaryRecordDurable
  | boundaryLimitExpiry
  -- lanyards
  /-- `r`: the 16-byte random value drawn for this training attempt. -/
  | portTrained (p : Port) (lanes : Nat) (r : Bytes)
  | helloSend (p : Port) (nonce : Bytes)
  | helloFrame (p : Port) (frame : Bytes)
  | spliceFrame (p : Port) (frame : Bytes)
  | stateFrame (p : Port) (frame : Bytes)
  | manifestFrame (p : Port) (frame : Bytes)
  | manifestAckFrame (p : Port) (frame : Bytes)
  | confirmFrame (p : Port) (frame : Bytes)
  | reportFrame (p : Port) (frame : Bytes)
  | voteFrame (p : Port) (frame : Bytes)
  | fetchFrame (p : Port) (frame : Bytes)
  | rebuildFrame (p : Port) (frame : Bytes)
  | linkFrame (p : Port) (frame : Bytes)
  | linkSend (p : Port)
  | goBack (p : Port)
  | retryEpisodeFailure (p : Port)
  | replicationTimeout (p : Port) (seq : Nat)
  | anchorTimeout
  | laneEvent (p : Port) (lane : Fin 8)
  | release (p : Port)
  | retrain (p : Port)
  -- journal
  | journalRecordAccept
  | flashWriteDone
  | drydownStart
  | drydownDone
  | exportStart
  | exportDone (res : HostWrite)
  | arenaLoad (request : BitVec 64)
  /-- The load request, the touch list and the joined archive parts, as read through tenant 0's PASID. -/
  | arenaLoadDone (request touch parts : HostRead)
  | powerFailWarning
  /-- `linkUp`: the host link still carries completion records (Table Sillage-4, step 2). -/
  | powerFailFlushDone (linkUp : Bool)
  | inputPowerRestore
  | holdupReport (milliJoule : Nat)
  | capacitanceTest (milliJoule : Nat)
  | holdupMonitorSilent
  -- power and heat
  | powerLimitExceeded (watt : Nat)
  | powerLimitRecovery (watt : Nat)
  | pwrbrkAssert
  | pwrbrkRelease
  | thermalDerate (sensor : Sensor) (celsius : Int)
  | thermalDerateEnd (sensor : Sensor) (celsius : Int)
  | thermalTrip (sensor : Sensor) (celsius : Int)
  -- clocks
  | clockMonitorTrip (ref : Ref)
  /-- `ppm`: how far from nominal the reference has settled. -/
  | holdoverExit (ref : Ref) (ppm : Int)
  /-- `keepSecond`: the second oscillator is the one that agrees with MODREF. -/
  | odoMismatch (keepSecond : Bool)
  | pllLockFailure (pll : Pll)
  /-- `correction`: ns to add to device time, none when the dialogue failed. -/
  | ptmDialogue (correction : Option Int)
  /-- `offset`: ns from the current device time to the edge. -/
  | tbppsEdge (offset : Fin 1000)
  | tbppsMissing
  | holdoverMaxExpiry
  | clkTimeSet (ns : BitVec 64)
  -- resets
  | perstAssert
  | hotReset
  | dlDown
  | perstDeassert (find : BootFind)
  | pfFlr (find : BootFind)
  | vfFlr (t : Tenant)
  | d3hotToD0 (fn : Tenant)
  | rstSkein (target : BitVec 8)
  | rstSection (target : BitVec 8)
  | rstTenant (target : BitVec 8)
  | rstRetaining (find : BootFind)
  | rstFull
  | rstArm
  | resetLimitOverrun (what : Overrun)
  -- boot and firmware
  | powerOn (find : BootFind)
  | bootLimitExpiry
  | configRequest (fn : Tenant) (op : ConfigOp)
  | activate
  | revert
  | commitSvn
  | cancel
  | fwUpdateStart
  | fwUpdateDone (image : HostRead)
  | pldmFwUpdate (slotB : Bool) (image : Bytes)
  | getMeasurements (index : BitVec 8)
  | holdLoadStart (image : HostRead)
  | confirm
  | rebuild
  -- register commands
  | accordStageStart
  /-- `block`: the 96 bytes read at FE_TABLE_ADDR. -/
  | tableCtrlRegister (block : HostRead)
  | tableCtrlRetire
  | sqEnable (t : Tenant) (r : Ring)
  | cqEnable (t : Tenant)
  | setupLock
  | feEpochRead
  | jrnArenaEpochRead
  | clkTimeRead
  | registerWrite (fn : Tenant) (off : BitVec 25) (size : Nat) (value : BitVec 64)
  | bar2Read (fn : Tenant) (off : BitVec 38) (len : Nat)
  | bar2Write (fn : Tenant) (off : BitVec 38) (data : Bytes)
  | poisonedWrite (fn : Tenant)
  -- media, memory and link events
  | mediaContextGrant (k : Skein)
  | frameDecodeDone (k : Skein) (engine : Fin 4)
  | engineFailure (engine : Fin 4)
  | pcRetrainEnd (st : Stack) (res : RetrainEnd)
  | sectionFault (n : Section)
  | selfRefreshExcursion (st : Stack)
  /-- `present`: the size of the translated page and whether it may be written, none when not present. -/
  | atsTranslationCompletion (fn : Tenant) (page : HostPage) (present : Option (Nat × Bool))
  | pcieLinkUp (rate : BitVec 4) (width : BitVec 5)
  /-- A BAR0 read of `size` bytes. -/
  | regAccess (fn : Tenant) (off : BitVec 25) (size : Nat)
  | portEnable (p : Port) (enable : Bool)
  | tableRebuildDone
  deriving DecidableEq, Repr

end Sys2Proof
end

