-- ==== Sys2Proof/Machine/Operands.lean ====
section
/-! DEFINITION. The operand fields of the words: Form M unit parameters, Form T extents, immediates
(Tables Core-4 to Core-6, Matrix-3, Streams-3, NearBank-3, Memory-5, Media-2). -/

namespace Sys2Proof.Machine

/-- A field of IMM32. -/
def immBits (w : MWord) (hi lo : Nat) : Nat := bits w.imm32.toNat hi lo
/-- A field of PARAM; `hi` and `lo` are bits of the word, from 128. -/
def parBits (w : MWord) (hi lo : Nat) : Nat := bits w.param.toNat (hi - 128) (lo - 128)

/-- The signed 64-bit immediate of a Form S word. -/
def immInt (w : SWord) : Int := signed 64 w.imm.toNat

/-- The scale exponent of TCVT (R85). -/
def scaleInt (h : Hdr) : Int := signed 8 h.scale.toNat

/-- M, N and K of a Form T word. -/
def dimM (w : TWord) : Nat := w.mm1.toNat + 1
/-- N. -/
def dimN (w : TWord) : Nat := w.nm1.toNat + 1
/-- K. -/
def dimK (w : TWord) : Nat := w.km1.toNat + 1

/-- Blocks of 32 × 32 that a shape takes. -/
def blocksOf (rows cols : Nat) : Nat := ((rows + 31) / 32) * ((cols + 31) / 32)

/-- The first tile register of a KIND 0 operand (Table Core-5). -/
def tileOf (o : Opd) : Nat := o.base.toNat % 64

/-- Rows and columns of an operand as it is stored: exchanged when read transposed. -/
def stored (o : Opd) (rows cols : Nat) : Nat × Nat := if o.trans then (cols, rows) else (rows, cols)

/-- The tiles a KIND 0 operand of a logical shape spans. -/
def tileSpan (o : Opd) (rows cols : Nat) : List Nat :=
  let s := stored o rows cols
  if o.kind then [] else (List.range (blocksOf s.1 s.2)).map (tileOf o + ·)

/-- The register a Form S or M field names, as the word gives it. -/
def reg6 (r : BitVec 6) : Nat := r.toNat

/-! ### Near-bank words (Table NearBank-3) -/

/-- Entries, 1 to 65,536. -/
def nbCount (w : MWord) : Nat := immBits w 15 0 + 1
/-- NBGP mode. -/
def nbMode (w : MWord) : Nat := immBits w 18 16
/-- BIAS. -/
def nbBias (w : MWord) : Bool := immBits w 19 19 == 1
/-- Table handle. -/
def parHandle (w : MWord) : Nat := parBits w 143 128
/-- Result stream number. -/
def parStream (w : MWord) : Nat := parBits w 151 144
/-- Row-cache hint. -/
def parHint (w : MWord) : Nat := parBits w 153 152
/-- LAST use count. -/
def parUse (w : MWord) : Nat := parBits w 157 154

/-! ### Tally words (Table Memory-5) -/

/-- Elements n, 1 to 32. -/
def tallyCount (w : MWord) : Nat := immBits w 4 0 + 1
/-- Addend type or read-out code. -/
def tallyCode (w : MWord) : Nat := immBits w 6 5
/-- MODE: cells named by the index vector. -/
def tallyIndexed (w : MWord) : Bool := immBits w 7 7 == 1
/-- TALRD source: a table. -/
def tallyTable (w : MWord) : Bool := immBits w 8 8 == 1

/-! ### Stream words (Table Streams-3) -/

/-- Stream number. -/
def stmNumber (w : MWord) : Nat := immBits w 4 0
/-- Armings to add. -/
def stmArmings (w : MWord) : Nat := immBits w 31 16
/-- Descriptor offset. -/
def stmDesc (w : MWord) : Nat := parBits w 159 128

/-! ### STRGO and STRWAIT (Table Matrix-3) -/

/-- Strand program-table index. -/
def strgoEntry (w : MWord) : Nat := immBits w 15 0
/-- Read mask. -/
def strgoRead (w : MWord) : BitVec 64 := BitVec.ofNat 64 (parBits w 191 128)
/-- Write mask. -/
def strgoWrite (w : MWord) : BitVec 64 := BitVec.ofNat 64 (parBits w 255 192)

/-! ### FRAME (Table Media-2) -/

/-- Function. -/
def frameFunc (w : MWord) : Nat := immBits w 1 0
/-- Plane of READ. -/
def framePlane (w : MWord) : Nat := immBits w 3 2
/-- Output format of READ. -/
def frameFmt (w : MWord) : Nat := immBits w 7 4
/-- Codec of OPEN. -/
def frameCodec (w : MWord) : Nat := parBits w 131 128
/-- Input buffer of OPEN. -/
def frameBuf (w : MWord) : Nat := parBits w 135 132
/-- Wmax of OPEN. -/
def frameWMax (w : MWord) : Nat := 64 * (parBits w 143 136 + 1)
/-- Hmax of OPEN. -/
def frameHMax (w : MWord) : Nat := 64 * (parBits w 151 144 + 1)
/-- D of OPEN. -/
def frameDpb (w : MWord) : Nat := parBits w 155 152 + 1
/-- DEEP of OPEN. -/
def frameDeep (w : MWord) : Bool := parBits w 156 156 == 1
/-- Scratch row stride of READ. -/
def frameStride (w : MWord) : Nat := parBits w 159 128

end Sys2Proof.Machine
end

