-- ==== Sys2Proof/WellFormed.lean ====
section
/-! DEFINITION. Which words are legal by themselves (05_control_core.md Table Core-10, 06_matrix_vector.md R183, R186 and
Table Matrix-8, and the owning chapters' parameters), and which operands of an event are in range. What also depends on
the accord (targets, handles, descriptors, strand tables) is in Machine/Staging.lean. -/

namespace Sys2Proof

open Sys2Proof.Machine

/-- Which optional header fields an opcode reads (R136). -/
structure HdrUse where
  rnd  : Bool := false
  mask : Bool := false
  sat  : Bool := false
  fd   : Bool := false
  fa   : Bool := false
  fb   : Bool := false
  fc   : Bool := false
  deriving DecidableEq, Repr

/-- A 4-bit code names a format. -/
def fmtOk (c : BitVec 4) : Bool := (Fmt.ofCode c.toNat).isSome
/-- A 3-bit code names a rounding mode. -/
def rndOk (c : BitVec 3) : Bool := (Rnd.ofCode c.toNat).isSome

/-- The header's optional fields: legal where used, zero where not (R132, R136, Table Core-10). -/
def hdrOk (h : Hdr) (u : HdrUse) : Bool :=
  (if u.rnd then rndOk h.rnd else h.rnd == 0) && (u.mask || h.fmask == 0) && (u.sat || (h.sat == false && h.scale == 0))
  && (if u.fd then fmtOk h.fd else h.fd == 0) && (if u.fa then fmtOk h.fa else h.fa == 0)
  && (if u.fb then fmtOk h.fb else h.fb == 0) && (if u.fc then fmtOk h.fc else h.fc == 0)

/-! ### Form S -/

/-- A Form S word reads none of the optional header fields. -/
def sHdr (w : SWord) : Bool := hdrOk w.hdr {}

/-- ADD to MAXU: every body field is used. -/
def legalAlu (w : SWord) : Bool := sHdr w
/-- CMPEQ, CMPLT, CMPLTU: SD names a predicate other than p0. -/
def legalCmp (w : SWord) : Bool := sHdr w && decide (0 < w.sd.toNat ∧ w.sd.toNat < 16)
/-- PAND, POR. -/
def legalPred2 (w : SWord) : Bool :=
  legalCmp w && decide (w.sa.toNat < 16 ∧ w.sb.toNat < 16) && w.imm == 0
/-- PNOT. -/
def legalPnot (w : SWord) : Bool := legalPred2 w && w.sb == 0
/-- NOP, FENCE, ENDL: no body field. -/
def legalBare (w : SWord) : Bool := sHdr w && w.sd == 0 && w.sa == 0 && w.sb == 0 && w.imm == 0
/-- LDS, STS: no SB. -/
def legalLds (w : SWord) : Bool := sHdr w && w.sb == 0
/-- LDC: an offset that is a multiple of 8, at most 504 (Table Core-9). -/
def legalLdc (w : SWord) : Bool :=
  sHdr w && w.sa == 0 && w.sb == 0 && decide (w.imm.toNat % 8 = 0 ∧ w.imm.toNat ≤ 504)
/-- BR: only the immediate. -/
def legalBr (w : SWord) : Bool := sHdr w && w.sd == 0 && w.sa == 0 && w.sb == 0
/-- BRI: only SA. -/
def legalBri (w : SWord) : Bool := sHdr w && w.sd == 0 && w.sb == 0 && w.imm == 0
/-- CALL, LOOP: SD and the immediate. -/
def legalCall (w : SWord) : Bool := sHdr w && w.sa == 0 && w.sb == 0
/-- RDFLAGS: only SD. -/
def legalRdflags (w : SWord) : Bool := sHdr w && w.sa == 0 && w.sb == 0 && w.imm == 0
/-- ASPLIT: IMM[63:4] is 0 (R138). -/
def legalAsplit (w : SWord) : Bool := legalBr w && decide (w.imm.toNat < 16)

/-! ### Form T -/

/-- A used operand descriptor: KIND 0 has no stray bits and ends by t63, TRANS only where allowed (Table Core-10). -/
def opdOk (o : Opd) (rows cols : Nat) (mayTrans : Bool) : Bool :=
  (mayTrans || !o.trans)
  && (o.kind || (decide (o.base.toNat < 64) && o.stride == 0 && decide (o.base.toNat + blocksOf rows cols ≤ 64)))

/-- An unused operand descriptor is all zeros (R136). -/
def opdZero (o : Opd) : Bool := !o.kind && !o.trans && o.base == 0 && o.stride == 0

/-- KM1 and ENGINE of a word other than MMUL and MMAC (R135, R136). -/
def plainT (w : TWord) : Bool := w.km1 == 0 && w.engine == 0

/-- MMUL and MMAC share their operands A, B and D; ENGINE 0b11 is reserved. -/
def matOk (w : TWord) : Bool :=
  decide (w.engine.toNat < 3) && opdOk w.d (dimM w) (dimN w) false && opdOk w.a (dimM w) (dimK w) true
  && opdOk w.b (dimK w) (dimN w) true
/-- MMUL. -/
def legalMmul (w : TWord) : Bool :=
  hdrOk w.hdr { rnd := true, mask := true, fd := true, fa := true, fb := true } && matOk w && opdZero w.c
/-- MMAC. -/
def legalMmac (w : TWord) : Bool :=
  hdrOk w.hdr { rnd := true, mask := true, fd := true, fa := true, fb := true, fc := true } && matOk w
  && opdOk w.c (dimM w) (dimN w) false

/-- D and A of a tile mover, B and C unused. -/
def moverOk (w : TWord) : Bool :=
  plainT w && opdOk w.d (dimM w) (dimN w) false && opdOk w.a (dimM w) (dimN w) true && opdZero w.b && opdZero w.c
/-- TLD: from scratch to tiles. -/
def legalTld (w : TWord) : Bool :=
  hdrOk w.hdr { rnd := true, mask := true, fd := true, fa := true } && moverOk w && w.a.kind && !w.d.kind
/-- TST: from tiles to scratch. -/
def legalTst (w : TWord) : Bool :=
  hdrOk w.hdr { rnd := true, mask := true, fd := true, fa := true } && moverOk w && !w.a.kind && w.d.kind
/-- TZERO: D in tiles. DEDUCED (log 14): FD may name any format, since TZERO writes +0 of it. -/
def legalTzero (w : TWord) : Bool :=
  hdrOk w.hdr { fd := true } && plainT w && opdOk w.d (dimM w) (dimN w) false && !w.d.kind && opdZero w.a && opdZero w.b
  && opdZero w.c
/-- TCVT. -/
def legalTcvt (w : TWord) : Bool :=
  hdrOk w.hdr { rnd := true, mask := true, sat := true, fd := true, fa := true } && moverOk w
/-- TCOPY: FD = FA. -/
def legalTcopy (w : TWord) : Bool := hdrOk w.hdr { fd := true, fa := true } && moverOk w && w.hdr.fd == w.hdr.fa

/-! ### Form M -/

/-- Bits of IMM32 from `lo` up are 0. -/
def immTop (w : MWord) (lo : Nat) : Bool := immBits w 31 lo == 0
/-- Bits of PARAM from word bit `lo` up are 0. -/
def parTop (w : MWord) (lo : Nat) : Bool := parBits w 255 lo == 0

/-- CKPT: every field reserved (R486). -/
def legalCkpt (w : MWord) : Bool :=
  hdrOk w.hdr {} && w.sd == 0 && w.sa == 0 && w.sb == 0 && w.sc == 0 && w.imm32 == 0 && w.param == 0
/-- STRGO: no tile in both masks (Table Matrix-8). -/
def legalStrgo (w : MWord) : Bool :=
  hdrOk w.hdr {} && w.sd == 0 && immTop w 16 && (strgoRead w &&& strgoWrite w) == 0
/-- STRWAIT. -/
def legalStrwait (w : MWord) : Bool :=
  hdrOk w.hdr {} && w.sd == 0 && w.sb == 0 && w.sc == 0 && w.imm32 == 0 && w.param == 0
/-- STMOPEN: a descriptor offset that is a multiple of 64. -/
def legalStmopen (w : MWord) : Bool :=
  hdrOk w.hdr {} && w.sd == 0 && w.sc == 0 && immTop w 5 && parTop w 160 && decide (stmDesc w % 64 = 0)
/-- STMREARM: at least one arming. -/
def legalStmrearm (w : MWord) : Bool :=
  hdrOk w.hdr {} && w.sd == 0 && w.sa == 0 && w.sb == 0 && w.sc == 0 && immBits w 15 5 == 0 && w.param == 0
  && decide (0 < stmArmings w)
/-- STMCLOSE, STMCANCEL. -/
def legalStmclose (w : MWord) : Bool :=
  hdrOk w.hdr {} && w.sd == 0 && w.sa == 0 && w.sb == 0 && w.sc == 0 && immTop w 5 && w.param == 0
/-- STMWAIT. -/
def legalStmwait (w : MWord) : Bool :=
  hdrOk w.hdr {} && w.sd == 0 && w.sc == 0 && immTop w 5 && w.param == 0

/-- A row-cache hint with its use count (08_near_bank.md Limits). -/
def hintOk (w : MWord) : Bool := if parHint w = 3 then decide (0 < parUse w) else parUse w == 0

/-- What the four near-bank words share; `fbs` lists the operand formats allowed, empty where no vector is used. -/
def nbOk (w : MWord) (fbs : List Nat) (bias : Bool) : Bool :=
  hdrOk w.hdr { rnd := true, mask := true, fd := true, fb := !fbs.isEmpty } && w.sd == 0 && immTop w 20 && parTop w 158
  && hintOk w && (fbs.isEmpty || fbs.contains w.hdr.fb.toNat) && (!fbs.isEmpty || w.sb == 0) && (bias || w.sc == 0)
/-- NBGP. -/
def legalNbgp (w : MWord) : Bool :=
  decide (nbMode w < 4) && !nbBias w && nbOk w (if nbMode w = 1 then [0, 1, 2] else []) false
/-- NBDOT. -/
def legalNbdot (w : MWord) : Bool := nbMode w == 0 && !nbBias w && nbOk w [0, 1, 2, 8, 9, 10] false
/-- NBSA. -/
def legalNbsa (w : MWord) : Bool := nbMode w == 0 && nbOk w [0, 1, 2] (nbBias w)
/-- NBCOPY. -/
def legalNbcopy (w : MWord) : Bool := nbMode w == 0 && !nbBias w && nbOk w [] false
/-- MODE 0 of a tally word leaves SC unused and MODE 1 leaves SA unused (Table Memory-5, R136). -/
def tallyRegsOk (w : MWord) : Bool := if tallyIndexed w then w.sa == 0 else w.sc == 0
/-- TALLY. -/
def legalTally (w : MWord) : Bool :=
  hdrOk w.hdr {} && tallyRegsOk w && w.sd == 0 && immTop w 8 && w.param == 0 && decide (tallyCode w < 3)
/-- TALRD. -/
def legalTalrd (w : MWord) : Bool :=
  hdrOk w.hdr { rnd := true, mask := true } && tallyRegsOk w && w.sd == 0 && immTop w 9 && parTop w 144 && decide (tallyCode w < 3)
  && (tallyTable w || parHandle w == 0)
/-- ROWRD. -/
def legalRowrd (w : MWord) : Bool :=
  hdrOk w.hdr {} && w.sd == 0 && w.sb == 0 && w.sc == 0 && immTop w 16 && parTop w 158 && hintOk w
/-- SPLICE. -/
def legalSplice (w : MWord) : Bool :=
  hdrOk w.hdr {} && w.sd == 0 && w.sb == 0 && w.sc == 0 && w.imm32 == 0 && w.param == 0
/-- SEQF. -/
def legalSeqf (w : MWord) : Bool := hdrOk w.hdr {} && w.sc == 0 && immTop w 16 && parTop w 152
/-- FRAME OPEN. -/
def legalFrameOpen (w : MWord) : Bool :=
  hdrOk w.hdr {} && w.sd == 0 && w.sa == 0 && w.imm32 == 0 && parTop w 157
  && decide (1 ≤ frameCodec w ∧ frameCodec w ≤ 3)
/-- FRAME NEXT. -/
def legalFrameNext (w : MWord) : Bool :=
  hdrOk w.hdr {} && w.sa == 0 && w.sb == 0 && w.sc == 0 && w.imm32 == 1 && w.param == 0
/-- FRAME READ: plane 3 and the formats of R509's last case are illegal. -/
def legalFrameRead (w : MWord) : Bool :=
  hdrOk w.hdr { rnd := true, mask := true } && w.sd == 0 && frameFunc w == 2 && immTop w 8 && parTop w 160
  && decide (framePlane w < 3) && [0, 1, 2, 8, 9, 10].contains (frameFmt w)
/-- FRAME CLOSE. -/
def legalFrameClose (w : MWord) : Bool :=
  hdrOk w.hdr {} && w.sd == 0 && w.sa == 0 && w.sb == 0 && w.sc == 0 && w.imm32 == 3 && w.param == 0

/-! ### Strand words (R183, R186, Table Matrix-8) -/

/-- BRANCH: condition 0b111 is reserved. -/
def legalBranch (w : BranchW) : Bool := decide (w.cond.toNat < 7)
/-- VARITH of a function every format has. -/
def legalVarith (w : VarithW) : Bool := fmtOk w.fmt && rndOk w.rnd
/-- FMA, SQRT and CMPUN: floating-point formats only (R186). -/
def legalVfloat (w : VarithW) : Bool := legalVarith w && decide (w.fmt.toNat < 8)
/-- The curve ID of a CURVE word: bits [28:23]. -/
def curveId (w : VarithW) : Nat := w.vb.toNat + 8 * w.vc.toNat
/-- CURVE: a floating-point format and an ID of Table Lay-6. -/
def legalVcurve (w : VarithW) : Bool := legalVfloat w && decide (1 ≤ curveId w ∧ curveId w ≤ 9)
/-- VCVT. -/
def legalVcvt (w : VcvtW) : Bool := fmtOk w.fd && fmtOk w.fa && rndOk w.rnd
/-- VPERM. -/
def legalVperm (w : VpermW) : Bool := fmtOk w.fmt
/-- PACK and UNPACK: IMM5 a multiple of w (R184). -/
def legalPack (w : VpermW) : Bool :=
  match Fmt.ofCode w.fmt.toNat with
  | some f => w.imm5.toNat % f.width == 0
  | none => false
/-- TILE. -/
def legalTile (w : TileW) : Bool := fmtOk w.fmt
/-- LDW and STW. -/
def legalLdw (_ : MemW) : Bool := true
/-- VLD and VST: bits [17:16] are zero. -/
def legalVld (w : MemW) : Bool := decide (w.xd.toNat < 8)
/-- END and RDFLAGS: IMM is unused. DEDUCED (log 14): an unused field of a strand word may hold anything, as R183
makes only reserved fields illegal. -/
def legalEnd (_ : CtrlW) : Bool := true
/-- Strand LDC: a multiple of 4, at most 508. -/
def legalSldc (w : CtrlW) : Bool := decide (w.imm.toNat % 4 = 0 ∧ w.imm.toNat ≤ 508)

/-- A command is well formed: a word is legal by itself, an event reports data of the size the spec gives it. -/
def Instr.wf : Instr → Bool
  | .nop _ w => legalBare w
  | .add _ w => legalAlu w
  | .sub _ w => legalAlu w
  | .mul _ w => legalAlu w
  | .mulhs _ w => legalAlu w
  | .mulhu _ w => legalAlu w
  | .and _ w => legalAlu w
  | .or _ w => legalAlu w
  | .xor _ w => legalAlu w
  | .shl _ w => legalAlu w
  | .shr _ w => legalAlu w
  | .sar _ w => legalAlu w
  | .min _ w => legalAlu w
  | .max _ w => legalAlu w
  | .minu _ w => legalAlu w
  | .maxu _ w => legalAlu w
  | .cmpeq _ w => legalCmp w
  | .cmplt _ w => legalCmp w
  | .cmpltu _ w => legalCmp w
  | .pand _ w => legalPred2 w
  | .por _ w => legalPred2 w
  | .pnot _ w => legalPnot w
  | .lds _ w => legalLds w
  | .sts _ w => legalLds w
  | .ldc _ w => legalLdc w
  | .br _ w => legalBr w
  | .bri _ w => legalBri w
  | .call _ w => legalCall w
  | .loop _ w => legalCall w
  | .fence _ w => legalBare w
  | .rdflags _ w => legalRdflags w
  | .ckpt _ w => legalCkpt w
  | .endl _ w => legalBare w
  | .mmul _ w => legalMmul w
  | .mmac _ w => legalMmac w
  | .asplit _ w => legalAsplit w
  | .tld _ w => legalTld w
  | .tst _ w => legalTst w
  | .tzero _ w => legalTzero w
  | .tcvt _ w => legalTcvt w
  | .tcopy _ w => legalTcopy w
  | .strgo _ w => legalStrgo w
  | .strwait _ w => legalStrwait w
  | .stmopen _ w => legalStmopen w
  | .stmrearm _ w => legalStmrearm w
  | .stmclose _ w => legalStmclose w
  | .stmcancel _ w => legalStmclose w
  | .stmwait _ w => legalStmwait w
  | .nbgp _ w => legalNbgp w
  | .nbdot _ w => legalNbdot w
  | .nbsa _ w => legalNbsa w
  | .nbcopy _ w => legalNbcopy w
  | .tally _ w => legalTally w
  | .talrd _ w => legalTalrd w
  | .rowrd _ w => legalRowrd w
  | .splice _ w => legalSplice w
  | .seqf _ w => legalSeqf w
  | .frameOpen _ w => legalFrameOpen w
  | .frameNext _ w => legalFrameNext w
  | .frameRead _ w => legalFrameRead w
  | .frameClose _ w => legalFrameClose w
  | .tileTokenGrant _ _ => true
  | .arrayPassDone _ _ _ => true
  | .mvpChunkDone _ _ m n chunk => decide (m < 256 ∧ n < 256 ∧ chunk < 8)
  | .strandGroupStart _ _ => true
  | .sAdd _ _ _ => true
  | .sSub _ _ _ => true
  | .sMul _ _ _ => true
  | .sMulhs _ _ _ => true
  | .sMulhu _ _ _ => true
  | .sAnd _ _ _ => true
  | .sOr _ _ _ => true
  | .sXor _ _ _ => true
  | .sShl _ _ _ => true
  | .sShr _ _ _ => true
  | .sSar _ _ _ => true
  | .sMin _ _ _ => true
  | .sMax _ _ _ => true
  | .sMinu _ _ _ => true
  | .sMaxu _ _ _ => true
  | .branch _ _ w => legalBranch w
  | .vadd _ _ w => legalVarith w
  | .vsub _ _ w => legalVarith w
  | .vmul _ _ w => legalVarith w
  | .vfma _ _ w => legalVfloat w
  | .vdiv _ _ w => legalVarith w
  | .vsqrt _ _ w => legalVfloat w
  | .vmin _ _ w => legalVarith w
  | .vmax _ _ w => legalVarith w
  | .vabs _ _ w => legalVarith w
  | .vneg _ _ w => legalVarith w
  | .vcmpeq _ _ w => legalVarith w
  | .vcmplt _ _ w => legalVarith w
  | .vcmple _ _ w => legalVarith w
  | .vcmpun _ _ w => legalVfloat w
  | .vsel _ _ w => legalVarith w
  | .vdot _ _ w => legalVarith w
  | .vsum _ _ w => legalVarith w
  | .vrmin _ _ w => legalVarith w
  | .vrmax _ _ w => legalVarith w
  | .vcurve _ _ w => legalVcurve w
  | .vcvt _ _ w => legalVcvt w
  | .perm _ _ w => legalVperm w
  | .rot _ _ w => legalVperm w
  | .bcast _ _ w => legalVperm w
  | .ziplo _ _ w => legalVperm w
  | .ziphi _ _ w => legalVperm w
  | .unzipe _ _ w => legalVperm w
  | .unzipo _ _ w => legalVperm w
  | .pack _ _ w => legalPack w
  | .unpack _ _ w => legalPack w
  | .sort _ _ w => legalVperm w
  | .movx _ _ w => legalVperm w
  | .lane _ _ w => legalVperm w
  | .trd _ _ w => legalTile w
  | .twr _ _ w => legalTile w
  | .trdx _ _ w => legalTile w
  | .ldw _ _ w => legalLdw w
  | .stw _ _ w => legalLdw w
  | .vld _ _ w => legalVld w
  | .vst _ _ w => legalVld w
  | .strandEnd _ _ w => legalEnd w
  | .strandRdflags _ _ w => legalEnd w
  | .strandLdc _ _ w => legalSldc w
  | .doorbellPoll reads => reads.all (fun r => decide (r.1 < 128 ∧ r.2.length = 64))
  | .descriptorFetch _ _ _ slot => slot.all (fun b => b.length == 256)
  | .admission _ _ lcb replay => lcb.all (fun b => b.length == 512) && replay.all (fun b => b.length == 128)
  | .admissionBind _ _ => true
  | .dispatch _ _ _ => true
  | .holdCopyUnit _ _ _ => true
  | .residentRegionLoaded _ _ => true
  | .preloadOpen _ _ _ => true
  | .launchEntry _ => true
  | .streamDataArrival _ _ _ _ => true
  | .outUnitSend _ _ _ => true
  | .pageResponse _ _ _ => true
  | .priTimeout _ _ => true
  | .hostAccessError _ _ => true
  | .atsInvalidation _ _ _ => true
  | .nbStepIssue _ _ _ _ => true
  | .nbReadyFrame _ _ _ _ => true
  | .nbStatusPoll _ _ _ _ _ => true
  | .nbStepTimeout _ _ _ => true
  | .nbAbortTimeout _ _ _ => true
  | .poolRingPartial _ _ _ _ => true
  | .nbResultDelivery _ _ => true
  | .tallyApply _ => true
  | .wcIdleFlush _ _ => true
  | .patrolScrub _ _ _ => true
  | .lineRebuildDone _ _ => true
  | .pcRebuildDone _ => true
  | .pcRetrain _ _ _ => true
  | .skeinFault _ _ => true
  | .skeinSelfTestDone _ _ => true
  | .flitDoubleError _ _ => true
  | .waitBound _ _ _ => true
  | .integrityCheck _ _ => true
  | .sealForm _ => true
  | .outcomeStage _ => true
  | .completionWrite _ _ => true
  | .msixSend _ => true
  | .msixUnmask _ _ => true
  | .watchdogExpiry _ => true
  | .hangResetProceed _ => true
  | .spliceSequence => true
  | .anchorClose => true
  | .boundaryGatherDone => true
  | .boundaryDrainDone => true
  | .spliceApply => true
  | .boundaryRecordDurable => true
  | .boundaryLimitExpiry => true
  | .portTrained _ lanes r => decide (lanes = 2 ∨ lanes = 4 ∨ lanes = 8) && r.length == 16
  | .helloSend _ nonce => nonce.length == 12
  | .helloFrame _ _ => true
  | .spliceFrame _ _ => true
  | .stateFrame _ _ => true
  | .manifestFrame _ _ => true
  | .manifestAckFrame _ _ => true
  | .confirmFrame _ _ => true
  | .reportFrame _ _ => true
  | .voteFrame _ _ => true
  | .fetchFrame _ _ => true
  | .rebuildFrame _ _ => true
  | .linkFrame _ _ => true
  | .linkSend _ => true
  | .goBack _ => true
  | .retryEpisodeFailure _ => true
  | .replicationTimeout _ _ => true
  | .anchorTimeout => true
  | .laneEvent _ _ => true
  | .release _ => true
  | .retrain _ => true
  | .journalRecordAccept => true
  | .flashWriteDone => true
  | .drydownStart => true
  | .drydownDone => true
  | .exportStart => true
  | .exportDone _ => true
  | .arenaLoad _ => true
  | .arenaLoadDone _ _ _ => true
  | .powerFailWarning => true
  | .powerFailFlushDone _ => true
  | .inputPowerRestore => true
  | .holdupReport _ => true
  | .capacitanceTest _ => true
  | .holdupMonitorSilent => true
  | .powerLimitExceeded _ => true
  | .powerLimitRecovery _ => true
  | .pwrbrkAssert => true
  | .pwrbrkRelease => true
  | .thermalDerate _ _ => true
  | .thermalDerateEnd _ _ => true
  | .thermalTrip _ _ => true
  | .clockMonitorTrip _ => true
  | .holdoverExit _ _ => true
  | .odoMismatch _ => true
  | .pllLockFailure _ => true
  | .ptmDialogue _ => true
  | .tbppsEdge _ => true
  | .tbppsMissing => true
  | .holdoverMaxExpiry => true
  | .clkTimeSet _ => true
  | .perstAssert => true
  | .hotReset => true
  | .dlDown => true
  | .perstDeassert _ => true
  | .pfFlr _ => true
  | .vfFlr _ => true
  | .d3hotToD0 _ => true
  | .rstSkein _ => true
  | .rstSection _ => true
  | .rstTenant _ => true
  | .rstRetaining _ => true
  | .rstFull => true
  | .rstArm => true
  | .resetLimitOverrun _ => true
  | .powerOn _ => true
  | .bootLimitExpiry => true
  | .configRequest _ _ => true
  | .activate => true
  | .revert => true
  | .commitSvn => true
  | .cancel => true
  | .fwUpdateStart => true
  | .fwUpdateDone _ => true
  | .pldmFwUpdate _ _ => true
  | .getMeasurements _ => true
  | .holdLoadStart _ => true
  | .confirm => true
  | .rebuild => true
  | .accordStageStart => true
  | .tableCtrlRegister _ => true
  | .tableCtrlRetire => true
  | .sqEnable _ _ => true
  | .cqEnable _ => true
  | .setupLock => true
  | .feEpochRead => true
  | .jrnArenaEpochRead => true
  | .clkTimeRead => true
  | .registerWrite _ _ size _ => decide (0 < size)
  | .bar2Read _ _ _ => true
  | .bar2Write _ _ _ => true
  | .poisonedWrite _ => true
  | .mediaContextGrant _ => true
  | .frameDecodeDone _ _ => true
  | .engineFailure _ => true
  | .pcRetrainEnd _ _ => true
  | .sectionFault _ => true
  | .selfRefreshExcursion _ => true
  | .atsTranslationCompletion _ _ _ => true
  | .pcieLinkUp _ _ => true
  | .regAccess _ _ _ => true
  | .portEnable _ _ => true
  | .tableRebuildDone => true

end Sys2Proof
end

