-- ==== Sys2Proof/Decode.lean ====
section
/-! DEFINITION. The words of the control core and of the strands, from and to their bits (05_control_core.md Tables Core-3,
Core-4, Core-5, Core-7; 06_matrix_vector.md Tables Matrix-6 and Matrix-7), and the two functions the host asks with. No row
of the table of commands carries bits, so `decodeTableWord` answers none. -/

namespace Sys2Proof

open Sys2Proof.Machine

/-- Lay fields out from bit 0 up: each pair is a width and a value. -/
def packFields : List (Nat × Nat) → Nat
  | [] => 0
  | (w, v) :: l => v % 2 ^ w + 2 ^ w * packFields l

/-- Cut a number into fields of the given widths, from bit 0 up; what lies above them comes last. -/
def cutFields : List Nat → Nat → List Nat
  | [], n => [n]
  | w :: ws, n => n % 2 ^ w :: cutFields ws (n / 2 ^ w)

/-- The value of a one-bit field. -/
def bitNat (b : Bool) : Nat := if b then 1 else 0

/-! ### The header (Table Core-3) -/

/-- Widths of the header from bit 8, its reserved bits included. -/
def hdrWidths : List Nat := [4, 1, 3, 6, 1, 1, 8, 4, 4, 4, 4, 16]

/-- The header's fields from bit 8. -/
def hdrFields (h : Hdr) : List Nat :=
  [h.pred.toNat, bitNat h.pneg, h.rnd.toNat, h.fmask.toNat, bitNat h.sat, 0, h.scale.toNat, h.fd.toNat, h.fa.toNat,
   h.fb.toNat, h.fc.toNat, 0]

/-- Read the header; none when a reserved bit is set. -/
def readHdr : List Nat → Option Hdr
  | [pred, pneg, rnd, fmask, sat, r1, scale, fd, fa, fb, fc, r2] =>
    if r1 ≠ 0 ∨ r2 ≠ 0 then none
    else some { pred := .ofNat 4 pred, pneg := pneg == 1, rnd := .ofNat 3 rnd, fmask := .ofNat 6 fmask, sat := sat == 1,
                scale := .ofNat 8 scale, fd := .ofNat 4 fd, fa := .ofNat 4 fa, fb := .ofNat 4 fb, fc := .ofNat 4 fc }
  | _ => none

/-! ### The three body forms (Table Core-4) -/

/-- Widths of a Form S body. -/
def sWidths : List Nat := [6, 6, 6, 46, 64, 64]
/-- Fields of a Form S body. -/
def sFields (w : SWord) : List Nat := [w.sd.toNat, w.sa.toNat, w.sb.toNat, 0, w.imm.toNat, 0]
/-- Read a Form S body. -/
def readS (h : Hdr) : List Nat → Option SWord
  | [sd, sa, sb, r1, imm, r2, top] =>
    if r1 ≠ 0 ∨ r2 ≠ 0 ∨ top ≠ 0 then none
    else some { hdr := h, sd := .ofNat 6 sd, sa := .ofNat 6 sa, sb := .ofNat 6 sb, imm := .ofNat 64 imm }
  | _ => none

/-- Widths of a Form M body. -/
def mWidths : List Nat := [6, 6, 6, 6, 8, 32, 128]
/-- Fields of a Form M body. -/
def mFields (w : MWord) : List Nat :=
  [w.sd.toNat, w.sa.toNat, w.sb.toNat, w.sc.toNat, 0, w.imm32.toNat, w.param.toNat]
/-- Read a Form M body. -/
def readM (h : Hdr) : List Nat → Option MWord
  | [sd, sa, sb, sc, r1, imm32, param, top] =>
    if r1 ≠ 0 ∨ top ≠ 0 then none
    else some { hdr := h, sd := .ofNat 6 sd, sa := .ofNat 6 sa, sb := .ofNat 6 sb, sc := .ofNat 6 sc,
                imm32 := .ofNat 32 imm32, param := .ofNat 128 param }
  | _ => none

/-- An operand descriptor as its 40 bits (Table Core-5). -/
def opdBits (o : Opd) : Nat := packFields [(1, bitNat o.kind), (1, bitNat o.trans), (22, o.base.toNat), (16, o.stride.toNat)]
/-- Read an operand descriptor. -/
def readOpd (n : Nat) : Opd :=
  { kind := bits n 0 0 == 1, trans := bits n 1 1 == 1, base := .ofNat 22 (bits n 23 2), stride := .ofNat 16 (bits n 39 24) }

/-- Widths of a Form T body. -/
def tWidths : List Nat := [8, 8, 8, 2, 6, 40, 40, 40, 40]
/-- Fields of a Form T body. -/
def tFields (w : TWord) : List Nat :=
  [w.mm1.toNat, w.nm1.toNat, w.km1.toNat, w.engine.toNat, 0, opdBits w.d, opdBits w.a, opdBits w.b, opdBits w.c]
/-- Read a Form T body. -/
def readT (h : Hdr) : List Nat → Option TWord
  | [mm1, nm1, km1, engine, r1, d, a, b, c, top] =>
    if r1 ≠ 0 ∨ top ≠ 0 then none
    else some { hdr := h, mm1 := .ofNat 8 mm1, nm1 := .ofNat 8 nm1, km1 := .ofNat 8 km1, engine := .ofNat 2 engine,
                d := readOpd d, a := readOpd a, b := readOpd b, c := readOpd c }
  | _ => none

/-- The 256 bits of a word: opcode, header, body. -/
def packWord (opc : Nat) (h : Hdr) (widths : List Nat) (body : List Nat) : Nat :=
  packFields ((8, opc) :: (hdrWidths.zip (hdrFields h) ++ widths.zip body))

/-- Header and body fields of a word's bits above the opcode. -/
def cutWord (widths : List Nat) (n : Nat) : List Nat × List Nat :=
  let fs := cutFields (hdrWidths ++ widths) (n / 256)
  (fs.take 12, fs.drop 12)

/-- Read a word of Form S. -/
def cutS (n : Nat) : Option SWord :=
  let fs := cutWord sWidths n
  (readHdr fs.1).bind (fun h => readS h fs.2)
/-- Read a word of Form M. -/
def cutM (n : Nat) : Option MWord :=
  let fs := cutWord mWidths n
  (readHdr fs.1).bind (fun h => readM h fs.2)
/-- Read a word of Form T. -/
def cutT (n : Nat) : Option TWord :=
  let fs := cutWord tWidths n
  (readHdr fs.1).bind (fun h => readT h fs.2)

/-! ### Control-core words by opcode (Table Core-7) -/

/-- The word of Form S that an opcode names. -/
def opcodeS (k : Skein) : Nat → Option (SWord → Instr)
  | 0x00 => some (.nop k)
  | 0x01 => some (.add k)
  | 0x02 => some (.sub k)
  | 0x03 => some (.mul k)
  | 0x04 => some (.mulhs k)
  | 0x05 => some (.mulhu k)
  | 0x06 => some (.and k)
  | 0x07 => some (.or k)
  | 0x08 => some (.xor k)
  | 0x09 => some (.shl k)
  | 0x0A => some (.shr k)
  | 0x0B => some (.sar k)
  | 0x0C => some (.min k)
  | 0x0D => some (.max k)
  | 0x0E => some (.minu k)
  | 0x0F => some (.maxu k)
  | 0x10 => some (.cmpeq k)
  | 0x11 => some (.cmplt k)
  | 0x12 => some (.cmpltu k)
  | 0x13 => some (.pand k)
  | 0x14 => some (.por k)
  | 0x15 => some (.pnot k)
  | 0x16 => some (.lds k)
  | 0x17 => some (.sts k)
  | 0x18 => some (.ldc k)
  | 0x20 => some (.br k)
  | 0x21 => some (.bri k)
  | 0x22 => some (.call k)
  | 0x23 => some (.loop k)
  | 0x24 => some (.fence k)
  | 0x25 => some (.rdflags k)
  | 0x27 => some (.endl k)
  | 0x48 => some (.asplit k)
  | _ => none

/-- The word of Form T that an opcode names. -/
def opcodeT (k : Skein) : Nat → Option (TWord → Instr)
  | 0x40 => some (.mmul k)
  | 0x41 => some (.mmac k)
  | 0x60 => some (.tld k)
  | 0x61 => some (.tst k)
  | 0x62 => some (.tzero k)
  | 0x63 => some (.tcvt k)
  | 0x64 => some (.tcopy k)
  | _ => none

/-- The word of Form M that an opcode, and for FRAME its function, names. -/
def opcodeM (k : Skein) (opc func : Nat) : Option (MWord → Instr) :=
  match opc, func with
  | 0x26, _ => some (.ckpt k)
  | 0x80, _ => some (.strgo k)
  | 0x81, _ => some (.strwait k)
  | 0xA0, _ => some (.stmopen k)
  | 0xA1, _ => some (.stmrearm k)
  | 0xA2, _ => some (.stmclose k)
  | 0xA3, _ => some (.stmcancel k)
  | 0xA4, _ => some (.stmwait k)
  | 0xC0, _ => some (.nbgp k)
  | 0xC1, _ => some (.nbdot k)
  | 0xC2, _ => some (.nbsa k)
  | 0xC3, _ => some (.nbcopy k)
  | 0xC8, _ => some (.tally k)
  | 0xC9, _ => some (.talrd k)
  | 0xCC, _ => some (.rowrd k)
  | 0xD0, _ => some (.splice k)
  | 0xD4, _ => some (.seqf k)
  | 0xE0, 0 => some (.frameOpen k)
  | 0xE0, 1 => some (.frameNext k)
  | 0xE0, 2 => some (.frameRead k)
  | 0xE0, 3 => some (.frameClose k)
  | _, _ => none

/-- The control-core word that 256 bits spell, run on a skein; none for a reserved opcode or a set reserved bit. -/
def decodeWord (k : Skein) (n : Nat) : Option Instr :=
  let opc := n % 256
  match opcodeS k opc with
  | some f => (cutS n).map f
  | none => match opcodeT k opc with
    | some f => (cutT n).map f
    | none => match cutM n with
      | some w => (opcodeM k opc (frameFunc w)).map (fun f => f w)
      | none => none

/-- The bits of a control-core word; none for any other command. -/
def encodeWord : Instr → Option Nat
  | .nop _ w => some (packWord 0x00 w.hdr sWidths (sFields w))
  | .add _ w => some (packWord 0x01 w.hdr sWidths (sFields w))
  | .sub _ w => some (packWord 0x02 w.hdr sWidths (sFields w))
  | .mul _ w => some (packWord 0x03 w.hdr sWidths (sFields w))
  | .mulhs _ w => some (packWord 0x04 w.hdr sWidths (sFields w))
  | .mulhu _ w => some (packWord 0x05 w.hdr sWidths (sFields w))
  | .and _ w => some (packWord 0x06 w.hdr sWidths (sFields w))
  | .or _ w => some (packWord 0x07 w.hdr sWidths (sFields w))
  | .xor _ w => some (packWord 0x08 w.hdr sWidths (sFields w))
  | .shl _ w => some (packWord 0x09 w.hdr sWidths (sFields w))
  | .shr _ w => some (packWord 0x0A w.hdr sWidths (sFields w))
  | .sar _ w => some (packWord 0x0B w.hdr sWidths (sFields w))
  | .min _ w => some (packWord 0x0C w.hdr sWidths (sFields w))
  | .max _ w => some (packWord 0x0D w.hdr sWidths (sFields w))
  | .minu _ w => some (packWord 0x0E w.hdr sWidths (sFields w))
  | .maxu _ w => some (packWord 0x0F w.hdr sWidths (sFields w))
  | .cmpeq _ w => some (packWord 0x10 w.hdr sWidths (sFields w))
  | .cmplt _ w => some (packWord 0x11 w.hdr sWidths (sFields w))
  | .cmpltu _ w => some (packWord 0x12 w.hdr sWidths (sFields w))
  | .pand _ w => some (packWord 0x13 w.hdr sWidths (sFields w))
  | .por _ w => some (packWord 0x14 w.hdr sWidths (sFields w))
  | .pnot _ w => some (packWord 0x15 w.hdr sWidths (sFields w))
  | .lds _ w => some (packWord 0x16 w.hdr sWidths (sFields w))
  | .sts _ w => some (packWord 0x17 w.hdr sWidths (sFields w))
  | .ldc _ w => some (packWord 0x18 w.hdr sWidths (sFields w))
  | .br _ w => some (packWord 0x20 w.hdr sWidths (sFields w))
  | .bri _ w => some (packWord 0x21 w.hdr sWidths (sFields w))
  | .call _ w => some (packWord 0x22 w.hdr sWidths (sFields w))
  | .loop _ w => some (packWord 0x23 w.hdr sWidths (sFields w))
  | .fence _ w => some (packWord 0x24 w.hdr sWidths (sFields w))
  | .rdflags _ w => some (packWord 0x25 w.hdr sWidths (sFields w))
  | .endl _ w => some (packWord 0x27 w.hdr sWidths (sFields w))
  | .asplit _ w => some (packWord 0x48 w.hdr sWidths (sFields w))
  | .mmul _ w => some (packWord 0x40 w.hdr tWidths (tFields w))
  | .mmac _ w => some (packWord 0x41 w.hdr tWidths (tFields w))
  | .tld _ w => some (packWord 0x60 w.hdr tWidths (tFields w))
  | .tst _ w => some (packWord 0x61 w.hdr tWidths (tFields w))
  | .tzero _ w => some (packWord 0x62 w.hdr tWidths (tFields w))
  | .tcvt _ w => some (packWord 0x63 w.hdr tWidths (tFields w))
  | .tcopy _ w => some (packWord 0x64 w.hdr tWidths (tFields w))
  | .ckpt _ w => some (packWord 0x26 w.hdr mWidths (mFields w))
  | .strgo _ w => some (packWord 0x80 w.hdr mWidths (mFields w))
  | .strwait _ w => some (packWord 0x81 w.hdr mWidths (mFields w))
  | .stmopen _ w => some (packWord 0xA0 w.hdr mWidths (mFields w))
  | .stmrearm _ w => some (packWord 0xA1 w.hdr mWidths (mFields w))
  | .stmclose _ w => some (packWord 0xA2 w.hdr mWidths (mFields w))
  | .stmcancel _ w => some (packWord 0xA3 w.hdr mWidths (mFields w))
  | .stmwait _ w => some (packWord 0xA4 w.hdr mWidths (mFields w))
  | .nbgp _ w => some (packWord 0xC0 w.hdr mWidths (mFields w))
  | .nbdot _ w => some (packWord 0xC1 w.hdr mWidths (mFields w))
  | .nbsa _ w => some (packWord 0xC2 w.hdr mWidths (mFields w))
  | .nbcopy _ w => some (packWord 0xC3 w.hdr mWidths (mFields w))
  | .tally _ w => some (packWord 0xC8 w.hdr mWidths (mFields w))
  | .talrd _ w => some (packWord 0xC9 w.hdr mWidths (mFields w))
  | .rowrd _ w => some (packWord 0xCC w.hdr mWidths (mFields w))
  | .splice _ w => some (packWord 0xD0 w.hdr mWidths (mFields w))
  | .seqf _ w => some (packWord 0xD4 w.hdr mWidths (mFields w))
  | .frameOpen _ w => some (packWord 0xE0 w.hdr mWidths (mFields w))
  | .frameNext _ w => some (packWord 0xE0 w.hdr mWidths (mFields w))
  | .frameRead _ w => some (packWord 0xE0 w.hdr mWidths (mFields w))
  | .frameClose _ w => some (packWord 0xE0 w.hdr mWidths (mFields w))
  | _ => none

/-! ### Strand words by class (Tables Matrix-6 and Matrix-7) -/

/-- Fields of a strand word: class first, then the widths of its class. -/
def packStrand (cls : Nat) (fs : List (Nat × Nat)) : Nat := packFields ((4, cls) :: fs)

/-- SALU and SIMM functions. -/
def saluOp (k : Skein) (i : Strand) : Nat → Option (SaluW → Instr)
  | 0x01 => some (.sAdd k i)
  | 0x02 => some (.sSub k i)
  | 0x03 => some (.sMul k i)
  | 0x04 => some (.sMulhs k i)
  | 0x05 => some (.sMulhu k i)
  | 0x06 => some (.sAnd k i)
  | 0x07 => some (.sOr k i)
  | 0x08 => some (.sXor k i)
  | 0x09 => some (.sShl k i)
  | 0x0A => some (.sShr k i)
  | 0x0B => some (.sSar k i)
  | 0x0C => some (.sMin k i)
  | 0x0D => some (.sMax k i)
  | 0x0E => some (.sMinu k i)
  | 0x0F => some (.sMaxu k i)
  | _ => none

/-- VARITH functions. -/
def varithOp (k : Skein) (i : Strand) : Nat → Option (VarithW → Instr)
  | 0x00 => some (.vadd k i)
  | 0x01 => some (.vsub k i)
  | 0x02 => some (.vmul k i)
  | 0x03 => some (.vfma k i)
  | 0x04 => some (.vdiv k i)
  | 0x05 => some (.vsqrt k i)
  | 0x06 => some (.vmin k i)
  | 0x07 => some (.vmax k i)
  | 0x08 => some (.vabs k i)
  | 0x09 => some (.vneg k i)
  | 0x0A => some (.vcmpeq k i)
  | 0x0B => some (.vcmplt k i)
  | 0x0C => some (.vcmple k i)
  | 0x0D => some (.vcmpun k i)
  | 0x0E => some (.vsel k i)
  | 0x0F => some (.vdot k i)
  | 0x10 => some (.vsum k i)
  | 0x11 => some (.vrmin k i)
  | 0x12 => some (.vrmax k i)
  | 0x13 => some (.vcurve k i)
  | _ => none

/-- VPERM functions. -/
def vpermOp (k : Skein) (i : Strand) : Nat → Option (VpermW → Instr)
  | 0x00 => some (.perm k i)
  | 0x01 => some (.rot k i)
  | 0x02 => some (.bcast k i)
  | 0x03 => some (.ziplo k i)
  | 0x04 => some (.ziphi k i)
  | 0x05 => some (.unzipe k i)
  | 0x06 => some (.unzipo k i)
  | 0x07 => some (.pack k i)
  | 0x08 => some (.unpack k i)
  | 0x09 => some (.sort k i)
  | 0x0A => some (.movx k i)
  | 0x0B => some (.lane k i)
  | _ => none

/-- TILE functions. -/
def tileOp (k : Skein) (i : Strand) : Nat → Option (TileW → Instr)
  | 0 => some (.trd k i)
  | 1 => some (.twr k i)
  | 2 => some (.trdx k i)
  | _ => none

/-- MEM functions. -/
def memOp (k : Skein) (i : Strand) : Nat → Option (MemW → Instr)
  | 0 => some (.ldw k i)
  | 1 => some (.stw k i)
  | 2 => some (.vld k i)
  | 3 => some (.vst k i)
  | _ => none

/-- CTRL functions. -/
def ctrlOp (k : Skein) (i : Strand) : Nat → Option (CtrlW → Instr)
  | 0 => some (.strandEnd k i)
  | 1 => some (.strandRdflags k i)
  | 2 => some (.strandLdc k i)
  | _ => none

/-- The strand word that 32 bits spell; none for a reserved class or function or a set reserved field (R183). -/
def decodeStrand (k : Skein) (i : Strand) (n : Nat) : Option Instr :=
  match n % 16 with
  | 0x0 => match cutFields [4, 6, 5, 5, 5, 7] n with
    | [_, fn, xd, xa, xb, 0, 0] =>
      (saluOp k i fn).map (fun f => f { xd := .ofNat 5 xd, xa := .ofNat 5 xa, src := .reg (.ofNat 5 xb) })
    | _ => none
  | 0x1 => match cutFields [4, 6, 5, 5, 12] n with
    | [_, fn, xd, xa, imm, 0] =>
      (saluOp k i fn).map (fun f => f { xd := .ofNat 5 xd, xa := .ofNat 5 xa, src := .imm (.ofNat 12 imm) })
    | _ => none
  | 0x2 => match cutFields [4, 3, 3, 5, 5, 12] n with
    | [_, cond, 0, xa, xb, off, 0] =>
      some (.branch k i { cond := .ofNat 3 cond, xa := .ofNat 5 xa, xb := .ofNat 5 xb, off := .ofNat 12 off })
    | _ => none
  | 0x4 => match cutFields [4, 4, 3, 6, 3, 3, 3, 3, 3] n with
    | [_, fmt, rnd, fn, vd, va, vb, vc, 0, 0] =>
      (varithOp k i fn).map (fun f => f { fmt := .ofNat 4 fmt, rnd := .ofNat 3 rnd, vd := .ofNat 3 vd, va := .ofNat 3 va,
                                           vb := .ofNat 3 vb, vc := .ofNat 3 vc })
    | _ => none
  | 0x5 => match cutFields [4, 4, 4, 3, 1, 8, 3, 3, 2] n with
    | [_, fd, fa, rnd, sat, scale, vd, va, 0, 0] =>
      some (.vcvt k i { fd := .ofNat 4 fd, fa := .ofNat 4 fa, rnd := .ofNat 3 rnd, sat := sat == 1, scale := .ofNat 8 scale,
                        vd := .ofNat 3 vd, va := .ofNat 3 va })
    | _ => none
  | 0x6 => match cutFields [4, 4, 5, 3, 3, 3, 5, 5] n with
    | [_, fmt, fn, vd, va, vb, xs, imm5, 0] =>
      (vpermOp k i fn).map (fun f => f { fmt := .ofNat 4 fmt, vd := .ofNat 3 vd, va := .ofNat 3 va, vb := .ofNat 3 vb,
                                          xs := .ofNat 5 xs, imm5 := .ofNat 5 imm5 })
    | _ => none
  | 0x8 => match cutFields [4, 4, 2, 6, 3, 5, 8] n with
    | [_, fmt, fn, tile, v, xs, 0, 0] =>
      (tileOp k i fn).map (fun f => f { fmt := .ofNat 4 fmt, tile := .ofNat 6 tile, v := .ofNat 3 v, xs := .ofNat 5 xs })
    | _ => none
  | 0x9 => match cutFields [4, 4, 5, 5, 14] n with
    | [_, fn, xa, xd, off, 0] =>
      (memOp k i fn).map (fun f => f { xa := .ofNat 5 xa, xd := .ofNat 5 xd, off := .ofNat 14 off })
    | _ => none
  | 0xA => match cutFields [4, 4, 5, 9, 10] n with
    | [_, fn, xd, imm, 0, 0] => (ctrlOp k i fn).map (fun f => f { xd := .ofNat 5 xd, imm := .ofNat 9 imm })
    | _ => none
  | _ => none

/-- A SALU or SIMM word. -/
def encSalu (fn : Nat) (w : SaluW) : Option Nat :=
  match w.src with
  | .reg xb => some (packStrand 0 [(6, fn), (5, w.xd.toNat), (5, w.xa.toNat), (5, xb.toNat), (7, 0)])
  | .imm v => some (packStrand 1 [(6, fn), (5, w.xd.toNat), (5, w.xa.toNat), (12, v.toNat)])
/-- A VARITH word. -/
def encVarith (fn : Nat) (w : VarithW) : Option Nat :=
  some (packStrand 4 [(4, w.fmt.toNat), (3, w.rnd.toNat), (6, fn), (3, w.vd.toNat), (3, w.va.toNat), (3, w.vb.toNat),
                      (3, w.vc.toNat), (3, 0)])
/-- A VPERM word. -/
def encVperm (fn : Nat) (w : VpermW) : Option Nat :=
  some (packStrand 6 [(4, w.fmt.toNat), (5, fn), (3, w.vd.toNat), (3, w.va.toNat), (3, w.vb.toNat), (5, w.xs.toNat),
                      (5, w.imm5.toNat)])
/-- A TILE word. -/
def encTile (fn : Nat) (w : TileW) : Option Nat :=
  some (packStrand 8 [(4, w.fmt.toNat), (2, fn), (6, w.tile.toNat), (3, w.v.toNat), (5, w.xs.toNat), (8, 0)])
/-- A MEM word. -/
def encMem (fn : Nat) (w : MemW) : Option Nat :=
  some (packStrand 9 [(4, fn), (5, w.xa.toNat), (5, w.xd.toNat), (14, w.off.toNat)])
/-- A CTRL word. -/
def encCtrl (fn : Nat) (w : CtrlW) : Option Nat :=
  some (packStrand 10 [(4, fn), (5, w.xd.toNat), (9, w.imm.toNat), (10, 0)])

/-- The 32 bits of a strand word; none for any other command. -/
def encodeStrand : Instr → Option Nat
  | .sAdd _ _ w => encSalu 0x01 w
  | .sSub _ _ w => encSalu 0x02 w
  | .sMul _ _ w => encSalu 0x03 w
  | .sMulhs _ _ w => encSalu 0x04 w
  | .sMulhu _ _ w => encSalu 0x05 w
  | .sAnd _ _ w => encSalu 0x06 w
  | .sOr _ _ w => encSalu 0x07 w
  | .sXor _ _ w => encSalu 0x08 w
  | .sShl _ _ w => encSalu 0x09 w
  | .sShr _ _ w => encSalu 0x0A w
  | .sSar _ _ w => encSalu 0x0B w
  | .sMin _ _ w => encSalu 0x0C w
  | .sMax _ _ w => encSalu 0x0D w
  | .sMinu _ _ w => encSalu 0x0E w
  | .sMaxu _ _ w => encSalu 0x0F w
  | .branch _ _ w =>
    some (packStrand 2 [(3, w.cond.toNat), (3, 0), (5, w.xa.toNat), (5, w.xb.toNat), (12, w.off.toNat)])
  | .vadd _ _ w => encVarith 0x00 w
  | .vsub _ _ w => encVarith 0x01 w
  | .vmul _ _ w => encVarith 0x02 w
  | .vfma _ _ w => encVarith 0x03 w
  | .vdiv _ _ w => encVarith 0x04 w
  | .vsqrt _ _ w => encVarith 0x05 w
  | .vmin _ _ w => encVarith 0x06 w
  | .vmax _ _ w => encVarith 0x07 w
  | .vabs _ _ w => encVarith 0x08 w
  | .vneg _ _ w => encVarith 0x09 w
  | .vcmpeq _ _ w => encVarith 0x0A w
  | .vcmplt _ _ w => encVarith 0x0B w
  | .vcmple _ _ w => encVarith 0x0C w
  | .vcmpun _ _ w => encVarith 0x0D w
  | .vsel _ _ w => encVarith 0x0E w
  | .vdot _ _ w => encVarith 0x0F w
  | .vsum _ _ w => encVarith 0x10 w
  | .vrmin _ _ w => encVarith 0x11 w
  | .vrmax _ _ w => encVarith 0x12 w
  | .vcurve _ _ w => encVarith 0x13 w
  | .vcvt _ _ w =>
    some (packStrand 5 [(4, w.fd.toNat), (4, w.fa.toNat), (3, w.rnd.toNat), (1, bitNat w.sat), (8, w.scale.toNat),
                        (3, w.vd.toNat), (3, w.va.toNat), (2, 0)])
  | .perm _ _ w => encVperm 0x00 w
  | .rot _ _ w => encVperm 0x01 w
  | .bcast _ _ w => encVperm 0x02 w
  | .ziplo _ _ w => encVperm 0x03 w
  | .ziphi _ _ w => encVperm 0x04 w
  | .unzipe _ _ w => encVperm 0x05 w
  | .unzipo _ _ w => encVperm 0x06 w
  | .pack _ _ w => encVperm 0x07 w
  | .unpack _ _ w => encVperm 0x08 w
  | .sort _ _ w => encVperm 0x09 w
  | .movx _ _ w => encVperm 0x0A w
  | .lane _ _ w => encVperm 0x0B w
  | .trd _ _ w => encTile 0 w
  | .twr _ _ w => encTile 1 w
  | .trdx _ _ w => encTile 2 w
  | .ldw _ _ w => encMem 0 w
  | .stw _ _ w => encMem 1 w
  | .vld _ _ w => encMem 2 w
  | .vst _ _ w => encMem 3 w
  | .strandEnd _ _ w => encCtrl 0 w
  | .strandRdflags _ _ w => encCtrl 1 w
  | .strandLdc _ _ w => encCtrl 2 w
  | _ => none

/-! ### What the host asks with -/

/-- The command that a word of the command table spells: no row of the table carries bits, so there is none. -/
def decodeTableWord (_nbits _w : Nat) : Option Instr := none

end Sys2Proof
end

