-- ==== Sys2Proof/Machine/Sha.lean ====
section
/-! DEFINITION. SHA-256, SHA-384, HMAC and HKDF, as their standards define them; the spec names them in
01_replay_contract.md R18 and R25, 09_tables_epochs.md R278, 13_lanyards.md R399 and R401, 17_bringup.md R521. -/

namespace Sys2Proof.Machine

/-! ### SHA-256 -/

/-- The round constants of SHA-256. -/
def k256 : List Nat :=
  [0x428a2f98, 0x71374491, 0xb5c0fbcf, 0xe9b5dba5, 0x3956c25b, 0x59f111f1, 0x923f82a4, 0xab1c5ed5] ++
  [0xd807aa98, 0x12835b01, 0x243185be, 0x550c7dc3, 0x72be5d74, 0x80deb1fe, 0x9bdc06a7, 0xc19bf174] ++
  [0xe49b69c1, 0xefbe4786, 0x0fc19dc6, 0x240ca1cc, 0x2de92c6f, 0x4a7484aa, 0x5cb0a9dc, 0x76f988da] ++
  [0x983e5152, 0xa831c66d, 0xb00327c8, 0xbf597fc7, 0xc6e00bf3, 0xd5a79147, 0x06ca6351, 0x14292967] ++
  [0x27b70a85, 0x2e1b2138, 0x4d2c6dfc, 0x53380d13, 0x650a7354, 0x766a0abb, 0x81c2c92e, 0x92722c85] ++
  [0xa2bfe8a1, 0xa81a664b, 0xc24b8b70, 0xc76c51a3, 0xd192e819, 0xd6990624, 0xf40e3585, 0x106aa070] ++
  [0x19a4c116, 0x1e376c08, 0x2748774c, 0x34b0bcb5, 0x391c0cb3, 0x4ed8aa4a, 0x5b9cca4f, 0x682e6ff3] ++
  [0x748f82ee, 0x78a5636f, 0x84c87814, 0x8cc70208, 0x90befffa, 0xa4506ceb, 0xbef9a3f7, 0xc67178f2]

/-- The initial hash value of SHA-256. -/
def h256 : List Nat :=
  [0x6a09e667, 0xbb67ae85, 0x3c6ef372, 0xa54ff53a, 0x510e527f, 0x9b05688c, 0x1f83d9ab, 0x5be0cd19]

/-- Rotate a `w`-bit word right. -/
def rotr (w n x : Nat) : Nat := x >>> n ||| (x <<< (w - n)) % 2 ^ w

/-- What differs between the 32-bit and the 64-bit members of the SHA-2 family. -/
structure ShaKind where
  w    : Nat
  s0   : Nat × Nat × Nat
  s1   : Nat × Nat × Nat
  bs0  : Nat × Nat × Nat
  bs1  : Nat × Nat × Nat
  k    : List Nat

/-- Two rotations and a shift. -/
def sigShift (w : Nat) (p : Nat × Nat × Nat) (x : Nat) : Nat := rotr w p.1 x ^^^ rotr w p.2.1 x ^^^ (x >>> p.2.2)
/-- Three rotations. -/
def sigRot (w : Nat) (p : Nat × Nat × Nat) (x : Nat) : Nat := rotr w p.1 x ^^^ rotr w p.2.1 x ^^^ rotr w p.2.2 x

/-- Extend the schedule by `n` words; the window holds the last 16 words, newest first. -/
def shaSched (c : ShaKind) : Nat → List Nat → List Nat
  | 0, _ => []
  | n + 1, win =>
    let t := (sigShift c.w c.s1 (win.getD 1 0) + win.getD 6 0 + sigShift c.w c.s0 (win.getD 14 0) + win.getD 15 0) % 2 ^ c.w
    t :: shaSched c n (t :: win.take 15)

/-- One round of the compression function. -/
def shaRound (c : ShaKind) (v : List Nat) (kw : Nat × Nat) : List Nat :=
  match v with
  | [a, b, cc, d, e, f, g, h] =>
    let ch := (e &&& f) ^^^ ((2 ^ c.w - 1 - e) &&& g)
    let t1 := h + sigRot c.w c.bs1 e + ch + kw.1 + kw.2
    let maj := (a &&& b) ^^^ (a &&& cc) ^^^ (b &&& cc)
    let t2 := sigRot c.w c.bs0 a + maj
    [(t1 + t2) % 2 ^ c.w, a, b, cc, (d + t1) % 2 ^ c.w, e, f, g]
  | _ => v

/-- Compress one block of 16 words into the hash value. -/
def shaBlock (c : ShaKind) (h : List Nat) (m : List Nat) : List Nat :=
  let ws := m ++ shaSched c (c.k.length - 16) m.reverse
  let v := (c.k.zip ws).foldl (shaRound c) h
  (h.zip v).map (fun p => (p.1 + p.2) % 2 ^ c.w)

/-- Pad a message for a block of `blk` bytes with a length field of `lenBytes` bytes. -/
def shaPad (blk lenBytes : Nat) (b : Bytes) : Bytes :=
  let z := (blk - (b.length + 1 + lenBytes) % blk) % blk
  b ++ [0x80#8] ++ zeros z ++ beBytes lenBytes (8 * b.length)

/-- Hash a message, giving the list of output words. -/
def shaWords (c : ShaKind) (iv : List Nat) (blk lenBytes : Nat) (b : Bytes) : List Nat :=
  (chunksOf blk (shaPad blk lenBytes b)).foldl (fun h m => shaBlock c h ((chunksOf (c.w / 8) m).map beNat)) iv

/-- The parameters of SHA-256. -/
def sha256Kind : ShaKind := ⟨32, (7, 18, 3), (17, 19, 10), (2, 13, 22), (6, 11, 25), k256⟩

/-- SHA-256. -/
def sha256 (b : Bytes) : Bytes := (shaWords sha256Kind h256 64 8 b).flatMap (beBytes 4)

/-! ### SHA-384 -/

/-- The round constants of SHA-384. -/
def k512 : List Nat :=
  [0x428a2f98d728ae22, 0x7137449123ef65cd, 0xb5c0fbcfec4d3b2f, 0xe9b5dba58189dbbc, 0x3956c25bf348b538] ++
  [0x59f111f1b605d019, 0x923f82a4af194f9b, 0xab1c5ed5da6d8118, 0xd807aa98a3030242, 0x12835b0145706fbe] ++
  [0x243185be4ee4b28c, 0x550c7dc3d5ffb4e2, 0x72be5d74f27b896f, 0x80deb1fe3b1696b1, 0x9bdc06a725c71235] ++
  [0xc19bf174cf692694, 0xe49b69c19ef14ad2, 0xefbe4786384f25e3, 0x0fc19dc68b8cd5b5, 0x240ca1cc77ac9c65] ++
  [0x2de92c6f592b0275, 0x4a7484aa6ea6e483, 0x5cb0a9dcbd41fbd4, 0x76f988da831153b5, 0x983e5152ee66dfab] ++
  [0xa831c66d2db43210, 0xb00327c898fb213f, 0xbf597fc7beef0ee4, 0xc6e00bf33da88fc2, 0xd5a79147930aa725] ++
  [0x06ca6351e003826f, 0x142929670a0e6e70, 0x27b70a8546d22ffc, 0x2e1b21385c26c926, 0x4d2c6dfc5ac42aed] ++
  [0x53380d139d95b3df, 0x650a73548baf63de, 0x766a0abb3c77b2a8, 0x81c2c92e47edaee6, 0x92722c851482353b] ++
  [0xa2bfe8a14cf10364, 0xa81a664bbc423001, 0xc24b8b70d0f89791, 0xc76c51a30654be30, 0xd192e819d6ef5218] ++
  [0xd69906245565a910, 0xf40e35855771202a, 0x106aa07032bbd1b8, 0x19a4c116b8d2d0c8, 0x1e376c085141ab53] ++
  [0x2748774cdf8eeb99, 0x34b0bcb5e19b48a8, 0x391c0cb3c5c95a63, 0x4ed8aa4ae3418acb, 0x5b9cca4f7763e373] ++
  [0x682e6ff3d6b2b8a3, 0x748f82ee5defb2fc, 0x78a5636f43172f60, 0x84c87814a1f0ab72, 0x8cc702081a6439ec] ++
  [0x90befffa23631e28, 0xa4506cebde82bde9, 0xbef9a3f7b2c67915, 0xc67178f2e372532b, 0xca273eceea26619c] ++
  [0xd186b8c721c0c207, 0xeada7dd6cde0eb1e, 0xf57d4f7fee6ed178, 0x06f067aa72176fba, 0x0a637dc5a2c898a6] ++
  [0x113f9804bef90dae, 0x1b710b35131c471b, 0x28db77f523047d84, 0x32caab7b40c72493, 0x3c9ebe0a15c9bebc] ++
  [0x431d67c49c100d4c, 0x4cc5d4becb3e42b6, 0x597f299cfc657e2a, 0x5fcb6fab3ad6faec, 0x6c44198c4a475817]

/-- The initial hash value of SHA-384. -/
def h384 : List Nat :=
  [0xcbbb9d5dc1059ed8, 0x629a292a367cd507, 0x9159015a3070dd17, 0x152fecd8f70e5939] ++
  [0x67332667ffc00b31, 0x8eb44a8768581511, 0xdb0c2e0d64f98fa7, 0x47b5481dbefa4fa4]

/-- The parameters of SHA-384. -/
def sha512Kind : ShaKind := ⟨64, (1, 8, 7), (19, 61, 6), (28, 34, 39), (14, 18, 41), k512⟩

/-- SHA-384. -/
def sha384 (b : Bytes) : Bytes := ((shaWords sha512Kind h384 128 16 b).take 6).flatMap (beBytes 8)

/-! ### HMAC and HKDF -/

/-- HMAC over a hash with block size `blk`. -/
def hmac (hash : Bytes → Bytes) (blk : Nat) (key msg : Bytes) : Bytes :=
  let k := fit blk (if key.length > blk then hash key else key)
  hash (k.map (· ^^^ 0x5C#8) ++ hash (k.map (· ^^^ 0x36#8) ++ msg))

/-- HMAC-SHA-256. -/
def hmac256 (key msg : Bytes) : Bytes := hmac sha256 64 key msg
/-- HMAC-SHA-384. -/
def hmac384 (key msg : Bytes) : Bytes := hmac sha384 128 key msg

/-- The expansion blocks of HKDF, from counter `i`. -/
def hkdfBlocks (prk info : Bytes) : Nat → Nat → Bytes → Bytes
  | 0, _, _ => []
  | n + 1, i, t =>
    let t' := hmac256 prk (t ++ info ++ [BitVec.ofNat 8 i])
    t' ++ hkdfBlocks prk info n (i + 1) t'

/-- HKDF-SHA-256 (RFC 5869): `len` bytes from input keying material, salt and info. -/
def hkdf (ikm salt info : Bytes) (len : Nat) : Bytes :=
  (hkdfBlocks (hmac256 salt ikm) info (len / 32 + 1) 1 []).take len

end Sys2Proof.Machine
end

