-- ==== Sys2Proof/Machine/Crypto.lean ====
section
/-! DEFINITION. AES-256-GCM (13_lanyards.md R399, R404), the CRCs of R403 and R441, and ECDSA P-384
(01_replay_contract.md R25, 17_bringup.md R521), as their standards define them. -/

namespace Sys2Proof.Machine

/-! ### AES-256 -/

/-- Multiply by x in GF(2^8). -/
def xtime (a : Nat) : Nat := if a < 128 then 2 * a else (2 * a) ^^^ 0x11B

/-- Multiply in GF(2^8), `n` bits of the second factor. -/
def gfMul8 : Nat → Nat → Nat → Nat
  | 0, _, _ => 0
  | n + 1, a, b => (if b % 2 = 1 then a else 0) ^^^ gfMul8 n (xtime a) (b / 2)

/-- The product in GF(2^8). -/
def gf8 (a b : Nat) : Nat := gfMul8 8 a b

/-- The inverse in GF(2^8), as the 254th power. -/
def gf8Inv (a : Nat) : Nat :=
  let a2 := gf8 a a
  let a4 := gf8 a2 a2
  let a8 := gf8 a4 a4
  let a16 := gf8 a8 a8
  let a32 := gf8 a16 a16
  let a64 := gf8 a32 a32
  let a128 := gf8 a64 a64
  gf8 a2 (gf8 a4 (gf8 a8 (gf8 a16 (gf8 a32 (gf8 a64 a128)))))

/-- The AES substitution of a byte. -/
def subByte (x : Nat) : Nat :=
  let b := gf8Inv x
  let r := fun n => (b * 2 ^ n ||| b / 2 ^ (8 - n)) % 256
  b ^^^ r 1 ^^^ r 2 ^^^ r 3 ^^^ r 4 ^^^ 0x63

/-- The AES-256 key schedule from word `i` on: `n` more words after the last eight, newest first. -/
def aesSched : Nat → Nat → Nat → List (List Nat) → List (List Nat)
  | 0, _, _, ws => ws
  | n + 1, i, rc, ws =>
    let prev := ws.headD []
    let old := ws.getD 7 []
    let t :=
      if i % 8 = 0 then
        match prev.drop 1 ++ prev.take 1 with
        | x :: r => (subByte x ^^^ rc) :: r.map subByte
        | [] => []
      else if i % 8 = 4 then prev.map subByte else prev
    aesSched n (i + 1) (if i % 8 = 0 then xtime rc else rc) ((List.zipWith (· ^^^ ·) old t) :: ws)

/-- The fifteen round keys of AES-256, 16 bytes each. -/
def aesKeys (key : Bytes) : List (List Nat) :=
  let k := (chunksOf 4 (fit 32 key)).map (fun w => w.map BitVec.toNat)
  let ws := ((aesSched 52 8 1 k.reverse).reverse).flatten
  (List.range 15).map (fun r => (ws.drop (16 * r)).take 16)

/-- Shift the rows of the state, held column by column. -/
def shiftRows (s : List Nat) : List Nat :=
  (List.range 16).map (fun i => s.getD ((i % 4 + 4 * ((i / 4 + i % 4) % 4))) 0)

/-- Mix one column. -/
def mixCol (c : List Nat) : List Nat :=
  match c with
  | [a, b, d, e] =>
    [xtime a ^^^ (xtime b ^^^ b) ^^^ d ^^^ e, a ^^^ xtime b ^^^ (xtime d ^^^ d) ^^^ e,
     a ^^^ b ^^^ xtime d ^^^ (xtime e ^^^ e), (xtime a ^^^ a) ^^^ b ^^^ d ^^^ xtime e]
  | _ => c

/-- Mix every column. -/
def mixCols (s : List Nat) : List Nat := (List.range 4).flatMap (fun c => mixCol ((s.drop (4 * c)).take 4))

/-- Encrypt one 16-byte block under round keys. -/
def aesBlock (rk : List (List Nat)) (b : Bytes) : Bytes :=
  let add := List.zipWith (fun x y : Nat => x ^^^ y)
  let s0 := add ((fit 16 b).map BitVec.toNat) (rk.headD [])
  let s1 := ((rk.drop 1).take 13).foldl (fun s k => add (mixCols (shiftRows (s.map subByte))) k) s0
  (add (shiftRows (s1.map subByte)) (rk.getD 14 [])).map (BitVec.ofNat 8)

/-! ### GCM -/

/-- Multiply in GF(2^128) in the bit order of GCM, `n` bits left. -/
def gfMul128 : Nat → Nat → Nat → Nat
  | 0, _, _ => 0
  | n + 1, x, v =>
    (if x.testBit n then v else 0) ^^^
      gfMul128 n x (if v % 2 = 1 then v / 2 ^^^ 0xE1 * 2 ^ 120 else v / 2)

/-- GHASH of a string whose length is a multiple of 16. -/
def ghash (h : Nat) (b : Bytes) : Nat :=
  (chunksOf 16 b).foldl (fun y c => gfMul128 128 (y ^^^ beNat c) h) 0

/-- The key stream from counter block `nonce || i` on. -/
def ctrStream (rk : List (List Nat)) (nonce : Bytes) : Nat → Nat → Bytes
  | 0, _ => []
  | n + 1, i => aesBlock rk (nonce ++ beBytes 4 i) ++ ctrStream rk nonce n (i + 1)

/-- Encrypt or decrypt in counter mode. -/
def gcmCrypt (rk : List (List Nat)) (nonce text : Bytes) : Bytes :=
  List.zipWith (· ^^^ ·) text (ctrStream rk nonce (text.length / 16 + 1) 2)

/-- The tag over additional data and ciphertext. -/
def gcmTag (rk : List (List Nat)) (nonce aad text : Bytes) : Bytes :=
  let h := beNat (aesBlock rk (zeros 16))
  let g := ghash h (padTo 16 aad ++ padTo 16 text ++ beBytes 8 (8 * aad.length) ++ beBytes 8 (8 * text.length))
  beBytes 16 (g ^^^ beNat (aesBlock rk (nonce ++ beBytes 4 1)))

/-- Seal with AES-256-GCM: ciphertext and tag. -/
def gcmSeal (key nonce aad plain : Bytes) : Bytes × Bytes :=
  let rk := aesKeys key
  let c := gcmCrypt rk nonce plain
  (c, gcmTag rk nonce aad c)

/-- Open with AES-256-GCM; none when the tag does not verify. -/
def gcmOpen (key nonce aad cipher tag : Bytes) : Option Bytes :=
  let rk := aesKeys key
  if gcmTag rk nonce aad cipher = tag then some (gcmCrypt rk nonce cipher) else none

/-! ### CRCs -/

/-- Divide out one byte of a reflected CRC-32 register. -/
def crcBits (poly : Nat) : Nat → Nat → Nat
  | 0, c => c
  | n + 1, c => crcBits poly n (if c % 2 = 1 then c / 2 ^^^ poly else c / 2)

/-- A reflected CRC-32. -/
def crcWith (poly : Nat) (b : Bytes) : Nat :=
  (b.foldl (fun c x => crcBits poly 8 (c ^^^ x.toNat)) 0xFFFF_FFFF) ^^^ 0xFFFF_FFFF

/-- CRC-32 of IEEE 802.3 (R403). -/
def crc32 (b : Bytes) : Nat := crcWith 0xEDB8_8320 b
/-- CRC-32C (R441). -/
def crc32c (b : Bytes) : Nat := crcWith 0x82F6_3B78 b

/-! ### P-384 -/

/-- The prime of P-384. -/
def p384 : Nat := 2 ^ 384 - 2 ^ 128 - 2 ^ 96 + 2 ^ 32 - 1
/-- The order of the P-384 group. -/
def n384 : Nat := 0xFFFFFFFFFFFFFFFFFFFFFFFFFFFFFFFFFFFFFFFFFFFFFFFFC7634D81F4372DDF581A0DB248B0A77AECEC196ACCC52973
/-- The coefficient b of P-384. -/
def b384 : Nat := 0xB3312FA7E23EE7E4988E056BE3F82D19181D9C6EFE8141120314088F5013875AC656398D8A2ED19D2A85C8EDD3EC2AEF
/-- The base point. -/
def gx384 : Nat := 0xAA87CA22BE8B05378EB1C71EF320AD746E1D3B628BA79B9859F741E082542A385502F25DBF55296C3A545E3872760AB7
def gy384 : Nat := 0x3617DE4A96262C6F5D9E98BF9292DC29F8F41DBD289A147CE9DA3113B5F0B8C00A60B1CE1D7E819D7A431D7C90EA0E5F

/-- Modular power with `fuel` bits of exponent. -/
def powMod (m : Nat) : Nat → Nat → Nat → Nat
  | 0, _, _ => 1 % m
  | fuel + 1, b, e => (if e % 2 = 1 then b else 1) * powMod m fuel (b * b % m) (e / 2) % m

/-- The inverse modulo a prime. -/
def invMod (m a : Nat) : Nat := powMod m 384 (a % m) (m - 2)

/-- A point in Jacobian coordinates; z = 0 is the point at infinity. -/
structure Jac where
  x : Nat
  y : Nat
  z : Nat
  deriving DecidableEq, Repr

/-- Subtraction modulo p. -/
def psub (a b : Nat) : Nat := (a + (p384 - b % p384)) % p384

/-- Double a point. -/
def jdbl (q : Jac) : Jac :=
  if q.z = 0 ∨ q.y = 0 then ⟨1, 1, 0⟩ else
  let yy := q.y * q.y % p384
  let s := 4 * q.x * yy % p384
  let zz := q.z * q.z % p384
  let m := 3 * psub q.x zz * ((q.x + zz) % p384) % p384
  let x3 := psub (m * m % p384) (2 * s)
  ⟨x3, psub (m * psub s x3) (8 * yy * yy), 2 * q.y * q.z % p384⟩

/-- Add two points. -/
def jadd (a b : Jac) : Jac :=
  if a.z = 0 then b else if b.z = 0 then a else
  let z1 := a.z * a.z % p384
  let z2 := b.z * b.z % p384
  let u1 := a.x * z2 % p384
  let u2 := b.x * z1 % p384
  let s1 := a.y * z2 * b.z % p384
  let s2 := b.y * z1 * a.z % p384
  if u1 = u2 then (if s1 = s2 then jdbl a else ⟨1, 1, 0⟩) else
  let h := psub u2 u1
  let r := psub s2 s1
  let hh := h * h % p384
  let hhh := h * hh % p384
  let v := u1 * hh % p384
  let x3 := psub (psub (r * r % p384) hhh) (2 * v)
  ⟨x3, psub (r * psub v x3) (s1 * hhh), h * a.z * b.z % p384⟩

/-- Multiply a point by a number of `fuel` bits. -/
def jmul : Nat → Nat → Jac → Jac
  | 0, _, _ => ⟨1, 1, 0⟩
  | fuel + 1, k, q =>
    let r := jmul fuel (k / 2) (jdbl q)
    if k % 2 = 1 then jadd q r else r

/-- The affine x of a point. -/
def affineX (q : Jac) : Nat := let zi := invMod p384 q.z; q.x * (zi * zi % p384) % p384
/-- The affine y of a point. -/
def affineY (q : Jac) : Nat := let zi := invMod p384 q.z; q.y * (zi * zi % p384 * zi % p384) % p384

/-- The base point. -/
def g384 : Jac := ⟨gx384, gy384, 1⟩

/-- Candidate nonces of RFC 6979 until one is in range. -/
def rfcNonce : Nat → Bytes → Bytes → Nat
  | 0, _, _ => 1
  | fuel + 1, k, v =>
    let v' := hmac384 k v
    let c := beNat v'
    if 1 ≤ c ∧ c < n384 then c else
    let k' := hmac384 k (v' ++ [0#8])
    rfcNonce fuel k' (hmac384 k' v')

/-- The deterministic nonce of RFC 6979 for a private scalar and a message digest. -/
def ecNonce (d : Nat) (digest : Bytes) : Nat :=
  let seed := beBytes 48 d ++ beBytes 48 (beNat digest % n384)
  let v := List.replicate 48 1#8
  let k := hmac384 (zeros 48) (v ++ [0#8] ++ seed)
  let v := hmac384 k v
  let k := hmac384 k (v ++ [1#8] ++ seed)
  rfcNonce 16 k (hmac384 k v)

/-- Sign a message with ECDSA P-384, SHA-384 and the nonce of RFC 6979 (R25): r then s. -/
def ecSign (d : Nat) (msg : Bytes) : Bytes :=
  let dg := sha384 msg
  let k := ecNonce d dg
  let r := affineX (jmul 384 k g384) % n384
  let s := invMod n384 k * (beNat dg + r * d) % n384
  beBytes 48 r ++ beBytes 48 s

/-- Whether an uncompressed public key is a point of the curve. -/
def onCurve (x y : Nat) : Bool :=
  decide (x < p384) && decide (y < p384) && (y * y % p384 == (x * x % p384 * x + (p384 - 3) * x + b384) % p384)

/-- Verify an ECDSA P-384 signature over a message digest (R521). -/
def ecVerify (pub digest sig : Bytes) : Bool :=
  let x := beNat (slice pub 1 48)
  let y := beNat (slice pub 49 48)
  let r := beNat (slice sig 0 48)
  let s := beNat (slice sig 48 48)
  if pub.length = 97 ∧ fld pub 0 1 = 4 ∧ onCurve x y ∧ 1 ≤ r ∧ r < n384 ∧ 1 ≤ s ∧ s < n384 then
    let w := invMod n384 s
    let q := jadd (jmul 384 (beNat digest * w % n384) g384) (jmul 384 (r * w % n384) ⟨x, y, 1⟩)
    q.z != 0 && affineX q % n384 == r
  else false

end Sys2Proof.Machine
end

