-- ==== Sys2Proof/Machine/ErrCodes.lean ====
section
/-! DEFINITION. Error-log codes (20_registers.md Table Reg-15). -/

namespace Sys2Proof.Machine.Err

/-- LOCKED-WRITE. -/
def lockedWrite : Nat := 0x0001
/-- RESERVED-WRITE. -/
def reservedWrite : Nat := 0x0002
/-- REG-ACCESS. -/
def regAccess : Nat := 0x0003
/-- SETUP-OVERLAP. -/
def setupOverlap : Nat := 0x0004
/-- RING-BUSY. -/
def ringBusy : Nat := 0x0101
/-- RING-FAULT. -/
def ringFault : Nat := 0x0102
/-- DOORBELL-FAULT. -/
def doorbellFault : Nat := 0x0103
/-- COMPLETION-LOST. -/
def completionLost : Nat := 0x0104
/-- HANG. -/
def hang : Nat := 0x0105
/-- ACCORD-INVALID. -/
def accordInvalid : Nat := 0x0106
/-- ACCORD-BUSY. -/
def accordBusy : Nat := 0x0107
/-- SPLICE-INVALID. -/
def spliceInvalid : Nat := 0x0108
/-- STREAM-INVALID. -/
def streamInvalid : Nat := 0x0109
/-- MEDIA-INVALID. -/
def mediaInvalid : Nat := 0x010A
/-- AUDIT-SKIPPED. -/
def auditSkipped : Nat := 0x010B
/-- SILENT-ERROR. -/
def silentError : Nat := 0x010C
/-- WINDOW-RANGE. -/
def windowRange : Nat := 0x010D
/-- BURST-LOST-WRITE. -/
def burstLostWrite : Nat := 0x010E
/-- TABLE-INVALID. -/
def tableInvalid : Nat := 0x0201
/-- TABLE-WRITE. -/
def tableWrite : Nat := 0x0202
/-- TABLE-LOST. -/
def tableLost : Nat := 0x0203
/-- SEQ-REFUSED. -/
def seqRefused : Nat := 0x0204
/-- BOUNDARY-BEHIND. -/
def boundaryBehind : Nat := 0x0205
/-- CHAIN-MISMATCH. -/
def chainMismatch : Nat := 0x0206
/-- EPOCH-EXHAUSTED. -/
def epochExhausted : Nat := 0x0207
/-- JOURNAL-FULL. -/
def journalFull : Nat := 0x0208
/-- JOURNAL-STOPPED. -/
def journalStopped : Nat := 0x0209
/-- JOURNAL-DAMAGED. -/
def journalDamaged : Nat := 0x020A
/-- REPLAY-ROW-ABSENT. -/
def replayRowAbsent : Nat := 0x020B
/-- ARENA-BUSY. -/
def arenaBusy : Nat := 0x020C
/-- SPLICE-REFUSED. -/
def spliceRefused : Nat := 0x020D
/-- WAIT-BOUND. -/
def waitBound : Nat := 0x0301
/-- SKEIN-RETIRED. -/
def skeinRetired : Nat := 0x0302
/-- BCU-FENCED. -/
def bcuFenced : Nat := 0x0303
/-- NB-SIDEBAND. -/
def nbSideband : Nat := 0x0304
/-- MEMORY-DEGRADED. -/
def memoryDegraded : Nat := 0x0305
/-- WEAVE-DEGRADED. -/
def weaveDegraded : Nat := 0x0306
/-- EMD-DEGRADED. -/
def emdDegraded : Nat := 0x0307
/-- LANYARD-SLOW. -/
def lanyardSlow : Nat := 0x0401
/-- LANYARD-QUARANTINE. -/
def lanyardQuarantine : Nat := 0x0402
/-- LANYARD-DEGRADED. -/
def lanyardDegraded : Nat := 0x0403
/-- FW-REVERTED. -/
def fwReverted : Nat := 0x0501
/-- FW-INVALID. -/
def fwInvalid : Nat := 0x0502
/-- HOLD. -/
def hold : Nat := 0x0503
/-- HOLD-LOAD-MISMATCH. -/
def holdLoadMismatch : Nat := 0x0504
/-- RESET-NOT-ARMED. -/
def resetNotArmed : Nat := 0x0505
/-- CLOCK-TRIP. -/
def clockTrip : Nat := 0x0506
/-- CLOCK-UNSTABLE. -/
def clockUnstable : Nat := 0x0507
/-- CLOCK-FAULT. -/
def clockFault : Nat := 0x0508
/-- TIME-STEP. -/
def timeStep : Nat := 0x0509
/-- TIME-SET-IGNORED. -/
def timeSetIgnored : Nat := 0x050A
/-- TBCLK-RATE. -/
def tbclkRate : Nat := 0x050B

end Sys2Proof.Machine.Err
end

