-- ==== Sys2Proof/Machine/Arith.lean ====
section
/-! DEFINITION. NP-1 arithmetic: element-wise operations, lay order, reductions, tally cells and curves (04_lay_order.md). -/

namespace Sys2Proof.Machine

/-! ### Exact operations on values -/

/-- Exact product; 0 × ∞ is NaN with NV (Table Lay-3). -/
def Val.mul (a b : Val) : Val × Flags :=
  let s := a.neg != b.neg
  match a, b with
  | .nan, _ => (.nan, noFlags)
  | _, .nan => (.nan, noFlags)
  | .inf _, .zero _ => (.nan, flNV)
  | .zero _, .inf _ => (.nan, flNV)
  | .inf _, _ => (.inf s, noFlags)
  | _, .inf _ => (.inf s, noFlags)
  | .zero _, _ => (.zero s, noFlags)
  | _, .zero _ => (.zero s, noFlags)
  | .fin n d e, .fin n' d' e' => (.fin (n * n') (d * d') (e + e'), noFlags)

/-- The exact sum of two finite values as numerator, denominator and exponent. -/
def finAdd (n : Int) (d : Nat) (e : Int) (n' : Int) (d' : Nat) (e' : Int) : Int × Nat × Int :=
  let m := if e < e' then e else e'
  (n * (2 ^ (e - m).toNat : Nat) * d' + n' * (2 ^ (e' - m).toNat : Nat) * d, d * d', m)

/-- The sign of an exact zero sum of two terms (R99). -/
def zeroSign (m : Rnd) (s s' : Bool) : Bool := if s = s' then s else m == .rdn

/-- Exact sum; ∞ − ∞ is NaN with NV, an exact zero takes its sign by R99. -/
def Val.add (m : Rnd) (a b : Val) : Val × Flags :=
  match a, b with
  | .nan, _ => (.nan, noFlags)
  | _, .nan => (.nan, noFlags)
  | .inf s, .inf s' => if s = s' then (.inf s, noFlags) else (.nan, flNV)
  | .inf s, _ => (.inf s, noFlags)
  | _, .inf s => (.inf s, noFlags)
  | .zero s, .zero s' => (.zero (zeroSign m s s'), noFlags)
  | .zero _, v => (v, noFlags)
  | v, .zero _ => (v, noFlags)
  | .fin n d e, .fin n' d' e' =>
    let r := finAdd n d e n' d' e'
    if r.1 = 0 then (.zero (zeroSign m (decide (n < 0)) (decide (n' < 0))), noFlags)
    else (.fin r.1 r.2.1 r.2.2, noFlags)

/-- The value with its sign changed. -/
def Val.negate : Val → Val
  | .nan => .nan
  | .inf s => .inf !s
  | .zero s => .zero !s
  | .fin n d e => .fin (-n) d e

/-- Exact quotient; x / 0 is an infinity with DZ, 0 / 0 and ∞ / ∞ are NaN with NV (Table Lay-3). -/
def Val.div (a b : Val) : Val × Flags :=
  let s := a.neg != b.neg
  match a, b with
  | .nan, _ => (.nan, noFlags)
  | _, .nan => (.nan, noFlags)
  | .inf _, .inf _ => (.nan, flNV)
  | .inf _, _ => (.inf s, noFlags)
  | _, .inf _ => (.zero s, noFlags)
  | .zero _, .zero _ => (.nan, flNV)
  | .fin _ _ _, .zero _ => (.inf s, flDZ)
  | .zero _, .fin _ _ _ => (.zero s, noFlags)
  | .fin n d e, .fin n' d' e' =>
    let q : Int := (n.natAbs * d' : Nat)
    (.fin (if s then -q else q) (d * n'.natAbs) (e - e'), noFlags)

/-- Bits of the integer square root, from bit `i - 1` down. -/
def isqrtGo (n : Nat) : Nat → Nat → Nat
  | 0, r => r
  | i + 1, r => if (r + 2 ^ i) * (r + 2 ^ i) ≤ n then isqrtGo n i (r + 2 ^ i) else isqrtGo n i r

/-- The integer square root. -/
def isqrt (n : Nat) : Nat := isqrtGo n (Nat.log2 n / 2 + 1) 0

/-- A value that rounds as the square root of `n × 2^e` does: the root is taken to 64 fraction bits or more and
an inexact root keeps a half unit below its last bit, which no rounding can mistake. -/
def sqrtFin (n : Nat) (e : Int) : Val :=
  let n := if e % 2 = 0 then n else 2 * n
  let h := (if e % 2 = 0 then e else e - 1) / 2
  let s := isqrt (n * 2 ^ 128)
  if s * s = n * 2 ^ 128 then .fin s 1 (h - 64) else .fin (2 * s + 1) 1 (h - 65)

/-- Square root (Table Lay-3). -/
def Val.sqrt : Val → Val × Flags
  | .nan => (.nan, noFlags)
  | .inf true => (.nan, flNV)
  | .inf false => (.inf false, noFlags)
  | .zero s => (.zero s, noFlags)
  | .fin n _ e => if n < 0 then (.nan, flNV) else (sqrtFin n.natAbs e, noFlags)

/-- Two values compare as numbers: less; none when unordered. Zeros of both signs are equal (R102). -/
def Val.cmp (a b : Val) : Option Ordering :=
  let num (v : Val) : Int × Nat × Int := match v with
    | .fin n d e => (n, d, e)
    | _ => (0, 1, 0)
  match a, b with
  | .nan, _ => none
  | _, .nan => none
  | .inf s, .inf s' => some (compare (if s then 0 else 1) (if s' then 0 else 1))
  | .inf s, _ => some (if s then .lt else .gt)
  | _, .inf s => some (if s then .gt else .lt)
  | x, y =>
    let p := num x
    let q := num y
    let r := finAdd p.1 p.2.1 p.2.2 (-q.1) q.2.1 q.2.2
    some (compare r.1 0)

/-! ### Element-wise operations in one format -/

/-- Round the outcome of an exact operation into a format, joining the flags. -/
def finish (f : Fmt) (m : Rnd) (v : Val × Flags) : Nat × Flags :=
  let r := v.1.to f m false
  (r.1, v.2 ||| r.2)

/-- Operations that compute exactly and round once (R92). A value with no infinity in the format saturates (Table Lay-3). -/
def faluAdd (f : Fmt) (m : Rnd) (a b : Nat) : Nat × Flags := finish f m ((f.val a).add m (f.val b))
/-- a − b. -/
def faluSub (f : Fmt) (m : Rnd) (a b : Nat) : Nat × Flags := finish f m ((f.val a).add m (f.val b).negate)
/-- a × b. -/
def faluMul (f : Fmt) (m : Rnd) (a b : Nat) : Nat × Flags := finish f m ((f.val a).mul (f.val b))

/-- a × b + c, computed exactly and rounded once (R100); a NaN operand gives NaN with no flag. -/
def Val.fma (m : Rnd) (a b c : Val) : Val × Flags :=
  if a = .nan ∨ b = .nan ∨ c = .nan then (.nan, noFlags)
  else
    let p := a.mul b
    let r := p.1.add m c
    (r.1, p.2 ||| r.2)

/-- fma in one floating-point format. -/
def faluFma (f : Fmt) (m : Rnd) (a b c : Nat) : Nat × Flags := finish f m (Val.fma m (f.val a) (f.val b) (f.val c))

/-- Integer operation: the exact result clamped to the format (R103). -/
def ialu (f : Fmt) (r : Int) : Nat × Flags := clampInt f.width r

/-- The signed value of an integer pattern. -/
def ival (f : Fmt) (b : Nat) : Int := signed f.width b

/-- Add in any format. -/
def eAdd (f : Fmt) (m : Rnd) (a b : Nat) : Nat × Flags :=
  if f.isFloat then faluAdd f m a b else ialu f (ival f a + ival f b)
/-- Subtract in any format. -/
def eSub (f : Fmt) (m : Rnd) (a b : Nat) : Nat × Flags :=
  if f.isFloat then faluSub f m a b else ialu f (ival f a - ival f b)
/-- Multiply in any format. -/
def eMul (f : Fmt) (m : Rnd) (a b : Nat) : Nat × Flags :=
  if f.isFloat then faluMul f m a b else ialu f (ival f a * ival f b)
/-- Fused multiply-add in any format (R100, R103). -/
def eFma (f : Fmt) (m : Rnd) (a b c : Nat) : Nat × Flags :=
  if f.isFloat then faluFma f m a b c else ialu f (ival f a * ival f b + ival f c)
/-- Divide in any format (Table Lay-3, R104). -/
def eDiv (f : Fmt) (m : Rnd) (a b : Nat) : Nat × Flags :=
  if f.isFloat then finish f m ((f.val a).div (f.val b))
  else if ival f b = 0 then (0, flDZ) else ialu f ((ival f a).tdiv (ival f b))
/-- Square root of a floating-point operand. -/
def eSqrt (f : Fmt) (m : Rnd) (a : Nat) : Nat × Flags := finish f m (f.val a).sqrt

/-- Absolute value and negation: the sign bit alone for floats (a NaN becomes canonical), exact and clamped for integers. -/
def eAbs (f : Fmt) (a : Nat) : Nat × Flags :=
  if f.isFloat then (if f.val a = .nan then f.nanBits else a % 2 ^ (f.width - 1), noFlags)
  else ialu f (if ival f a < 0 then -ival f a else ival f a)
/-- Negation. -/
def eNeg (f : Fmt) (a : Nat) : Nat × Flags :=
  if f.isFloat then (if f.val a = .nan then f.nanBits else a ^^^ 2 ^ (f.width - 1), noFlags)
  else ialu f (-ival f a)

/-- a is below b, with −0 below +0 (R101); meaningless for NaN. -/
def belowR101 (a b : Val) : Bool :=
  match a.cmp b with
  | some .lt => true
  | some .eq => a.neg && !b.neg
  | _ => false

/-- min by R101. -/
def eMin (f : Fmt) (a b : Nat) : Nat :=
  if f.val a = .nan ∨ f.val b = .nan then f.nanBits
  else if belowR101 (f.val b) (f.val a) then b else a
/-- max by R101. -/
def eMax (f : Fmt) (a b : Nat) : Nat :=
  if f.val a = .nan ∨ f.val b = .nan then f.nanBits
  else if belowR101 (f.val a) (f.val b) then b else a

/-- a = b; false when unordered (R102). -/
def eEq (f : Fmt) (a b : Nat) : Bool := (f.val a).cmp (f.val b) == some .eq
/-- a < b. -/
def eLt (f : Fmt) (a b : Nat) : Bool := (f.val a).cmp (f.val b) == some .lt
/-- a ≤ b. -/
def eLe (f : Fmt) (a b : Nat) : Bool := eEq f a b || eLt f a b
/-- Unordered: either operand is a NaN. -/
def eUn (f : Fmt) (a b : Nat) : Bool := (f.val a).cmp (f.val b) == none

/-! ### Lay order (R105 to R110) -/

/-- FP32 addition under RNE, the step of the tree. -/
def fp32Add (a b : Nat) : Nat × Flags := faluAdd .fp32 .rne a b

/-- The exact sum of finite values, as a numerator over one denominator 1 and an exponent. -/
def dySum : List Val → Int × Int
  | [] => (0, 0)
  | .fin n d e :: l =>
    let r := dySum l
    let s := finAdd n d e r.1 1 r.2
    (s.1, s.2.2)
  | _ :: l => dySum l

/-- One chunk: its products with the flags that forming them raised, summed exactly and rounded once to FP32 (R106). -/
def chunkRound (ps : List (Val × Flags)) : Nat × Flags :=
  let vs := ps.map (·.1)
  if vs.any (· == .nan) then (Fmt.fp32.nanBits, flagUnion (ps.map (·.2)))
  else if vs.any (· == .inf false) && vs.any (· == .inf true) then (Fmt.fp32.nanBits, flNV)
  else if vs.any (· == .inf false) then (Fmt.fp32.infBits, noFlags)
  else if vs.any (· == .inf true) then (withSign .fp32 true Fmt.fp32.infBits, noFlags)
  else
    let s := dySum vs
    if s.1 = 0 then (withSign .fp32 (vs.all (· == .zero true)) 0, noFlags)
    else toFloatBits .fp32 .rne false (.fin s.1 1 s.2)

/-- The largest power of two below `n`, for n ≥ 2 (pow2_below of R105). -/
def pow2Below (n : Nat) : Nat := 2 ^ Nat.log2 (n - 1)

/-- The balanced tree of R105 over the leaves, `fuel` at least the number of leaves. -/
def layTree : Nat → List (Nat × Flags) → Nat × Flags
  | 0, _ => (0, noFlags)
  | _, [] => (0, noFlags)
  | _, [x] => x
  | fuel + 1, l =>
    let m := pow2Below l.length
    let a := layTree fuel (l.take m)
    let b := layTree fuel (l.drop m)
    let s := fp32Add a.1 b.1
    (s.1, a.2 ||| b.2 ||| s.2)

/-- The tail of R105 from the tree's sum, none for K = 0: accumulator, final conversion (R107). -/
def layFinish (tree : Option (Nat × Flags)) (acc : Option (Fmt × Nat)) (dst : Fmt) (m : Rnd) : Nat × Flags :=
  let fromAcc := acc.map (fun a => convert a.1 .fp32 .rne false 0 a.2)
  let s := match tree, fromAcc with
    | none, none => (0, noFlags)
    | none, some a => a
    | some t, none => t
    | some t, some a =>
      let r := fp32Add t.1 a.1
      (r.1, t.2 ||| a.2 ||| r.2)
  let r := convert .fp32 dst m false 0 s.1
  (r.1, s.2 ||| r.2)

/-- The leaves of a list of products, 32 to a chunk. -/
def layLeaves (ps : List (Val × Flags)) : Nat → List (Nat × Flags)
  | 0 => []
  | fuel + 1 => match ps with
    | [] => []
    | ps => chunkRound (ps.take 32) :: layLeaves (ps.drop 32) fuel

/-- The tree over the leaves of a list of products; none for K = 0. -/
def laySum (ps : List (Val × Flags)) : Option (Nat × Flags) :=
  let l := layLeaves ps ps.length
  if l.isEmpty then none else some (layTree l.length l)

/-- The exact sum of integer products and an accumulator, converted once (R109): in an exact zero each product counts as +0
and the accumulator with its own sign. -/
def intDotFinish (sum : Int) (acc : Option (Fmt × Nat)) (dst : Fmt) (m : Rnd) : Nat × Flags :=
  match acc with
  | none => finish dst m (Val.ofInt sum 0, noFlags)
  | some a =>
    let v := a.1.val a.2
    let r := (Val.ofInt sum 0).add m v
    finish dst m (match r.1 with | .zero _ => (.zero (zeroSign m false v.neg), r.2) | _ => r)

/-- A dot product before its accumulator: the tree's sum (R105), or the exact sum of integer products (R109). -/
inductive DotSum where
  | lay (tree : Option (Nat × Flags))
  | int (sum : Int)
  deriving DecidableEq, Repr

/-- The sum of the products of paired elements. -/
def dotSum (fa fb : Fmt) (xs : List (Nat × Nat)) : DotSum :=
  if fa.isFloat || fb.isFloat then .lay (laySum (xs.map (fun x => (fa.val x.1).mul (fb.val x.2))))
  else .int ((xs.map (fun x => ival fa x.1 * ival fb x.2)).foldl (· + ·) 0)

/-- Its accumulator and final conversion. -/
def dotFinish (s : DotSum) (acc : Option (Fmt × Nat)) (dst : Fmt) (m : Rnd) : Nat × Flags :=
  match s with
  | .lay t => layFinish t acc dst m
  | .int n => intDotFinish n acc dst m

/-- A dot product of paired elements (R105 for any floating-point operand, R109 for integers; K = 0 by R107). -/
def dot (fa fb : Fmt) (xs : List (Nat × Nat)) (acc : Option (Fmt × Nat)) (dst : Fmt) (m : Rnd) : Nat × Flags :=
  dotFinish (dotSum fa fb xs) acc dst m

/-- A sum reduction (R110). -/
def sumReduce (f : Fmt) (xs : List Nat) (dst : Fmt) (m : Rnd) : Nat × Flags :=
  if f.isFloat then layFinish (laySum (xs.map (fun x => (f.val x, noFlags)))) none dst m
  else intDotFinish ((xs.map (ival f)).foldl (· + ·) 0) none dst m

/-- Min and max reductions (R110). -/
def minReduce (f : Fmt) : List Nat → Nat
  | [] => 0
  | x :: xs => xs.foldl (eMin f) (canonNaN f x)
/-- The maximum of a vector. -/
def maxReduce (f : Fmt) : List Nat → Nat
  | [] => 0
  | x :: xs => xs.foldl (eMax f) (canonNaN f x)

/-! ### Tally cells (R111 to R114, R120) -/

/-- A tally cell as its 320 bits (Table Lay-4). -/
abbrev Cell320 := Nat

/-- What enters a tally cell (Table Memory-5): a value of an FP32, INT32 or INT64 addend. -/
inductive AddKind where
  | fp32 | int32 | int64
  deriving DecidableEq, Repr

/-- The exact value of an addend. -/
def AddKind.val : AddKind → Nat → Val
  | .fp32, b => Fmt.fp32.val b
  | .int32, b => Val.ofInt (signed 32 b) 0
  | .int64, b => Val.ofInt (signed 64 b) 0

/-- Bytes of one addend. -/
def AddKind.size : AddKind → Nat
  | .int64 => 8
  | _ => 4

/-- Apply one addend to a cell (R112, R113); VALUE wraps modulo 2^317 (R120). -/
def cellAdd (c : Cell320) (v : Val) : Cell320 :=
  match v with
  | .nan => c ||| 2 ^ 317
  | .inf false => c ||| 2 ^ 318
  | .inf true => c ||| 2 ^ 319
  | .zero _ => c
  | .fin n _ e =>
    let hi := c / 2 ^ 317
    let val : Int := ((c % 2 ^ 317 : Nat) : Int) + n * (2 ^ (e + 149).toNat : Nat)
    unsigned 317 val + hi * 2 ^ 317

/-- Read-out codes (Table Lay-5). -/
inductive ReadCode where
  | fp32 | int32 | int64
  deriving DecidableEq, Repr

/-- The read-out a 2-bit code names. -/
def ReadCode.ofCode : Nat → Option ReadCode
  | 0 => some .fp32 | 1 => some .int32 | 2 => some .int64
  | _ => none

/-- Read a cell out (R114): the result's bits and flags. -/
def cellRead (c : Cell320) (code : ReadCode) (m : Rnd) : Nat × Flags :=
  let nan := bit c 317
  let p := bit c 318
  let n := bit c 319
  let v := Val.ofInt (signed 317 c) (-149)
  match code with
  | .fp32 =>
    if nan then (Fmt.fp32.nanBits, noFlags)
    else if p && n then (Fmt.fp32.nanBits, flNV)
    else if p then (Fmt.fp32.infBits, noFlags)
    else if n then (withSign .fp32 true Fmt.fp32.infBits, noFlags)
    else toFloatBits .fp32 m false v
  | k =>
    let w := if k = .int64 then 64 else 32
    if nan then (0, flNV)
    else if p && n then (0, flNV)
    else if p then toIntBits w m (.inf false)
    else if n then toIntBits w m (.inf true)
    else toIntBits w m v

/-! ### Curves (R115, R116, R121, R624) -/

/-- One half of a curve's directory entry. -/
structure CurveHalf where
  emin  : Int
  emax  : Int
  aboveFlags : Flags
  above : Nat
  /-- Segments: c0, c1, c2, c3 as FP32 patterns. -/
  segs  : List (List Nat)
  deriving DecidableEq, Repr

/-- One curve: its function ID, the results and flags for +0, −0, +∞, −∞, and its two halves. -/
structure Curve where
  fid : Nat
  specials : List (Nat × Flags)
  pos : CurveHalf
  neg : CurveHalf
  deriving DecidableEq, Repr

/-- A held curve-table file: version, SHA-256, curves, and its bytes. -/
structure CurveFile where
  version : Nat
  digest  : Bytes
  curves  : List Curve
  file    : Bytes
  deriving DecidableEq, Repr

/-- The procedure curve_half of R115 on an FP32 pattern. -/
def curveHalf (h : CurveHalf) (x : Nat) : Nat × Flags :=
  let ef := bits x 30 23
  let e : Int := (ef : Int) - 127
  if h.emax < e then (h.above, h.aboveFlags)
  else
    let low := decide (e < h.emin)
    let j := if low then 0 else 1 + 8 * (e - h.emin).toNat + bits x 22 20
    let t := if low then x else (faluSub .fp32 .rne x (x / 2 ^ 20 * 2 ^ 20)).1
    let c := h.segs.getD j []
    let y3 := faluFma .fp32 .rne (c.getD 3 0) t (c.getD 2 0)
    let y2 := faluFma .fp32 .rne y3.1 t (c.getD 1 0)
    let y1 := faluFma .fp32 .rne y2.1 t (c.getD 0 0)
    (y1.1, y3.2 ||| y2.2 ||| y1.2)

/-- Evaluate a curve on a pattern of a floating-point format (R115). -/
def curveEval (c : Curve) (f : Fmt) (m : Rnd) (b : Nat) : Nat × Flags :=
  let x := (convert f .fp32 .rne false 0 b).1
  let r : Nat × Flags := match Fmt.fp32.val x with
    | .nan => (Fmt.fp32.nanBits, noFlags)
    | .zero s => c.specials.getD (if s then 1 else 0) (0, noFlags)
    | .inf s => c.specials.getD (if s then 3 else 2) (0, noFlags)
    | .fin n _ _ => curveHalf (if n < 0 then c.neg else c.pos) x
  let o := convert .fp32 f m false 0 r.1
  (o.1, r.2 ||| o.2)

/-- Read a half of a directory entry from a file; none when a bound or a reserved field is wrong (R624). -/
def readHalf (file : Bytes) (off : Nat) : Option CurveHalf :=
  let emin := signed 8 (fld file off 1)
  let emax := signed 8 (fld file (off + 1) 1)
  let so := fld file (off + 8) 4
  let n := (1 + 8 * (emax - emin + 1)).toNat
  if emin < -126 ∨ emax < emin ∨ 127 < emax ∨ 64 ≤ fld file (off + 2) 1 ∨ fld file (off + 3) 1 ≠ 0
      ∨ file.length < so + 16 * n then none
  else some {
    emin, emax
    aboveFlags := BitVec.ofNat 6 (fld file (off + 2) 1)
    above := fld file (off + 4) 4
    segs := (List.range n).map (fun i => (List.range 4).map (fun k => fld file (so + 16 * i + 4 * k) 4)) }

/-- Read a directory entry. DEDUCED (log 79): a function ID that Table Lay-6 reserves is a reserved field value, so the file is not
held. -/
def readCurve (file : Bytes) (off : Nat) : Option Curve :=
  let fid := fld file off 2
  let sp := (List.range 4).map (fun i => (fld file (off + 4 + 4 * i) 4, BitVec.ofNat 6 (fld file (off + 20 + i) 1)))
  if fid = 0 ∨ 9 < fid ∨ !zeroAt file (off + 2) 2 ∨ !zeroAt file (off + 48) 16
      ∨ (List.range 4).any (fun i => decide (64 ≤ fld file (off + 20 + i) 1)) then none
  else match readHalf file (off + 24), readHalf file (off + 36) with
    | some p, some n => some { fid, specials := sp, pos := p, neg := n }
    | _, _ => none

/-- Read `n` directory entries. -/
def readCurves (file : Bytes) (off : Nat) : Nat → Option (List Curve)
  | 0 => some []
  | n + 1 =>
    match readCurve file off, readCurves file (off + 64) n with
    | some c, some l => some (c :: l)
    | _, _ => none

/-- Numbers rise strictly. -/
def rising : List Nat → Bool
  | a :: b :: l => decide (a < b) && rising (b :: l)
  | _ => true

/-- Check a curve-table file against Table Lay-7 (R624); none when it is not held. `digest` is its SHA-256. -/
def readCurveFile (digest file : Bytes) : Option CurveFile :=
  let n := fld file 10 2
  if slice file 0 8 ≠ beBytes 8 0x5451435552564531 ∨ fld file 8 2 = 0 ∨ fld file 12 4 ≠ file.length
      ∨ file.length < 32 + 64 * n ∨ !zeroAt file 16 16 then none
  else match readCurves file 32 n with
    | none => none
    | some cs =>
      if rising (cs.map (·.fid)) then some { version := fld file 8 2, digest, curves := cs, file } else none

end Sys2Proof.Machine
end

