-- ==== Sys2Proof/Machine/Store.lean ====
section
/-! DEFINITION. Reading and writing sparse maps and number sets in their one canonical form. -/

namespace Sys2Proof.Machine

variable {α : Type}

/-- The value at a key, `d` where none is listed. -/
def nget (d : α) : NMap α → Nat → α
  | [], _ => d
  | (k', v) :: m, k => if k = k' then v else nget d m k

/-- List a value at a key, keeping keys rising. -/
def nins (k : Nat) (v : α) : NMap α → NMap α
  | [] => [(k, v)]
  | (k', v') :: m =>
    if k < k' then (k, v) :: (k', v') :: m
    else if k = k' then (k, v) :: m
    else (k', v') :: nins k v m

/-- Write a value, keeping keys rising and dropping an entry that equals what an unlisted key reads. -/
def nput [DecidableEq α] (d : α) (m : NMap α) (k : Nat) (v : α) : NMap α :=
  if v = d then m.filter (fun p => p.1 != k) else nins k v m

/-- Apply a function to the value at a key. -/
def nmod [DecidableEq α] (d : α) (m : NMap α) (k : Nat) (f : α → α) : NMap α :=
  nput d m k (f (nget d m k))

/-- Every key of the map is at least `lo`, keys rise strictly and no entry equals the default. -/
def nwfFrom [DecidableEq α] (d : α) : Nat → NMap α → Bool
  | _, [] => true
  | lo, (k, v) :: m => decide (lo ≤ k) && decide (v ≠ d) && nwfFrom d (k + 1) m

/-- The canonical form of a sparse map. -/
def nwf [DecidableEq α] (d : α) (m : NMap α) : Bool := nwfFrom d 0 m

/-- Write a string of values at consecutive keys. -/
def nputs [DecidableEq α] (d : α) (m : NMap α) : Nat → List α → NMap α
  | _, [] => m
  | k, v :: vs => nputs d (nput d m k v) (k + 1) vs

/-- Read `n` values at consecutive keys. -/
def ngets (d : α) (m : NMap α) (k : Nat) : Nat → List α
  | 0 => []
  | n + 1 => nget d m k :: ngets d m (k + 1) n

/-- Apply a function to every listed value. -/
def nmap [DecidableEq α] (d : α) (f : α → α) (m : NMap α) : NMap α := m.foldl (fun a p => nput d a p.1 (f p.2)) []

/-- Add a number to a set. -/
def sadd : NSet → Nat → NSet
  | [], x => [x]
  | y :: s, x => if x < y then x :: y :: s else if x = y then y :: s else y :: sadd s x

/-- Take a number out of a set. -/
def sdel (s : NSet) (x : Nat) : NSet := s.filter (fun y => y != x)

/-- Membership. -/
def smem (s : NSet) (x : Nat) : Bool := s.contains x

/-- Numbers rise strictly from `lo`. -/
def swfFrom : Nat → NSet → Bool
  | _, [] => true
  | lo, x :: s => decide (lo ≤ x) && swfFrom (x + 1) s

/-- Change the first element that satisfies a test. -/
def updFirst (p : α → Bool) (f : α → α) : List α → List α
  | [] => []
  | x :: xs => if p x then f x :: xs else x :: updFirst p f xs

/-- Change the element at an index. -/
def updAt (f : α → α) : List α → Nat → List α
  | [], _ => []
  | x :: xs, 0 => f x :: xs
  | x :: xs, n + 1 => x :: updAt f xs n

end Sys2Proof.Machine
end

