-- ==== Sys2Proof/Machine/SkeinState.lean ====
section
/-! DEFINITION. What a skein holds: control-core state, tile tokens, matrix jobs, strands, streams, near-bank words
(05_control_core.md, 06_matrix_vector.md, 08_near_bank.md, 10_streams.md, 16_media.md). -/

namespace Sys2Proof.Machine

/-- A stream descriptor, read from its 64 bytes (Table Streams-2). -/
structure StreamDesc where
  dir        : Nat
  space      : Nat
  buf        : Nat
  convert    : Bool
  persistent : Bool
  hint       : Nat
  srcFmt     : Nat
  dstFmt     : Nat
  rnd        : Nat
  sat        : Bool
  armings    : Nat
  off        : Nat
  ring       : Nat
  ringLen    : Nat
  counts     : List Nat
  strides    : List Int
  step       : Int
  deriving DecidableEq, Repr

/-- The range of an NB stream that one word took (R303). -/
structure NbRange where
  start : Nat
  len   : Nat
  /-- Its results have been delivered. -/
  done  : Bool
  deriving DecidableEq, Repr

/-- An open stream (10_streams.md Model). -/
structure Stream where
  desc    : StreamDesc
  /-- Host-side offset with the value added at open. -/
  base    : Nat
  /-- Ring base with the value added at open. -/
  ring    : Nat
  armings : Nat
  /-- Watermark W of IN and NB streams, sent mark S of OUT streams. -/
  w       : Nat
  /-- Release mark Q of IN and NB streams, ready mark M of OUT streams. -/
  q       : Nat
  /-- Bytes present beyond W (R294). -/
  present : NSet
  /-- Conversion flags of delivered units that Q has not passed (R302). -/
  flags   : NMap Flags
  ranges  : List NbRange
  deriving DecidableEq, Repr

/-- A request for one tile's token (R169, R170), in issue order. -/
structure TokenReq where
  tile    : Nat
  write   : Bool
  /-- The job or strand group that asked. -/
  owner   : Nat
  granted : Bool
  deriving DecidableEq, Repr

/-- The words that wait for tile tokens as jobs. -/
inductive JobKind where
  | mmul | mmac | tld | tst | tzero | tcvt | tcopy
  deriving DecidableEq, Repr

/-- How far a job has come: its passes are still to deliver; every product is summed and A and B are free (Table Matrix-2); every
element of D is formed and C is free. -/
inductive JobStage where
  | passes
  | summed (sums : List (List DotSum))
  | formed (rows : List (List (Nat × Flags)))
  deriving DecidableEq, Repr

/-- A pass that the folder has issued: the array it stands on, its job and its number (R146, R166). -/
structure PassRun where
  array : Nat
  job   : Nat
  pass  : Nat
  deriving DecidableEq, Repr

/-- A matrix word or tile mover in progress. -/
structure Job where
  id     : Nat
  kind   : JobKind
  word   : TWord
  asplit : BitVec 4
  /-- Units (a chunk by a 32-column block) or, with every array split, quadrant passes that the folder has issued (R146, R182). -/
  dealt  : Nat
  stage  : JobStage
  /-- Passes (arrays) or leaves (MVP) delivered to the chunk holder (R144, R164, R168). -/
  done   : NSet
  deriving DecidableEq, Repr

/-- A word that has just become a job. -/
def Job.fresh (id : Nat) (kind : JobKind) (word : TWord) (asplit : BitVec 4) : Job :=
  { id, kind, word, asplit, dealt := 0, stage := .passes, done := [] }

/-- A strand group (R174 to R180). -/
structure Group where
  id      : Nat
  /-- Word index of its STRGO, named by a strand program fault. -/
  pc      : Nat
  mask    : BitVec 32
  entry   : Nat
  window  : Nat
  winLen  : Nat
  rmask   : BitVec 64
  wmask   : BitVec 64
  started : Bool
  /-- Sticky flags of the words issued before its STRGO (R97 within a strand, log 16). -/
  seen    : Flags
  /-- Flags of its strands that have ended (R180). -/
  flags   : Flags
  /-- Strands still running. -/
  live    : NSet
  deriving DecidableEq, Repr

/-- One strand (06_matrix_vector.md Strands). -/
structure StrandSt where
  /-- The group it runs in; 0 when idle. -/
  group : Nat
  pc    : Nat
  x     : NMap W32
  /-- Lane i of register v at key 32 v + i. -/
  v     : NMap W32
  /-- Flags its own instructions raised. -/
  flags : Flags
  deriving DecidableEq, Repr

/-- A strand that runs nothing. -/
def StrandSt.idle : StrandSt := { group := 0, pc := 0, x := [], v := [], flags := noFlags }

/-- The four near-bank words. -/
inductive NbKind where
  | gp | dot | sa | copy
  deriving DecidableEq, Repr

/-- Where one entry of a near-bank word stands. -/
inductive NbPhase where
  /-- For a step of its bank's BCU. -/
  | waiting
  | computing
  /-- On the controller path, for the end of another step in its bank (R250). -/
  | reading
  | done
  deriving DecidableEq, Repr

/-- One index entry, resolved to its row version (R240, R241). -/
structure NbEntry where
  row   : Nat
  bag   : Nat
  /-- The row's bytes in the version of R265, once they have been read. -/
  bytes : Bytes
  stack : Nat
  lpc   : Nat
  bank  : Nat
  dramRow : Nat
  /-- Byte within the DRAM row, and length. -/
  byte  : Nat
  size  : Nat
  phase : NbPhase
  deriving DecidableEq, Repr

/-- A near-bank word in flight. -/
structure NbWord where
  id      : Nat
  kind    : NbKind
  word    : MWord
  fmt     : Nat
  entries : List NbEntry
  bags    : Nat
  /-- The operand vector: weights, query or scales, as patterns of FB. -/
  vec     : List Nat
  bias    : List Nat
  stream  : Nat
  start   : Nat
  len     : Nat
  /-- Partials that have reached their home stack: 8 × bag + stack (R243). -/
  home    : NSet
  /-- Flags known at issue (an index past the count, R242). -/
  flags   : Flags
  deriving DecidableEq, Repr

/-- A media context or an OPEN that waits for one (16_media.md). -/
structure Media where
  codec   : Nat
  buf     : Nat
  off     : Nat
  len     : Nat
  wMax    : Nat
  hMax    : Nat
  dpb     : Nat
  deep    : Bool
  /-- R504: the context and its buffers have been granted. -/
  granted : Bool
  /-- Frames decoded and not dropped. -/
  decoded : Nat
  /-- Frames taken by NEXT. -/
  taken   : Nat
  /-- The CUR frame's output index. -/
  cur     : Option Nat
  deriving DecidableEq, Repr

/-- The program-visible state of one launch on its skein (Table Core-1) with the units that work for it. -/
structure Core where
  sregs   : NMap W64
  preds   : BitVec 16
  pc      : Nat
  tiles   : NMap W32
  bank    : NMap Byte
  flags   : Flags
  asplit  : BitVec 4
  words   : Nat
  streams : NMap (Option Stream)
  /-- An OUT STMWAIT that has issued and waits: the stream and the sent mark it waits for (R301). -/
  hold    : Option (Nat × Nat)
  tokens  : List TokenReq
  jobs    : List Job
  /-- Passes on the arrays and quadrants. -/
  arrays  : List PassRun
  groups  : List Group
  strands : NMap StrandSt
  nb      : List NbWord
  nextId  : Nat
  emission : Nat
  media   : Option Media
  deriving DecidableEq, Repr

/-- The state at entry, at an entry word (R131, R140). -/
def Core.entry (pc : Nat) : Core :=
  { sregs := [], preds := 0, pc, tiles := [], bank := [], flags := noFlags, asplit := 0, words := 0, streams := [],
    hold := none,
    tokens := [], jobs := [], arrays := [], groups := [], strands := [], nb := [], nextId := 1, emission := 0, media := none }

/-- An execution in a skein's launch queue. -/
structure SkeinCtx where
  launch  : Nat
  ex      : Nat
  core    : Core
  preloaded : Bool
  started : Bool
  deriving DecidableEq, Repr

/-- How a logical skein stands for dispatch (R45, R496 to R498). -/
inductive SkeinMode where
  | absent | good | testing | retiring
  deriving DecidableEq, Repr

/-- A logical skein: its launch queue (front runs), its resident region and its standing. -/
structure SkeinSt where
  mode     : SkeinMode
  queue    : List SkeinCtx
  /-- The accord digest whose resident region it holds (R153). -/
  resident : Option Bytes
  /-- Events that count once its self-test has passed (R496). -/
  events   : Nat
  deriving DecidableEq, Repr

/-- A logical skein that no map names. -/
def SkeinSt.none : SkeinSt := { mode := .absent, queue := [], resident := Option.none, events := 0 }

end Sys2Proof.Machine
end

