-- ==== Sys2Proof/Machine/LaunchState.lean ====
section
/-! DEFINITION. Accords, tenants, launches and their executions as the front end holds them
(01_replay_contract.md, 09_tables_epochs.md Accords, 11_submission.md, 15_integrity.md). -/

namespace Sys2Proof.Machine

/-- An accord in a slot: its identifier, its sections in ascending code and its computation digest (R279). -/
structure Accord where
  id       : Nat
  sections : List (Nat × Bytes)
  digest   : Bytes
  deriving DecidableEq, Repr

/-- One submission ring of a tenant (R321 to R324). -/
structure RingSt where
  enabled  : Bool
  /-- Consumed mark C. -/
  consumed : BitVec 32
  /-- Tail T. -/
  tail     : BitVec 32
  /-- Held cancel mark. -/
  cancel   : BitVec 32
  /-- RING-OVERRUN: admits nothing until disabled and enabled again (R355). -/
  halted   : Bool
  /-- Slots read ahead, by sequence number (R331). -/
  slots    : NMap (Option Bytes)
  /-- Sequence numbers cancelled before they were admitted, C not having reached them yet (R347, R348). -/
  dropped  : NSet
  /-- The slot that passed steps 1 to 7 and waits at step 8: its constant block and replay block. -/
  decided  : Option (Bytes × Bytes)
  /-- Base and entries, as the ring was enabled with them (R323). -/
  base     : Nat
  size     : Nat
  deriving DecidableEq, Repr

/-- A ring that is disabled. -/
def RingSt.off : RingSt :=
  { enabled := false, consumed := 0, tail := 0, cancel := 0, halted := false, slots := [], dropped := [], decided := none,
    base := 0, size := 64 }

/-- An unsealed record that waits to be written (R342, R343). -/
structure Record where
  status : Nat
  /-- RE-EXECUTED; the timestamp quality is added as the record is written. -/
  bits   : Nat
  /-- Bytes 8 to 255, with zeros for the device time. -/
  body   : Bytes
  irq    : Bool
  /-- The launch that holds its in-flight entry until the record is written; 0 where there is none. -/
  launch : Nat
  /-- The splice IDs whose records stand in the journal before it is written (R272). -/
  ids    : List Nat
  /-- MSI-X entry 1 follows it: the ring has halted, or the device does not admit (Table Host-3, R377). -/
  alert  : Bool
  deriving DecidableEq, Repr

/-- A tenant context (11_submission.md Model). -/
structure TenantSt where
  rings    : NMap RingSt
  cqOn     : Bool
  /-- Base and entries of the completion ring, as it was enabled with them (R323). -/
  cqBase   : Nat
  cqSize   : Nat
  /-- Sequence number of the next record. -/
  cqNext   : BitVec 32
  /-- Completion consumed mark. -/
  cqSeen   : BitVec 32
  /-- Finished records, first written first. -/
  finished : List Record
  /-- Completion entries reserved and not yet filled (R345): launch IDs. -/
  reserved : NSet
  /-- Elapsed time from which the next message may leave, and whether one is owed (R346). -/
  nextMsg  : Nat
  owed     : Bool
  /-- Elapsed time of the last change seen in the doorbell entry (R329). -/
  changed  : Option Nat
  /-- Table loss stops admission (R224). -/
  lost     : Bool
  /-- In D3hot (Table Host-4). -/
  d3hot    : Bool
  /-- A tenant reset waits for launches that hold reserved entries (R380). -/
  resetting : Bool
  /-- MSI-X mask and pending bits of its 16 entries (R376). -/
  msixMask : BitVec 16
  msixPend : BitVec 16
  deriving DecidableEq, Repr

/-- A tenant after reset. PRESUMED (log 7): MSI-X vectors are masked, as PCIe itself resets them. -/
def TenantSt.reset : TenantSt :=
  { rings := [], cqOn := false, cqBase := 0, cqSize := 64, cqNext := 0, cqSeen := 0, finished := [], reserved := [], nextMsg := 0, owed := false,
    changed := none, lost := false, d3hot := false, resetting := false, msixMask := 0xFFFF, msixPend := 0 }

/-- What an execution is for (R476). -/
inductive Role where
  | primary | reexec | audit | third
  deriving DecidableEq, Repr

/-- Where an execution stands. -/
inductive ExPhase where
  /-- Waits for a skein. -/
  | waiting
  /-- Queued or running on its skein. -/
  | placed
  /-- Its result is in the result queue (R147). -/
  | result
  /-- Its envelopes have been evaluated (R474). -/
  | checked
  /-- Ended without a result. -/
  | dropped
  deriving DecidableEq, Repr

/-- What an execution must keep away from (Table Integrity-4): logical skeins and logical sections. -/
structure Place where
  skeins   : List Nat
  sections : List Nat
  deriving DecidableEq, Repr

/-- Any skein. -/
def Place.any : Place := ⟨[], []⟩

/-- A splice that an execution emitted (R266, R270): its body, and its splice ID from sequencing until it is recalled. -/
structure Emitted where
  body : Bytes
  id   : Option Nat
  deriving DecidableEq, Repr

/-- A checkpoint image (R487). -/
structure Ckpt where
  core     : Core
  tally    : NMap Nat
  evidence : List Bytes
  deriving DecidableEq, Repr

/-- One execution of a launch. -/
structure Exec where
  role    : Role
  place   : Place
  skein   : Option Nat
  /-- The logical skein it was dispatched to last. -/
  ran     : Nat
  phase   : ExPhase
  /-- Output shadow: byte `off` of buffer `b` at key 2^32 b + off (15 Model). -/
  shadow  : NMap Byte
  /-- Tally area: the 320 bits of each cell (R214). -/
  tally   : NMap Nat
  flags   : Flags
  splices : List Emitted
  /-- Frame digests in consumption order (R22). -/
  evidence : List Bytes
  verdict : Nat
  /-- Program fault: cause and word index (R158). -/
  fault   : Option (Nat × Nat)
  /-- The two checkpoint slots, newest first (R486). -/
  ckpts   : List Ckpt
  /-- It restarts from its newest checkpoint image (R489). -/
  resume  : Bool
  deriving DecidableEq, Repr

/-- A fresh execution. -/
def Exec.fresh (r : Role) (p : Place) : Exec :=
  { role := r, place := p, skein := none, ran := 0, phase := .waiting, shadow := [], tally := [], flags := noFlags, splices := [],
    evidence := [], verdict := 0, fault := none, ckpts := [], resume := false }

/-- Where a launch stands on its way from admission to its record. -/
inductive Stage where
  /-- Its executions run or are being compared. -/
  | running
  /-- The checker has chosen the execution to seal, by index (R480). -/
  | decided (ex : Nat)
  /-- The seal is formed (R18). -/
  | sealed (ex : Nat)
  /-- Its OUTCOME is staged, or it emitted no splice (R445). -/
  | outcome (ex : Nat)
  /-- Its record waits in its tenant's completion queue. -/
  | finished
  deriving DecidableEq, Repr

/-- A launch in the in-flight table. -/
structure Launch where
  id      : Nat
  tenant  : Nat
  ring    : Nat
  seq     : BitVec 32
  desc    : Bytes
  lcb     : Bytes
  /-- The replay block, empty when REPLAY is clear. -/
  replay  : Bytes
  /-- Held bytes of each input buffer; their length is the hold mark H (R313). -/
  held    : List Bytes
  epoch   : Nat
  head    : Bytes
  /-- The accord it is bound to (R32). -/
  accord  : Accord
  /-- Selected for audit (R483). -/
  audit   : Bool
  /-- Watchdog in µs and device-elapsed ns at admission (R350). -/
  watchdog : Nat
  admitted : Nat
  execs   : List Exec
  stage   : Stage
  reexecuted : Bool
  audited : Bool
  /-- A primary execution has been discarded: nothing writes the host's buffers directly (R476). -/
  discarded : Bool
  digestSeal : Bytes
  /-- The splice IDs that its executions' splices have been given. -/
  ids     : List Nat
  /-- Cursor of the copy of its outputs: buffer and byte (R317, R477). -/
  copied  : Nat × Nat
  deriving DecidableEq, Repr

end Sys2Proof.Machine
end

