-- ==== Sys2Proof/Machine/DeviceState.lean ====
section
/-! DEFINITION. The rest of the device's state: front end, tables, stacks, boundary, group and ports, journal, integrity,
media, host interface, boot, clocks, telemetry, module. -/

namespace Sys2Proof.Machine

/-! ### Outputs -/

/-- One request to host memory: the function, its PASID (R320), the address, and the relaxed-ordering attribute (Table Host-1). -/
structure HostReq where
  fn      : Nat
  pasid   : Nat
  addr    : Nat
  relaxed : Bool
  deriving DecidableEq, Repr

/-- What the chip sends, newest first in `State.out`. -/
inductive Out where
  /-- A request for the translation of a 4 KiB page through ATS (R370). -/
  | translate (fn : Nat) (pasid : Nat) (page : Nat)
  /-- A DMA read of some bytes; its answer comes with the command that makes it. -/
  | read (req : HostReq) (len : Nat)
  /-- A DMA write. -/
  | dma (req : HostReq) (data : Bytes)
  /-- A completion record: bytes 8 to 255 first, then bytes 0 to 7 (R344). -/
  | record (req : HostReq) (tail head : Bytes)
  | msix (fn : Nat) (entry : Nat)
  /-- A page request: its own Page Request Group, and the Last bit (R372). -/
  | pageRequest (fn : Nat) (pasid : Nat) (page : Nat) (group : Nat) (last : Bool)
  | invalidationDone (fn : Nat) (page : Nat)
  | frame (port : Nat) (data : Bytes)
  /-- A PCIe completion with data; none is Unsupported Request (R587). -/
  | completion (fn : Nat) (data : Option Bytes)
  | completerAbort (fn : Nat)
  | requestRetry (fn : Nat)
  /-- A configuration request answered, with what it read. -/
  | configured (fn : Nat) (answer : List Nat)
  | tokenQuery (group : Nat)
  | pin (name : Nat) (level : Bool)
  | spdm (data : Bytes)
  deriving DecidableEq, Repr

/-- One access a function's page request waits for (R315, R317). -/
inductive Transfer where
  | hold (buf : Nat)
  | outStream (ex stream : Nat)
  /-- The copy of the sealed execution's shadow over output buffer `buf`, at byte `off` (R477). -/
  | copy (buf off : Nat)
  deriving DecidableEq, Repr

/-- A page fault with its page request (R372, R373). -/
structure PageReq where
  fn     : Nat
  page   : Nat
  /-- Its Page Request Group index, once sent (R372). -/
  group  : Nat
  launch : Nat
  what   : Transfer
  /-- Elapsed time at which it times out, set at the fault (R373, R595). -/
  due    : Nat
  /-- Sent to the host; a fault beyond the PRI allocation waits. -/
  sent   : Bool
  /-- Timed out or abandoned: it holds its place until its response, which is discarded. -/
  dead   : Bool
  deriving DecidableEq, Repr

/-! ### Front end and tables -/

/-- A splice in the splice queue: owner launch (0 for a table-control splice) and execution, emission index, body. -/
structure Queued where
  launch : Nat
  ex     : Nat
  index  : Nat
  body   : Bytes
  deriving DecidableEq, Repr

/-- A retaining device reset that waits for its step 5 (R357, R553): the hung launch (0 for none), when it began, and its
persistence cause (Table Host-5). -/
structure Hang where
  launch : Nat
  start  : Nat
  cause  : Nat
  deriving DecidableEq, Repr

/-- State codes of FE_ACCORD_STAGE and FE_TABLE_CTRL are held as the register reads them (Table Reg-3). -/
structure FrontSt where
  /-- Current epoch C. -/
  epoch    : BitVec 64
  /-- H(C). -/
  head     : Bytes
  headLatch : Bytes
  nextId   : BitVec 64
  /-- The highest block of launch IDs durably reserved (R340). -/
  idBlock  : Option Nat
  /-- Front end ready, polling and admitting commands served (R67, R357). -/
  polling  : Bool
  /-- Elapsed time of the last poll (R329). -/
  lastPoll : Option Nat
  /-- The submission ring served last: 4 × tenant + ring (R339). -/
  turn     : Nat
  hang     : Option Hang
  stageState : Nat
  tableState : Nat
  /-- Splice ID of the table-control splice tenant 0 asked for. -/
  tableSplice : Option Nat
  /-- Splice queue (R56), first in first out. -/
  queue    : List Queued
  /-- Own splice counter, 59 bits (R267). -/
  counter  : Nat
  accordCur : Option Accord
  accordPrev : Option Accord
  accordStaged : Option Accord
  /-- Where the program images of the current, previous and staged slot lie in the accord area: its part 0, 1 or 2 (R161, log
  95). -/
  areas    : Nat × Nat × Nat
  deriving DecidableEq, Repr

/-- One version of a subject's sequence (R283): events appended, and the visible events, oldest first. -/
structure SeqVer where
  count  : Nat
  events : List Bytes
  deriving DecidableEq, Repr

/-- A subject of a SEQUENCE table with its two planes, and the events appended in the set being applied (R277). -/
structure Subject where
  p0 : SeqVer
  p1 : SeqVer
  inSet : Nat
  deriving DecidableEq, Repr

/-- An empty subject. -/
def Subject.empty : Subject := { p0 := ⟨0, []⟩, p1 := ⟨0, []⟩, inSet := 0 }

/-- A registered or retired table (R262, R265, R632). The plane map lies in device memory. -/
structure Table where
  desc    : Bytes
  /-- Epoch from which it is registered, and from which it is retired. -/
  since   : Nat
  retired : Option Nat
  /-- Young set of the current boundary and the pending young set. -/
  young   : NSet
  pending : NSet
  subjects : NMap Subject
  /-- Rebuild failed: TABLE-LOST (R224). -/
  lost    : Bool
  deriving DecidableEq, Repr

/-- Steps of a boundary in progress (Table Tables-5). -/
inductive BStep where
  | gather | drain | apply | record
  deriving DecidableEq, Repr

/-- A boundary in progress. -/
structure Boundary where
  step     : BStep
  /-- The manifest's bytes and its splice IDs in order. -/
  manifest : Bytes
  ids      : List Nat
  /-- The swap the manifest names: accord identifier and digest. -/
  swap     : Option (Nat × Bytes)
  position : Nat
  refused  : List Nat
  /-- When FE_BOUNDARY_LIMIT, as step 1 sampled it, is over (R288, R595). -/
  due      : Nat
  /-- Ports asked for bodies of the set so far (R427, R288). -/
  asked    : Nat
  deriving DecidableEq, Repr

/-! ### Stacks -/

/-- A row-cache line. -/
structure CacheLine where
  line : Nat
  keep : Bool
  use  : Nat
  deriving DecidableEq, Repr

/-- A write-combining entry (R206): the line, its masked bytes by offset, and when it was last written. -/
structure WcEntry where
  line : Nat
  data : NMap (Option Byte)
  /-- Elapsed time of the last write, and the function that made it. -/
  since  : Nat
  fn     : Nat
  /-- Its flush has been asked for and waits for a near-bank step in its bank (R229, R252). -/
  due    : Bool
  deriving DecidableEq, Repr

/-- The entry of a near-bank word that a bank computes: launch, execution, word and entry. -/
structure StepOwner where
  launch : Nat
  ex     : Nat
  word   : Nat
  entry  : Nat
  deriving DecidableEq, Repr

/-- A near-bank step in progress (R228). -/
structure NbStep where
  lpc   : Nat
  bank  : Nat
  /-- The physical pseudo-channel whose BCU computes (R254). -/
  phys  : Nat
  /-- The table row it reads: DRAM row, byte within it and length. -/
  row   : Nat
  byte  : Nat
  size  : Nat
  /-- The entry it serves; none when its execution has been discarded (R253), or it has been aborted. -/
  owner : Option StepOwner
  /-- Elapsed time at which it was written to NB-STEP (R258). -/
  since : Nat
  /-- Elapsed time at which it was aborted through VMR0 (R258). -/
  aborted : Option Nat
  /-- Elapsed time at which NB-STATUS first showed its end in ready mode, with no frame yet (R260). -/
  ended : Option Nat
  deriving DecidableEq, Repr

/-- A normal access that waits for a near-bank step in its bank (R250, R251): a host read by function and striped addresses; a
word of an execution; an entry of a near-bank word on the controller path. -/
inductive Waiter where
  | host (fn : Nat) (addrs : List Nat)
  | word (launch ex : Nat)
  | entry (o : StepOwner)
  deriving DecidableEq, Repr

/-- A waiting access at a bank: 16 × logical pseudo-channel + bank. -/
structure Held where
  bank : Nat
  what : Waiter
  deriving DecidableEq, Repr

/-- A pseudo-channel rebuild (R226): lines below the cursor have been copied. -/
structure PcRebuild where
  lpc    : Nat
  target : Nat
  cursor : Nat
  deriving DecidableEq, Repr

/-- Accepted tally addends of one execution (R217): launch, execution, cell and value pattern with its type. -/
structure Addend where
  launch : Nat
  ex     : Nat
  cell   : Nat
  kind   : AddKind
  value  : Nat
  deriving DecidableEq, Repr

/-- One stack and its controller. -/
structure StackSt where
  /-- Physical pseudo-channel of each logical one (R193). -/
  pcMap   : List Nat
  spares  : List Nat
  /-- Rebuilds onto spares, the first of them running. -/
  rebuild : List PcRebuild
  /-- Pseudo-channels being retrained with the cause, and when each was last trained (R543, R544). -/
  retraining : Option (Nat × RetrainCause)
  trained : NMap Int
  cache   : NMap (List CacheLine)
  /-- Last-use ledger: launch, line and remaining count (R202). -/
  ledger  : List (Nat × Nat × Nat)
  wc      : List WcEntry
  steps   : List NbStep
  /-- Normal accesses that wait for a step's end (R250). -/
  held    : List Held
  ready   : Bool
  revision : BitVec 4
  buffer  : BitVec 8
  /-- Fenced BCUs: 16 × physical pseudo-channel + bank. -/
  fenced  : NSet
  addends : List Addend
  /-- Corrected errors of the last second: pseudo-channel and elapsed time (R544). -/
  corrected : List (Nat × Nat)
  /-- Bursts whose corrected error has been rewritten, so that a second one is a memory event (R222). -/
  rewritten : NSet
  selfRefresh : Bool
  clean   : Bool
  deriving DecidableEq, Repr

/-- A stack after reset. DESIGN CHOICE (log 8): identity map with spares 30 and 31, polled mode. -/
def StackSt.reset : StackSt :=
  { pcMap := List.range 30, spares := [30, 31], rebuild := [], retraining := none, trained := [], cache := [],
    ledger := [], wc := [], steps := [], held := [], ready := false, revision := 0, buffer := 0, fenced := [], addends := [],
    corrected := [], rewritten := [], selfRefresh := false, clean := false }

/-! ### Group and ports -/

/-- What the chip knows of one splice ID (R419 to R421). -/
structure SpliceRec where
  id    : Nat
  /-- Its body, while the chip holds it as a durable record. -/
  body  : Option Bytes
  /-- 0 provisional, 1 seized, 2 recalled (Table Tables-3). -/
  state : Nat
  /-- A manifest lists it. -/
  listed : Bool
  /-- Applied in a committed set. -/
  applied : Bool
  deriving DecidableEq, Repr

/-- A member's last REPORT: the epoch, head and staged accord it carried (R428), and when it arrived. -/
structure Report where
  member : Nat
  body   : Bytes
  since    : Nat
  deriving DecidableEq, Repr

/-- A VOTE: its payload (Table Lanyard-4). -/
structure VoteRec where
  term      : Nat
  candidate : Nat
  voter     : Nat
  body      : Bytes
  deriving DecidableEq, Repr

/-- The replica group as this chip sees it (13_lanyards.md). -/
structure GroupSt where
  term    : Nat
  anchor  : Nat
  votes   : List VoteRec
  /-- Highest term this member has voted in, and how often the term has failed for it (R432). -/
  votedTerm : Nat
  reports : List Report
  /-- Manifest chunks received: epoch, term, count, index and bytes. -/
  chunks  : List (Nat × Nat × Nat × Nat × Bytes)
  /-- The manifest held for the next boundary, empty when none is. -/
  manifest : Bytes
  /-- The manifest the anchor has issued and not yet confirmed, empty when none is, and the members whose MANIFEST-ACK for it the
  anchor holds. -/
  issuing : Bytes
  acks    : NSet
  /-- The manifest a new anchor still has to issue again: epoch, term and digest (R433). -/
  reissue : Option (Nat × Nat × Bytes)
  /-- A CONFIRM for epoch and digest that arrived before its manifest. -/
  confirm : Option (Nat × Bytes)
  /-- Splices known, in ascending ID. -/
  known   : List SpliceRec
  /-- Records of other types already received: type, sender, epoch, term (R417). -/
  heard   : List (Nat × Nat × Nat × Nat)
  /-- Elapsed time of the last confirmed manifest or failed term, and FE_EPOCH_PERIOD and LNY_ANCHOR_TIMEOUT in ns as the last
  confirmed manifest sampled them; when the anchor's next close is due (R423, R432, Table Reg-13). -/
  lastConfirm : Nat
  epochWait : Nat
  anchorWait : Nat
  closeDue : Nat
  /-- Digest of the manifest applied last (R435). -/
  applied : Bytes
  /-- The chip stands behind its group: 0 no, 1 BOUNDARY-BEHIND, 2 CHAIN-MISMATCH (R288, R289). -/
  behind  : Nat
  /-- A swap that a boundary named and this chip's staged slot did not hold (R630). -/
  owedSwap : Option (Nat × Bytes)
  /-- Request ID of the next FETCH, the turn of the port it goes to, the lines asked for and not yet answered (request ID and
  line), and the manifests asked for (port and epoch). -/
  fetchId : Nat
  turn    : Nat
  fetches : List (Nat × Nat)
  asked   : List (Nat × Nat)
  /-- Tables that are resynchronised from a replica, by handle, and their lines still to come (R273, R288, R387). -/
  resync  : List Nat
  lines   : List Nat
  /-- LNY_MEMBER has been written since the last reset (13_lanyards.md At start-up, log 57). -/
  memberSet : Bool
  deriving DecidableEq, Repr

/-- Port states (Table Reg-7). -/
inductive PortMode where
  | down | training | hello | up | quarantined | outOfService
  deriving DecidableEq, Repr

/-- A sequenced frame kept until the partner has acknowledged it and reported it staged (R409, R412). -/
structure SentFrame where
  seq     : Nat
  kind    : Nat
  flags   : Nat
  sender  : Nat
  payload : Bytes
  acked   : Bool
  staged  : Bool
  /-- When its replication timer ends, by LNY_REPL_TIMEOUT as its first transmission sampled it (R595), moved on by the time its
  first retry episode paused it (R430). -/
  due     : Nat
  excused : Bool
  deriving DecidableEq, Repr

/-- A sequenced frame that waits for credit or window; `sender` is the member that originated its record (log 38). -/
structure Outgoing where
  kind    : Nat
  flags   : Nat
  sender  : Nat
  payload : Bytes
  deriving DecidableEq, Repr

/-- A retry episode (R411): go-backs so far, when it began, and the frames sent before it began. -/
structure Episode where
  goBacks : Nat
  start   : Nat
  covers  : List Nat
  deriving DecidableEq, Repr

/-- A lanyard port. -/
structure PortSt where
  mode    : PortMode
  partner : Nat
  lanes   : Nat
  /-- The lanes in use (R439). -/
  used    : BitVec 8
  retired : BitVec 8
  /-- Own and partner random values (R399). -/
  own     : Bytes
  theirs  : Bytes
  /-- Transmission counter of the next frame; that of the last frame accepted, none yet in this session (R407). -/
  txCount : Nat
  rxCount : Option Nat
  keyEpoch : Nat
  /-- Sequence number of the next frame sent, and of the next one expected. -/
  txSeq   : Nat
  rxSeq   : Nat
  sent    : List SentFrame
  /-- Frames that wait for credit or window. -/
  waiting : List Outgoing
  /-- Units the partner still grants: REPLICATION, REBUILD (R413). -/
  credits : Nat × Nat
  /-- Units of the partner's frames accepted and not yet staged or written. -/
  held    : Nat × Nat
  /-- Units to return in the next LINK. -/
  owed    : Nat × Nat
  /-- Sequence number of the last frame whose records are staged. -/
  through : Nat
  /-- A LINK is owed, and whether it carries a NAK. -/
  linkOwed : Bool
  nak     : Bool
  /-- The partner has sent a NAK (R410). -/
  goBack  : Bool
  episode : Option Episode
  /-- Last progress: an acknowledgment or the first unacknowledged send (R410). -/
  progress : Nat
  violations : BitVec 64
  /-- Elapsed times of the violations of the last second (R437). -/
  recent  : List Nat
  /-- Elapsed time of the last HELLO sent, and the HELLO accepted. -/
  helloAt : Option Nat
  accepted : Bool
  /-- LINK frames received in the microsecond at an elapsed time. -/
  links   : Nat × Nat
  /-- Epoch and term that the last MANIFEST chunk 0 received on the port named (log 38). -/
  naming  : Option (Nat × Nat)
  deriving DecidableEq, Repr

/-- A port after reset. -/
def PortSt.reset : PortSt :=
  { mode := .down, partner := 0, lanes := 0, used := 0, retired := 0, own := [], theirs := [], txCount := 0, rxCount := none,
    keyEpoch := 0, txSeq := 0, rxSeq := 0, sent := [], waiting := [], credits := (0, 0), held := (0, 0), owed := (0, 0),
    through := 0, linkOwed := false, nak := false, goBack := false, episode := none, progress := 0, violations := 0, recent := [],
    helloAt := none, accepted := false, links := (0, 0), naming := none }

/-! ### Journal -/

/-- A journal record before it has its sequence number. -/
structure JrnRecord where
  kind : Nat
  body : Bytes
  deriving DecidableEq, Repr

/-- Records staged in one write (R445), with the port, frame sequence number and units of the frame that brought them. -/
structure JrnWrite where
  recs  : List JrnRecord
  frame : Option (Nat × Nat × Nat)
  /-- They go on to the other ports; a reply to FETCH does not (Table Lanyard-4). -/
  spread : Bool := true
  deriving DecidableEq, Repr

/-- A ring segment (R442). -/
structure Segment where
  serial   : Nat
  data     : Bytes
  closed   : Bool
  exported : Bool
  damaged  : Bool
  deriving DecidableEq, Repr

/-- A base-note or registration image in the base area (R450, R453). -/
structure Image where
  first  : Nat
  epoch  : Nat
  head   : Bytes
  /-- Serial of the segment that holds the BOUNDARY record of its epoch (R450). -/
  from_  : Nat
  bytes  : Bytes
  registration : Bool
  deriving DecidableEq, Repr

/-- One table of the replay arena (R458, R459): its descriptor and its content by index. -/
structure ArenaTable where
  desc  : Bytes
  /-- Rows (s bytes) or cells (40 bytes) by index; none where the touch list left one out. -/
  rows  : NMap (Option Bytes)
  /-- Sequences by subject: count A and the visible events. -/
  seqs  : NMap (Option SeqVer)
  deriving DecidableEq, Repr

/-- An arena load or its outcome (R458). -/
structure ArenaSt where
  /-- JRN_ARENA_STATUS.STATE. -/
  state  : Nat
  reason : Nat
  epoch  : BitVec 64
  head   : Bytes
  headLatch : Bytes
  request : BitVec 64
  tables : List ArenaTable
  deriving DecidableEq, Repr

/-- The journal controller. -/
structure JournalSt where
  covered  : BitVec 27
  /-- Writes that wait for staging. -/
  waiting  : List JrnWrite
  /-- Accepted records not yet in flash, oldest first. -/
  staged   : List JrnRecord
  nextSeq  : Nat
  identity : Bytes
  /-- Serial of the next segment. -/
  serial   : Nat
  /-- Trailer digest of the segment sealed last (R442). -/
  lastTrailer : Bytes
  ring     : List Segment
  images   : List Image
  full     : Bool
  stopped  : Bool
  /-- Superblock updates so far. -/
  superblocks : Nat
  exportState : Nat
  exportDone  : BitVec 64
  /-- Export in progress: of an image, its serial or first base segment, and the host address, as sampled at its start (R591). -/
  exporting : Option (Bool × Nat × Nat)
  /-- Drydown in progress: its target epoch, and whether it copies the live tables. -/
  drydown  : Option (Nat × Bool)
  /-- Elapsed time of the last image. -/
  lastImage : Nat
  arena    : ArenaSt
  /-- The power-fail sequence runs (R446). -/
  powerFail : Bool
  deriving DecidableEq, Repr

/-! ### Host, boot, clocks, telemetry, module -/

/-- An error-log entry without its number (Table Reg-14). -/
structure LogEntry where
  time   : BitVec 64
  code   : Nat
  tenant : Nat
  detailA : BitVec 64
  detailB : BitVec 32
  quality : BitVec 2
  deriving DecidableEq, Repr

/-- Event counting of one channel (R494): device times of its events. -/
structure Channel where
  kind  : Nat
  index : Nat
  times : List Nat
  permanent : Bool
  deriving DecidableEq, Repr

/-- Integrity counters (Table Reg-9). -/
structure IntegritySt where
  channels : List Channel
  audited  : BitVec 64
  silent   : BitVec 64
  deriving DecidableEq, Repr

/-- The evidence media decoder (16_media.md). -/
structure MediaSt where
  /-- Engines in service (R517, R518). -/
  engines : NSet
  deriving DecidableEq, Repr

/-- An entry of the address-translation cache: function, PASID, first 4 KiB page, pages and write permission (R370). -/
structure Translation where
  fn       : Nat
  pasid    : Nat
  page     : Nat
  pages    : Nat
  writable : Bool
  deriving DecidableEq, Repr

/-- What the host sets in a function's configuration space, as far as the manual gives it a use (Table Host-1, R372 to R374). -/
structure FnConfig where
  /-- Outstanding page requests that the host allots. -/
  priAlloc : Nat
  priOn    : Bool
  /-- Max payload and max read request in bytes. -/
  payload  : Nat
  readReq  : Nat
  /-- Relaxed ordering may be set. -/
  relaxed  : Bool
  /-- AER counts: poisoned writes and other errors that cannot be corrected, and corrected ones, which no command reports (R393,
  log 101). -/
  uncorrectable : Nat
  correctable   : Nat
  deriving DecidableEq, Repr

/-- A function's configuration before the host has written it. DESIGN CHOICE (log 23): PRI is on with its largest allocation, sizes
stand at the largest that Table Host-1 names, and relaxed ordering is on. -/
def FnConfig.reset : FnConfig :=
  { priAlloc := 256, priOn := true, payload := 512, readReq := 4096, relaxed := true, uncorrectable := 0, correctable := 0 }

/-- The host interface (12_host.md). -/
structure HostSt where
  /-- Address-translation cache, newest first (R370). -/
  atc      : List Translation
  requests : List PageReq
  failed   : NSet
  rate     : BitVec 4
  width    : BitVec 5
  persist  : Bytes
  ptmFails : Nat
  ptmAt    : Nat
  /-- A PCIe reset holds the chip in retention (R381). -/
  down     : Bool
  linkUp   : Bool
  /-- PF BAR2 has its full-view size. -/
  fullView : Bool
  /-- Configuration space by function, and NumVFs. -/
  config   : NMap FnConfig
  numVfs   : Nat
  deriving DecidableEq, Repr

/-- Boot phases (Table Boot-5), by the code GLB_STATUS reads. -/
abbrev Phase := BitVec 4

/-- Global state and boot (17_bringup.md). -/
structure GlobalSt where
  phase    : Phase
  retained : Bool
  locked   : Bool
  /-- GLB_STATUS.CONDITION bits (Table Reg-2). -/
  conds    : BitVec 8
  /-- Admission stopped until a cause clears. -/
  stopped  : NSet
  fwState  : Nat
  holdState : Nat
  attach   : Nat
  bootAt   : Nat
  running  : Nat
  deriving DecidableEq, Repr

/-- Boot flash (R519 to R522, R532). -/
structure FlashSt where
  bcb0   : Bytes
  bcb1   : Bytes
  slotA  : Bytes
  slotB  : Bytes
  map0   : Bytes
  map1   : Bytes
  store0 : Bytes
  store1 : Bytes
  certs  : Bytes
  deriving DecidableEq, Repr

/-- Fuses (17_bringup.md Model). -/
structure FuseSt where
  keys    : List Bytes
  revoked : BitVec 4
  counter : Nat
  map     : Bytes
  deriving DecidableEq, Repr

/-- The defect map in force (R523), as far as no other part of the state holds it: pseudo-channel maps and fenced BCUs stand
with the stacks, lanes with the ports, links with the weave. -/
structure DefectSt where
  /-- Physical skeins left out or retired. -/
  skeins  : NSet
  /-- Media engines out of service. -/
  engines : NSet
  /-- Logical pseudo-channels that failed with no spare left (R529): 32 × stack + number. -/
  failed  : NSet
  deriving DecidableEq, Repr

/-- Clocks and resets (18_reset_clocks.md). -/
structure ClockSt where
  time    : BitVec 64
  /-- Elapsed time in ns, whatever steps device time takes (R565); the model's clock, never reset. -/
  elapsed : Nat
  /-- Picoseconds of a negative step still to be absorbed, of a correction still to be slewed, and below the nanosecond (R564). -/
  debt    : Nat
  slew    : Int
  frac    : Nat
  quality : BitVec 2
  qualityLatch : BitVec 2
  lockedOnce : Bool
  good    : Nat
  nextSet : Option (BitVec 64)
  lastPps : Option Nat
  /-- The next TBPPS edge steps device time to a whole second (R566). -/
  stepDue : Bool
  /-- References in trip, by bit of CLK_REF_STATUS, and their recent trips with elapsed times. -/
  tripped : BitVec 12
  trips   : List (Nat × Nat)
  holdover : Bool
  /-- Elapsed time at which the quality became HOLDOVER. -/
  qualityAt : Nat
  /-- The second on-die oscillator is the one in use (R571). -/
  odo     : Bool
  armed   : Option Nat
  cause   : BitVec 8
  level   : BitVec 8
  deriving DecidableEq, Repr

/-- Telemetry (19_long_run.md, 20_registers.md). -/
structure TelemetrySt where
  /-- The 4,096 error-log slots by entry number mod 4,096. -/
  log    : NMap (Option (Nat × LogEntry))
  next   : Nat
  drop   : Nat
  /-- Performance counters by index, 48 bits each (Table Reg-12). -/
  counters : NMap Nat
  /-- Temperatures and power last reported. -/
  die    : Int
  stack  : Int
  power  : Nat
  deriving DecidableEq, Repr

/-- Weave (02_architecture.md Faults). -/
structure WeaveSt where
  lsm     : List Nat
  retire  : BitVec 128
  permanent : NSet
  events  : List (Nat × Nat)
  swapped : NSet
  pendingSwap : NSet
  deriving DecidableEq, Repr

/-- The TQ40-M module (21_module.md). -/
structure ModuleSt where
  energy  : Nat
  reportAt : Nat
  powered : Bool
  warning : Bool
  overPower : Bool
  pwrbrk  : Bool
  /-- Derating actions in force, by row of Table Module-5. -/
  derates : NSet
  thermClass : BitVec 2
  /-- Bytes written to the journal flash, and its temperature in °C. -/
  wear    : Nat
  flashTemp : Int
  deriving DecidableEq, Repr

end Sys2Proof.Machine
end

