-- ==== Sys2Proof/Machine/State.lean ====
section
/-! DEFINITION. The state of the block, its faults and refusals, and its state after reset. -/

namespace Sys2Proof.Machine

/-- Why a command could stop the block. No command of the table does: the manual gives every one an effect. -/
inductive Fault where
  /-- Raised by nothing in this model. Safe. -/
  | unraised
  deriving DecidableEq, Repr

/-- Why a command could be refused. -/
inductive Refusal where
  /-- A command whose meaning has not been written, by its mnemonic. Safe: nothing is proved of it. -/
  | notModelled (mnemonic : String)
  deriving DecidableEq, Repr

/-- The whole state. -/
structure State where
  /-- Commands waiting, first in first out. -/
  pending : List Instr
  /-- What the chip has sent, newest first. -/
  out     : List Out
  /-- Counter that names the next free value; the model's own field (log 3). -/
  free    : Nat
  glb     : GlobalSt
  flash   : FlashSt
  fuses   : FuseSt
  defects : DefectSt
  curves  : List CurveFile
  /-- BAR0 fields that software writes, by register offset and low bit: 64 × offset + bit (20_registers.md). -/
  regs    : NMap (Option Nat)
  fe      : FrontSt
  tenants : NMap TenantSt
  launches : List Launch
  skeins  : NMap SkeinSt
  weave   : WeaveSt
  /-- Device memory, by striped address; an unlisted byte reads 0. -/
  mem     : NMap Byte
  /-- Uncorrectable bursts, by burst number (R625), and who read a lost line: line and launch (R223). -/
  lostBursts : NSet
  lostReaders : List (Nat × Nat)
  hbmStacks : NMap StackSt
  tables  : List Table
  boundary : Option Boundary
  group   : GroupSt
  ports   : NMap PortSt
  jrn     : JournalSt
  itg     : IntegritySt
  emd     : MediaSt
  hst     : HostSt
  clk     : ClockSt
  tlm     : TelemetrySt
  mdl     : ModuleSt
  deriving DecidableEq, Repr

/-! ### After reset -/

/-- Front end: epoch 0 with a head of 32 zero bytes (R278), numbering at ID 1 (R340), empty slots. -/
def FrontSt.reset : FrontSt :=
  { epoch := 0, head := List.replicate 32 0, headLatch := List.replicate 32 0, nextId := 1, idBlock := none,
    polling := false, hang := none, stageState := 0, tableState := 0, tableSplice := none,
    lastPoll := none, turn := 511,
    queue := [], counter := 0, accordCur := none, accordPrev := none, accordStaged := none,
    areas := (0, 1, 2) }

/-- No group: term 0 and anchor 0 (LNY_TERM); the waits are those of the registers' reset values (log 103). -/
def GroupSt.reset : GroupSt :=
  { term := 0, anchor := 0, votes := [], votedTerm := 0, reports := [], chunks := [], manifest := [], issuing := [], acks := [], reissue := none,
    confirm := none, known := [], heard := [], lastConfirm := 0, epochWait := 50000000, anchorWait := 100000000, closeDue := 50000000,
    applied := [], behind := 0, owedSwap := none,
    fetchId := 0, turn := 0, fetches := [], asked := [], resync := [], lines := [], memberSet := false }

/-- No arena. -/
def ArenaSt.reset : ArenaSt :=
  { state := 0, reason := 0, epoch := 0, head := List.replicate 32 0, headLatch := List.replicate 32 0, request := 0,
    tables := [] }

/-- Journal controller. DESIGN CHOICE (log 9): a journal identity of zeros, an empty ring. -/
def JournalSt.reset : JournalSt :=
  { covered := 0, waiting := [], staged := [], nextSeq := 0, identity := List.replicate 16 0, serial := 0,
    lastTrailer := List.replicate 32 0, ring := [], images := [], full := false, stopped := false,
    superblocks := 0, exportState := 0, exportDone := 0, exporting := none, drydown := none, lastImage := 0,
    arena := ArenaSt.reset, powerFail := false }

/-- Host interface: no link, the NONE persistence record. -/
def HostSt.reset : HostSt :=
  { atc := [], requests := [], failed := [], rate := 0, width := 0, persist := [], ptmFails := 0,
    ptmAt := 0, down := false, linkUp := false, fullView := true, config := [], numVfs := 0 }

/-- Global state: phase ROM, waiting for an attach decision (Tables Boot-5, Reg-2). -/
def GlobalSt.reset : GlobalSt :=
  { phase := 0, retained := false, locked := false, conds := 0, stopped := [], fwState := 0, holdState := 0, attach := 0,
    bootAt := 0, running := 0 }

/-- DESIGN CHOICE (log 5): erased boot flash and unprogrammed fuses. -/
def FlashSt.reset : FlashSt :=
  { bcb0 := [], bcb1 := [], slotA := [], slotB := [], map0 := [], map1 := [], store0 := [], store1 := [], certs := [] }

/-- DESIGN CHOICE (log 5): four zero key digests, none revoked, security counter 0, empty factory map. -/
def FuseSt.reset : FuseSt :=
  { keys := List.replicate 4 (List.replicate 48 0), revoked := 0, counter := 0, map := [] }

/-- No defect map in force. -/
def DefectSt.reset : DefectSt :=
  { skeins := [], engines := [], failed := [] }

/-- Device time 0, FREE-RUNNING, full device reset by power-on (R564, R567, RST_LAST). -/
def ClockSt.reset : ClockSt :=
  { time := 0, elapsed := 0, debt := 0, slew := 0, frac := 0, quality := 2, qualityLatch := 2, lockedOnce := false, good := 0,
    nextSet := none, lastPps := none, stepDue := true, tripped := 0, trips := [], holdover := false, qualityAt := 0,
    odo := false, armed := none, cause := 0x07, level := 0x5 }

/-- An empty error log whose first entry is number 1 (R578). -/
def TelemetrySt.reset : TelemetrySt :=
  { log := [], next := 1, drop := 0, counters := [], die := 0, stack := 0, power := 0 }

/-- No map loaded: every logical skein absent (WV_LSM). -/
def WeaveSt.reset : WeaveSt :=
  { lsm := List.replicate 128 0xFF, retire := 0, permanent := [], events := [], swapped := [], pendingSwap := [] }

/-- DESIGN CHOICE (log 8): the unconnected reading of THERM_CLASS. -/
def ModuleSt.reset : ModuleSt :=
  { energy := 0, reportAt := 0, powered := true, warning := false, overPower := false,
    pwrbrk := false, derates := [], thermClass := 2, wear := 0, flashTemp := 0 }

/-- The block right after a full device reset. -/
def State.reset : State :=
  { pending := [], out := [], free := 0, glb := GlobalSt.reset, flash := FlashSt.reset, fuses := FuseSt.reset,
    defects := DefectSt.reset, curves := [], regs := [], fe := FrontSt.reset, tenants := [], launches := [], skeins := [],
    weave := WeaveSt.reset, mem := [], lostBursts := [], lostReaders := [], hbmStacks := [], tables := [], boundary := none,
    group := GroupSt.reset, ports := [], jrn := JournalSt.reset, itg := ⟨[], 0, 0⟩, emd := ⟨[0, 1, 2, 3]⟩,
    hst := HostSt.reset, clk := ClockSt.reset, tlm := TelemetrySt.reset, mdl := ModuleSt.reset }

end Sys2Proof.Machine
end

