-- ==== Sys2Proof/Machine/Regs.lean ====
section
/-! DEFINITION. The BAR0 fields that software writes: place, access code, reset value and legal values
(20_registers.md Tables Reg-2 to Reg-12, 00_scope.md Table Scope-4). -/

namespace Sys2Proof.Machine

/-- Access codes of fields that a write changes or that act on a write (Table Scope-4). -/
inductive Access where
  | rw | rwl | rws | wo | w1s
  deriving DecidableEq, Repr

/-- What a write of a field does beside storing its value, and what the value has to fit. -/
inductive RegAct where
  | plain | setupLock | fwCmd | fwStart | holdStart | stageStart | tableCmd | attach | portCmd | portEnable | member | exportStart
  | arenaLoad | timeSrc | timeSet | rst | rstArm | sqEnable (r : Nat) | cqEnable
  /-- Base, size or start of submission ring r, and of the completion ring (R323). -/
  | sqShape (r : Nat) | cqShape
  | winBase | grantBase | grantLen
  deriving DecidableEq, Repr

/-- A register field: offset in PF BAR0 of its first copy, low bit, width, access code, reset value; `count` copies lie
`stride` apart; `ok` says which values are legal (R14). -/
structure RegField where
  off    : Nat
  lo     : Nat
  width  : Nat
  acc    : Access := .rw
  reset  : Nat := 0
  stride : Nat := 0
  count  : Nat := 1
  ok     : Nat → Bool := fun _ => true
  act    : RegAct := .plain

/-- Between two bounds. -/
def inRange (lo hi v : Nat) : Bool := decide (lo ≤ v ∧ v ≤ hi)

namespace Reg

/-- GLB_SETUP_LOCK. -/
def setupLock : RegField := { off := 0x10, lo := 0, width := 1, acc := .w1s, act := .setupLock }
/-- GLB_FW_CTRL.CMD. -/
def fwCmd : RegField := { off := 0x18, lo := 0, width := 4, acc := .wo, ok := fun v => decide (v < 5), act := .fwCmd }
/-- GLB_FW_UPDATE_ADDR. -/
def fwAddr : RegField := { off := 0x20, lo := 0, width := 64 }
/-- GLB_FW_UPDATE.LENGTH. -/
def fwLength : RegField := { off := 0x28, lo := 0, width := 32 }
/-- GLB_FW_UPDATE.START. -/
def fwStart : RegField := { off := 0x28, lo := 32, width := 1, acc := .wo, act := .fwStart }
/-- GLB_HOLD_LOAD_ADDR. -/
def holdAddr : RegField := { off := 0x30, lo := 0, width := 64 }
/-- GLB_HOLD_LOAD.LENGTH. -/
def holdLength : RegField := { off := 0x38, lo := 0, width := 32 }
/-- GLB_HOLD_LOAD.START. -/
def holdStart : RegField := { off := 0x38, lo := 32, width := 1, acc := .wo, act := .holdStart }
/-- GLB_BOOT_LIMIT. -/
def bootLimit : RegField := { off := 0x40, lo := 0, width := 16, reset := 5000, ok := inRange 2000 60000 }
/-- GLB_CURVE_SEL.VERSION. -/
def curveVersion : RegField := { off := 0x80, lo := 0, width := 16, reset := 1 }
/-- GLB_CURVE_SEL.PAGE. -/
def curvePage : RegField := { off := 0x80, lo := 16, width := 8 }
/-- FE_EPOCH_PERIOD. -/
def epochPeriod : RegField := { off := 0x100010, lo := 0, width := 32, reset := 50000, ok := inRange 1000 10000000 }
/-- FE_BOUNDARY_LIMIT. -/
def boundaryLimit : RegField := { off := 0x100018, lo := 0, width := 32, reset := 2000000, ok := inRange 100000 60000000 }
/-- FE_IDLE_AFTER. -/
def idleAfter : RegField := { off := 0x100040, lo := 0, width := 32, reset := 1000, ok := inRange 100 100000 }
/-- FE_HOLD_POOL.SIZE. -/
def holdPoolSize : RegField := { off := 0x100048, lo := 0, width := 6, acc := .rwl, reset := 8, ok := inRange 1 32 }
/-- FE_HOLD_POOL.BASE. -/
def holdPoolBase : RegField := { off := 0x100048, lo := 16, width := 8, acc := .rwl, reset := 171, ok := inRange 0 178 }
/-- FE_ACCORD_STAGE_ADDR. -/
def stageAddr : RegField := { off := 0x100060, lo := 0, width := 64 }
/-- FE_ACCORD_STAGE.LENGTH. -/
def stageLength : RegField := { off := 0x100068, lo := 0, width := 32 }
/-- FE_ACCORD_STAGE.START. -/
def stageStart : RegField := { off := 0x100068, lo := 32, width := 1, acc := .wo, act := .stageStart }
/-- FE_TABLE_ADDR. -/
def tableAddr : RegField := { off := 0x100070, lo := 0, width := 64 }
/-- FE_TABLE_CTRL.CMD. -/
def tableCmd : RegField := { off := 0x100078, lo := 0, width := 2, acc := .wo, ok := fun v => decide (v < 3), act := .tableCmd }
/-- FE_TABLE_CTRL.HANDLE. -/
def tableHandle : RegField := { off := 0x100078, lo := 16, width := 16 }
/-- HST_BAR2_VIEW. -/
def bar2View : RegField := { off := 0x200000, lo := 0, width := 1, acc := .rwl }
/-- HST_RETENTION. -/
def retention : RegField := { off := 0x200008, lo := 0, width := 1, acc := .rws, reset := 1 }
/-- HST_PRI_TIMEOUT. -/
def priTimeout : RegField := { off := 0x200010, lo := 0, width := 32, reset := 10000, ok := inRange 100 1000000 }
/-- HST_PTM_INTERVAL. -/
def ptmInterval : RegField := { off := 0x200018, lo := 0, width := 32, reset := 1000, ok := inRange 100 100000 }
/-- HST_ATTACH.CMD. -/
def attachCmd : RegField := { off := 0x200020, lo := 0, width := 2, acc := .wo, ok := fun v => decide (v < 3), act := .attach }
/-- MEM_RETRAIN_PERIOD of a stack. -/
def retrainPeriod : RegField := 
  { off := 0x400028, lo := 0, width := 32, reset := 3600, stride := 0x10000, count := 8, ok := inRange 60 86400 }
/-- MEM_RETRAIN_ECC of a stack. -/
def retrainEcc : RegField :=
  { off := 0x400030, lo := 0, width := 16, reset := 64, stride := 0x10000, count := 8, ok := fun v => decide (v ≠ 0) }
/-- NBC_BUDGET of a stack; the thermal class sets it at boot (R611). -/
def nbBudget : RegField :=
  { off := 0x400100, lo := 0, width := 8, reset := 96, stride := 0x10000, count := 8, ok := inRange 64 128 }
/-- WV_WAIT_BOUND of classes 0 and 1. -/
def waitBoundLaunch : RegField :=
  { off := 0x500000, lo := 0, width := 32, reset := 100, stride := 8, count := 2, ok := inRange 10 1000000 }
/-- WV_WAIT_BOUND of classes 2 and 3. -/
def waitBoundSplice : RegField :=
  { off := 0x500010, lo := 0, width := 32, reset := 4000, stride := 8, count := 2, ok := inRange 10 1000000 }
/-- WV_WAIT_BOUND of class 4. -/
def waitBoundMgmt : RegField := { off := 0x500020, lo := 0, width := 32, reset := 10000, ok := inRange 10 1000000 }
/-- LNY_PORT_CTRL.CMD of a port. -/
def portCmd : RegField :=
  { off := 0x600000, lo := 0, width := 2, acc := .wo, stride := 0x10000, count := 8, ok := fun v => decide (v < 3), act := .portCmd }
/-- LNY_PORT_CTRL.ENABLE of a port. -/
def portEnable : RegField := { off := 0x600000, lo := 2, width := 1, reset := 1, stride := 0x10000, count := 8, act := .portEnable }
/-- LNY_MEMBER. -/
def member : RegField := { off := 0x608000, lo := 0, width := 5, acc := .rwl, act := .member }
/-- LNY_REPL_TIMEOUT. -/
def replTimeout : RegField := { off := 0x608008, lo := 0, width := 32, reset := 2000, ok := inRange 200 100000 }
/-- LNY_ANCHOR_TIMEOUT. -/
def anchorTimeout : RegField := { off := 0x608010, lo := 0, width := 32, reset := 100000, ok := inRange 10000 10000000 }
/-- LNY_VIOLATION_LIMIT. -/
def violationLimit : RegField := { off := 0x608018, lo := 0, width := 11, reset := 16, ok := inRange 1 1024 }
/-- JRN_DRYDOWN_HIGH. -/
def drydownHigh : RegField := { off := 0x700008, lo := 0, width := 7, reset := 60, ok := inRange 10 90 }
/-- JRN_DRYDOWN_PERIOD. -/
def drydownPeriod : RegField := { off := 0x700010, lo := 0, width := 32, reset := 86400, ok := inRange 3600 2592000 }
/-- JRN_EXPORT_REQUIRED. -/
def exportRequired : RegField := { off := 0x700018, lo := 0, width := 1, reset := 1 }
/-- JRN_EXPORT_ADDR. -/
def exportAddr : RegField := { off := 0x700020, lo := 0, width := 64 }
/-- JRN_EXPORT_SEL. -/
def exportSel : RegField := { off := 0x700028, lo := 0, width := 64 }
/-- JRN_EXPORT_LEN. -/
def exportLen : RegField := { off := 0x700030, lo := 0, width := 64 }
/-- JRN_EXPORT_CTRL.KIND. -/
def exportKind : RegField := { off := 0x700038, lo := 0, width := 1 }
/-- JRN_EXPORT_CTRL.START. -/
def exportStart : RegField := { off := 0x700038, lo := 1, width := 1, acc := .wo, act := .exportStart }
/-- JRN_ARENA_BASE. -/
def arenaBase : RegField := { off := 0x700100, lo := 0, width := 8, acc := .rwl, reset := 151, ok := inRange 0 178 }
/-- JRN_ARENA_SIZE. -/
def arenaSize : RegField := { off := 0x700108, lo := 0, width := 5, acc := .rwl, ok := inRange 0 16 }
/-- JRN_ARENA_CTRL. -/
def arenaCtrl : RegField := { off := 0x700110, lo := 0, width := 64, acc := .wo, act := .arenaLoad }
/-- JRN_ARENA_TENANT. -/
def arenaTenant : RegField := { off := 0x700150, lo := 0, width := 7 }
/-- ITG_AUDIT_RATE. -/
def auditRate : RegField := { off := 0x800000, lo := 0, width := 5, ok := inRange 0 16 }
/-- ITG_EVENT_WINDOW. -/
def eventWindow : RegField := { off := 0x800008, lo := 0, width := 20, reset := 3600, ok := inRange 60 604800 }
/-- EMD_POOL_BASE. -/
def emdBase : RegField := { off := 0x900000, lo := 0, width := 8, acc := .rwl, reset := 167, ok := inRange 0 178 }
/-- EMD_POOL_SIZE. -/
def emdSize : RegField := { off := 0x900008, lo := 0, width := 5, acc := .rwl, reset := 4, ok := inRange 1 16 }
/-- CLK_TIME_SRC. -/
def timeSrc : RegField := { off := 0xA00010, lo := 0, width := 2, acc := .rws, ok := inRange 0 2, act := .timeSrc }
/-- CLK_TIME_SET. -/
def timeSet : RegField := { off := 0xA00018, lo := 0, width := 64, acc := .wo, act := .timeSet }
/-- CLK_HOLDOVER_MAX. -/
def holdoverMax : RegField := { off := 0xA00020, lo := 0, width := 20, reset := 86400, ok := inRange 60 604800 }
/-- RST_CTRL.LEVEL. DESIGN CHOICE (log 98): level 0 is a WO field that is not written (R589), not R555's "any other level", so a
write of a target alone makes no entry. -/
def rstLevel : RegField := { off := 0xB00000, lo := 0, width := 4, acc := .wo, ok := inRange 0 5, act := .rst }
/-- RST_CTRL.TARGET. -/
def rstTarget : RegField := { off := 0xB00000, lo := 8, width := 8, acc := .wo }
/-- RST_ARM. -/
def rstArm : RegField := { off := 0xB00008, lo := 0, width := 1, acc := .wo, act := .rstArm }
/-- TLM_ERRLOG_READ. -/
def errlogRead : RegField := { off := 0xC00000, lo := 0, width := 64, acc := .rws, reset := 1 }

/-- A field of the tenant set-up pages; copy t lies in tenant t's page (R585). -/
def tnt (off lo width : Nat) (reset : Nat := 0) (acc : Access := .rw) (ok : Nat → Bool := fun _ => true) (act : RegAct := .plain) :
    RegField :=
  { off := 0x1000000 + off, lo, width, acc, reset, stride := 0x1000, count := 128, ok, act }

/-- A multiple of n (R322, Table Reg-12; log 62). -/
def multiple (n v : Nat) : Bool := v % n == 0

/-- TNT_SQ_BASE of ring i. -/
def sqBase (i : Nat) : RegField := tnt (8 * i) 0 64 0 .rw (multiple 4096) (.sqShape i)
/-- TNT_SQ_CTRL.ENABLE of ring i. -/
def sqEnable (i : Nat) : RegField := tnt (0x20 + 8 * i) 0 1 0 .rw (fun _ => true) (.sqEnable i)
/-- TNT_SQ_CTRL.LOG2SIZE of ring i. -/
def sqLog (i : Nat) : RegField := tnt (0x20 + 8 * i) 1 5 6 .rw (inRange 6 16) (.sqShape i)
/-- TNT_SQ_CTRL.START of ring i. -/
def sqStart (i : Nat) : RegField := tnt (0x20 + 8 * i) 32 32 0 .rw (fun _ => true) (.sqShape i)
/-- TNT_CQ_BASE. -/
def cqBase : RegField := tnt 0x40 0 64 0 .rw (multiple 4096) .cqShape
/-- TNT_CQ_CTRL.ENABLE. -/
def cqEnable : RegField := tnt 0x48 0 1 0 .rw (fun _ => true) .cqEnable
/-- TNT_CQ_CTRL.LOG2SIZE. -/
def cqLog : RegField := tnt 0x48 1 5 6 .rw (inRange 6 16) .cqShape
/-- TNT_CQ_CTRL.START. -/
def cqStart : RegField := tnt 0x48 32 32 0 .rw (fun _ => true) .cqShape
/-- TNT_DOORBELL_ADDR. -/
def doorbell : RegField := tnt 0x50 0 64 0 .rw (multiple 64)
/-- TNT_QUOTA. -/
def quota : RegField := tnt 0x58 0 13 4096 .rw (inRange 0 4096)
/-- TNT_WATCHDOG. -/
def watchdog : RegField := tnt 0x60 0 32 100000 .rw (inRange 1000 60000000)
/-- TNT_IRQ_HOLDOFF. -/
def irqHoldoff : RegField := tnt 0x68 0 10 0 .rw (inRange 0 1000)
/-- TNT_WIN_BASE. -/
def winBase : RegField := tnt 0x70 0 10 0 .rw (fun _ => true) .winBase
/-- TNT_WIN_GRANT_BASE. -/
def grantBase : RegField := tnt 0x78 0 10 0 .rwl (fun _ => true) .grantBase
/-- TNT_WIN_GRANT_LEN. -/
def grantLen : RegField := tnt 0x80 0 10 0 .rwl (inRange 0 720) .grantLen
/-- TNT_PASID.PASID. -/
def pasid : RegField := tnt 0x88 0 20 0 .rwl
/-- TNT_PASID.ENABLE. -/
def pasidEnable : RegField := tnt 0x88 31 1 0 .rwl

/-- Every field of the tables that a write changes or acts on. -/
def all : List RegField :=
  [setupLock, fwCmd, fwAddr, fwLength, fwStart, holdAddr, holdLength, holdStart, bootLimit, curveVersion, curvePage,
   epochPeriod, boundaryLimit, idleAfter, holdPoolSize, holdPoolBase, stageAddr, stageLength, stageStart, tableAddr,
   tableCmd, tableHandle, bar2View, retention, priTimeout, ptmInterval, attachCmd, retrainPeriod, retrainEcc, nbBudget,
   waitBoundLaunch, waitBoundSplice, waitBoundMgmt, portCmd, portEnable, member, replTimeout, anchorTimeout,
   violationLimit, drydownHigh, drydownPeriod, exportRequired, exportAddr, exportSel, exportLen, exportKind, exportStart,
   arenaBase, arenaSize, arenaCtrl, arenaTenant, auditRate, eventWindow, emdBase, emdSize, timeSrc, timeSet, holdoverMax,
   rstLevel, rstTarget, rstArm, errlogRead]
  ++ (List.range 4).flatMap (fun i => [sqBase i, sqEnable i, sqLog i, sqStart i])
  ++ [cqBase, cqEnable, cqLog, cqStart, doorbell, quota, watchdog, irqHoldoff, winBase, grantBase, grantLen, pasid,
      pasidEnable]

end Reg

/-- The key of copy `i` of a field in `State.regs`. -/
def RegField.key (f : RegField) (i : Nat) : Nat := 64 * (f.off + i * f.stride) + f.lo

/-- The value of copy `i` of a field: as last written, its reset value until then (R6). -/
def rget (s : State) (f : RegField) (i : Nat := 0) : Nat := (nget none s.regs (f.key i)).getD f.reset

/-- Set copy `i` of a field. -/
def rset (s : State) (f : RegField) (v : Nat) (i : Nat := 0) : State :=
  { s with regs := nput none s.regs (f.key i) (if v = f.reset then none else some v) }

end Sys2Proof.Machine
end

