-- ==== Sys2Proof/Machine/Ops.lean ====
section
/-! DEFINITION. The named operations every family uses: the error log and messages, tenants, launches, executions, skeins,
event counting, and device memory with its two address views. -/

namespace Sys2Proof.Machine

/-! ### Messages -/

/-- Tenant t. -/
def getT (s : State) (t : Nat) : TenantSt := nget TenantSt.reset s.tenants t
/-- Change tenant t. -/
def modT (s : State) (t : Nat) (f : TenantSt → TenantSt) : State :=
  { s with tenants := nmod TenantSt.reset s.tenants t f }

/-- Something leaves the chip. -/
def emit (s : State) (o : Out) : State := { s with out := o :: s.out }

/-- Send MSI-X entry `e` of a function, or set its pending bit when it is masked (R375, R376). -/
def msix (s : State) (fn e : Nat) : State :=
  if (getT s fn).msixMask.getLsbD e then modT s fn (fun t => { t with msixPend := t.msixPend ||| BitVec.twoPow 16 e })
  else emit s (.msix fn e)

/-! ### Requests to host memory (R320, R344, R370) -/

/-- A request of tenant t under its PASID; data writes set relaxed ordering, records and messages never do (Table Host-1). -/
def hostReq (s : State) (t addr : Nat) (relaxed : Bool) : HostReq :=
  { fn := t, pasid := rget s Reg.pasid t, addr, relaxed := relaxed && (nget FnConfig.reset s.hst.config t).relaxed }

/-- A page has a cached translation that serves a request of tenant t. -/
def translated (s : State) (t page : Nat) (write : Bool) : Bool :=
  s.hst.atc.any (fun e => e.fn == t && e.pasid == rget s Reg.pasid t && decide (e.page ≤ page ∧ page < e.page + e.pages)
                          && (e.writable || !write))

/-- The 4 KiB pages of a range. -/
def pagesOf (addr n : Nat) : List Nat := (List.range ((addr + n + 4095) / 4096 - addr / 4096)).map (addr / 4096 + ·)

/-- Pages of a range without a cached translation are asked for through ATS (R370); the answer is part of what the access meets
(log 84). -/
def translate (s : State) (t addr n : Nat) (write : Bool) : State :=
  (pagesOf addr n).foldl (fun s p => if translated s t p write then s else emit s (.translate t (rget s Reg.pasid t) p)) s

/-- Read host memory for a tenant. -/
def readHost (s : State) (t addr n : Nat) : State := emit (translate s t addr n false) (.read (hostReq s t addr false) n)
/-- Write data to host memory for a tenant. -/
def writeHost (s : State) (t addr : Nat) (b : Bytes) : State :=
  emit (translate s t addr b.length true) (.dma (hostReq s t addr true) b)

/-! ### Error log, conditions -/

/-- Append an error-log entry: it overwrites the oldest when the log is full, and counts a drop when that one had not been
read (R578, R579); tenant 0 gets MSI-X entry 2 (Table Host-3). At its largest entry number the log accepts no entry (R581). -/
def logErr (s : State) (code tenant a b : Nat) : State :=
  let n := s.tlm.next
  if n = 2 ^ 64 - 1 then s else
  let old := nget none s.tlm.log (n % 4096)
  let dropped := match old with
    | some o => decide (rget s Reg.errlogRead ≤ o.1)
    | none => false
  let entry : LogEntry := { time := s.clk.time, code, tenant, quality := s.clk.quality,
                            detailA := BitVec.ofNat 64 a, detailB := BitVec.ofNat 32 b }
  msix { s with tlm := { s.tlm with log := nput none s.tlm.log (n % 4096) (some (n, entry)), next := n + 1,
                                    drop := if dropped then s.tlm.drop + 1 else s.tlm.drop } } 0 2

/-- "No tenant concerned". -/
def noTenant : Nat := 0xFF

/-- Condition bits of GLB_STATUS, counted from bit 8 (Table Reg-2). -/
def condLink : Nat := 0
/-- MEMORY-DEGRADED. -/
def condMemory : Nat := 1
/-- WEAVE-DEGRADED. -/
def condWeave : Nat := 2
/-- EMD-DEGRADED. -/
def condEmd : Nat := 3
/-- LANYARD-DEGRADED. -/
def condLanyard : Nat := 4
/-- TABLE-LOST. -/
def condTable : Nat := 5
/-- BOUNDARY-BEHIND or CHAIN-MISMATCH. -/
def condBoundary : Nat := 6
/-- JOURNAL-FULL or JOURNAL-STOPPED. -/
def condJournal : Nat := 7

/-- Raise a condition. -/
def raiseCond (s : State) (c : Nat) : State :=
  { s with glb := { s.glb with conds := s.glb.conds ||| BitVec.twoPow 8 c } }
/-- Clear a condition. -/
def clearCond (s : State) (c : Nat) : State :=
  { s with glb := { s.glb with conds := s.glb.conds &&& ~~~(BitVec.twoPow 8 c) } }

/-- Stop admitting for a cause (a condition number; 8 and up are causes with no condition bit). -/
def stopAdmit (s : State) (c : Nat) : State := { s with glb := { s.glb with stopped := sadd s.glb.stopped c } }
/-- A cause no longer stops admission. -/
def resumeAdmit (s : State) (c : Nat) : State := { s with glb := { s.glb with stopped := sdel s.glb.stopped c } }

/-- Admission held by a power fail. -/
def stopPower : Nat := 8
/-- Admission held until HST_ATTACH is written (R385). -/
def stopAttach : Nat := 9
/-- Admission held by a failed check 3 of a TABLE-REGISTER (R273). -/
def stopTable : Nat := 10
/-- Admission held by a clock or firmware condition. -/
def stopClock : Nat := 11
/-- Admission held while the tables are rebuilt after REBUILD (R387). -/
def stopRebuild : Nat := 12
/-- Admission held because no media engine or the epoch counter is exhausted. -/
def stopEpoch : Nat := 13

/-- Launch IDs and own splice counters are left (R581, Table Long-2). -/
def numbersLeft (s : State) : Bool := s.fe.nextId != BitVec.allOnes 64 && decide (s.fe.counter < 2 ^ 59 - 1)

/-- The device is admitting (GLB_STATUS.ADMITTING, Table Submit-6 step 3). -/
def admitting (s : State) : Bool := s.fe.polling && s.glb.stopped.isEmpty && s.fe.hang.isNone && numbersLeft s

/-- Count a performance counter's event, modulo 2^48 (R573). -/
def countEvent (s : State) (i n : Nat) : State :=
  { s with tlm := { s.tlm with counters := nmod 0 s.tlm.counters i (fun v => (v + n) % 2 ^ 48) } }

/-! ### Launches and executions -/

/-- The launch with an ID. -/
def findL (s : State) (id : Nat) : Option Launch := s.launches.find? (fun l => l.id == id)
/-- Change the launch with an ID. -/
def modL (s : State) (id : Nat) (f : Launch → Launch) : State :=
  { s with launches := updFirst (fun l => l.id == id) f s.launches }
/-- Execution `e` of a launch. -/
def getX (l : Launch) (e : Nat) : Option Exec := l.execs[e]?
/-- Change execution `e` of a launch. -/
def modX (s : State) (id e : Nat) (f : Exec → Exec) : State :=
  modL s id (fun l => { l with execs := updAt f l.execs e })

/-! ### Descriptor fields (Table Submit-3) -/

/-- Program-table index. -/
def dProg (d : Bytes) : Nat := fld d 4 2
/-- Input buffer count. -/
def dInputs (d : Bytes) : Nat := fld d 6 1
/-- Output buffer count. -/
def dOutputs (d : Bytes) : Nat := fld d 7 1
/-- Host tag. -/
def dTag (d : Bytes) : Nat := fld d 8 8
/-- Launch constant block address. -/
def dLcb (d : Bytes) : Nat := fld d 16 8
/-- Replay block address. -/
def dReplay (d : Bytes) : Nat := fld d 24 8
/-- Flags. -/
def dFlags (d : Bytes) : Nat := fld d 32 4
/-- REPLAY. -/
def dIsReplay (d : Bytes) : Bool := bit (dFlags d) 0
/-- IRQ. -/
def dIrq (d : Bytes) : Bool := bit (dFlags d) 1
/-- Tally area in cells. -/
def dTally (d : Bytes) : Nat := fld d 36 4
/-- Expected accord. -/
def dAccord (d : Bytes) : Nat := fld d 40 4
/-- Watchdog in µs. -/
def dWatchdog (d : Bytes) : Nat := fld d 44 4
/-- Address and length of input buffer i. -/
def dInput (d : Bytes) (i : Nat) : Nat × Nat := (fld d (64 + 16 * i) 8, fld d (72 + 16 * i) 4)
/-- Address and length of output buffer i. -/
def dOutput (d : Bytes) (i : Nat) : Nat × Nat := (fld d (192 + 16 * i) 8, fld d (200 + 16 * i) 4)

/-! ### Accords -/

/-- A section of an accord, empty where it is absent. -/
def section_ (a : Accord) (code : Nat) : Bytes :=
  ((a.sections.find? (fun p => p.1 == code)).map (·.2)).getD []
/-- An accord carries a section. -/
def hasSection (a : Accord) (code : Nat) : Bool := a.sections.any (fun p => p.1 == code)

/-- The accord slot that holds a digest (R336). -/
def accordOf (s : State) (digest : Bytes) : Option Accord :=
  [s.fe.accordCur, s.fe.accordPrev, s.fe.accordStaged].findSome? (fun a => match a with
    | some a => if a.digest = digest then some a else none
    | none => none)

/-- Program image words. -/
def imageLen (a : Accord) : Nat := (section_ a 2).length / 32
/-- RES (section 0x09). -/
def resBytes (a : Accord) : Nat := leNat (section_ a 9)
/-- Bytes of one launch bank (R130). -/
def bankBytes (a : Accord) : Nat := (4 * 2 ^ 20 - resBytes a) / 2
/-- A program-table entry (Table Core-8). -/
def progEntry (a : Accord) (i : Nat) : Bytes := slice (section_ a 3) (32 * i) 32
/-- Its word budget. -/
def wordBudget (a : Accord) (i : Nat) : Nat := fld (progEntry a i) 8 8

/-! ### Skeins -/

/-- Logical skein k. -/
def getK (s : State) (k : Nat) : SkeinSt := nget SkeinSt.none s.skeins k
/-- Change skein k. -/
def modK (s : State) (k : Nat) (f : SkeinSt → SkeinSt) : State :=
  { s with skeins := nmod SkeinSt.none s.skeins k f }
/-- The execution at the front of a skein's queue, once it has started. -/
def running (s : State) (k : Nat) : Option SkeinCtx :=
  match (getK s k).queue with
  | c :: _ => if c.started then some c else none
  | [] => none
/-- Change the front execution's core. -/
def modCore (s : State) (k : Nat) (f : Core → Core) : State :=
  modK s k (fun q => { q with queue := updAt (fun c => { c with core := f c.core }) q.queue 0 })

/-! ### Device memory (07_memory.md) -/

/-- Bytes of striped device memory. -/
def dpaLimit : Nat := 0x002D_0000_0000

/-- Where a byte lies (R195). -/
structure Loc where
  stack : Nat
  lpc   : Nat
  bank  : Nat
  row   : Nat
  byte  : Nat
  deriving DecidableEq, Repr

/-- The place of a striped address (R195). -/
def stripedLoc (dpa : Nat) : Loc :=
  let l := dpa / 256
  let q := l / 8
  let w := q / 30
  let v := w / 16
  { stack := l % 8, lpc := q % 30, bank := 4 * (w % 4) + w / 4 % 4, row := v / 4, byte := 256 * (v % 4) + dpa % 256 }

/-- The striped address of a place: R195 in reverse. -/
def stripedOf (p : Loc) : Nat :=
  let v := 4 * p.row + p.byte / 256
  let w := 16 * v + 4 * (p.bank % 4) + p.bank / 4
  let q := 30 * w + p.lpc
  256 * (8 * q + p.stack) + p.byte % 256

/-- The striped address that a DPA of either view names; none outside R195 and Table Memory-2 (R195 to R197). -/
def dpaStriped (dpa : Nat) : Option Nat :=
  if dpa < 2 ^ 47 then (if dpa < dpaLimit then some dpa else none)
  else
    let p : Loc := { byte := bits dpa 9 0, row := bits dpa 25 10, bank := bits dpa 29 26, lpc := bits dpa 34 30,
                     stack := bits dpa 37 35 }
    if dpa < 2 ^ 48 ∧ bits dpa 46 38 = 0 ∧ p.row < 49152 ∧ p.lpc < 30 then some (stripedOf p) else none

/-- The place of row `i` of a bank-resident table of row size `sz` from `base` (R198). -/
def rowLoc (sz base i : Nat) : Loc :=
  let g := i % 3840
  let j := i / 3840
  let h := g / 8
  let per := 1024 / sz
  { stack := g % 8, lpc := h / 4 % 30, bank := 4 * (h % 4) + h / 120, row := base + j / per, byte := j % per * sz }

/-- Read bytes of device memory at striped addresses; what nothing has written reads 0. -/
def memRead (s : State) (a n : Nat) : Bytes := ngets 0 s.mem a n
/-- Write bytes of device memory at striped addresses. -/
def memWrite (s : State) (a : Nat) (b : Bytes) : State := { s with mem := nputs 0 s.mem a b }

/-- Device memory is in its canonical form. -/
def Memory.wf (m : NMap Byte) : Bool := nwf 0 m

/-- Read one table row: `sz` bytes never leave one DRAM row, and each 256-byte piece is one line. -/
def rowRead (s : State) (p : Loc) (sz : Nat) : Bytes :=
  (List.range ((sz + 255) / 256)).flatMap (fun i =>
    memRead s (stripedOf { p with byte := p.byte + 256 * i }) (if sz < 256 then sz else 256))
/-- Write one table row. -/
def rowWrite (s : State) (p : Loc) (b : Bytes) : State :=
  ((List.range ((b.length + 255) / 256)).foldl (fun s i =>
    memWrite s (stripedOf { p with byte := p.byte + 256 * i }) (slice b (256 * i) 256)) s)

/-- Stack controller `i`. -/
def getS (s : State) (i : Nat) : StackSt := nget StackSt.reset s.hbmStacks i
/-- Change stack controller `i`. -/
def modS (s : State) (i : Nat) (f : StackSt → StackSt) : State :=
  { s with hbmStacks := nmod StackSt.reset s.hbmStacks i f }

/-- Port `p`. -/
def getP (s : State) (p : Nat) : PortSt := nget PortSt.reset s.ports p
/-- Change port `p`. -/
def modP (s : State) (p : Nat) (f : PortSt → PortSt) : State := { s with ports := nmod PortSt.reset s.ports p f }

/-- A command with its effect done. -/
abbrev Result := Host.Outcome State Fault Refusal

end Sys2Proof.Machine
end

