-- ==== Sys2Proof/Machine/PortOps.lean ====
section
/-! DEFINITION. The replica group's accord fields, and sending a lanyard frame: keys, sealing, credit and window
(13_lanyards.md). -/

namespace Sys2Proof.Machine

/-! ### Group fields of the accord (Table Lanyard-1) -/

/-- Group generation of an accord; 0 means no group. -/
def accGen (a : Accord) : Nat := fld (section_ a 0x20) 0 4
/-- Roster. -/
def accRoster (a : Accord) : Nat := fld (section_ a 0x20) 4 4
/-- Group key. -/
def accKey (a : Accord) : Bytes := fit 32 (slice (section_ a 0x20) 32 32)

/-- The current group generation, 0 without an accord. -/
def groupGen (s : State) : Nat := (s.fe.accordCur.map accGen).getD 0
/-- The current roster. -/
def roster (s : State) : Nat := (s.fe.accordCur.map accRoster).getD 0
/-- The chip's own member number. -/
def ownMember (s : State) : Nat := rget s Reg.member
/-- The chip takes part in a replica group (R394). -/
def inGroup (s : State) : Bool := groupGen s != 0 && bit (roster s) (ownMember s)
/-- The roster's members in ascending order. -/
def members (s : State) : List Nat := (List.range 32).filter (bit (roster s))
/-- The quorum (R395). -/
def quorum (s : State) : Nat := (members s).length / 2 + 1
/-- The group keys of the three accord slots (R407). -/
def groupKeys (s : State) : List Bytes :=
  [s.fe.accordCur, s.fe.accordPrev, s.fe.accordStaged].filterMap (fun a =>
    a.bind (fun a => if hasSection a 0x20 then some (accKey a) else none))
/-- The key frames are sealed under (R402). -/
def ownKey (s : State) : Bytes := (s.fe.accordCur.map accKey).getD (zeros 32)

/-! ### Violations, down and quarantine (R437) -/

/-- An ASCII tag written as its bytes. -/
def tag8 (n : Nat) : Bytes := beBytes 8 n

/-- The largest width that avoids every retired lane; 0 where none is left (R439). -/
def usableLanes (retired : BitVec 8) : Nat :=
  let free (lo n : Nat) : Bool := (List.range n).all (fun i => !retired.getLsbD (lo + i))
  if free 0 8 then 8
  else if free 0 4 ∨ free 4 4 then 4
  else if (List.range 4).any (fun i => free (2 * i) 2) then 2
  else 0

/-- The lanes R439 trains: all eight, lanes 0-3 or else 4-7, or the lowest aligned pair without a retired lane. -/
def laneMask (retired : BitVec 8) : BitVec 8 :=
  ([0xFF, 0x0F, 0xF0, 0x03, 0x0C, 0x30, 0xC0].find? (fun m => m &&& retired == 0)).getD 0

/-- Where a port stands while it has no session: out of service without a usable pair of lanes (R439), down while it is disabled
or its lanyard reference is in trip (R440, R563), else training. -/
def restMode (s : State) (p : Nat) : PortMode :=
  if usableLanes (getP s p).retired = 0 then .outOfService
  else if rget s Reg.portEnable p = 0 ∨ s.clk.tripped.getLsbD (2 + p) then .down
  else .training

/-- A retry episode is over: the replication timers of the frames it covers go on, each frame paused once (R430). -/
def overEpisode (now : Nat) (q : PortSt) : PortSt :=
  match q.episode with
  | none => q
  | some e => { q with episode := none, sent := q.sent.map (fun f =>
      if e.covers.contains f.seq ∧ !f.excused then { f with due := f.due + (now - e.start), excused := true } else f) }

/-- The port goes down and trains again where it may: its session ends. The frames it sent stay until the next session, which
sends them again (R411, R412, R431). -/
def portRetrain (s : State) (p : Nat) : State :=
  let mode := restMode s p
  let forget (w : JrnWrite) : JrnWrite := if w.frame.any (fun f => f.1 == p) then { w with frame := none } else w
  modP { s with jrn := { s.jrn with waiting := s.jrn.waiting.map forget } } p (fun q =>
    { overEpisode s.clk.elapsed q with
             mode, lanes := 0, used := 0, partner := 0, own := [], theirs := [], rxCount := none, txCount := 0, naming := none,
             credits := (0, 0), held := (0, 0), owed := (0, 0), through := 0, linkOwed := false, nak := false, goBack := false,
             helloAt := none, accepted := false })

/-- A new session begins: what the partner had not reported staged waits first (R412). -/
def newSession (q : PortSt) : PortSt :=
  let again : List Outgoing := (q.sent.filter (fun f => !f.staged)).map (fun f =>
    { kind := f.kind, flags := f.flags, sender := f.sender, payload := f.payload })
  { q with sent := [], waiting := again ++ q.waiting, txCount := 0, rxCount := none, keyEpoch := 0, txSeq := 0, rxSeq := 0,
           credits := (1024, 512), held := (0, 0), owed := (0, 0), through := 2 ^ 24 - 1, linkOwed := false, nak := false,
           goBack := false, episode := none, naming := none }

/-- Count a violation; more than LNY_VIOLATION_LIMIT of them within 1 s quarantine the port (R437). -/
def violation (s : State) (p : Nat) : State :=
  let now := s.clk.elapsed
  let q := getP s p
  let recent := now :: q.recent.filter (fun t => decide (now ≤ t + 1000000000))
  let s1 := modP s p (fun q => { q with violations := q.violations + 1, recent })
  if rget s Reg.violationLimit < recent.length ∧ q.mode ≠ .quarantined then
    logErr (modP (portRetrain s1 p) p (fun q => { q with mode := .quarantined })) Err.lanyardQuarantine noTenant p recent.length
  else s1

/-! ### Frames (R403 to R405, Tables Lanyard-3 and Lanyard-4) -/

/-- A frame header. -/
def frameHeader (kind flags sender receiver seq counter epoch len : Nat) : Bytes :=
  leBytes 1 kind ++ leBytes 1 flags ++ leBytes 1 sender ++ leBytes 1 receiver ++ leBytes 3 seq ++ zeros 1
  ++ leBytes 8 counter ++ leBytes 8 epoch ++ leBytes 2 len ++ zeros 6

/-- The 36 bytes of R401: AES key and nonce salt for frames from member `a` to member `b`. -/
def linkKey (gk : Bytes) (epoch a b : Nat) (ra rb : Bytes) : Bytes :=
  hkdf gk (tag8 0x54514C4E59303031) (leBytes 8 epoch ++ leBytes 1 a ++ leBytes 1 b ++ ra ++ rb) 36

/-- A whole frame: header, sealed payload, tag and CRC (R403, R404). -/
def sealFrame (key36 header payload : Bytes) : Bytes :=
  let c := gcmSeal (key36.take 32) (key36.drop 32 ++ slice header 8 8) header payload
  let f := header ++ c.1 ++ c.2
  f ++ leBytes 4 (crc32 f)

/-- Credit units of a payload (R413). -/
def units (len : Nat) : Nat := (52 + len + 255) / 256

/-- Seal one frame under the current key epoch and send it (R402, R405); a port whose transmission counter is used up trains
again (R581). -/
def putFrame (s : State) (p kind flags sender seq : Nat) (payload : Bytes) : State :=
  let q := getP s p
  if q.txCount = 2 ^ 64 - 1 then portRetrain s p else
  let epoch := s.fe.epoch.toNat
  let h := frameHeader kind flags sender q.partner seq q.txCount epoch payload.length
  let k := linkKey (ownKey s) epoch (ownMember s) q.partner q.own q.theirs
  emit (modP s p (fun q => { q with txCount := q.txCount + 1 })) (.frame p (sealFrame k h payload))

/-- A class is REBUILD for type 0x0A, REPLICATION for the other sequenced types (R413). -/
def isRebuild (kind : Nat) : Bool := kind == 0x0A

/-- Send the frame at the front of the port's waiting list if the window and the partner's credit allow (R408, R414). -/
def pumpOne (s : State) (p : Nat) : State :=
  let q := getP s p
  match q.waiting with
  | [] => s
  | o :: rest =>
    let u := units o.payload.length
    let have_ := if isRebuild o.kind then q.credits.2 else q.credits.1
    if q.mode = .up ∧ u ≤ have_ ∧ (q.sent.filter (fun f => !f.acked)).length < 4096 then
      let f : SentFrame := { seq := q.txSeq, kind := o.kind, flags := o.flags, sender := o.sender, payload := o.payload, acked := false, staged := false,
                             due := s.clk.elapsed + 1000 * rget s Reg.replTimeout, excused := false }
      let progress := if q.sent.all (·.acked) then s.clk.elapsed else q.progress
      let s1 := modP s p (fun q =>
        { q with waiting := rest, sent := q.sent ++ [f], txSeq := (q.txSeq + 1) % 2 ^ 24, progress,
                 credits := if isRebuild o.kind then (q.credits.1, q.credits.2 - u) else (q.credits.1 - u, q.credits.2) })
      putFrame s1 p o.kind o.flags o.sender f.seq o.payload
    else s

/-- Send what window and credit allow. -/
def pump (s : State) (p : Nat) : State := (List.range (getP s p).waiting.length).foldl (fun s _ => pumpOne s p) s

/-- Queue a sequenced frame on a port that is UP. -/
def queueFrame (s : State) (p kind flags sender : Nat) (payload : Bytes) : State :=
  if (getP s p).mode = .up then
    pump (modP s p (fun q => { q with waiting := q.waiting ++ [{ kind, flags, sender, payload }] })) p
  else s

/-- Flood a record on every UP port but the one it came by; port 8 is none (R417). -/
def flood (s : State) (from_ kind sender : Nat) (payload : Bytes) : State :=
  if inGroup s then
    (List.range 8).foldl (fun s p => if p = from_ then s else queueFrame s p kind 0 sender payload) s
  else s

/-- Ports that are UP. -/
def upPorts (s : State) : List Nat := (List.range 8).filter (fun p => (getP s p).mode == .up)

/-- Send one FETCH of at most 252 items to a port; of kind 2 each line waits for its answer, with no items a manifest does. -/
def sendRequest (s : State) (p kind epoch : Nat) (items : List Nat) : State :=
  let id := s.group.fetchId
  let body := leBytes 8 id ++ leBytes 1 kind ++ zeros 7 ++ leBytes 8 epoch ++ items.flatMap (leBytes 8)
  let g := { s.group with fetchId := id + 1, asked := if items.isEmpty then s.group.asked ++ [(p, epoch)] else s.group.asked,
                          fetches := if kind = 2 then s.group.fetches ++ items.map (fun a => (id, a)) else s.group.fetches }
  queueFrame { s with group := g } p 0x08 0 (ownMember s) body

/-- Send a FETCH for a list of items to one UP port, and the next one to the port after it (R427). -/
def sendFetch (s : State) (kind epoch : Nat) (items : List Nat) : State :=
  let ports := upPorts s
  match ports[s.group.turn % ports.length]? with
  | none => s
  | some p =>
    let lists := if items.isEmpty then [[]] else (List.range ((items.length + 251) / 252)).map (fun i => (items.drop (252 * i)).take 252)
    lists.foldl (fun s l => sendRequest s p kind epoch l) { s with group := { s.group with turn := s.group.turn + 1 } }

/-- A LINK is owed to the partner (R409). -/
def oweLink (s : State) (p : Nat) : State := modP s p (fun q => { q with linkOwed := true })

/-- A received frame's records are staged: report it and return its units (R409, R414). -/
def frameStaged (s : State) (p seq u : Nat) : State :=
  modP s p (fun q =>
    { q with through := seq, held := (q.held.1 - u, q.held.2), owed := (q.owed.1 + u, q.owed.2),
             linkOwed := true })

end Sys2Proof.Machine
end

