-- ==== Sys2Proof/Machine/JournalOps.lean ====
section
/-! DEFINITION. The journal controller's staging and flash writes, and what a record's becoming durable does
(14_sillage.md, 13_lanyards.md Spreading splices). -/

namespace Sys2Proof.Machine

/-! ### Records and segments (R441, R442) -/

/-- Bytes a record takes. -/
def recLen (r : JrnRecord) : Nat := 24 + roundUp r.body.length 8
/-- A record with its sequence number (Table Sillage-1). -/
def recBytes (seq : Nat) (r : JrnRecord) : Bytes :=
  let h := leBytes 1 r.kind ++ zeros 3 ++ leBytes 4 r.body.length ++ leBytes 8 seq ++ padTo 8 r.body
  h ++ leBytes 4 (crc32c h) ++ zeros 4

/-- Bytes of a segment, and the room its trailer takes. -/
def segmentBytes : Nat := 2 ^ 30
/-- Bytes of a SEGMENT-TRAILER record. -/
def trailerLen : Nat := 56

/-- Ring segments (14_sillage.md Model). -/
def ringSegments : Nat := 1726

/-- SEGMENT-HEAD body. -/
def headBody (s : State) : Bytes :=
  leBytes 8 s.jrn.serial ++ s.jrn.lastTrailer ++ s.jrn.identity ++ leBytes 4 (groupGen s) ++ leBytes 1 (ownMember s) ++ zeros 3

/-- Rated endurance of the journal flash in bytes: 60,000 writes of its full capacity (21_module.md Journal flash). -/
def ratedWear : Nat := 60000 * 2 ^ 41
/-- Bytes written to the journal flash; as the rating is reached the module warns (R608). -/
def noteWear (s : State) (n : Nat) : State :=
  let s1 := { s with mdl := { s.mdl with wear := s.mdl.wear + n } }
  if s.mdl.wear < ratedWear ∧ ratedWear ≤ s.mdl.wear + n then msix s1 0 6 else s1

/-- Append a record to the open segment. The sequence number is given as the record is written, so that numbers in flash
ascend with heads and trailers among them (R441, log 18). -/
def appendRecord (s : State) (r : JrnRecord) : State :=
  noteWear { s with jrn := { s.jrn with nextSeq := s.jrn.nextSeq + 1,
                                        ring := updFirst (fun g => !g.closed) (fun g =>
                                          { g with data := g.data ++ recBytes s.jrn.nextSeq r }) s.jrn.ring } } (recLen r)

/-- The open segment. -/
def openSegment (s : State) : Option Segment := s.jrn.ring.find? (fun g => !g.closed)

/-- Close the open segment with its trailer (R442). -/
def closeSegment (s : State) : State :=
  match openSegment s with
  | none => s
  | some g =>
    let d := sha256 g.data
    let s1 := appendRecord s { kind := 0x08, body := d }
    { s1 with jrn := { s1.jrn with lastTrailer := d, ring := updFirst (fun g => !g.closed) (fun g => { g with closed := true }) s1.jrn.ring } }

/-- Open a new segment with its head. -/
def newSegment (s : State) : State :=
  let g : Segment := { serial := s.jrn.serial, data := [], closed := false, exported := false, damaged := false }
  let s1 := { s with jrn := { s.jrn with ring := s.jrn.ring ++ [g] } }
  let s2 := appendRecord s1 { kind := 0x07, body := headBody s }
  { s2 with jrn := { s2.jrn with serial := s.jrn.serial + 1 } }

/-- A record fits the open segment, its trailer included. -/
def fitsOpen (s : State) (r : JrnRecord) : Bool :=
  match openSegment s with
  | some g => decide (g.data.length + recLen r + trailerLen ≤ segmentBytes)
  | none => false

/-- Types that go into the reserved segment when no ring segment is free (R461). -/
def reservedType (kind : Nat) : Bool := [0x03, 0x04, 0x05, 0x06, 0x0A, 0x0B, 0x09].contains kind

/-- JOURNAL-FULL (R461). -/
def raiseFull (s : State) : State :=
  if s.jrn.full then s else logErr (raiseCond { s with jrn := { s.jrn with full := true } } condJournal) Err.journalFull noTenant 0 0

/-- Ring segments that are left to open. -/
def freeSegments (s : State) : Nat := ringSegments - s.jrn.ring.length

/-- Write one record to flash; none when nothing takes it. DESIGN CHOICE (log 42): the last free segment of the ring is the
reserved one, which takes only the types of R461 while it is the open segment or is opened for them. -/
def writeFlash (s : State) (r : JrnRecord) : Option State :=
  if fitsOpen s r ∧ (0 < freeSegments s ∨ reservedType r.kind) then some (appendRecord s r)
  else if 1 < freeSegments s then some (appendRecord (newSegment (closeSegment s)) r)
  else if 0 < freeSegments s ∧ reservedType r.kind then some (appendRecord (newSegment (closeSegment (raiseFull s))) r)
  else none

/-! ### What durability does -/

/-- The record of a splice ID, if the chip remembers it (R419). -/
def findSplice (s : State) (id : Nat) : Option SpliceRec := s.group.known.find? (fun r => r.id == id)

/-- Put a splice record in ascending order of ID. -/
def putSplice (r : SpliceRec) : List SpliceRec → List SpliceRec
  | [] => [r]
  | x :: l => if r.id < x.id then r :: x :: l else if r.id = x.id then r :: l else x :: putSplice r l

/-- Change the memory of a splice ID, starting from an unknown one. -/
def modSplice (s : State) (id : Nat) (f : SpliceRec → SpliceRec) : State :=
  let r := (findSplice s id).getD { id, body := none, state := 0, listed := false, applied := false }
  { s with group := { s.group with known := putSplice (f r) s.group.known } }

/-- A splice body has become durable: kept unless its ID was recalled or has been applied (R421). -/
def learnBody (s : State) (id : Nat) (body : Bytes) : State :=
  modSplice s id (fun r => if r.state = 2 ∨ r.applied then r else { r with body := some body })

/-- A state change has been staged: the first one for an ID stays (R420); a recall discards the body (R421). -/
def learnState (s : State) (id st : Nat) : State :=
  modSplice s id (fun r => if r.state = 0 then (if st = 2 then { r with state := 2, body := none } else { r with state := st }) else r)

/-- The 16-byte STATE entry. -/
def stateEntry (id st : Nat) : Bytes := leBytes 8 id ++ leBytes 1 st ++ zeros 7

/-- Effects of one staged record: what the chip remembers, the frame it floods (R417, R445), and the moment from which the drydown
period counts (R583). -/
def recordDurable (s : State) (from_ : Nat) (spread : Bool) (r : JrnRecord) : State :=
  match r.kind with
  | 0x01 =>
    let id := fld r.body 0 8
    let s1 := learnBody s id (r.body.drop 16)
    if spread then flood s1 from_ 0x01 (id / 2 ^ 59) r.body else s1
  | 0x02 =>
    let s1 := (chunksOf 16 r.body).foldl (fun s e => learnState s (fld e 0 8) (fld e 8 1)) s
    flood s1 from_ 0x02 (fld r.body 0 8 / 2 ^ 59) r.body
  | 0x05 => if fld r.body 84 4 = 0 then { s with jrn := { s.jrn with lastImage := s.clk.elapsed } } else s
  | 0x0B => { s with fe := { s.fe with idBlock := some (max (fld r.body 0 8) (s.fe.idBlock.getD 0)) } }
  | 0x0A => modL s (fld r.body 16 8) (fun l => match l.stage with
      | .sealed e => { l with stage := .outcome e }
      | _ => l)
  | _ => s

/-- Effects of a staged write: its records in order, then the report to the partner that sent them. -/
def writeDurable (s : State) (w : JrnWrite) : State :=
  let from_ := (w.frame.map (·.1)).getD 8
  let s1 := w.recs.foldl (fun s r => recordDurable s from_ w.spread r) s
  match w.frame with
  | some (p, seq, u) => frameStaged s1 p seq u
  | none => s1

/-- Bytes accepted and not yet in flash. -/
def stagedBytes (s : State) : Nat := s.jrn.staged.foldl (fun n r => n + recLen r) 0
/-- Bytes a write needs. -/
def writeBytes (w : JrnWrite) : Nat := w.recs.foldl (fun n r => n + recLen r) 0

/-- Sequence numbers and segment serials are left (R581). -/
def journalOpen (s : State) (n : Nat) : Bool :=
  decide (s.jrn.nextSeq + s.jrn.staged.length + n < 2 ^ 64 ∧ s.jrn.serial < 2 ^ 64 - 1)

/-- A write may enter staging now (R443). -/
def acceptable (s : State) (w : JrnWrite) : Bool :=
  decide (w.recs = []) || (journalOpen s w.recs.length && decide (0 < s.jrn.covered.toNat) && decide (stagedBytes s + writeBytes w ≤ s.jrn.covered.toNat))

/-- Accept a write: whole, and durable at once (R443, R445). -/
def acceptWrite (s : State) (w : JrnWrite) : State :=
  writeDurable { s with jrn := { s.jrn with staged := s.jrn.staged ++ w.recs } } w

/-- A journal that has used up its numbers accepts no record: JOURNAL-STOPPED (R581). -/
def noteExhausted (s : State) (n : Nat) : State :=
  if journalOpen s n ∨ s.jrn.stopped then s
  else logErr (raiseCond { s with jrn := { s.jrn with stopped := true } } condJournal) Err.journalStopped noTenant 0 0

/-- Hand a write to the controller: accepted at once when nothing waits before it and it fits, else it waits (R53). -/
def stage (s : State) (w : JrnWrite) : State :=
  if s.jrn.waiting.isEmpty ∧ acceptable s w then acceptWrite s w
  else
    let s1 := noteExhausted s w.recs.length
    { s1 with jrn := { s1.jrn with waiting := s1.jrn.waiting ++ [w] } }

/-- Stage records of the chip's own. -/
def stageOwn (s : State) (recs : List JrnRecord) : State := stage s { recs, frame := none }

/-- STATE records for a list of IDs, 128 entries to a record (Table Sillage-2). -/
def stateRecords (ids : List Nat) (st : Nat) : List JrnRecord :=
  (chunksOf (128 * 16) (ids.flatMap (fun i => stateEntry i st))).map (fun b => { kind := 0x02, body := b })

/-- A splice record, provisional (Table Tables-3). -/
def spliceRecord (id : Nat) (body : Bytes) : Bytes :=
  leBytes 8 id ++ zeros 4 ++ leBytes 4 body.length ++ body

/-- Pad a splice record's body: body length is 24 + P rounded up to a multiple of 8 (R266). -/
def paddedBody (body : Bytes) : Bytes := padTo 8 body

/-- A fresh splice ID (R267). -/
def nextSpliceId (s : State) : Nat := ownMember s * 2 ^ 59 + s.fe.counter

/-- Recall splices of this chip that have IDs (R155, R420). -/
def recallIds (s : State) (ids : List Nat) : State :=
  if ids.isEmpty then s else stageOwn s (stateRecords ids 2)

/-- Recall every splice of an execution: those still in the splice queue never leave it (R155, log 19). -/
def recallExec (s : State) (launch ex : Nat) : State :=
  match (findL s launch).bind (fun l => getX l ex) with
  | none => s
  | some x =>
    let s1 := { s with fe := { s.fe with queue := s.fe.queue.filter (fun q => q.launch != launch || q.ex != ex) } }
    recallIds (modX s1 launch ex (fun x => { x with splices := x.splices.map (fun e => { e with id := none }) }))
      (x.splices.filterMap (·.id))

end Sys2Proof.Machine
end

