-- ==== Sys2Proof/Config.lean ====
section
/-! DEFINITION. What the manual leaves open: free values with no body, so that no proof can see what they are. -/

namespace Sys2Proof

/-- A decoded output frame: the facts READ and the frame digest need (16_media.md Tables Media-3 and Media-4). -/
structure MediaFrame where
  width     : Nat
  height    : Nat
  /-- Bit depth, 8 or 10. -/
  depth     : Nat
  mono      : Bool
  /-- A concealed frame (R514). -/
  concealed : Bool
  /-- Samples of each plane in row-major order. -/
  luma      : List Nat
  cb        : List Nat
  cr        : List Nat
  deriving DecidableEq, Repr

/-- DESIGN CHOICE (log 10): the content of an accord's resident region, by accord digest and address; the manual
gives its size (R130) and not where its bytes come from. -/
opaque Config.residentByte : Bytes → Nat → Byte

/-- One coded frame of a bitstream, as the standards of Table Media-1 read it. -/
structure MediaUnit where
  /-- Its parse runs past its data, it breaks a constraint of its standard, it refers to what the context does not hold, or it uses
  an excluded tool (R513, first three points and the last). -/
  broken  : Bool
  /-- Its size and bit depth, and the buffers that its stream states it needs. -/
  width   : Nat
  height  : Nat
  depth   : Nat
  buffers : Nat
  /-- A random access point (R514), and a frame start of Table Media-5. -/
  access  : Bool
  starts  : Bool
  /-- The frames that its decoding outputs, and those that then await output, in the standard's order (R508). -/
  output  : List MediaFrame
  pending : List MediaFrame
  deriving DecidableEq, Repr

/-- DESIGN CHOICE (log 11): the coded frames of a bitstream, in bitstream order, by codec code, Wmax, Hmax, D, DEEP and
bytes; the decoding process is that of the named standards (R501, R502), which the manual does not restate. -/
opaque Config.mediaUnits : Nat → Nat → Nat → Nat → Bool → Bytes → List MediaUnit

/-- DESIGN CHOICE (log 12): whether a SEQ-APPEND finds the segment pool empty (R277), by table handle and the free
counter; the occupancy of the pool follows from an internal layout the manual does not give. -/
opaque Config.segmentPoolEmpty : Nat → Nat → Bool

/-- DESIGN CHOICE (log 13): the row-cache set of a line, which the manual does not give (07_memory.md). -/
opaque Config.cacheSet : Nat → Nat

/-- DESIGN CHOICE (log 27): which launch's area a burst of the pool or the frame pool belongs to, by burst and free counter;
the layout of both pools is internal (R341, R503). -/
opaque Config.poolHolder : Nat → Nat → Nat

/-- DESIGN CHOICE (log 27): the burst in which a cell of an execution's tally area lies, by launch, execution and cell. -/
opaque Config.tallyBurst : Nat → Nat → Nat → Nat

/-- DESIGN CHOICE (log 28): WV_SITE_MAP, the kind and number at each weave site, which the manual leaves to the die. -/
opaque Config.siteMap : Nat → Nat × Nat

/-- DESIGN CHOICE (log 6): the curve-table files that a firmware image's payload carries (R117), and the management
core's code in it; the manual does not say where in the payload they lie. -/
opaque Config.firmwareCurves : Bytes → List Bytes

/-- DESIGN CHOICE (log 36): an accord image of store schema version 6 re-encoded in another version (R532), whose header and
sections 0x20 to 0x22 the manual lays out for version 6 alone. -/
opaque Config.schemaEncode : Nat → Bytes → Bytes

/-- DESIGN CHOICE (log 36): an accord image of another store schema version re-encoded in version 6; none where it does not
parse. -/
opaque Config.schemaDecode : Nat → Bytes → Option Bytes

/-- DESIGN CHOICE (log 30): the placement fields (bytes 12 to 39 of its descriptor) of a table that is rebuilt after a power loss
when no journal record names them any more; images carry descriptors without placement (Table Sillage-5). -/
opaque Config.tablePlacement : Nat → Bytes

/-- DESIGN CHOICE (log 99): whether a read of a journal segment meets an error that the flash's own correction cannot recover
(R465), by serial and free counter. -/
opaque Config.flashReadFails : Nat → Nat → Bool

/-- The module's input voltage in mV at an elapsed time, which a PLDM sensor shows (R610, log 100). -/
opaque Config.inputMillivolt : Nat → Nat

/-- SHA-384 of the boot ROM, measurement block 1: the spec does not give the ROM (log 56). -/
opaque Config.romDigest : Bytes

/-- GLB_ID.STEPPING: the silicon stepping (log 52). -/
opaque Config.stepping : Byte

/-- What a BAR2 read returns for a byte of a lost burst, by a fresh number (log 54). -/
opaque Config.lostByte : Nat → Byte

/-- DESIGN CHOICE (log 83): the line of the stacks that holds 256 bytes of what an IN stream reads, by launch, space, buffer and
unit; the layout of the input-hold areas and of a slot's descriptor area is internal (R313, R341). -/
opaque Config.sourceLine : Nat → Nat → Nat → Nat → Nat

/-- DESIGN CHOICE (log 83): the lines of a SEQUENCE table's data area that a read of one subject touches, by descriptor and subject;
the layout is internal (09_tables_epochs.md, R277). -/
opaque Config.subjectLines : Bytes → Nat → List Nat

end Sys2Proof
end

