-- ==== Sys2Proof/Machine/CoreOps.lean ====
section
/-! DEFINITION. Operations on one launch's program-visible state: registers, scratch, tiles, tokens, hazards
(05_control_core.md, 06_matrix_vector.md). -/

namespace Sys2Proof.Machine

/-! ### What a word does -/

/-- The effect of a word once it issues: it waits, waits with a note left at what it waits for, meets a program fault
(Table Core-11), or is done. -/
inductive Eff (α : Type) where
  | wait
  | parked (a : α)
  | fault (cause : Nat)
  | done (a : α)

/-- SCRATCH-RANGE. -/
def pfRange : Nat := 1
/-- RESIDENT-WRITE. -/
def pfResident : Nat := 2
/-- MISALIGNED. -/
def pfAlign : Nat := 3
/-- PC-RANGE. -/
def pfPc : Nat := 4
/-- WORD-BUDGET. -/
def pfBudget : Nat := 5
/-- TABLE-ACCESS. -/
def pfTable : Nat := 6
/-- TILE-ROW. -/
def pfTileRow : Nat := 7

/-- The lowest code among the causes that hold (R626). -/
def firstCause : List (Bool × Nat) → Option Nat
  | [] => none
  | (b, c) :: l => if b then some (match firstCause l with | some d => if d < c then d else c | none => c) else firstCause l

/-! ### Registers and predicates -/

/-- Scalar register r; s0 reads 0 (R126). -/
def getX64 (c : Core) (r : BitVec 6) : W64 := if r = 0 then 0 else nget 0 c.sregs r.toNat
/-- Write scalar register r; a write to s0 is discarded (R126). -/
def setX64 (c : Core) (r : BitVec 6) (v : W64) : Core := if r = 0 then c else { c with sregs := nput 0 c.sregs r.toNat v }
/-- Predicate i; p0 reads 1. -/
def getPred (c : Core) (i : Nat) : Bool := i == 0 || c.preds.getLsbD i
/-- Write predicate i. -/
def setPred (c : Core) (i : Nat) (v : Bool) : Core :=
  { c with preds := if v then c.preds ||| BitVec.twoPow 16 i else c.preds &&& ~~~(BitVec.twoPow 16 i) }
/-- The word's guard holds (R129, Table Core-3). -/
def guardOn (c : Core) (h : Hdr) : Bool := getPred c h.pred.toNat != h.pneg
/-- b of a Form S operation: SB + IMM, wrapping. -/
def opB (c : Core) (w : SWord) : W64 := getX64 c w.sb + w.imm

/-- Join flags to the sticky flags, and to what the groups of later STRGO words see (R142, log 16). -/
def joinFlags (c : Core) (owner : Nat) (f : Flags) : Core :=
  { c with flags := c.flags ||| f,
           groups := c.groups.map (fun g => if owner < g.id then { g with seen := g.seen ||| f } else g) }
/-- Join a finished word's flags. -/
def addFlags (c : Core) (f : Flags) : Core := { c with flags := c.flags ||| f }

/-! ### Scratch (R130, R131) -/

/-- What a word needs of its launch: accord, launch, resident size and bank size. -/
structure Env where
  acc  : Accord
  l    : Launch
  ex   : Nat
  res  : Nat
  bank : Nat
  deriving DecidableEq, Repr

/-- First scratch address past the launch bank. -/
def Env.top (e : Env) : Nat := e.res + e.bank

/-- A byte of program-visible scratch; the resident region holds the accord's content (R130, log 10). -/
def scratchByte (e : Env) (c : Core) (a : Nat) : Byte :=
  if a < e.res then Config.residentByte e.acc.digest a else nget 0 c.bank (a - e.res)

/-- Read bytes of scratch. -/
def scratchRead (e : Env) (c : Core) (a n : Nat) : Bytes := (List.range n).map (fun i => scratchByte e c (a + i))
/-- Write bytes of the launch bank. -/
def scratchWrite (e : Env) (c : Core) (a : Nat) (b : Bytes) : Core := { c with bank := nputs 0 c.bank (a - e.res) b }

/-- An extent leaves program-visible scratch (Table Core-9). -/
def outside (e : Env) (a n : Nat) : Bool := decide (e.top < a + n)
/-- A write reaches below RES. -/
def intoResident (e : Env) (a n : Nat) : Bool := decide (0 < n ∧ a < e.res)

/-! ### Live windows (R295) -/

/-- Bytes a stream carries in all: armings times bytes per arming, ring side (R300); none for NB. -/
def elemSide (code : Nat) (n : Nat) : Nat :=
  match Fmt.ofCode code with
  | some f => elemBytes f n
  | none => n

/-- Elements per arming. -/
def perArming (d : StreamDesc) : Nat := d.counts.foldl (· * ·) 1
/-- Ring bytes of `n` elements. -/
def ringBytes (d : StreamDesc) (n : Nat) : Nat := if d.convert then elemSide d.dstFmt n else n
/-- Host-side bytes of `n` elements. -/
def hostBytes (d : StreamDesc) (n : Nat) : Nat := if d.convert then elemSide d.srcFmt n else n
/-- Total ring bytes T of an IN or OUT stream. -/
def totalBytes (st : Stream) : Nat := ringBytes st.desc (st.armings * perArming st.desc)
/-- Elements per unit: two when either side is INT4 (R636). -/
def unitElems (d : StreamDesc) : Nat := if d.convert && (d.srcFmt == 11 || d.dstFmt == 11) then 2 else 1
/-- Ring bytes per unit. -/
def unitRing (d : StreamDesc) : Nat := ringBytes d (unitElems d)
/-- Host bytes per unit. -/
def unitHost (d : StreamDesc) : Nat := hostBytes d (unitElems d)

/-- Direction OUT. -/
def StreamDesc.isOut (d : StreamDesc) : Bool := d.dir == 2

/-- One byte of scratch may be accessed as far as one stream is concerned (R295). -/
def byteReady (st : Stream) (a : Nat) : Bool :=
  if a < st.ring ∨ st.ring + st.desc.ringLen ≤ a then true
  else
    let off := a - st.ring
    let b := st.q + (off + st.desc.ringLen - st.q % st.desc.ringLen) % st.desc.ringLen
    if st.desc.isOut then decide (b < st.w + st.desc.ringLen) else decide (b < st.w)

/-- The open streams of a core. -/
def openStreams (c : Core) : List Stream := c.streams.filterMap (·.2)

/-- Every byte of an extent may be accessed. -/
def extentReady (c : Core) (a n : Nat) : Bool :=
  (openStreams c).all (fun st =>
    decide (a + n ≤ st.ring) || decide (st.ring + st.desc.ringLen ≤ a)
    || (List.range n).all (fun i => byteReady st (a + i)))

/-! ### Ordering among words in flight (R151, R189) -/

/-- An extent of scratch: first address and length. -/
abbrev Extent := Nat × Nat

/-- Two extents touch one 256-byte line. -/
def sameLine (x y : Extent) : Bool :=
  decide (0 < x.2) && decide (0 < y.2)
  && decide (x.1 / 256 ≤ (y.1 + y.2 - 1) / 256) && decide (y.1 / 256 ≤ (x.1 + x.2 - 1) / 256)

/-- Any of one list touches a line of any of the other. -/
def anyLine (xs ys : List Extent) : Bool := xs.any (fun x => ys.any (sameLine x))

/-- The extents of a scratch operand of a logical shape: one per stored row. -/
def opdExtents (o : Opd) (fmt : Nat) (rows cols : Nat) : List Extent :=
  if o.kind then
    let s := stored o rows cols
    (List.range s.1).map (fun i => (o.base.toNat + i * o.stride.toNat, elemSide fmt s.2))
  else []

/-- What a job reads and writes in scratch. -/
def jobExtents (j : Job) : List Extent × List Extent :=
  let w := j.word
  let h := w.hdr
  let m := dimM w
  let n := dimN w
  let k := dimK w
  match j.kind with
  | .mmul => (opdExtents w.a h.fa.toNat m k ++ opdExtents w.b h.fb.toNat k n, opdExtents w.d h.fd.toNat m n)
  | .mmac => (opdExtents w.a h.fa.toNat m k ++ opdExtents w.b h.fb.toNat k n ++ opdExtents w.c h.fc.toNat m n,
              opdExtents w.d h.fd.toNat m n)
  | .tzero => ([], opdExtents w.d h.fd.toNat m n)
  | _ => (opdExtents w.a h.fa.toNat m n, opdExtents w.d h.fd.toNat m n)

/-- Tiles a job reads and writes. -/
def jobTiles (j : Job) : List Nat × List Nat :=
  let w := j.word
  let m := dimM w
  let n := dimN w
  let k := dimK w
  match j.kind with
  | .mmul => (tileSpan w.a m k ++ tileSpan w.b k n, tileSpan w.d m n)
  | .mmac => (tileSpan w.a m k ++ tileSpan w.b k n ++ tileSpan w.c m n, tileSpan w.d m n)
  | .tzero => ([], tileSpan w.d m n)
  | _ => (tileSpan w.a m n, tileSpan w.d m n)

/-- A word with these scratch reads and writes must wait for one in flight (R151, R189). -/
def hazard (e : Env) (c : Core) (rd wr : List Extent) : Bool :=
  c.jobs.any (fun j =>
    let x := jobExtents j
    anyLine x.2 rd || anyLine x.2 wr || anyLine x.1 wr)
  || c.groups.any (fun g =>
    anyLine [(g.window, g.winLen)] rd || anyLine [(g.window, g.winLen)] wr || anyLine [(0, e.top)] wr)

/-- Nothing asynchronous is in flight (FENCE, R97, R128): no job, strand group, near-bank word or OPEN that waits. -/
def quiet (c : Core) : Bool :=
  c.jobs.isEmpty && c.groups.isEmpty && c.nb.isEmpty && c.media.all (·.granted)

/-! ### Tiles (R162, R163) -/

/-- The key of cell (i, j) of a tile. -/
def cellKey (tile i j : Nat) : Nat := 1024 * tile + 32 * i + j
/-- The key of element (i, j) of an operand of `cols` columns that starts at a tile. -/
def elemKey (tile cols i j : Nat) : Nat := cellKey (tile + (i / 32) * ((cols + 31) / 32) + j / 32) (i % 32) (j % 32)
/-- A whole cell. -/
def getCell (c : Core) (key : Nat) : W32 := nget 0 c.tiles key
/-- Write a whole cell. -/
def setCell (c : Core) (key : Nat) (v : W32) : Core := { c with tiles := nput 0 c.tiles key v }

/-- Width of the format a code names; 32 for a reserved code, which no legal word carries. -/
def codeWidth (code : Nat) : Nat := match Fmt.ofCode code with | some f => f.width | none => 32
/-- The format a code names. -/
def codeFmt (code : Nat) : Fmt := (Fmt.ofCode code).getD .fp32
/-- The rounding mode a code names. -/
def codeRnd (code : Nat) : Rnd := (Rnd.ofCode code).getD .rne

/-- One element of a packed row of scratch (R74). -/
def packedElem (e : Env) (c : Core) (fmt : Fmt) (a j : Nat) : Nat :=
  match fmt with
  | .int4 => bits (scratchByte e c (a + j / 2)).toNat (4 * (j % 2) + 3) (4 * (j % 2))
  | _ => leNat (scratchRead e c (a + j * (fmt.width / 8)) (fmt.width / 8))

/-- Element (i, j) of a logical operand of shape rows × cols, as a pattern of its format. -/
def opdElem (e : Env) (c : Core) (o : Opd) (code rows cols i j : Nat) : Nat :=
  let s := stored o rows cols
  let p := if o.trans then (j, i) else (i, j)
  if o.kind then packedElem e c (codeFmt code) (o.base.toNat + p.1 * o.stride.toNat) p.2
  else (getCell c (elemKey (tileOf o) s.2 p.1 p.2)).toNat % 2 ^ codeWidth code

/-- Element (i, j) of a tile operand as a whole cell. -/
def opdCell (c : Core) (o : Opd) (rows cols i j : Nat) : W32 :=
  let s := stored o rows cols
  let p := if o.trans then (j, i) else (i, j)
  getCell c (elemKey (tileOf o) s.2 p.1 p.2)

/-- Write one row of a destination operand: patterns of the format. -/
def putRow (e : Env) (c : Core) (o : Opd) (code cols i : Nat) (row : List Nat) : Core :=
  if o.kind then scratchWrite e c (o.base.toNat + i * o.stride.toNat) (packElems (codeFmt code) row)
  else ((List.range cols).zip row).foldl (fun c p =>
    setCell c (elemKey (tileOf o) cols i p.1) (BitVec.ofNat 32 p.2)) c

/-- Program faults of a scratch operand (Table Core-9): its extents and its base alignment; `wr` for a destination. -/
def opdFaults (e : Env) (o : Opd) (code rows cols : Nat) (wr : Bool) : List (Bool × Nat) :=
  if o.kind then
    let xs := opdExtents o code rows cols
    [(xs.any (fun x => outside e x.1 x.2), pfRange),
     (wr && xs.any (fun x => intoResident e x.1 x.2), pfResident),
     (o.base.toNat % ((codeWidth code + 7) / 8) != 0, pfAlign)]
  else []

/-! ### Tile tokens (R169 to R172) -/

/-- Request tokens for the tiles a word reads and writes; a tile both read and written is a write (R169). -/
def requestTokens (c : Core) (owner : Nat) (rd wr : List Nat) : Core :=
  let reads := (rd.filter (fun t => !wr.contains t)).eraseDups
  { c with tokens := c.tokens ++ wr.eraseDups.map (fun t => { tile := t, write := true, owner, granted := false })
                     ++ reads.map (fun t => { tile := t, write := false, owner, granted := false }) }

/-- The request at the head of `before` may be granted: a read once no earlier write is unreleased, a write once nothing
earlier is (R170). -/
def grantable (before : List TokenReq) (r : TokenReq) : Bool :=
  before.all (fun b => b.tile != r.tile || (!r.write && !b.write))

/-- Grant what R170 allows for the tiles chosen, in issue order. -/
def grantFrom (pick : Nat → Bool) (before : List TokenReq) : List TokenReq → List TokenReq
  | [] => []
  | r :: l =>
    let r' := if pick r.tile && !r.granted && grantable before r then { r with granted := true } else r
    r' :: grantFrom pick (before ++ [r']) l

/-- Every request of an owner has been granted. -/
def allGranted (c : Core) (owner : Nat) : Bool := c.tokens.all (fun r => r.owner != owner || r.granted)
/-- Release an owner's tokens (R172). -/
def releaseTokens (c : Core) (owner : Nat) : Core := { c with tokens := c.tokens.filter (fun r => r.owner != owner) }

end Sys2Proof.Machine
end

