-- ==== Sys2Proof/Machine/CacheOps.lean ====
section
/-! DEFINITION. The row-cache slices and their last-use ledgers (07_memory.md R200 to R205). -/

namespace Sys2Proof.Machine

/-- Keep ways of the current accord, 0 without section 0x21 (Table Tables-10). -/
def keepWays (s : State) : Nat := (s.fe.accordCur.map (fun a => fld (section_ a 0x21) 3 1)).getD 0

/-- Sets of a slice. -/
def cacheSets : Nat := 3072

/-- The use count of a line. -/
def useOf (st : StackSt) (line : Nat) : Nat :=
  ((nget [] st.cache (Config.cacheSet line % cacheSets)).find? (fun c => c.line == line)).elim 0 (·.use)

/-- Change the set a line belongs to; a set lists its lines from least to most recently used. -/
def modSet (st : StackSt) (line : Nat) (f : List CacheLine → List CacheLine) : StackSt :=
  { st with cache := nmod [] st.cache (Config.cacheSet line % cacheSets) f }

/-- The slice holds a line. -/
def cached (st : StackSt) (line : Nat) : Bool :=
  (nget [] st.cache (Config.cacheSet line % cacheSets)).any (fun c => c.line == line)

/-- Ways of a partition: the accord's keep ways, and the rest (R201). -/
def partitionWays (keepN : Nat) (keep : Bool) : Nat := if keep then keepN else 16 - keepN

/-- Put a line into its partition as most recently used, in place of the least recently used line there that no use count
protects; none where every way is protected (R201, R202, R205). -/
def placeLine (keepN : Nat) (c : CacheLine) (l : List CacheLine) : Option (List CacheLine) :=
  let same := l.filter (fun x => x.keep == c.keep)
  if same.length < partitionWays keepN c.keep then some (l ++ [c])
  else (same.find? (fun x => x.use == 0)).map (fun v => l.filter (fun x => x.line != v.line) ++ [c])

/-- One read of a line with a hint (Table Memory-3), before its last-use ledger is charged. A KEEP hit moves the line into the
keep partition where that has room for it. -/
def touchLine (keepN hint line : Nat) (st : StackSt) : StackSt :=
  let keep := hint == 2 && decide (0 < keepN)
  modSet st line (fun l =>
    if hint = 1 then l
    else match l.find? (fun c => c.line == line) with
    | some c =>
      let rest := l.filter (fun x => x.line != line)
      if keep && !c.keep then (placeLine keepN { c with keep := true } rest).getD (rest ++ [c]) else rest ++ [c]
    | none => (placeLine keepN { line, keep, use := 0 } l).getD l)

/-- A set after the keep ways have changed: keep lines beyond them join the general lines, and the least recently used unprotected
general lines beyond theirs leave. -/
def resizeSet (keepN : Nat) (l : List CacheLine) : List CacheLine :=
  let excess := (l.filter (·.keep)).length - keepN
  let out := ((l.filter (·.keep)).take excess).map (·.line)
  let l1 := l.map (fun c => if out.contains c.line then { c with keep := false } else c)
  let general := l1.filter (fun c => !c.keep)
  let gone := ((general.filter (fun c => c.use == 0)).take (general.length - (16 - keepN))).map (·.line)
  l1.filter (fun c => !gone.contains c.line)

/-- The row-cache slices take the keep ways of the accord that has become the current one (R201). -/
def resizeCaches (s : State) : State :=
  (List.range 8).foldl (fun s i => modS s i (fun q => { q with cache := nmap [] (resizeSet (keepWays s)) q.cache })) s

/-- Charge one later read by the same launch (R202): the line becomes least recently used when its count reaches 0. -/
def chargeLedger (launch line : Nat) (st : StackSt) : StackSt :=
  match st.ledger.find? (fun e => e.1 == launch && e.2.1 == line && decide (0 < e.2.2)) with
  | none => st
  | some e =>
    let st1 := { st with ledger := (updFirst (fun x => x == e) (fun x => (x.1, x.2.1, x.2.2 - 1)) st.ledger).filter (fun x => decide (0 < x.2.2)) }
    modSet st1 line (fun l =>
      match l.find? (fun c => c.line == line) with
      | none => l
      | some c =>
        let c' := { c with use := c.use - 1 }
        if c'.use = 0 then c' :: l.filter (fun x => x.line != line) else updFirst (fun x => x.line == line) (fun _ => c') l)

/-- Enter a LAST hint in the ledger and raise the line's use count, within R203's limits. -/
def enterLedger (launch line use : Nat) (st : StackSt) : StackSt :=
  if (st.ledger.filter (fun e => e.1 == launch)).length < 32 ∧ useOf st line + use ≤ 255 ∧ cached st line then
    modSet { st with ledger := st.ledger ++ [(launch, line, use)] } line
      (updFirst (fun c => c.line == line) (fun c => { c with use := c.use + use }))
  else st

/-- A read of one line through the controller with a hint. -/
def cacheRead (s : State) (launch hint use line : Nat) : State :=
  modS s (line % 8) (fun st =>
    let st1 := chargeLedger launch line (touchLine (keepWays s) hint line st)
    if hint = 3 then enterLedger launch line use st1 else st1)

/-- Release what a launch's ledger still holds (R204). -/
def releaseLedger (s : State) (launch : Nat) : State :=
  (List.range 8).foldl (fun s i => modS s i (fun st =>
    let mine := st.ledger.filter (fun e => e.1 == launch)
    let st1 := mine.foldl (fun st e => modSet st e.2.1 (fun l =>
      match l.find? (fun c => c.line == e.2.1) with
      | none => l
      | some c =>
        let c' := { c with use := c.use - e.2.2 }
        if c'.use = 0 then c' :: l.filter (fun x => x.line != e.2.1) else updFirst (fun x => x.line == e.2.1) (fun _ => c') l)) st
    { st1 with ledger := st1.ledger.filter (fun e => e.1 != launch) })) s

end Sys2Proof.Machine
end

