-- ==== Sys2Proof/Machine/Defects.lean ====
section
/-! DEFINITION. Two-copy structures of the boot flash and the field defect map (17_bringup.md R519, R522, R523). -/

namespace Sys2Proof.Machine

/-! ### Two copies (R519) -/

/-- The generation of a copy with an 8-byte tag, a generation and a digest over everything before it; none where either
check fails. -/
def copyGen (tag len : Nat) (b : Bytes) : Option Nat :=
  if len ≤ b.length ∧ b.take 8 = beBytes 8 tag ∧ slice b (len - 32) 32 = sha256 (b.take (len - 32)) then some (fld b 8 8) else none

/-- The second copy is the one a reader takes: it alone is valid, or its generation is the higher. -/
def secondNewer (a b : Option Nat) : Bool :=
  match a, b with
  | _, none => false
  | none, some _ => true
  | some x, some y => decide (x < y)

/-- Bits of a set as a byte string of `n` bytes. -/
def setBytes (n : Nat) (x : NSet) : Bytes := leBytes n ((x.map (2 ^ ·)).foldl (· + ·) 0)
/-- The set of the bits of a byte string. -/
def bytesSet (b : Bytes) : NSet := (List.range (8 * b.length)).filter (bit (leNat b))

/-! ### The defect map (Table Boot-4) -/

/-- Tag of the field defect map, TQDEFMP1. -/
def mapTag : Nat := 0x54514445464D5031
/-- Its length. -/
def mapLen : Nat := 896

/-- The 32 map bytes of a stack: the map of the logical pseudo-channels with failure marks, and two reserved bytes. -/
def stackMapBytes (s : State) (i : Nat) : Bytes :=
  (List.range 30).flatMap (fun l => leBytes 1 ((getS s i).pcMap.getD l 0 + (if smem s.defects.failed (32 * i + l) then 128 else 0)))
  ++ zeros 2

/-- Fenced BCUs by physical pseudo-channel. -/
def fencedPhysical (s : State) : NSet :=
  (List.range 8).flatMap (fun i => (getS s i).fenced.map (fun f => 512 * i + f))

/-- The map in force from its skeins on: bytes 16 to 863. -/
def mapBody (s : State) : Bytes :=
  setBytes 17 s.defects.skeins ++ zeros 3 ++ (List.range 8).flatMap (stackMapBytes s) ++ setBytes 512 (fencedPhysical s)
  ++ (List.range 8).flatMap (fun p => leBytes 1 (getP s p).retired.toNat) ++ setBytes 40 s.weave.permanent
  ++ setBytes 4 s.defects.engines ++ zeros 8

/-- The field map's body, empty where neither copy is valid. -/
def fieldBody (s : State) : Bytes :=
  let a := copyGen mapTag mapLen s.flash.map0
  let b := copyGen mapTag mapLen s.flash.map1
  if secondNewer a b then slice s.flash.map1 16 848 else if a.isSome then slice s.flash.map0 16 848 else []

/-- Write the map in force to the field map, to the copy not written last, when the two differ (R499, R522, R523). -/
def persistMap (s : State) : State :=
  let a := copyGen mapTag mapLen s.flash.map0
  let b := copyGen mapTag mapLen s.flash.map1
  let body := mapBody s
  if body = fieldBody s then s
  else
    let gen := max (a.getD 0) (b.getD 0) + 1
    let h := beBytes 8 mapTag ++ leBytes 8 gen ++ body
    let m := h ++ sha256 h
    if secondNewer a b then { s with flash := { s.flash with map0 := m } } else { s with flash := { s.flash with map1 := m } }

end Sys2Proof.Machine
end

