-- ==== Sys2Proof/Machine/Recover.lean ====
section
/-! DEFINITION. Ending launches, discarding executions, events and re-execution (15_integrity.md, 02_architecture.md
Faults, 11_submission.md Completion records). -/

namespace Sys2Proof.Machine

/-! ### Status codes (Table Submit-8) -/

namespace Status
/-- SUCCESS. -/
def success : Nat := 0x0000
/-- ENVELOPE-REJECTED. -/
def rejected : Nat := 0x0001
/-- PARTIAL. -/
def partial_ : Nat := 0x0100
/-- PROGRAM-FAULT. -/
def programFault : Nat := 0x0101
/-- MEMORY-LOST. -/
def memoryLost : Nat := 0x0102
/-- SILENT-ERROR. -/
def silentError : Nat := 0x0103
/-- CANCELLED. -/
def cancelled : Nat := 0x0104
/-- ABORTED-BY-RESET. -/
def aborted : Nat := 0x0105
/-- HANG. -/
def hang : Nat := 0x0106
/-- DESCRIPTOR-INVALID. -/
def descriptorInvalid : Nat := 0x0200
/-- SEQ-MISMATCH. -/
def seqMismatch : Nat := 0x0201
/-- REPLAY-MISMATCH. -/
def replayMismatch : Nat := 0x0202
/-- ACCORD-MISMATCH. -/
def accordMismatch : Nat := 0x0203
/-- NOT-ADMITTING. -/
def notAdmitting : Nat := 0x0204
/-- RING-OVERRUN. -/
def ringOverrun : Nat := 0x0205
end Status

/-! ### Records -/

/-- Bytes 8 to 255 of an unsealed record (R343). -/
def unsealedBody (id tag ring detail seq word : Nat) (cursor : Bytes) (k : Nat) : Bytes :=
  leBytes 8 id ++ leBytes 8 tag ++ leBytes 1 ring ++ zeros 1 ++ leBytes 2 detail ++ leBytes 4 seq ++ zeros 20
  ++ leBytes 4 word ++ zeros 8 ++ zeros 160 ++ fit 24 cursor ++ leBytes 4 k ++ zeros 4

/-- Queue a finished record of a tenant. -/
def pushRecord (s : State) (t : Nat) (r : Record) : State := modT s t (fun c => { c with finished := c.finished ++ [r] })

/-! ### Contexts and executions -/

/-- The near-bank steps that still run for an execution run to their end and their results are discarded; what waited at a bank for
it waits no longer (R253). -/
def orphanSteps (s : State) (launch ex : Nat) : State :=
  (List.range 8).foldl (fun s i => modS s i (fun q => { q with
    steps := q.steps.map (fun x => if x.owner.any (fun o => o.launch == launch && o.ex == ex) then { x with owner := none } else x)
    held := q.held.filter (fun a => match a.what with
      | .host _ _ => true
      | .word l e => l != launch || e != ex
      | .entry o => o.launch != launch || o.ex != ex) })) s

/-- Take an execution out of its skein's launch queue: its streams end, its jobs, strands and words are gone (R314). -/
def dropCtx (s : State) (k launch ex : Nat) : State :=
  orphanSteps (modK s k (fun q => { q with queue := q.queue.filter (fun c => c.launch != launch || c.ex != ex) })) launch ex

/-- Forget what the stack controllers hold for an execution: accepted tally addends. -/
def dropAddends (s : State) (launch ex : Nat) : State :=
  (List.range 8).foldl (fun s i => modS s i (fun st =>
    { st with addends := st.addends.filter (fun a => a.launch != launch || a.ex != ex) })) s

/-- Discard an execution: its splices are recalled (R155), its place on a skein is freed. -/
def discardExec (s : State) (launch ex : Nat) : State :=
  match (findL s launch).bind (fun l => getX l ex) with
  | none => s
  | some x =>
    let s1 := match x.skein with
      | some k => dropCtx s k launch ex
      | none => s
    let s2 := dropAddends (recallExec s1 launch ex) launch ex
    let s3 := modX s2 launch ex (fun x => { x with phase := .dropped, skein := none, ckpts := [] })
    if x.role = .primary then modL s3 launch (fun l => { l with discarded := true }) else s3

/-- Discard every execution of a launch. -/
def discardAll (s : State) (launch : Nat) : State :=
  match findL s launch with
  | none => s
  | some l => (List.range l.execs.length).foldl (fun s e => discardExec s launch e) s

/-- End a launch with an unsealed status (R41): recall, free its skeins, finish its record (R342, R343). -/
def endLaunch (s : State) (id status detail word : Nat) (cursor : Bytes) (k : Nat) : State :=
  match findL s id with
  | none => s
  | some l =>
    let s1 := releaseLedger (discardAll s id) id
    let r : Record :=
      { status, bits := if l.reexecuted then 1 else 0, irq := dIrq l.desc, launch := id, ids := l.ids, alert := false,
        body := unsealedBody id (dTag l.desc) l.ring detail l.seq.toNat word cursor k }
    pushRecord (modL s1 id (fun l => { l with stage := .finished })) l.tenant r

/-! ### Events (R494) -/

/-- Channel kinds of Table Integrity-6. -/
def chSkein : Nat := 0
/-- A section (R557). -/
def chSection : Nat := 5
/-- A pseudo-channel: 32 × stack + physical number. -/
def chPc : Nat := 1
/-- A BCU: 512 × stack + 16 × physical pseudo-channel + bank. -/
def chBcu : Nat := 2
/-- A lanyard lane: 8 × port + lane. -/
def chLane : Nat := 3

/-- The event record of a channel. -/
def channel (s : State) (kind index : Nat) : Channel :=
  (s.itg.channels.find? (fun c => c.kind == kind && c.index == index)).getD { kind, index, times := [], permanent := false }

/-- Count one event on a channel: the state, and whether this event makes the channel permanent. -/
def event (s : State) (kind index : Nat) : State × Bool :=
  let c := channel s kind index
  if c.permanent then (s, false)
  else
    let now := s.clk.time.toNat
    let times := now :: c.times.filter (fun t => decide (now ≤ t + rget s Reg.eventWindow * 1000000000))
    let perm := decide (3 ≤ times.length)
    let c' : Channel := { c with times, permanent := perm }
    ({ s with itg := { s.itg with
        channels := c' :: s.itg.channels.filter (fun c => c.kind != kind || c.index != index) } }, perm)

/-! ### Skeins -/

/-- After a skein event it takes no dispatch until its self-test has passed (R496). -/
def skeinEvent (s : State) (k : Nat) : State :=
  modK s k (fun q => match q.mode with
    | .good | .testing => { q with mode := .testing, events := q.events + 1 }
    | _ => q)

/-- Executions that a skein holds without having issued their entry word move to other skeins and are not re-executions; what their
preload streams have fetched is dropped, and their LAST hints release their use counts (R59, R497). -/
def moveUnstarted (s : State) (k : Nat) : State :=
  let waiting := (getK s k).queue.filter (fun c => !c.started)
  let s1 := waiting.foldl (fun s c =>
    releaseLedger (modX s c.launch c.ex (fun x => { x with phase := .waiting, skein := none })) c.launch) s
  modK s1 k (fun q => { q with queue := q.queue.filter (·.started) })

/-- The physical skein that carries a logical number. -/
def physicalOf (s : State) (k : Nat) : Nat := s.weave.lsm.getD k 0xFF

/-- Mark a skein for retirement (R497); the persisted defect map carries it (R499). -/
def retireSkein (s : State) (k : Nat) : State :=
  if (getK s k).mode = .absent ∨ (getK s k).mode = .retiring then s
  else
    let s1 := moveUnstarted (modK s k (fun q => { q with mode := .retiring, events := 0 })) k
    let s2 := { s1 with weave := { s1.weave with retire := s1.weave.retire ||| BitVec.twoPow 128 k },
                        defects := { s1.defects with skeins := sadd s1.defects.skeins (physicalOf s k) } }
    msix (logErr (persistMap s2) Err.skeinRetired noTenant k (physicalOf s k)) 0 5

/-- The role of the execution that replaces one: a re-execution for the primary (R476), the same for the others (R490). -/
def again : Role → Role
  | .primary => .reexec
  | r => r

/-- A fresh execution of a launch, waiting for a skein; it sets RE-EXECUTED unless it is an audit. -/
def addExec (s : State) (launch : Nat) (r : Role) (p : Place) : State :=
  modL s launch (fun l => { l with execs := l.execs ++ [Exec.fresh r p], reexecuted := l.reexecuted || r != .audit })

/-- One execution whose skein failed: it restarts from its newest checkpoint image (R489), or is discarded and dispatched
again as a new execution (R58, R154, R490), away from what failed. -/
def restartExec (s : State) (away : Place) (launch ex : Nat) : State :=
  match (findL s launch).bind (fun l => getX l ex) with
  | none => s
  | some x =>
    let p : Place := { skeins := away.skeins ++ x.place.skeins, sections := away.sections ++ x.place.sections }
    let s := releaseLedger s launch
    match x.ckpts with
    | c :: _ =>
      let n := c.core.emission
      let s1 := { s with fe := { s.fe with queue := s.fe.queue.filter (fun q => q.launch != launch || q.ex != ex || decide (q.index < n)) } }
      let s2 := recallIds s1 ((x.splices.drop n).filterMap (·.id))
      let s3 := modX (dropAddends (orphanSteps s2 launch ex) launch ex) launch ex (fun x =>
        { x with phase := .waiting, skein := none, place := p, resume := true, tally := c.tally, evidence := c.evidence,
                 splices := x.splices.take n })
      modL s3 launch (fun l => { l with reexecuted := true })
    | [] =>
      let s1 := discardExec s launch ex
      let s2 := addExec s1 launch (again x.role) p
      modL s2 launch (fun l => { l with reexecuted := true })

/-- A skein reset (Table Reset-1): its resident region is gone, and every execution on it is dispatched again (R58). -/
def clearSkein (s : State) (away : Place) (k : Nat) : State :=
  let q := (getK s k).queue
  q.foldl (fun s c => restartExec s away c.launch c.ex) (modK s k (fun q => { q with queue := [], resident := none }))

/-- A skein fails: every execution on it is dispatched again (R58, R154), and the event counts under R496. -/
def failSkein (s : State) (k : Nat) : State := skeinEvent (clearSkein s ⟨[k], []⟩ k) k

/-- A skein reset that counts no event: the skein passes its self-test before it takes dispatch (R496, R555). -/
def resetSkein (s : State) (k : Nat) : State :=
  modK (clearSkein s ⟨[k], []⟩ k) k (fun q => if q.mode = .good then { q with mode := .testing } else q)

/-! ### Re-execution of a whole launch -/

/-- Every execution of a launch that the checker has not decided is discarded and run again from the input-hold area
(R62, R223, R225: as under R58). -/
def reexecLaunch (s : State) (id : Nat) : State :=
  match findL s id with
  | none => s
  | some l =>
    if l.stage ≠ .running then s
    else releaseLedger ((l.execs.zip (List.range l.execs.length)).foldl (fun s p =>
      if p.1.phase = .dropped then s
      else addExec (discardExec s id p.2) id (again p.1.role) p.1.place) s) id

/-! ### Program faults (R158, R159) -/

/-- A program fault ends the execution. The launch reports it when an earlier execution met the same cause at the same word;
otherwise it runs once more on another skein, under the section rule of the execution it replaces (R490). DEDUCED (log 85):
where the re-execution faults with another cause or at another word, the fault has not repeated, and a further one follows. -/
def programFault (s : State) (k launch ex cause word : Nat) : State :=
  match findL s launch with
  | none => s
  | some l =>
    let repeated := l.execs.any (fun x => x.fault == some (cause, word))
    let s1 := modX s launch ex (fun x => { x with fault := some (cause, word) })
    if repeated then endLaunch s1 launch Status.programFault cause word [] 0
    else
      let skeins := l.execs.filterMap (fun x => if x.fault.isSome then some x.ran else none)
      let x? := getX l ex
      addExec (discardExec s1 launch ex) launch (again ((x?.map (·.role)).getD .reexec))
        { skeins := k :: skeins, sections := (x?.map (·.place.sections)).getD [] }

end Sys2Proof.Machine
end

