-- ==== Sys2Proof/Machine/Issue.lean ====
section
/-! DEFINITION. Issuing a control-core word: the checks every word passes and what its outcome does to the launch
(05_control_core.md Issue and completion, Faults). -/

namespace Sys2Proof.Machine

/-- What a launch's words need of it, under the accord it was bound to (R32). -/
def launchEnv (l : Launch) (ex : Nat) : Env :=
  { acc := l.accord, l, ex, res := resBytes l.accord, bank := bankBytes l.accord }

/-- The accord, launch and scratch layout of an execution on a skein. -/
def envOf (s : State) (x : SkeinCtx) : Option Env := (findL s x.launch).map (fun l => launchEnv l x.ex)

/-- Control cores issue: no power fail runs, and the launch is not the hung one (R160, R446). -/
def mayIssue (s : State) (launch : Nat) : Bool := !s.jrn.powerFail && s.fe.hang.all (fun h => h.launch != launch)

/-- What a word that issues leaves: the state, and the launch's core, none when the launch has left the skein. -/
abbrev Issued := Eff (State × Option Core)

/-- An OUT STMWAIT that has issued still waits for the sent mark (R301). -/
def held (c : Core) : Bool :=
  match c.hold with
  | none => false
  | some (n, target) => match nget none c.streams n with
    | some st => decide (st.w < target)
    | none => false

/-- Issue one word on skein k. With no launch running there, nothing happens (log 2). An illegal word is a skein fault
(R157). A word past the image, or past the budget, and a word that meets a fault end the execution (R149, R150, R158),
but only when no strand group of an earlier word runs, which may end it first (R128, DEDUCED, log 76); a PC past the image is
reported as the word index as it is (DESIGN CHOICE, log 90); a predicated-off word only counts (R129); a word that must wait leaves
the state as it was. -/
def issueWord (s : State) (k : Nat) (legal : Bool) (h : Hdr) (f : Env → State → Core → Issued) : State :=
  match running s k with
  | none => s
  | some x =>
    match envOf s x with
    | none => s
    | some e =>
      if !mayIssue s x.launch || held x.core then s
      else if !legal then failSkein s k
      else
        let c := { x.core with hold := none }
        let stop (cause : Nat) : State := if c.groups.isEmpty then programFault s k x.launch x.ex cause c.pc else s
        let budget := wordBudget e.acc (dProg e.l.desc)
        if imageLen e.acc ≤ c.pc then stop pfPc
        else if budget ≠ 0 ∧ budget ≤ c.words then stop pfBudget
        else
          let c1 := { c with pc := c.pc + 1, words := c.words + 1 }
          if !guardOn c h then modCore s k (fun _ => c1)
          else match f e s c1 with
            | .wait => s
            | .parked (s', _) => s'
            | .fault cause => stop cause
            | .done (s', some c') => modCore s' k (fun _ => c')
            | .done (s', none) => s'

/-- A word that changes nothing but the launch's own core. -/
def issueCore (s : State) (k : Nat) (legal : Bool) (h : Hdr) (f : Env → Core → Eff Core) : State :=
  issueWord s k legal h (fun e s c => match f e c with
    | .wait | .parked _ => .wait
    | .fault n => .fault n
    | .done c' => .done (s, some c'))

/-- A test of a word against the accord its launch is bound to (Table Core-10: targets, handles, descriptors, tables). -/
def fitsAccord (s : State) (k : Nat) (p : Env → Core → Bool) : Bool :=
  match running s k with
  | some x => match envOf s x with
    | some e => p e x.core
    | none => true
  | none => true

/-- Change the running launch's core by a unit's own event; nothing runs there, nothing happens (log 2). -/
def unitStep (s : State) (k : Nat) (f : Env → Core → Core) : State :=
  match running s k with
  | none => s
  | some x => match envOf s x with
    | none => s
    | some e => modCore s k (f e)

/-- The error-log entry of a word, with its word index (Table Reg-15); the core has moved past the word. -/
def logWord (s : State) (e : Env) (code a c : Nat) (core : Core) : State :=
  logErr s code e.l.tenant a ((core.pc - 1) % 2 ^ 24 + c * 2 ^ 24)

end Sys2Proof.Machine
end

