-- ==== Sys2Proof/Machine/TableOps.lean ====
section
/-! DEFINITION. Table descriptors, planes and versions, and what a launch may name (09_tables_epochs.md,
14_sillage.md R459). -/

namespace Sys2Proof.Machine

/-! ### Descriptor fields (Table Tables-2) -/

/-- Table handle. -/
def tHandle (d : Bytes) : Nat := fld d 0 2
/-- Kind: 1 ROW, 2 TALLY, 3 SEQUENCE. -/
def tKind (d : Bytes) : Nat := fld d 2 1
/-- Format code. -/
def tFmt (d : Bytes) : Nat := fld d 3 1
/-- Owner tenant. -/
def tOwner (d : Bytes) : Nat := fld d 4 1
/-- Element size in bytes. -/
def tSize (d : Bytes) : Nat := 2 ^ fld d 5 1
/-- Rows, cells or subjects. -/
def tCount (d : Bytes) : Nat := fld d 8 4
/-- Base row of a plane. -/
def tBase (d : Bytes) (plane : Nat) : Nat := fld d (12 + 2 * plane) 2
/-- DPA of the plane map. -/
def tMap (d : Bytes) : Nat := fld d 16 8
/-- DPA of the data area. -/
def tData (d : Bytes) : Nat := fld d 24 8
/-- Length of the data area. -/
def tLen (d : Bytes) : Nat := fld d 32 8
/-- L_max. -/
def tMax (d : Bytes) : Nat := 2 ^ fld d 40 1
/-- Segment pool size. -/
def tPool (d : Bytes) : Nat := fld d 44 4
/-- The descriptor with its placement fields set to 0 (R279). -/
def unplaced (d : Bytes) : Bytes := d.take 12 ++ zeros 28 ++ d.drop 40
/-- Elements of a row. -/
def tElems (d : Bytes) : Nat := tSize d * 8 / codeWidth (tFmt d)

/-- The schemas of an accord (section 0x07). -/
def schemas (a : Accord) : List Bytes := chunksOf 64 (section_ a 7)
/-- The schema that names a handle. -/
def schemaOf (a : Accord) (h : Nat) : Option Bytes := (schemas a).find? (fun d => tHandle d == h)
/-- The accord's schemas name a handle with a kind (Table Core-10). -/
def schemaKind (a : Accord) (h kind : Nat) : Bool := (schemaOf a h).any (fun d => tKind d == kind)

/-! ### Planes (R265) -/

/-- Bytes of a TALLY plane (R633). -/
def tallyPlane (n : Nat) : Nat := roundUp (64 * n) 256
/-- Bytes of a plane map. -/
def mapBytes (n : Nat) : Nat := roundUp ((n + 7) / 8) 256

/-- The plane-map bit of an element. -/
def planeBit (s : State) (d : Bytes) (r : Nat) : Nat :=
  if bit (fld (memRead s (tMap d + r / 8) 1) 0 1) (r % 8) then 1 else 0

/-- The plane a launch of an epoch reads (R265, R276). -/
def planeFor (s : State) (t : Table) (epoch r : Nat) : Nat :=
  let p := planeBit s t.desc r
  if epoch = s.fe.epoch.toNat ∧ smem t.young r then 1 - p else p

/-- The row of a plane. -/
def planeRow (s : State) (d : Bytes) (plane r : Nat) : Bytes := rowRead s (rowLoc (tSize d) (tBase d plane) r) (tSize d)
/-- The striped address of a cell's slot. -/
def cellAddr (d : Bytes) (plane r : Nat) : Nat := tData d + plane * tallyPlane (tCount d) + 64 * r
/-- The cell of a plane (R111). -/
def planeCell (s : State) (d : Bytes) (plane r : Nat) : Cell320 := leNat (memRead s (cellAddr d plane r) 40)

/-- A table is registered for launches of an epoch (R263, R632). -/
def liveAt (t : Table) (epoch : Nat) : Bool := decide (t.since ≤ epoch) && t.retired.all (fun e => decide (epoch < e))
/-- The table with a handle for launches of an epoch. -/
def tableAt (s : State) (h epoch : Nat) : Option Table := s.tables.find? (fun t => tHandle t.desc == h && liveAt t epoch)
/-- Change the table with a handle that is registered in an epoch. -/
def modTable (s : State) (h epoch : Nat) (f : Table → Table) : State :=
  { s with tables := updFirst (fun t => tHandle t.desc == h && liveAt t epoch) f s.tables }

/-- The striped bytes an element occupies in one plane, as runs of address and length. -/
def rowRuns (d : Bytes) (plane r : Nat) : List (Nat × Nat) :=
  let p := rowLoc (tSize d) (tBase d plane) r
  (List.range ((tSize d + 255) / 256)).map (fun i => (stripedOf { p with byte := p.byte + 256 * i }, min (tSize d) 256))
/-- The striped lines of a row. -/
def rowLines (d : Bytes) (plane r : Nat) : List Nat := (rowRuns d plane r).map (fun x => x.1 / 256)
/-- The striped addresses of every line of a table: both planes and the plane map. -/
def tableLines (d : Bytes) : List Nat :=
  let elements := (List.range (tCount d)).flatMap (fun r => match tKind d with
    | 1 => ((rowRuns d 0 r ++ rowRuns d 1 r).map (fun x => x.1 / 256 * 256))
    | 2 => [cellAddr d 0 r / 256 * 256, cellAddr d 1 r / 256 * 256]
    | _ => [])
  elements ++ (List.range (mapBytes (tCount d) / 256)).map (fun i => tMap d + 256 * i)
/-- The lines of the plane map that hold the bits of some elements. -/
def mapLines (d : Bytes) (l : List Nat) : List Nat :=
  ((l.filter (fun r => decide (r < tCount d))).map (fun r => (tMap d + r / 8) / 256)).eraseDups
/-- A line holds a lost burst. -/
def lineLost (s : State) (line : Nat) : Bool := s.lostBursts.any (fun b => b / 8 == line)
/-- The lines of a run that hold a lost burst (R625). -/
def runLost (s : State) (a n : Nat) : List Nat :=
  ((s.lostBursts.filter (fun b => decide (b * 32 < a + n ∧ a < b * 32 + 32))).map (· / 8)).eraseDups

/-! ### What a launch names (R263, R264, R459) -/

/-- What a table word reads from: a live table, or a table of the replay arena. -/
inductive Source where
  | live (t : Table)
  | arena (t : ArenaTable)

/-- Its descriptor. -/
def Source.desc : Source → Bytes
  | .live t => t.desc
  | .arena t => t.desc

/-- The plane-map lines that a read of some elements needs; the arena has no planes. -/
def Source.maps (src : Source) (l : List Nat) : List Nat :=
  match src with
  | .live t => mapLines t.desc l
  | .arena _ => []

/-- The table a launch may name by a handle; none is TABLE-ACCESS (R263, R264, R459). DEDUCED (log 75): for a replay launch the
tenant in JRN_ARENA_TENANT stands in the owner's place. -/
def sourceOf (s : State) (e : Env) (h : Nat) : Option Source :=
  if dIsReplay e.l.desc then
    match s.jrn.arena.tables.find? (fun t => tHandle t.desc == h) with
    | some t =>
      if (schemaOf e.acc h).isSome ∧ s.jrn.arena.state = 2 ∧ (e.l.tenant = rget s Reg.arenaTenant ∨ e.l.tenant = 0)
      then some (.arena t) else none
    | none => none
  else match tableAt s h e.l.epoch with
    | some t => if (schemaOf e.acc h).isSome ∧ (tOwner t.desc = e.l.tenant ∨ e.l.tenant = 0) then some (.live t) else none
    | none => none

/-- One element as a launch reads it. -/
inductive Got (α : Type) where
  /-- Its value, and the lines read that hold a lost burst. -/
  | value (a : α) (lost : List Nat)
  /-- In range, but missing from the arena (R460). -/
  | absent
  /-- At or beyond the count (R242, R284). -/
  | beyond

/-- A row in the launch's version. -/
def gotRow (s : State) (e : Env) (src : Source) (r : Nat) : Got Bytes :=
  if tCount src.desc ≤ r then .beyond
  else match src with
    | .live t =>
      let p := planeFor s t e.l.epoch r
      .value (planeRow s t.desc p r) ((rowRuns t.desc p r).flatMap (fun x => runLost s x.1 x.2))
    | .arena t => match nget none t.rows r with
      | some b => .value b []
      | none => .absent

/-- A cell in the launch's version. -/
def gotCell (s : State) (e : Env) (src : Source) (r : Nat) : Got Cell320 :=
  if tCount src.desc ≤ r then .beyond
  else match src with
    | .live t =>
      let p := planeFor s t e.l.epoch r
      .value (planeCell s t.desc p r) (runLost s (cellAddr t.desc p r) 64)
    | .arena t => match nget none t.rows r with
      | some b => .value (leNat b) []
      | none => .absent

/-- A subject's version. -/
def gotSubject (s : State) (e : Env) (src : Source) (r : Nat) : Got SeqVer :=
  if tCount src.desc ≤ r then .beyond
  else match src with
    | .live t =>
      let sub := nget Subject.empty t.subjects r
      .value (if planeFor s t e.l.epoch r = 0 then sub.p0 else sub.p1) ((Config.subjectLines t.desc r).filter (lineLost s))
    | .arena t => match nget none t.seqs r with
      | some v => .value v []
      | none => .absent

/-- A launch read a lost line: it is re-executed once the line is rebuilt (R223), or ends MEMORY-LOST when its table is
lost (R224). -/
def noteReader (s : State) (launch : Nat) (lost : List Nat) : State :=
  { s with lostReaders := (lost.map (fun line => (line, launch))).foldl (fun l x => if x ∈ l then l else x :: l) s.lostReaders }
/-- The launch of a word read a lost line. -/
def noteLost (s : State) (e : Env) (lost : List Nat) : State := noteReader s e.l.id lost

/-- The table's rebuild has failed (R224). -/
def sourceDead : Source → Bool
  | .live t => t.lost
  | .arena _ => false

/-- A replay launch met an in-range element that the arena lacks: it ends MEMORY-LOST (R460). -/
def arenaAbsent (s : State) (e : Env) (h r : Nat) : Issued :=
  .done (endLaunch (logErr s Err.replayRowAbsent e.l.tenant r h) e.l.id Status.memoryLost 0 0 [] 0, none)

/-- A launch read a line that cannot be rebuilt: it ends MEMORY-LOST (R224). -/
def deadTable (s : State) (e : Env) : Issued := .done (endLaunch s e.l.id Status.memoryLost 0 0 [] 0, none)

/-! ### Splice bodies (R266, R271, Tables Tables-3 and Tables-4) -/

/-- Kind of a body. -/
def bKind (b : Bytes) : Nat := fld b 2 1
/-- Format code. -/
def bFmt (b : Bytes) : Nat := fld b 3 1
/-- Payload length P. -/
def bLen (b : Bytes) : Nat := fld b 4 4
/-- Row, first cell or subject index. -/
def bIndex (b : Bytes) : Nat := fld b 8 8
/-- Byte offset of a ROW-PATCH. -/
def bOff (b : Bytes) : Nat := fld b 16 2
/-- Element count c. -/
def bCount (b : Bytes) : Nat := fld b 18 2
/-- Payload. -/
def bData (b : Bytes) : Bytes := slice b 24 (bLen b)

/-- The addend type a code of Table Memory-5 names. -/
def addKind (code : Nat) : Option AddKind :=
  match code with
  | 0 => some .fp32
  | 1 => some .int32
  | 2 => some .int64
  | _ => none

/-- A body of a launch's splice fits the table it names: kind, format, index, fields and padding (R271). -/
def spliceFits (d b : Bytes) : Bool :=
  let p := bLen b
  let n := tCount d
  let row := tKind d == 1 && bFmt b == tFmt d && decide (bIndex b < n) && bCount b == 0
  zeroAt b 20 4 && b.length == 24 + roundUp p 8 && zeroAt b (24 + p) (roundUp p 8 - p) && (bKind b == 2 || bOff b == 0)
  && (match bKind b with
      | 1 => row && p == tSize d
      | 2 => row && p % 8 == 0 && bOff b % 8 == 0 && decide (bOff b + p ≤ tSize d)
      | 3 => row && (codeFmt (tFmt d)).isFloat && (p == 8 || p == 8 + tSize d) && zeroAt b 28 4
      | 4 => tKind d == 2 && decide (1 ≤ bCount b ∧ bCount b ≤ 32) && decide (bIndex b + bCount b ≤ n)
             && (match addKind (bFmt b) with | some k => p == bCount b * k.size | none => false)
      | 5 => tKind d == 3 && bFmt b == 0 && decide (bIndex b < n) && decide (p ≤ 1024) && p == bCount b * tSize d
      | _ => false)

end Sys2Proof.Machine
end

