-- ==== Sys2Proof/Machine/SpliceOps.lean ====
section
/-! DEFINITION. What a splice makes of a row, a cell or a sequence (09_tables_epochs.md Table Tables-4), and the chain head
and manifests (R278, 13_lanyards.md R424). -/

namespace Sys2Proof.Machine

/-! ### New versions -/

/-- The new version of a row: ROW-PUT, ROW-PATCH or ROW-SCALE-ADD on its old version. -/
def newRow (d b old : Bytes) : Bytes :=
  match bKind b with
  | 1 => bData b
  | 2 => old.take (bOff b) ++ bData b ++ old.drop (bOff b + bLen b)
  | _ =>
    let f := codeFmt (tFmt d)
    let n := tElems d
    let scale := Fmt.fp32.val (fld b 24 4)
    let bias := if bLen b = 8 then List.replicate n (Val.zero false) else (unpackElems f n (slice b 32 (tSize d))).map f.val
    packElems f (((unpackElems f n old).zip bias).map (fun p => (finish f .rne (Val.fma .rne scale (f.val p.1) p.2)).1))

/-- Addend i of a TALLY-ADD. -/
def bAddend (b : Bytes) (i : Nat) : Val :=
  let k := (addKind (bFmt b)).getD .fp32
  k.val (fld b (24 + i * k.size) k.size)

/-- The new version of a sequence: the events appended, and the visible window of L_max (R283). -/
def newSeq (d b : Bytes) (v : SeqVer) : SeqVer :=
  let evs := (List.range (bCount b)).map (fun i => slice b (24 + i * tSize d) (tSize d))
  let l := v.events ++ evs
  { count := v.count + bCount b, events := l.drop (l.length - tMax d) }

/-! ### Chain head and manifest -/

/-- M of a list of bodies in manifest order (R278). -/
def bodiesDigest (bodies : List Bytes) : Bytes := sha256 (bodies.flatMap (fun b => leBytes 4 b.length ++ b))

/-- H(C + 1) (R278). -/
def chainHead (epoch : Nat) (head m : Bytes) : Bytes := sha256 (beBytes 8 0x5451434841494E31 ++ leBytes 8 epoch ++ head ++ m)

/-- A manifest (Table Lanyard-6). -/
def manifestBytes (epoch term anchor present : Nat) (swap : Option (Nat × Bytes)) (m : Bytes) (ids : List Nat) : Bytes :=
  beBytes 8 0x54514D414E494631 ++ leBytes 8 epoch ++ leBytes 4 term ++ leBytes 1 anchor ++ zeros 3 ++ leBytes 4 present
  ++ leBytes 4 ids.length ++ leBytes 4 ((swap.map (·.1)).getD 0) ++ zeros 4 ++ fit 32 ((swap.map (·.2)).getD []) ++ m
  ++ ids.flatMap (leBytes 8)

/-- Epoch of a manifest. -/
def manEpoch (b : Bytes) : Nat := fld b 8 8
/-- Term. -/
def manTerm (b : Bytes) : Nat := fld b 16 4
/-- Anchor. -/
def manAnchor (b : Bytes) : Nat := fld b 20 1
/-- M. -/
def manM (b : Bytes) : Bytes := slice b 72 32
/-- Splice IDs in order. -/
def manIds (b : Bytes) : List Nat := (List.range (fld b 28 4)).map (fun i => fld b (104 + 8 * i) 8)
/-- The accord swap it names. -/
def manSwap (b : Bytes) : Option (Nat × Bytes) := if fld b 32 4 = 0 then none else some (fld b 32 4, slice b 40 32)

/-- Plane 0's initial content as Table Sillage-5 gives it (R273). -/
def initialContent (s : State) (d : Bytes) : Bytes :=
  match tKind d with
  | 1 => (List.range (tCount d)).flatMap (planeRow s d 0)
  | 2 => (List.range (tCount d)).flatMap (fun i => memRead s (cellAddr d 0 i) 40)
  | _ => zeros (16 * tCount d)

end Sys2Proof.Machine
end

