-- ==== Sys2Proof/Machine/Reconstruct.lean ====
section
/-! DEFINITION. Base-note images, reading the journal back, and reconstruction (14_sillage.md R448 to R458). -/

namespace Sys2Proof.Machine

/-! ### Images (Table Sillage-5) -/

/-- A table's content in index order. -/
def contentBytes (t : ArenaTable) : Bytes :=
  let n := tCount t.desc
  match tKind t.desc with
  | 1 => (List.range n).flatMap (fun i => (nget none t.rows i).getD (zeros (tSize t.desc)))
  | 2 => (List.range n).flatMap (fun i => (nget none t.rows i).getD (zeros 40))
  | _ => (List.range n).flatMap (fun i =>
      let v := (nget none t.seqs i).getD ⟨0, []⟩
      leBytes 8 v.count ++ leBytes 4 v.events.length ++ zeros 4 ++ v.events.flatMap id)

/-- Read the subjects of a SEQUENCE content. -/
def readSubjects (e : Nat) : Nat → Nat → Bytes → NMap (Option SeqVer) → NMap (Option SeqVer)
  | 0, _, _, m => m
  | n + 1, i, b, m =>
    let len := fld b 8 4
    let v : SeqVer := { count := fld b 0 8, events := (List.range len).map (fun j => slice b (16 + j * e) e) }
    readSubjects e n (i + 1) (b.drop (16 + len * e)) (nput none m i (some v))

/-- Read a table's content. -/
def readContent (desc b : Bytes) : ArenaTable :=
  let n := tCount desc
  let fixed (size : Nat) : NMap (Option Bytes) := nputs none [] 0 ((List.range n).map (fun i => some (slice b (i * size) size)))
  match tKind desc with
  | 1 => { desc, rows := fixed (tSize desc), seqs := [] }
  | 2 => { desc, rows := fixed 40, seqs := [] }
  | _ => { desc, rows := [], seqs := readSubjects (tSize desc) n 0 b [] }

/-- Lay out the contents behind one another: directory entries and content bytes. -/
def layTables : Nat → List ArenaTable → Bytes × Bytes
  | _, [] => ([], [])
  | off, t :: l =>
    let c := contentBytes t
    let r := layTables (off + c.length) l
    (unplaced t.desc ++ leBytes 8 off ++ leBytes 8 c.length ++ sha256 c ++ r.1, c ++ r.2)

/-- A base-note image. -/
def imageBytes (epoch : Nat) (head : Bytes) (from_ : Nat) (tables : List ArenaTable) (carried : List (Nat × Nat × Bytes)) : Bytes :=
  let dir := 96 + 112 * tables.length
  let r := layTables dir tables
  let c := carried.flatMap (fun x => leBytes 8 x.1 ++ leBytes 1 x.2.1 ++ zeros 3 ++ leBytes 4 x.2.2.length ++ x.2.2)
  beBytes 8 0x5451424153453031 ++ leBytes 8 epoch ++ head ++ leBytes 8 from_ ++ leBytes 4 tables.length ++ leBytes 4 carried.length
  ++ leBytes 8 (dir + r.2.length) ++ leBytes 8 c.length ++ zeros 16 ++ r.1 ++ r.2 ++ c

/-- Read `u` splice records of a carried section. -/
def readCarried : Nat → Bytes → List (Nat × Nat × Bytes)
  | 0, _ => []
  | u + 1, b => (fld b 0 8, fld b 8 1, slice b 16 (fld b 12 4)) :: readCarried u (b.drop (16 + fld b 12 4))

/-- What an image holds. -/
structure Note where
  epoch   : Nat
  head    : Bytes
  from_   : Nat
  tables  : List ArenaTable
  digests : List Bytes
  carried : List (Nat × Nat × Bytes)
  length  : Nat
  digest  : Bytes
  deriving DecidableEq, Repr

/-- Read the image at the start of a byte string; none where its magic, its layout or a content digest does not match. -/
def readImage (b : Bytes) : Option Note :=
  let t := fld b 56 4
  let at_ := fld b 64 8
  let len := at_ + fld b 72 8
  let entry (i : Nat) : Bytes := slice b (96 + 112 * i) 112
  let content (i : Nat) : Bytes := slice b (fld (entry i) 64 8) (fld (entry i) 72 8)
  if slice b 0 8 = beBytes 8 0x5451424153453031 ∧ len ≤ b.length ∧ 96 + 112 * t ≤ at_ ∧ 16 * fld b 60 4 ≤ len
     ∧ (List.range t).all (fun i => sha256 (content i) == slice (entry i) 80 32) = true then
    some { epoch := fld b 8 8, head := slice b 16 32, from_ := fld b 48 8,
           tables := (List.range t).map (fun i => readContent ((entry i).take 64) (content i)),
           digests := (List.range t).map (fun i => slice (entry i) 80 32), carried := readCarried (fld b 60 4) (b.drop at_),
           length := len, digest := sha256 (b.take len) }
  else none

/-! ### Segments -/

/-- Read the record at the start of a byte string with its sequence number and length; none where the CRC or the type is
bad. -/
def readRec (b : Bytes) : Option (JrnRecord × Nat × Nat) :=
  let n := 24 + roundUp (fld b 4 4) 8
  if 24 ≤ b.length ∧ n ≤ b.length ∧ 1 ≤ fld b 0 1 ∧ fld b 0 1 ≤ 0x0B ∧ fld b (n - 8) 4 = (crc32c (b.take (n - 8))) then
    some ({ kind := fld b 0 1, body := slice b 16 (fld b 4 4) }, fld b 8 8, n)
  else none

/-- Read records to the trailer: the records before it and where the segment ends; none where it is damaged. -/
def readSeg (whole : Bytes) : Nat → Nat → List JrnRecord → Option (List JrnRecord × Nat)
  | 0, _, _ => none
  | fuel + 1, pos, acc => match readRec (whole.drop pos) with
    | none => none
    | some (r, _, n) =>
      if r.kind = 0x08 then (if r.body = sha256 (whole.take pos) then some (acc, pos + n) else none)
      else readSeg whole fuel (pos + n) (acc ++ [r])

/-- A closed segment as read: serial, previous trailer digest, own trailer digest, records. -/
structure SegRead where
  serial : Nat
  prev   : Bytes
  digest : Bytes
  recs   : List JrnRecord
  deriving DecidableEq, Repr

/-- Read the segment at the start of a byte string; its length is the second part. -/
def readSegment (b : Bytes) : Option (SegRead × Nat) :=
  match readSeg b (b.length / 24 + 1) 0 [] with
  | some (r :: l, n) =>
    if r.kind = 0x07 then
      some ({ serial := fld r.body 0 8, prev := slice r.body 8 32, digest := slice b (n - 40) 32, recs := l }, n)
    else none
  | _ => none

/-- Every record that stands in a byte string of records, to the first that does not check (R467). -/
def scanRecs : Nat → Bytes → List (JrnRecord × Nat)
  | 0, _ => []
  | fuel + 1, b => match readRec b with
    | none => []
    | some (r, q, n) => (r, q) :: scanRecs fuel (b.drop n)

/-! ### Reconstruction (R456, R457) -/

/-- What the procedure carries along. -/
structure Recon where
  epoch  : Nat
  head   : Bytes
  tables : List ArenaTable
  bodies : NMap (Option Bytes)
  states : NMap Nat
  mans   : NMap (Option Bytes)
  /-- The image it started from: epoch, head, replay-from serial, length and digest, as its BASE-NOTE record names them. -/
  noted  : Nat × Bytes × Nat × Nat × Bytes
  deriving DecidableEq, Repr

/-- Start from an image. -/
def Note.start (n : Note) : Recon :=
  { epoch := n.epoch, head := n.head, tables := n.tables, mans := [], noted := (n.epoch, n.head, n.from_, n.length, n.digest),
    bodies := n.carried.foldl (fun m x => nput none m x.1 (some x.2.2)) [],
    states := n.carried.foldl (fun m x => nput 0 m x.1 x.2.1) [] }

/-- Put a table in ascending order of handle. -/
def putTable (t : ArenaTable) : List ArenaTable → List ArenaTable
  | [] => [t]
  | x :: l => if tHandle t.desc < tHandle x.desc then t :: x :: l else x :: putTable t l

/-- apply(): one listed splice that was not refused; none where a registration image is missing (R457). -/
def applyBody (regs : List Note) (tables : List ArenaTable) (b : Bytes) : Option (List ArenaTable) :=
  let h := fld b 0 2
  match bKind b with
  | 0x10 =>
    let d := slice b 24 64
    let digest := slice b 88 32
    if tKind d = 3 then
      some (putTable { desc := d, rows := [], seqs := nputs none [] 0 (List.replicate (tCount d) (some ⟨0, []⟩)) } tables)
    else (regs.find? (fun n => n.digests == [digest])).bind (fun n => n.tables.head?.map (fun t => putTable { t with desc := d } tables))
  | 0x11 => some (tables.filter (fun t => tHandle t.desc != h))
  | _ =>
    let upd (t : ArenaTable) : ArenaTable :=
      match bKind b with
      | 4 => { t with rows := (List.range (bCount b)).foldl (fun m i =>
                 nmod none m (bIndex b + i) (fun o => o.map (fun c => leBytes 40 (cellAdd (leNat c) (bAddend b i))))) t.rows }
      | 5 => { t with seqs := nmod none t.seqs (bIndex b) (fun o => o.map (newSeq t.desc b)) }
      | _ => { t with rows := nmod none t.rows (bIndex b) (fun o => o.map (newRow t.desc b)) }
    some (updFirst (fun t => tHandle t.desc == h) upd tables)

/-- Failure reasons of Table Sillage-7. -/
def failChain : Nat := 1
/-- MANIFEST. -/
def failManifest : Nat := 2
/-- HEAD. -/
def failHead : Nat := 3
/-- GAP. -/
def failGap : Nat := 4

/-- Apply a manifest's bodies but the refused ones. -/
def applySet (regs : List Note) (refused : List Nat) : Nat → List Bytes → List ArenaTable → Option (List ArenaTable)
  | _, [], t => some t
  | i, b :: l, t =>
    if refused.contains i then applySet regs refused (i + 1) l t
    else (applyBody regs t b).bind (applySet regs refused (i + 1) l)

/-- The positions a BOUNDARY record lists as refused (Table Sillage-3). -/
def refusedOf (b : Bytes) : List Nat := (List.range (fld b 84 4)).map (fun i => fld b (104 + 4 * i) 4)

/-- The bodies of a set that is part of the state are no longer carried (R451). -/
def settled (q : Recon) (ids : List Nat) : Recon :=
  { q with bodies := ids.foldl (fun b i => nput none b i none) q.bodies, states := ids.foldl (fun b i => nput 0 b i 0) q.states }

/-- A BOUNDARY record met on the way: its checks, and the set applied. -/
def reconBoundary (regs : List Note) (q : Recon) (r : Bytes) : Except Nat Recon :=
  let epoch := fld r 0 8
  if epoch ≤ q.epoch then .ok (settled q ((nget none q.mans epoch).elim [] manIds))
  else if epoch ≠ q.epoch + 1 then .error failGap
  else match nget none q.mans epoch with
    | none => .error failManifest
    | some man =>
      let ids := manIds man
      let bodies := ids.filterMap (fun i => nget none q.bodies i)
      let m := bodiesDigest bodies
      let h := chainHead epoch q.head m
      if sha256 man ≠ slice r 40 32 ∨ bodies.length ≠ ids.length ∨ m ≠ manM man then .error failManifest
      else if h ≠ slice r 8 32 then .error failHead
      else match applySet regs (refusedOf r) 0 bodies q.tables with
        | none => .error failGap
        | some t => .ok (settled { q with epoch, head := h, tables := t } ids)

/-- A BASE-NOTE record met on the way: the one of the image the procedure started from names its digest (R456; DEDUCED,
log 78). -/
def reconNote (q : Recon) (r : Bytes) : Except Nat Recon :=
  if fld r 0 8 = q.noted.1 ∧ slice r 8 32 = q.noted.2.1 ∧ fld r 88 8 = q.noted.2.2.1 ∧ fld r 72 8 = q.noted.2.2.2.1
     ∧ fld r 84 4 = 0 ∧ slice r 40 32 ≠ q.noted.2.2.2.2 then .error failChain
  else .ok q

/-- One record on the way. -/
def reconRec (regs : List Note) (q : Recon) (r : JrnRecord) : Except Nat Recon :=
  match r.kind with
  | 0x01 => .ok { q with bodies := nput none q.bodies (fld r.body 0 8) (some (slice r.body 16 (fld r.body 12 4))) }
  | 0x02 => .ok ((chunksOf 16 r.body).foldl (fun q e =>
      let id := fld e 0 8
      if fld e 8 1 = 2 then { q with bodies := nput none q.bodies id none, states := nput 0 q.states id 0 }
      else { q with states := nput 0 q.states id 1 }) q)
  | 0x03 => .ok { q with mans := nput none q.mans (manEpoch r.body) (some r.body) }
  | 0x04 => reconBoundary regs q r.body
  | 0x05 => reconNote q r.body
  | _ => .ok q

/-- Run records until the target epoch is reached. -/
def reconRecs (regs : List Note) (target : Nat) : List JrnRecord → Recon → Except Nat Recon
  | [], q => .ok q
  | r :: l, q =>
    if q.epoch = target then .ok q
    else match reconRec regs q r with
      | .ok q' => reconRecs regs target l q'
      | .error n => .error n

/-- Records that have to reach the target epoch. -/
def reconRun (regs : List Note) (target : Nat) (l : List JrnRecord) (q : Recon) : Except Nat Recon :=
  match reconRecs regs target l q with
  | .ok q' => if q'.epoch = target then .ok q' else .error failGap
  | .error n => .error n

/-- Read and run segment after segment from the serial that is due: every record's CRC, the trailer digest, and the link to the
trailer of the segment before it, before its records run. Segments before the first one due are passed over. -/
def reconSegs (regs : List Note) (target : Nat) : Nat → Nat → Option Bytes → Bytes → Recon → Except Nat Recon
  | 0, _, _, _, q => if q.epoch = target then .ok q else .error failGap
  | fuel + 1, due, prev, b, q =>
    if q.epoch = target then .ok q
    else if b.isEmpty then .error failGap
    else match readSegment b with
      | none => .error failChain
      | some (g, n) =>
        if prev.isNone ∧ g.serial < due then reconSegs regs target fuel due prev (b.drop n) q
        else if g.serial ≠ due ∨ prev.any (· != g.prev) then .error failChain
        else match reconRecs regs target g.recs q with
          | .ok q' => reconSegs regs target fuel (due + 1) (some g.digest) (b.drop n) q'
          | .error e => .error e

/-- The whole procedure of R456 over exported segments joined in serial order. -/
def reconstruct (img : Note) (regs : List Note) (segs : Bytes) (target : Nat) : Except Nat Recon :=
  if target < img.epoch then .error failGap else reconSegs regs target (segs.length / 96 + 1) img.from_ none segs img.start

/-- Images at the start of a byte string, and what follows them. -/
def readImages : Nat → Bytes → List Note × Bytes
  | 0, b => ([], b)
  | fuel + 1, b => match readImage b with
    | none => ([], b)
    | some n => let r := readImages fuel (b.drop n.length); (n :: r.1, r.2)

/-! ### From the chip's own flash -/

/-- A base-note image of nothing at epoch 0, for a freshly formatted journal. -/
def emptyNote : Note :=
  { epoch := 0, head := zeros 32, from_ := 0, tables := [], digests := [], carried := [], length := 0, digest := [] }

/-- The BASE-NOTE record of the image at a base segment waits to be durable. -/
def noteWaits (s : State) (first : Nat) : Bool :=
  s.jrn.waiting.any (fun w => w.recs.any (fun r => r.kind == 0x05 && fld r.body 80 4 == first))

/-- The base-note images in effect, oldest first (R450). -/
def baseImages (s : State) : List Image := s.jrn.images.filter (fun i => !i.registration && !noteWaits s i.first)

/-- The newest base-note image of the base area. -/
def newestNote (s : State) : Note := (((baseImages s).getLast?).bind (fun i => readImage i.bytes)).getD emptyNote

/-- The newest base-note image that a reconstruction of an epoch can start from. -/
def noteFor (s : State) (target : Nat) : Note :=
  ((((baseImages s).filterMap (fun i => readImage i.bytes)).filter (fun n => decide (n.epoch ≤ target))).getLast?).getD emptyNote

/-- The registration images of the base area. -/
def flashRegs (s : State) : List Note := (s.jrn.images.filter (·.registration)).filterMap (fun i => readImage i.bytes)

/-- Every journal record in flash, oldest first. -/
def ringRecs (s : State) : List JrnRecord := s.jrn.ring.flatMap (fun g => (scanRecs (g.data.length / 24 + 1) g.data).map (·.1))

/-- Every journal record in flash and staging, oldest first. -/
def flashRecs (s : State) : List JrnRecord := ringRecs s ++ s.jrn.staged

/-- Rebuild the table state of an epoch from the newest image and some records. -/
def reconFrom (s : State) (recs : List JrnRecord) (target : Nat) : Except Nat Recon :=
  reconRun (flashRegs s) target recs (noteFor s target).start

/-- Rebuild the table state of an epoch from the chip's own journal. -/
def flashRecon (s : State) (target : Nat) : Except Nat Recon := reconFrom s (flashRecs s) target

/-- The newest BOUNDARY record in the journal (R291). -/
def lastBoundary (s : State) : Option Bytes := (((flashRecs s).filter (fun r => r.kind == 0x04)).getLast?).map (·.body)

/-- The highest launch-ID block durably reserved (R340). DESIGN CHOICE (log 92): only records still in the journal count, so
numbering restarts once the segment of the newest ID-RESERVE record has been reclaimed. -/
def lastBlock (s : State) : Option Nat :=
  (((flashRecs s).filter (fun r => r.kind == 0x0B)).map (fun r => fld r.body 0 8)).foldl (fun m b => some (max b (m.getD 0))) none

end Sys2Proof.Machine
end

