-- ==== Sys2Proof/Machine/Generation.lean ====
section
/-! DEFINITION. What the journal tells of the current group generation: the own splice counter, unsettled splices, and the memory
of splice IDs after a reset that lost it (09_tables_epochs.md R268, 13_lanyards.md R418 to R423). -/

namespace Sys2Proof.Machine

/-! ### Records of the current generation (log 91) -/

/-- The ACCORD record of a swap (Table Sillage-2). -/
def isSwap (r : JrnRecord) : Bool := r.kind == 0x06 && fld r.body 4 4 == 2

/-- The generation of the accord that the newest swap replaced. -/
def prevGen (s : State) : Nat := (s.fe.accordPrev.map accGen).getD 0

/-- From a list, newest first, the records up to the first sign of another generation: a segment head that names one, or the
newest swap where the accord before it had one. -/
def takeGen (gen prev : Nat) : Bool → List JrnRecord → List JrnRecord
  | _, [] => []
  | swapped, r :: l =>
    if r.kind = 0x07 then (if fld r.body 56 4 = gen then r :: takeGen gen prev swapped l else [])
    else if isSwap r ∧ swapped = false then (if prev = gen then r :: takeGen gen prev true l else [])
    else r :: takeGen gen prev swapped l

/-- The newest swap in the journal is the one that made the current accord current. -/
def swapNoted (s : State) : Bool :=
  ((flashRecs s).reverse.find? isSwap).all (fun r => s.fe.accordCur.any (fun a => slice r.body 8 32 == fit 32 a.digest))

/-- Journal records of the current group generation, oldest first. -/
def genRecs (s : State) : List JrnRecord :=
  if !swapNoted s ∧ prevGen s ≠ groupGen s then []
  else (takeGen (groupGen s) (prevGen s) false (flashRecs s).reverse).reverse

/-- The carried splices of the newest image, where its epoch began in the current generation (R451). -/
def carriedNow (s : State) : List (Nat × Nat × Bytes) :=
  let n := newestNote s
  if (genRecs s).any (fun r => r.kind == 0x04 && fld r.body 0 8 == n.epoch) then n.carried else []

/-- Records after the newest BOUNDARY record. -/
def afterBoundary (l : List JrnRecord) : List JrnRecord := (l.reverse.takeWhile (fun r => r.kind != 0x04)).reverse

/-! ### Own splices (R268, R422) -/

/-- A splice ID is this chip's own. -/
def isOwn (s : State) (id : Nat) : Bool := id / 2 ^ 59 == ownMember s

/-- The counter at which own splice IDs resume (R268). -/
def ownCounter (s : State) : Nat :=
  let recs := genRecs s
  let own := (afterBoundary recs).filterMap (fun r =>
    if r.kind = 0x01 ∧ isOwn s (fld r.body 0 8) then some (fld r.body 0 8 % 2 ^ 59) else none)
  let told := ((recs.filter (fun r => r.kind == 0x04)).getLast?).map (fun b => fld b.body 96 8)
  if told.isNone ∧ own.isEmpty then 0 else (own.foldl max (told.getD 0) / 2 ^ 32 + 1) * 2 ^ 32

/-- Own splices of the current generation that the journal shows neither seized nor recalled (R422). -/
def unsettled (s : State) : List Nat :=
  let recs := genRecs s
  let settled := (recs.filter (fun r => r.kind == 0x02)).flatMap (fun r => (chunksOf 16 r.body).filterMap (fun e =>
    if fld e 8 1 = 0 then none else some (fld e 0 8)))
  let bodies := (carriedNow s).filterMap (fun x => if x.2.1 = 0 then some x.1 else none)
    ++ recs.filterMap (fun r => if r.kind = 0x01 then some (fld r.body 0 8) else none)
  (bodies.filter (fun id => isOwn s id && !settled.contains id)).eraseDups

/-! ### The memory of splice IDs (R418 to R421) -/

/-- The IDs of the set that a BOUNDARY record closed: those of the manifest whose digest it names. -/
def closedIds (recs : List JrnRecord) (b : Bytes) : List Nat :=
  ((recs.find? (fun r => r.kind == 0x03 && sha256 r.body == slice b 40 32)).map (fun r => manIds r.body)).getD []

/-- A splice whose set has been applied. -/
def markApplied (s : State) (ids : List Nat) : State :=
  ids.foldl (fun s id => modSplice s id (fun r => { r with listed := true, applied := true, body := none })) s

/-- One record of the current generation, up to the boundary into an epoch. -/
def relearnRec (recs : List JrnRecord) (upTo : Nat) (s : State) (r : JrnRecord) : State :=
  match r.kind with
  | 0x01 => learnBody s (fld r.body 0 8) (r.body.drop 16)
  | 0x02 => (chunksOf 16 r.body).foldl (fun s e => learnState s (fld e 0 8) (fld e 8 1)) s
  | 0x04 => if fld r.body 0 8 ≤ upTo then markApplied s (closedIds recs r.body) else s
  | _ => s

/-- The chip learns again, from the newest image and the journal, every splice of the current generation that it staged, recalled
or applied up to the boundary into an epoch; what else it remembers stays. -/
def relearn (s : State) (upTo : Nat) : State :=
  let old := s.group.known
  let s1 := (carriedNow s).foldl (fun s x => let t := learnBody s x.1 x.2.2; if x.2.1 = 0 then t else learnState t x.1 x.2.1)
    { s with group := { s.group with known := [] } }
  let s2 := (genRecs s).foldl (relearnRec (genRecs s) upTo) s1
  { s2 with group := { s2.group with known := s2.group.known.foldl (fun l r => putSplice r l) old } }

end Sys2Proof.Machine
end

