-- ==== Sys2Proof/Machine/Flash.lean ====
section
/-! DEFINITION. The boot flash: boot control block, firmware images, accord images and the accord store
(17_bringup.md, 09_tables_epochs.md Accords). -/

namespace Sys2Proof.Machine

/-! ### Boot control block (Table Boot-2) -/

/-- What a boot control block holds. -/
structure Bcb where
  active   : Nat
  pending  : Bool
  countA   : Nat
  countB   : Nat
  reverted : Bool
  deriving DecidableEq, Repr

/-- Its tag, TQBOOTC1. -/
def bcbTag : Nat := 0x5451424F4F544331

/-- The generation of a copy; a reserved slot number makes it invalid. -/
def bcbGen (b : Bytes) : Option Nat := if fld b 16 1 < 2 then copyGen bcbTag 64 b else none

/-- Slot A, nothing pending, no failed boot: what an erased flash reads as (log 5). -/
def Bcb.erased : Bcb := { active := 0, pending := false, countA := 0, countB := 0, reverted := false }

/-- The boot control block in effect (R519). -/
def readBcb (s : State) : Bcb :=
  let g0 := bcbGen s.flash.bcb0
  let g1 := bcbGen s.flash.bcb1
  let of (b : Bytes) : Bcb := { active := fld b 16 1, pending := fld b 17 1 == 1, countA := fld b 18 1, countB := fld b 19 1,
                                reverted := bit (fld b 20 1) 0 }
  if secondNewer g0 g1 then of s.flash.bcb1 else if g0.isSome then of s.flash.bcb0 else Bcb.erased

/-- Write the boot control block to the copy not written last. -/
def writeBcb (s : State) (b : Bcb) : State :=
  let g0 := bcbGen s.flash.bcb0
  let g1 := bcbGen s.flash.bcb1
  let h := beBytes 8 bcbTag ++ leBytes 8 (max (g0.getD 0) (g1.getD 0) + 1) ++ leBytes 1 b.active
    ++ leBytes 1 (if b.pending then 1 else 0) ++ leBytes 1 b.countA ++ leBytes 1 b.countB
    ++ leBytes 1 (if b.reverted then 1 else 0) ++ zeros 11
  let c := h ++ sha256 h
  if secondNewer g0 g1 then { s with flash := { s.flash with bcb0 := c } } else { s with flash := { s.flash with bcb1 := c } }

/-- Failed-boot count of a slot. -/
def Bcb.count (b : Bcb) (slot : Nat) : Nat := if slot = 0 then b.countA else b.countB
/-- Set the failed-boot count of a slot. -/
def Bcb.setCount (b : Bcb) (slot n : Nat) : Bcb := if slot = 0 then { b with countA := n } else { b with countB := n }

/-! ### Firmware images (R520, R521) -/

/-- Bytes of a firmware slot. -/
def slotBytes : Nat := 32 * 2 ^ 20
/-- The image of a slot. -/
def slotImage (s : State) (slot : Nat) : Bytes := if slot = 0 then s.flash.slotA else s.flash.slotB
/-- The payload of an image. -/
def fwPayload (b : Bytes) : Bytes := slice b 4096 (fld b 24 8)
/-- Security version. -/
def fwSvn (b : Bytes) : Nat := fld b 12 4
/-- Firmware version. -/
def fwVersion (b : Bytes) : Nat := fld b 16 4

/-- The ROM accepts an image (R521, Table Boot-9). -/
def fwAccepted (s : State) (b : Bytes) : Bool :=
  let key := slice b 80 97
  let slot := fld b 10 2
  b.take 8 == beBytes 8 0x54514657494D4731 && fld b 8 2 == 1 && decide (fld b 24 8 ≤ slotBytes - 4096)
  && decide ((fwPayload b).length = fld b 24 8) && slice b 32 48 == sha384 (fwPayload b)
  && decide (slot < 4) && s.fuses.keys.getD slot [] == sha384 key && !s.fuses.revoked.getLsbD slot
  && ecVerify key (sha384 (b.take 180)) (slice b 180 96) && decide (s.fuses.counter ≤ fwSvn b ∧ fwSvn b ≤ 64)

/-- The image that runs. -/
def runningImage (s : State) : Bytes := slotImage s s.glb.running
/-- Store schema versions the running firmware parses; version 6 alone before any image has run (log 36). -/
def parsedRange (s : State) : Nat × Nat :=
  let b := runningImage s
  if b.length < 4096 then (6, 6) else (fld b 20 2, fld b 22 2)

/-! ### Accord images (R279) -/

/-- Sections as R279 lays them out, in ascending code (log 36). -/
def sectionBytes (l : List (Nat × Bytes)) : Bytes :=
  l.flatMap (fun p => leBytes 4 p.1 ++ leBytes 8 p.2.length ++ padTo 8 p.2)

/-- Read sections to the end; none where a code does not ascend, a length runs past the end or padding is not zero. -/
def readSections : Nat → Nat → Bytes → Option (List (Nat × Bytes))
  | 0, _, _ => none
  | fuel + 1, lo, b =>
    if b.isEmpty then some []
    else
      let code := fld b 0 4
      let len := fld b 4 8
      let whole := 12 + roundUp len 8
      if code < lo ∨ b.length < whole ∨ !zeroAt b (12 + len) (roundUp len 8 - len) then none
      else (readSections fuel (code + 1) (b.drop whole)).map (fun l => (code, slice b 12 len) :: l)

/-- The computation digest (R279). -/
def accordDigest (l : List (Nat × Bytes)) : Bytes :=
  sha256 (beBytes 8 0x5451414343524431 ++ sectionBytes (l.filter (fun p => decide (p.1 ≤ 9))))

/-- The header of an accord image. -/
def imageHeader (id schema : Nat) : Bytes := beBytes 8 0x5451414343494D47 ++ leBytes 4 id ++ leBytes 2 schema ++ zeros 2

/-- The image of an accord in a store schema version (R281, R532). -/
def accordImage (schema : Nat) (a : Accord) : Bytes :=
  let b := imageHeader a.id 6 ++ sectionBytes a.sections
  if schema = 6 then b else Config.schemaEncode schema b

/-- Schema version of an image. -/
def imageSchema (b : Bytes) : Nat := fld b 12 2

/-- Parse an image in its own version: the accord, its sections 0x20 to 0x22 laid out as in version 6. -/
def readAccord (b : Bytes) : Option Accord :=
  let six := if imageSchema b = 6 then some b else Config.schemaDecode (imageSchema b) b
  match six with
  | none => none
  | some b =>
    if b.take 8 ≠ beBytes 8 0x5451414343494D47 ∨ !zeroAt b 14 2 then none
    else (readSections (b.length + 1) 0 (b.drop 16)).map (fun l => { id := fld b 8 4, sections := l, digest := accordDigest l })

/-! ### The accord store (Table Boot-12) -/

/-- Its tag, TQSTORE1, and the size of a copy. -/
def storeTag : Nat := 0x545153544F524531
/-- Bytes of a copy. -/
def storeBytes : Nat := 48 * 2 ^ 20

/-- Lay images at multiples of 64 from an offset: the slot table, and the images with their padding. -/
def layImages : Nat → List (Option Bytes) → Bytes × Bytes
  | _, [] => ([], [])
  | off, none :: l => let r := layImages off l; (zeros 16 ++ r.1, r.2)
  | off, some b :: l =>
    let r := layImages (off + roundUp b.length 64) l
    (leBytes 8 off ++ leBytes 4 b.length ++ leBytes 1 1 ++ zeros 3 ++ r.1, padTo 64 b ++ r.2)

/-- A store of three slots in a schema version. -/
def storeImage (gen schema : Nat) (slots : List (Option Accord)) : Bytes :=
  let r := layImages 128 (slots.map (fun a => a.map (accordImage schema)))
  let len := 128 + r.2.length + 32
  let b := beBytes 8 storeTag ++ leBytes 8 gen ++ leBytes 2 schema ++ zeros 2 ++ leBytes 4 len ++ zeros 8 ++ r.1 ++ zeros 16
    ++ zeros 32 ++ r.2
  b ++ sha256 b

/-- The generation of a store copy. -/
def storeGen (b : Bytes) : Option Nat :=
  if 128 ≤ fld b 20 4 ∧ fld b 20 4 ≤ storeBytes then copyGen storeTag (fld b 20 4) b else none

/-- The store copy a reader takes, empty where neither is valid. -/
def storeCopy (s : State) : Bytes :=
  let g0 := storeGen s.flash.store0
  let g1 := storeGen s.flash.store1
  if secondNewer g0 g1 then s.flash.store1 else if g0.isSome then s.flash.store0 else []

/-- Read one slot of a store: none where it does not parse. -/
def readSlot (b : Bytes) (i : Nat) : Option (Option Accord) :=
  let e := slice b (32 + 16 * i) 16
  let image := slice b (fld e 0 8) (fld e 8 4)
  if fld e 12 1 = 0 then some none
  else if fld e 12 1 ≠ 1 ∨ !zeroAt e 13 3 ∨ fld e 0 8 % 64 ≠ 0 ∨ image.length ≠ fld e 8 4 ∨ imageSchema image ≠ fld b 16 2 then none
  else (readAccord image).map some

/-- The accords of a store, current, previous and staged; none where it does not parse (R533). -/
def readStore (b : Bytes) : Option (List (Option Accord)) :=
  match readSlot b 0, readSlot b 1, readSlot b 2 with
  | some x, some y, some z => if zeroAt b 18 2 ∧ zeroAt b 24 8 ∧ zeroAt b 80 16 then some [x, y, z] else none
  | _, _, _ => none

/-- Write the store in the running firmware's highest version to the copy not written last. -/
def writeStore (s : State) : State :=
  let g0 := storeGen s.flash.store0
  let g1 := storeGen s.flash.store1
  let b := storeImage (max (g0.getD 0) (g1.getD 0) + 1) (parsedRange s).2 [s.fe.accordCur, s.fe.accordPrev, s.fe.accordStaged]
  if secondNewer g0 g1 then { s with flash := { s.flash with store0 := b } } else { s with flash := { s.flash with store1 := b } }

/-- An ACCORD record: event 1 staged, 2 swapped in (Table Sillage-2). -/
def accordRecord (a : Accord) (event : Nat) : JrnRecord :=
  { kind := 0x06, body := leBytes 4 a.id ++ leBytes 4 event ++ fit 32 a.digest }

end Sys2Proof.Machine
end

