-- ==== Sys2Proof/Machine/PoolOps.lean ====
section
/-! DEFINITION. The pool of FE_HOLD_POOL (11_submission.md R341, 15_integrity.md R488). -/

namespace Sys2Proof.Machine

/-- Bytes of a launch's held inputs and constant block. -/
def inputBytes (d : Bytes) : Nat := ((List.range (dInputs d)).map (fun i => (dInput d i).2)).foldl (· + ·) 512
/-- Bytes of one execution's tally area and output shadow. -/
def areaBytes (d : Bytes) : Nat := 64 * dTally d + ((List.range (dOutputs d)).map (fun i => (dOutput d i).2)).foldl (· + ·) 0
/-- Bytes of one checkpoint image. DESIGN CHOICE (log 26): launch bank, tile registers and tally area; the layout is internal
(R487). -/
def ckptBytes (l : Launch) : Nat := bankBytes l.accord + 64 * 4096 + 64 * dTally l.desc

/-- An execution holds its area: reserved at admission for the first, taken at dispatch by the others. -/
def holdsArea (i : Nat) (x : Exec) : Bool := x.phase != .dropped && (i == 0 || x.phase != .waiting || x.resume)

/-- Pool bytes a launch holds. -/
def launchPool (l : Launch) : Nat :=
  inputBytes l.desc + ((l.execs.zip (List.range l.execs.length)).map (fun p =>
    (if holdsArea p.2 p.1 then areaBytes l.desc else 0) + p.1.ckpts.length * ckptBytes l)).foldl (· + ·) 0

/-- Pool bytes in use. -/
def poolUse (s : State) : Nat := (s.launches.map launchPool).foldl (· + ·) 0
/-- Pool bytes in all. -/
def poolBytes (s : State) : Nat := rget s Reg.holdPoolSize * 2 ^ 30

/-- Room for a re-execution's area or a checkpoint slot, the re-execution reserve included. -/
def poolRoom (s : State) (n : Nat) : Bool := decide (poolUse s + n ≤ poolBytes s)
/-- Room for an admission: the seven eighths outside the reserve. DEDUCED (log 26): all that is in use counts against them, the
areas of re-executions and the checkpoint slots too. -/
def admitRoom (s : State) (d : Bytes) : Bool := decide (poolUse s + inputBytes d + areaBytes d ≤ poolBytes s / 8 * 7)

end Sys2Proof.Machine
end

