-- ==== Sys2Proof/Machine/StreamOps.lean ====
section
/-! DEFINITION. Stream descriptors, their checks, marks and page faults (10_streams.md). -/

namespace Sys2Proof.Machine

/-! ### Descriptors (R292, R634, Table Streams-2) -/

/-- Read the 64 bytes of a stream descriptor; none where it carries a reserved value. DEDUCED (log 81): a stride or re-arm step of
0x8000_0000 is −2^31, and CONVERT in an NB descriptor is accepted and does nothing. -/
def readStream (b : Bytes) : Option StreamDesc :=
  let dir := fld b 0 1
  let space := fld b 1 1
  let opt := fld b 3 1
  let f := fld b 4 1
  let r := fld b 5 1
  let conv := bit opt 0
  let d : StreamDesc :=
    { dir, space, buf := fld b 2 1, convert := conv, persistent := bit opt 1, hint := bits opt 3 2, srcFmt := f % 16,
      dstFmt := f / 16, rnd := r % 8, sat := bit r 3, armings := fld b 6 2, off := fld b 8 8, ring := fld b 16 4,
      ringLen := fld b 20 4, counts := (List.range 5).map (fun i => fld b (24 + 4 * i) 4),
      strides := (List.range 4).map (fun i => signed 32 (fld b (44 + 4 * i) 4)), step := signed 32 (fld b 60 4) }
  let isNb := dir == 3
  let int4 := conv && (d.srcFmt == 11 || d.dstFmt == 11)
  if b.length = 64 ∧ 1 ≤ dir ∧ dir ≤ 3
     ∧ (match dir with | 1 => space == 0 || space == 2 | 2 => space == 1 | _ => space == 0) = true
     ∧ ((space = 2 ∨ isNb = true) → d.buf = 0)
     ∧ opt < 16 ∧ (dir ≠ 1 → d.hint = 0) ∧ (isNb = true → d.persistent = false)
     ∧ (if conv then (Fmt.ofCode d.srcFmt).isSome && (Fmt.ofCode d.dstFmt).isSome && (Rnd.ofCode d.rnd).isSome
                     && decide (r < 16)
        else f == 0 && r == 0) = true
     ∧ (if isNb then d.armings = 0 else 1 ≤ d.armings)
     ∧ (d.counts.all (fun n => if isNb then n == 0 else n != 0)) = true
     ∧ (int4 = true → d.counts.headD 0 % 2 = 0)
  then some d else none

/-- The descriptor a word names in the accord's descriptor area; none where the word is illegal for it. -/
def streamAt (a : Accord) (off : Nat) : Option StreamDesc :=
  let area := section_ a 6
  if off % 64 = 0 ∧ off + 64 ≤ area.length then readStream (slice area off 64) else none

/-! ### Positions (R293) -/

/-- Indices i0 to i4 of element `n` within an arming. -/
def elemIndex (counts : List Nat) (n : Nat) : List Nat :=
  match counts with
  | [] => []
  | c :: l => n % c :: elemIndex l (n / c)

/-- The sum of products of indices and strides. -/
def dotInt : List Nat → List Int → Int
  | i :: is, d :: ds => i * d + dotInt is ds
  | _, _ => 0

/-- The host-side byte offset of an element in stream order, from its number over all armings. -/
def hostOffset (st : Stream) (e : Nat) : Int :=
  let d := st.desc
  let per := perArming d
  let ix := elemIndex d.counts (e % per)
  let within := match ix with
    | i0 :: rest => ((hostBytes d i0 : Nat) : Int) + dotInt rest d.strides
    | [] => 0
  (st.base : Int) + ((e / per : Nat) : Int) * d.step + within

/-- The least and greatest value of a list of steps taken 0 to count − 1 times each. -/
def spread : List Nat → List Int → Int × Int
  | c :: cs, d :: ds =>
    let r := spread cs ds
    let m : Int := ((c - 1 : Nat) : Int) * d
    if m < 0 then (r.1 + m, r.2) else (r.1, r.2 + m)
  | _, _ => (0, 0)

/-- The extreme host-side bytes of armings `k0` to `k1` − 1: first byte, and one past the last (R299). -/
def hostExtent (st : Stream) (k0 k1 : Nat) : Int × Int :=
  let d := st.desc
  let r := spread (d.counts.drop 1) d.strides
  let a : Int := (st.base : Int) + (k0 : Int) * d.step
  let b : Int := (st.base : Int) + ((k1 : Int) - 1) * d.step
  (min a b + r.1, max a b + r.2 + (hostBytes d (d.counts.headD 0) : Nat))

/-- Bytes of what a stream reads or writes on the host side; 0 for a buffer the launch does not have. -/
def sideLength (e : Env) (d : StreamDesc) : Nat :=
  match d.space with
  | 0 => if d.buf < dInputs e.l.desc then (dInput e.l.desc d.buf).2 else 0
  | 1 => if d.buf < dOutputs e.l.desc then (dOutput e.l.desc d.buf).2 else 0
  | _ => (section_ e.acc 6).length

/-- Every element of armings `k0` to `k1` − 1 lies within its buffer or the descriptor area. -/
def extentOk (e : Env) (st : Stream) (k0 k1 : Nat) : Bool :=
  let x := hostExtent st k0 k1
  decide (0 ≤ x.1 ∧ x.2 ≤ (sideLength e st.desc : Nat))

/-- The runs of consecutive host bytes of armings `k0` to `k1` − 1: offset and length. -/
def hostRuns (st : Stream) (k0 k1 : Nat) : List (Int × Nat) :=
  let per := perArming st.desc
  let n0 := st.desc.counts.headD 1
  (List.range ((k1 - k0) * per / n0)).map (fun r => (hostOffset st (k0 * per + r * n0), hostBytes st.desc n0))

/-- Two streams of one output buffer reach a common byte. -/
def runsMeet (xs ys : List (Int × Nat)) : Bool := xs.any (fun x => ys.any (fun y => decide (x.1 < y.1 + y.2 ∧ y.1 < x.1 + x.2)))

/-- Armings `k0` to `k1` − 1 of an OUT stream overlap no other open OUT stream of the launch (R299, R306). DEDUCED (log 82):
only streams of one output buffer can overlap, whatever host addresses their buffers have. -/
def outClear (c : Core) (n : Nat) (st : Stream) (k0 k1 : Nat) : Bool :=
  c.streams.all (fun p => match p.2 with
    | some o =>
      p.1 == n || !o.desc.isOut || o.desc.buf != st.desc.buf
      || (let x := hostExtent st k0 k1
          let y := hostExtent o 0 o.armings
          decide (x.2 ≤ y.1 ∨ y.2 ≤ x.1) || !runsMeet (hostRuns st k0 k1) (hostRuns o 0 o.armings))
    | none => true)

/-- The ring lies within the launch bank, base and length multiples of 256 (R299, Table Streams-4). -/
def ringOk (e : Env) (st : Stream) : Bool :=
  decide (st.ring % 256 = 0 ∧ st.desc.ringLen % 256 = 0 ∧ 256 ≤ st.desc.ringLen ∧ e.res ≤ st.ring
          ∧ st.ring + st.desc.ringLen ≤ e.top)

/-- A stream as STMOPEN opens it, with what SA and SB add. -/
def freshStream (d : StreamDesc) (addOff addRing : Nat) : Stream :=
  { desc := d, base := d.off + addOff, ring := d.ring + addRing, armings := d.armings, w := 0, q := 0, present := [],
    flags := [], ranges := [] }

/-- Stream n of a core. -/
def getStream (c : Core) (n : Nat) : Option Stream := nget none c.streams n
/-- Set or end stream n. -/
def setStream (c : Core) (n : Nat) (st : Option Stream) : Core := { c with streams := nput none c.streams n st }

/-- The checks of STMOPEN (R299). -/
def openOk (e : Env) (c : Core) (n : Nat) (st : Stream) : Bool :=
  (getStream c n).isNone && ringOk e st
  && (st.desc.dir == 3 || (extentOk e st 0 st.armings && (!st.desc.isOut || outClear c n st 0 st.armings)))

/-! ### Marks -/

/-- The watermark moves over the bytes present beyond it (R294); `fuel` bounds the run. -/
def advance : Nat → Nat → NSet → Nat × NSet
  | 0, w, p => (w, p)
  | fuel + 1, w, p => if smem p w then advance fuel (w + 1) (sdel p w) else (w, p)

/-- Round a mark down to a unit boundary (R636). -/
def unitFloor (st : Stream) (m : Nat) : Nat := m / unitRing st.desc * unitRing st.desc

/-- Flags of the units whose last byte lies below `q` join the launch's (R302). -/
def releaseFlags (c : Core) (st : Stream) (q : Nat) : Core × Stream :=
  let u := unitRing st.desc
  let passed := st.flags.filter (fun p => decide ((p.1 + 1) * u ≤ q))
  (addFlags c (flagUnion (passed.map (·.2))), { st with flags := st.flags.filter (fun p => !decide ((p.1 + 1) * u ≤ q)) })

/-- The end of the last range a word took in an NB stream (R303). -/
def rangesEnd (st : Stream) : Nat := match st.ranges.getLast? with | some r => r.start + r.len | none => 0

/-- An NB stream's watermark moves over the ranges whose results have been delivered, in order. -/
def advanceRanges (st : Stream) : Stream :=
  let w := st.ranges.foldl (fun w r => if r.done && r.start == w then r.start + r.len else w) st.w
  { st with w, ranges := st.ranges.filter (fun r => decide (w < r.start + r.len) || r.start + r.len == rangesEnd st) }

/-- Write ring bytes from stream byte `b` on (R293). -/
def ringWrite (e : Env) (c : Core) (st : Stream) (b : Nat) (data : Bytes) : Core :=
  (data.zip (List.range data.length)).foldl (fun c p =>
    { c with bank := nput 0 c.bank (st.ring + (b + p.2) % st.desc.ringLen - e.res) p.1 }) c
/-- Read ring bytes from stream byte `b` on. -/
def ringRead (e : Env) (c : Core) (st : Stream) (b n : Nat) : Bytes :=
  (List.range n).map (fun i => scratchByte e c (st.ring + (b + i) % st.desc.ringLen))

/-- Raise NV and make a STREAM-INVALID entry (R299, R304, R306, R310): the launch goes on. A word with a flag mask adds the flag
only where its mask lets it (R96, R142). -/
def streamInvalid (s : State) (e : Env) (c : Core) (n : Nat) (mask : Flags := BitVec.allOnes 6) : Issued :=
  .done (logWord s e Err.streamInvalid e.l.id n c, some (addFlags c (flNV &&& mask)))

/-- The ring of a stream is still used by a word in flight (R128). -/
def ringBusy (e : Env) (c : Core) (st : Stream) : Bool := hazard e c [] [(st.ring, st.desc.ringLen)]

/-! ### Page faults (R317, R318, R372 to R374) -/

/-- The cursor image of a stream or of the hold copy (Table Streams-5), and its arming number. Table Streams-5 has no row for
the copy of the sealed outputs: its image is an output buffer's, with the byte offset as i0 (log 86). -/
def cursorOf (s : State) (launch : Nat) (what : Transfer) : Bytes × Nat :=
  match what with
  | .hold buf =>
    let h := ((findL s launch).map (fun l => (l.held.getD buf []).length)).getD 0
    (leBytes 1 0xFF ++ leBytes 1 buf ++ leBytes 1 1 ++ zeros 1 ++ leBytes 4 h ++ zeros 16, 0)
  | .copy buf off => (leBytes 1 0xFF ++ leBytes 1 buf ++ leBytes 1 2 ++ zeros 1 ++ leBytes 4 off ++ zeros 16, 0)
  | .outStream ex n =>
    match ((findL s launch).bind (fun l => getX l ex)).bind (·.skein) with
    | none => (zeros 24, 0)
    | some k =>
      match ((getK s k).queue.find? (fun x => x.launch == launch && x.ex == ex)).bind (fun x => getStream x.core n) with
      | none => (zeros 24, 0)
      | some st =>
        let e := st.w / unitRing st.desc * unitElems st.desc
        let per := perArming st.desc
        (leBytes 1 n ++ leBytes 1 st.desc.buf ++ leBytes 1 2 ++ zeros 1
         ++ (elemIndex st.desc.counts (e % per)).flatMap (leBytes 4), e / per)

/-- A transfer fails: the launch ends PARTIAL at its cursor (R318). -/
def failTransfer (s : State) (launch : Nat) (what : Transfer) : State :=
  let c := cursorOf s launch what
  endLaunch s launch Status.partial_ 0 0 c.1 c.2

/-- A transfer waits for a page. -/
def isParked (s : State) (launch : Nat) (what : Transfer) : Bool :=
  s.hst.requests.any (fun r => r.launch == launch && r.what == what && !r.dead)

/-- What the host has set for a function. -/
def fnConfig (s : State) (fn : Nat) : FnConfig := nget FnConfig.reset s.hst.config fn
/-- Change what the host has set for a function, or what its AER counts. -/
def modConfig (s : State) (fn : Nat) (f : FnConfig → FnConfig) : State :=
  { s with hst := { s.hst with config := nmod FnConfig.reset s.hst.config fn f } }

/-- The lowest Page Request Group index that no outstanding request of a function has (log 87). -/
def freeGroup (s : State) (fn : Nat) : Nat :=
  ((List.range 512).find? (fun g => !s.hst.requests.any (fun r => r.fn == fn && r.sent && r.group == g))).getD 0

/-- Send the page request that the allocation allows, a group of its own with the Last bit set (R372). -/
def sendRequests (s : State) (fn : Nat) : State :=
  let out := (s.hst.requests.filter (fun r => r.fn == fn && r.sent)).length
  match s.hst.requests.find? (fun r => r.fn == fn && !r.sent && !r.dead) with
  | none => s
  | some r =>
    if out < (fnConfig s fn).priAlloc then
      let g := freeGroup s fn
      emit { s with hst := { s.hst with requests := updFirst (fun r => r.fn == fn && !r.sent && !r.dead)
                                          (fun r => { r with sent := true, group := g }) s.hst.requests } }
        (.pageRequest fn (rget s Reg.pasid fn) r.page g true)
    else s

/-- A page fault parks one transfer and asks for the page (R315, R317); a function that has met Response Failure fails at
once (R374), and so does one whose PRI the host has turned off (log 87). -/
def park (s : State) (fn launch : Nat) (what : Transfer) (addr : Nat) : State :=
  if smem s.hst.failed fn ∨ !(fnConfig s fn).priOn then failTransfer s launch what
  else
    let due := s.clk.elapsed + rget s Reg.priTimeout * 1000
    let r : PageReq := { fn, page := addr / 4096, group := 0, launch, what, due, sent := false, dead := false }
    sendRequests { s with hst := { s.hst with requests := s.hst.requests ++ [r] } } fn

end Sys2Proof.Machine
end

