-- ==== Sys2Proof/Machine/Streams.lean ====
section
/-! DEFINITION. Stream words and the stream engine's events (10_streams.md). -/

namespace Sys2Proof.Machine

/-- A word on an open stream; on one that is not open it raises NV and logs (R310). -/
def onStream (n : Nat) (f : Env → State → Core → Stream → Issued) (e : Env) (s : State) (c : Core) : Issued :=
  match getStream c n with
  | none => streamInvalid s e c n
  | some st => f e s c st

/-- STMOPEN (R298, R299). -/
def execStmopen (k : Skein) (w : MWord) (s : State) : Result :=
  .next (issueWord s k.val (legalStmopen w && fitsAccord s k.val (fun e _ => (streamAt e.acc (stmDesc w)).isSome)) w.hdr
    (fun e s c =>
      match streamAt e.acc (stmDesc w) with
      | none => .wait
      | some d =>
        let st := freshStream d (getX64 c w.sa).toNat (getX64 c w.sb).toNat
        if !openOk e c (stmNumber w) st then streamInvalid s e c (stmNumber w)
        else if ringBusy e c st then .wait
        else .done (s, some (setStream c (stmNumber w) (some st)))))

/-- STMREARM (R306). -/
def execStmrearm (k : Skein) (w : MWord) (s : State) : Result :=
  .next (issueWord s k.val (legalStmrearm w) w.hdr (onStream (stmNumber w) (fun e s c st =>
    let m := st.armings + stmArmings w
    let ok := st.desc.dir != 3 && st.desc.persistent && decide (m < 2 ^ 32) && extentOk e st st.armings m
              && (!st.desc.isOut || outClear c (stmNumber w) st st.armings m)
    if ok then .done (s, some (setStream c (stmNumber w) (some { st with armings := m })))
    else streamInvalid s e c (stmNumber w))))

/-- What STMCLOSE waits for (R307). -/
def closeReady (st : Stream) : Bool :=
  match st.desc.dir with
  | 1 => decide (min (totalBytes st) (st.q + st.desc.ringLen) ≤ st.w)
  | 2 => decide (st.w = unitFloor st st.q)
  | _ => decide (rangesEnd st ≤ st.w)

/-- STMCLOSE. -/
def execStmclose (k : Skein) (w : MWord) (s : State) : Result :=
  .next (issueWord s k.val (legalStmclose w) w.hdr (onStream (stmNumber w) (fun e s c st =>
    if ringBusy e c st || !closeReady st then .wait else .done (s, some (setStream c (stmNumber w) none)))))

/-- STMCANCEL (R308): an IN or NB ring is zeroed; an OUT stream ends as STMCLOSE ends it. -/
def execStmcancel (k : Skein) (w : MWord) (s : State) : Result :=
  .next (issueWord s k.val (legalStmclose w) w.hdr (onStream (stmNumber w) (fun e s c st =>
    let ready := if st.desc.dir = 1 then true else closeReady st
    if ringBusy e c st || !ready then .wait
    else
      let c1 := setStream c (stmNumber w) none
      .done (s, some (if st.desc.isOut then c1 else scratchWrite e c1 st.ring (zeros st.desc.ringLen))))))

/-- STMWAIT (R300, R301). An OUT wait sets the ready mark at issue; the words after it wait for the sent mark. -/
def execStmwait (k : Skein) (w : MWord) (s : State) : Result :=
  .next (issueWord s k.val (legalStmwait w) w.hdr (onStream (stmNumber w) (fun e s c st =>
    let n := stmNumber w
    let a := (getX64 c w.sa).toNat
    let b := (getX64 c w.sb).toNat
    let len := st.desc.ringLen
    let t := totalBytes st
    let capT (v : Nat) : Nat := if st.desc.dir = 3 then v else min v t
    if ringBusy e c st then .wait
    else if st.desc.isOut then
      let m := max st.q (min (min b t) (st.q + len))
      .done (s, some { setStream c n (some { st with q := m }) with hold := some (n, unitFloor st (min a m)) })
    else
      let q := max st.q (capT b)
      if st.w < max (min (capT a) (q + len)) q then .wait
      else
        let r := releaseFlags c st q
        .done (s, some (setStream r.1 n (some { r.2 with q := q }))))))

/-! ### The engine -/

/-- Units of a stream wholly within elements `first` to `first + count` − 1. -/
def unitsOf (st : Stream) (first count : Nat) : List Nat :=
  let u := unitElems st.desc
  let lo := (first + u - 1) / u
  let hi := min ((first + count) / u) (st.armings * perArming st.desc / u)
  (List.range (hi - lo)).map (lo + ·)

/-- The host-side bytes of unit u of an IN stream: held input (R313) or the descriptor area; none while they are not held. -/
def unitSource (e : Env) (s : State) (st : Stream) (u : Nat) : Option Bytes :=
  let off := hostOffset st (u * unitElems st.desc)
  let src := if st.desc.space = 2 then section_ e.acc 6
             else ((findL s e.l.id).map (fun l => l.held.getD st.desc.buf [])).getD []
  if 0 ≤ off ∧ off.toNat + unitHost st.desc ≤ src.length then some (slice src off.toNat (unitHost st.desc)) else none

/-- A unit converted from one side's format to the other's (R634), with its flags. -/
def convertUnit (d : StreamDesc) (src dst : Nat) (b : Bytes) : Bytes × Flags :=
  if d.convert then
    let r := (unpackElems (codeFmt src) (if src = 11 ∨ dst = 11 then 2 else 1) b).map
               (convert (codeFmt src) (codeFmt dst) (codeRnd d.rnd) d.sat 0)
    (packElems (codeFmt dst) (r.map (·.1)), flagUnion (r.map (·.2)))
  else (b, noFlags)

/-- The stream bytes of unit u that credit lets in and that have not come: each byte comes once (R296, R317). -/
def freshBytes (st : Stream) (u : Nat) : List Nat :=
  let r := unitRing st.desc
  ((List.range r).map (u * r + ·)).filter (fun b => decide (st.w ≤ b ∧ b < st.q + st.desc.ringLen) && !smem st.present b)

/-- One unit arrives in the ring, as far as credit reaches (R294, R296). -/
def arriveUnit (n u : Nat) (e : Env) (s : State) (c : Core) : Core :=
  match getStream c n with
  | none => c
  | some st =>
    let fresh := freshBytes st u
    if st.desc.dir ≠ 1 ∨ fresh.isEmpty then c
    else match unitSource e s st u with
      | none => c
      | some b =>
        let x := convertUnit st.desc st.desc.srcFmt st.desc.dstFmt b
        let c1 := fresh.foldl (fun c i => ringWrite e c st i [x.1.getD (i - u * unitRing st.desc) 0]) c
        let p := fresh.foldl sadd st.present
        let a := advance (p.length + 1) st.w p
        setStream c1 n (some { st with w := a.1, present := a.2, flags := nput noFlags st.flags u x.2 })

/-- The lines of the stacks from which a stream's units come (R49, R313): where they lie is internal (log 83). -/
def sourceLines (l : Launch) (st : Stream) (us : List Nat) : List Nat :=
  (us.flatMap (fun u =>
    let a := (hostOffset st (u * unitElems st.desc)).toNat
    let line (b : Nat) : Nat := Config.sourceLine l.id st.desc.space st.desc.buf (b / 256)
    [line a, line (a + unitHost st.desc - 1)])).eraseDups

/-- STREAM_DATA_ARRIVAL (R294). -/
def execStreamDataArrival (k : Skein) (stream : Fin 32) (first count : Nat) (s : State) : Result :=
  .next (match (getK s k.val).queue.find? (fun x => x.preloaded && (getStream x.core stream.val).isSome) with
    | none => s
    | some x => match envOf s x with
      | none => s
      | some e =>
        match getStream x.core stream.val with
        | none => s
        | some st =>
          let us := (unitsOf st first count).filter (fun u => !(freshBytes st u).isEmpty && (unitSource e s st u).isSome)
          let c := us.foldl (fun c u => arriveUnit stream.val u e s c) x.core
          let here (y : SkeinCtx) : Bool := y.launch == x.launch && y.ex == x.ex
          let s1 := if st.desc.dir = 1 then
              (sourceLines e.l st us).foldl (fun s line => cacheRead s e.l.id st.desc.hint 0 line) s
            else s
          modK s1 k.val (fun q => { q with queue := updFirst here (fun y => { y with core := c }) q.queue }))

/-- This execution's OUT streams write the host's buffers (R476). -/
def writesHost (l : Launch) (x : Exec) : Bool := x.role == .primary && !l.discarded

/-- The last byte of a run. -/
def lastByte (addr n : Nat) : Nat := addr + n - 1

/-- Send one whole unit below the ready mark (R297, R636): to the shadow always, to the host's buffer too for a primary
(R476); a page fault parks the stream (R317), a failed access ends the launch (R318). -/
def sendUnit (s : State) (k n : Nat) (res : HostWrite) : State :=
  match running s k with
  | none => s
  | some x =>
    match envOf s x, (findL s x.launch).bind (fun l => getX l x.ex), getStream x.core n with
    | some e, some ex, some st =>
      let r := unitRing st.desc
      let what : Transfer := .outStream x.ex n
      if !st.desc.isOut ∨ st.q < st.w + r ∨ isParked s x.launch what then s
      else
        let u := st.w / r
        let off := (hostOffset st (u * unitElems st.desc)).toNat
        let addr := (dOutput e.l.desc st.desc.buf).1 + off
        let host := writesHost e.l ex
        match host, res with
        | true, .notPresent second => park s e.l.tenant x.launch what (if second then lastByte addr (unitHost st.desc) else addr)
        | true, .failed => failTransfer s x.launch what
        | _, _ =>
          let y := convertUnit st.desc st.desc.dstFmt st.desc.srcFmt (ringRead e x.core st st.w r)
          let s1 := modCore s k (fun c => setStream (addFlags c y.2) n (some { st with w := st.w + r }))
          let s2 := modX s1 x.launch x.ex (fun ex => { ex with shadow := nputs 0 ex.shadow (2 ^ 32 * st.desc.buf + off) y.1 })
          if host then writeHost s2 e.l.tenant addr y.1 else s2
    | _, _, _ => s

/-- OUT_UNIT_SEND. -/
def execOutUnitSend (k : Skein) (stream : Fin 32) (res : HostWrite) (s : State) : Result :=
  .next (sendUnit s k.val stream.val res)

end Sys2Proof.Machine
end

