-- ==== Sys2Proof/Machine/Submit.lean ====
section
/-! DEFINITION. Polling, descriptor prefetch, admission and binding (11_submission.md). -/

namespace Sys2Proof.Machine

/-! ### Sequence numbers and rings -/

/-- Sequence number a is after b (R321). -/
def seqAfter (a b : BitVec 32) : Bool := decide (1 ≤ (a - b).toNat ∧ (a - b).toNat ≤ 2 ^ 31 - 1)

/-- Ring r of a tenant. -/
def getR (t : TenantSt) (r : Nat) : RingSt := nget RingSt.off t.rings r
/-- Change a ring. -/
def modR (s : State) (t r : Nat) (f : RingSt → RingSt) : State :=
  modT s t (fun c => { c with rings := nmod RingSt.off c.rings r f })

/-- The completion ring has an entry that is neither unread nor reserved (R55, R345). -/
def cqFree (s : State) (t : Nat) : Bool :=
  let c := getT s t
  c.cqOn && decide ((c.cqNext - c.cqSeen).toNat + c.reserved.length < c.cqSize)

/-- Finish a launch that was not admitted: an unsealed record with launch ID 0. -/
def rejectRecord (s : State) (t r status detail seq : Nat) (tag : Nat) (irq : Bool) : State :=
  pushRecord s t { status, bits := 0, irq, launch := 0, ids := [], alert := status == Status.notAdmitting || status == Status.ringOverrun,
                   body := unsealedBody 0 tag r detail seq 0 [] 0 }

/-- C moves past one slot. -/
def consume (s : State) (t r : Nat) : State :=
  modR s t r (fun q => { q with consumed := q.consumed + 1, slots := nput none q.slots q.consumed.toNat none, decided := none,
                                dropped := sdel q.dropped q.consumed.toNat })

/-- Slots at C that were cancelled before admission finish with CANCELLED (R348); `fuel` bounds the run. -/
def consumeDropped (t r : Nat) : Nat → State → State
  | 0, s => s
  | fuel + 1, s =>
    let q := getR (getT s t) r
    if smem q.dropped q.consumed.toNat then
      let slot := nget none q.slots q.consumed.toNat
      let s1 := rejectRecord s t r Status.cancelled 0 q.consumed.toNat (slot.elim 0 dTag) (slot.any dIrq)
      consumeDropped t r fuel (consume s1 t r)
    else s

/-! ### Polling (R329, R330, R347, R355) -/

/-- A launch can still be cancelled: no result of it has passed to the integrity checker (R353, R492). -/
def cancellable (l : Launch) : Bool := l.stage == .running && l.execs.all (fun x => x.phase != .checked)

/-- A launch has reached its watchdog before its entry into the seal queue (R350). -/
def watchdogDue (s : State) (l : Launch) : Bool := l.stage == .running && decide (l.admitted + 1000 * l.watchdog ≤ s.clk.elapsed)

/-- Cancel `n` launches of a ring from sequence number `q` on (R347 to R349); one whose watchdog expires at the same
time is left to the hang reset (R354). -/
def cancelRange (t r : Nat) : Nat → BitVec 32 → State → State
  | 0, _, s => s
  | n + 1, q, s =>
    let c := (getR (getT s t) r).consumed
    let s1 :=
      if q = c ∨ seqAfter q c then modR s t r (fun x => { x with dropped := sadd x.dropped q.toNat })
      else match s.launches.find? (fun l => l.tenant == t && l.ring == r && l.seq == q) with
        | some l => if cancellable l ∧ !watchdogDue s l then endLaunch s l.id Status.cancelled 0 0 [] 0 else s
        | none => s
    cancelRange t r n (q + 1) s1

/-- The tail of one ring as a poll reads it: a later one is held (R330), and one too far ahead halts the ring (R355). -/
def pollTail (s : State) (t r : Nat) (v : BitVec 32) : State :=
  let q := getR (getT s t) r
  if !seqAfter v q.tail then s
  else
    let s1 := modR s t r (fun q => { q with tail := v })
    if !q.halted ∧ seqAfter v q.consumed ∧ q.size < (v - q.consumed).toNat then
      rejectRecord (modR s1 t r (fun q => { q with halted := true })) t r Status.ringOverrun 0 v.toNat 0 false
    else s1

/-- The cancel mark of one ring as a poll reads it. -/
def pollCancel (s : State) (t r : Nat) (v : BitVec 32) : State :=
  let q := getR (getT s t) r
  if !seqAfter v q.cancel then s
  else
    let stop := if seqAfter v q.tail then q.tail else v
    let n := if seqAfter stop q.cancel then (stop - q.cancel).toNat else 0
    let s1 := cancelRange t r n q.cancel s
    consumeDropped t r (getR (getT s1 t) r).dropped.length (modR s1 t r (fun q => { q with cancel := v }))

/-- What one doorbell entry changes. -/
def pollEntry (s : State) (t : Nat) (b : Bytes) : State :=
  let word (off : Nat) : BitVec 32 := BitVec.ofNat 32 (fld b off 4)
  let one (s : State) (r : Nat) : State :=
    if (getR (getT s t) r).enabled then pollCancel (pollTail s t r (word (4 * r))) t r (word (20 + 4 * r)) else s
  let c := getT s t
  let s1 := if c.cqOn ∧ seqAfter (word 16) c.cqSeen then modT s t (fun c => { c with cqSeen := word 16 }) else s
  let s2 := (List.range 4).foldl one s1
  if (getT s2 t).rings = c.rings ∧ (getT s2 t).cqSeen = c.cqSeen then s2
  else modT s2 t (fun c => { c with changed := some s.clk.elapsed })

/-- A tenant is polled: it has an enabled ring, of submission or completion, and is not in D3hot (R329, Table Host-4). -/
def polledTenant (s : State) (t : Nat) : Bool :=
  let c := getT s t
  !c.d3hot && (c.cqOn || (List.range 4).any (fun r => (getR c r).enabled))

/-- A tenant is active: a launch of it is admitted or held, or its doorbell entry changed within FE_IDLE_AFTER. -/
def activeTenant (s : State) (t : Nat) : Bool :=
  let c := getT s t
  s.launches.any (fun l => l.tenant == t) || (List.range 4).any (fun r => (getR c r).decided.isSome)
  || c.changed.any (fun at_ => decide (s.clk.elapsed ≤ at_ + 1000 * rget s Reg.idleAfter))

/-- Nanoseconds between polls (R329). -/
def pollPeriod (s : State) : Nat :=
  if (List.range 128).any (fun t => polledTenant s t && activeTenant s t) then 1000 else 50000

/-- A poll is due. -/
def pollDue (s : State) : Bool := s.fe.lastPoll.all (fun t => decide (t + pollPeriod s ≤ s.clk.elapsed))

/-- A poll reads one tenant's doorbell entry; one that cannot be read counts as unchanged (R392). -/
def pollTenant (reads : List (Nat × Bytes)) (s : State) (t : Nat) : State :=
  if !polledTenant s t then s
  else
    let s1 := readHost s t (rget s Reg.doorbell t) 64
    match reads.find? (fun x => x.1 == t) with
    | some (_, b) => pollEntry s1 t (fit 64 b)
    | none => logErr s1 Err.doorbellFault t 0 0

/-- DOORBELL_POLL: one poll, once it is due, in ascending tenant number (R329). -/
def execDoorbellPoll (reads : List (Nat × Bytes)) (s : State) : Result :=
  .next (if !s.fe.polling ∨ !pollDue s then s
    else (List.range 128).foldl (pollTenant reads) { s with fe := { s.fe with lastPoll := some s.clk.elapsed } })

/-! ### Prefetch (R331, R392) -/

/-- Slots a ring reads ahead. -/
def prefetchDepth : Nat := 64

/-- Where the slot of a sequence number lies (R322). -/
def slotAddr (q : RingSt) (seq : BitVec 32) : Nat := q.base + 256 * (seq.toNat % q.size)

/-- DESCRIPTOR_FETCH; a slot that has been cancelled unread is not read (R348). -/
def execDescriptorFetch (t : Tenant) (r : Ring) (seq : BitVec 32) (slot : Option Bytes) (s : State) : Result :=
  .next (let q := getR (getT s t.val) r.val
    let off := (seq - q.consumed).toNat
    if !s.fe.polling ∨ !q.enabled ∨ q.halted ∨ (q.tail - q.consumed).toNat ≤ off ∨ prefetchDepth ≤ off
       ∨ (nget none q.slots seq.toNat).isSome ∨ smem q.dropped seq.toNat then s
    else
      let s := readHost s t.val (slotAddr q seq) 256
      match slot with
      | some b => modR s t.val r.val (fun q => { q with slots := nput none q.slots seq.toNat (some (fit 256 b)) })
      | none =>
        msix (logErr (modR s t.val r.val (fun q => { q with halted := true })) Err.ringFault t.val r.val seq.toNat) t.val 1)

/-! ### Admission checks (Tables Submit-3, Submit-6, Submit-9) -/

/-- The sum of the lengths of `n` buffers. -/
def totalOf (n : Nat) (f : Nat → Nat × Nat) : Nat := ((List.range n).map (fun i => (f i).2)).foldl (· + ·) 0

/-- Step 2: the lowest rejection detail that applies, if any (DEDUCED: ascending order; log 34). -/
def badDescriptor (d : Bytes) : Option Nat :=
  let ins := dInputs d
  let outs := dOutputs d
  let reserved := dFlags d / 4 ≠ 0 ∨ !zeroAt d 48 16 ∨ (!dIsReplay d ∧ dReplay d ≠ 0)
    ∨ (List.range 8).any (fun i => !zeroAt d (76 + 16 * i) 4 || decide (ins ≤ i) && !zeroAt d (64 + 16 * i) 16)
    ∨ (List.range 4).any (fun i => !zeroAt d (204 + 16 * i) 4 || decide (outs ≤ i) && !zeroAt d (192 + 16 * i) 16)
  if reserved then some 1
  else if dWatchdog d ≠ 0 ∧ !inRange 1000 60000000 (dWatchdog d) then some 2
  else if 8 < ins ∨ 4 < outs ∨ 2 ^ 26 < totalOf ins (dInput d) ∨ 2 ^ 26 < totalOf outs (dOutput d) ∨ 65536 < dTally d then some 3
  else if dLcb d % 64 ≠ 0 ∨ dReplay d % 64 ≠ 0 ∨ (List.range ins).any (fun i => (dInput d i).1 % 64 ≠ 0)
          ∨ (List.range outs).any (fun i => (dOutput d i).1 % 64 ≠ 0) then some 4
  else none

/-- A tenant's entry of section 0x22: granted, and its quota; without the section tenant 0 alone (Table Tables-11). -/
def grantOf (a : Accord) (t : Nat) : Bool × Nat :=
  if hasSection a 0x22 then (bit (fld (section_ a 0x22) (8 * t) 1) 0, fld (section_ a 0x22) (8 * t + 2) 2)
  else (t == 0, if t = 0 then 4096 else 0)

/-- The program table holds an index. -/
def holdsProgram (a : Accord) (i : Nat) : Bool := decide (i < (section_ a 3).length / 32)

/-- The program image of an accord holds a FRAME word (R518). -/
def usesMedia (a : Accord) : Bool :=
  (List.range (imageLen a)).any (fun i => fld (section_ a 2) (32 * i) 1 == 0xE0)

/-- A replay block is well formed (R335). -/
def goodReplay (b : Bytes) : Bool :=
  b.take 8 == beBytes 8 0x545152504C415931 && zeroAt b 52 4 && zeroAt b 88 40

/-- Step 6: the arena holds the head the launch names, and some slot its computation digest (R26). -/
def replayMatches (s : State) (b : Bytes) : Bool :=
  s.jrn.arena.state == 2 && s.jrn.arena.head == slice b 16 32 && (accordOf s (slice b 56 32)).isSome

/-- The accord a descriptor binds to (R57, R336). -/
def boundAccord (s : State) (d replay : Bytes) : Option Accord :=
  if dIsReplay d then accordOf s (slice replay 56 32) else s.fe.accordCur

/-- The preload descriptors of a program-table entry (R139, R311). -/
def preloads (a : Accord) (i : Nat) : List (Option StreamDesc) :=
  let p := progEntry a i
  (List.range (fld p 16 2)).map (fun j => streamAt a (fld p 20 4 + 64 * j))

/-- Open the preload streams of an entry in order; none where one fails a check of R299. -/
def openPreloads (e : Env) : Nat → List (Option StreamDesc) → Core → Option Core
  | _, [], c => some c
  | n, d :: l, c =>
    match d with
    | none => none
    | some d =>
      let st := freshStream d 0 0
      if d.dir = 1 ∧ openOk e c n st then openPreloads e (n + 1) l (setStream c n (some st)) else none

/-- A launch as admission forms it, bound to an accord. -/
def newLaunch (s : State) (t r : Nat) (seq : BitVec 32) (d lcb replay : Bytes) (a : Accord) : Launch :=
  let id := s.fe.nextId.toNat
  { id, tenant := t, ring := r, seq, desc := d, lcb := fit 512 lcb, replay, held := List.replicate (dInputs d) [],
    epoch := s.fe.epoch.toNat, head := s.fe.head, accord := a,
    audit := decide (id * 0x9E3779B97F4A7C15 % 2 ^ 64 / 2 ^ 56 < rget s Reg.auditRate),
    watchdog := if dWatchdog d = 0 then rget s Reg.watchdog t else dWatchdog d, admitted := s.clk.elapsed,
    execs := [Exec.fresh .primary Place.any], stage := .running, reexecuted := false, audited := false, discarded := false,
    digestSeal := zeros 32, ids := [], copied := (0, 0) }

/-- Steps 4 and 7 against an accord: the rejection detail, if any. -/
def badForAccord (s : State) (t : Nat) (d replay : Bytes) (a : Accord) : Option Nat :=
  if !(s.fe.accordCur.any (fun c => (grantOf c t).1 && holdsProgram c (dProg d))) ∨ !holdsProgram a (dProg d) then some 5
  else if (openPreloads (launchEnv (newLaunch s t 0 0 d [] replay a) 0) 0 (preloads a (dProg d)) (Core.entry 0)).isNone then some 8
  else none

/-- Steps 1 to 7: the status and detail a slot is rejected with. -/
def admissionCheck (s : State) (t : Nat) (c : BitVec 32) (d : Bytes) (lcb replay : Option Bytes) : Option (Nat × Nat) :=
  let r := (replay.getD [])
  if fld d 0 4 ≠ c.toNat then some (Status.seqMismatch, 0)
  else match badDescriptor d with
    | some n => some (Status.descriptorInvalid, n)
    | none =>
      if !admitting s ∨ (getT s t).lost ∨ (s.emd.engines = [] ∧ (boundAccord s d r).any usesMedia) then some (Status.notAdmitting, 0)
      else if !s.fe.accordCur.any (fun a => (grantOf a t).1 && holdsProgram a (dProg d)) then some (Status.descriptorInvalid, 5)
      else if lcb.isNone ∨ (dIsReplay d ∧ replay.isNone) then some (Status.descriptorInvalid, 6)
      else if dIsReplay d ∧ !goodReplay (fit 128 r) then some (Status.descriptorInvalid, 7)
      else if dIsReplay d ∧ !replayMatches s r then some (Status.replayMismatch, 0)
      else match boundAccord s d r with
        | none => some (Status.descriptorInvalid, 5)
        | some a => (badForAccord s t d r a).map (fun n => (Status.descriptorInvalid, n))

/-- The turn of a ring has been used (R339). -/
def takeTurn (s : State) (t r : Nat) : State := { s with fe := { s.fe with turn := 4 * t + r } }

/-- Reject the slot at C. -/
def rejectSlot (s : State) (t r : Nat) (d : Bytes) (status detail : Nat) : State :=
  let q := getR (getT s t) r
  let s1 := consume (rejectRecord s t r status detail q.consumed.toNat (dTag d) (dIrq d)) t r
  consumeDropped t r q.dropped.length (takeTurn s1 t r)

/-! ### Step 8 and the turn of a ring (R338 to R341) -/

/-- In-flight entries. -/
def inFlightLimit : Nat := 4096

/-- Step 8: an in-flight entry, the tenant's quota, pool space and a durably reserved block of launch IDs (R338, R340, R341);
a tenant with PASID disabled waits as under a quota of 0. -/
def mayBind (s : State) (t : Nat) (d : Bytes) : Bool :=
  admitting s && !(getT s t).lost && cqFree s t
  && decide (s.launches.length < inFlightLimit)
  && decide ((s.launches.filter (fun l => l.tenant == t)).length
             < min (rget s Reg.quota t) ((s.fe.accordCur.map (fun a => (grantOf a t).2)).getD 0))
  && rget s Reg.pasidEnable t == 1 && admitRoom s d
  && s.fe.idBlock.any (fun b => decide (s.fe.nextId.toNat / 2 ^ 32 ≤ b))

/-- A ring has something to serve: a slot at C to decide, or a decided one that step 8 holds no longer. -/
def ringReady (s : State) (t r : Nat) : Bool :=
  let q := getR (getT s t) r
  s.fe.polling && q.enabled && !q.halted && q.consumed != q.tail && cqFree s t
  && (match nget none q.slots q.consumed.toNat with
      | none => false
      | some d => q.decided.isNone || mayBind s t d)

/-- The rings that have something to serve: 4 × tenant + ring. -/
def readyRings (s : State) : List Nat :=
  s.tenants.flatMap (fun p => ((List.range 4).filter (ringReady s p.1)).map (4 * p.1 + ·))

/-- The round robin comes to a ring: of those that have something to serve it is the first after the one served last (R339, log
104). -/
def isTurn (s : State) (t r : Nat) : Bool :=
  let after (x : Nat) : Nat := (x + 511 - s.fe.turn) % 512
  ringReady s t r && (readyRings s).all (fun y => decide (after (4 * t + r) ≤ after y))

/-- The front end reads the blocks that a descriptor names (R320, R334, R335). -/
def readBlocks (s : State) (t : Nat) (d : Bytes) : State :=
  let s1 := readHost s t (dLcb d) 512
  if dIsReplay d then readHost s1 t (dReplay d) 128 else s1

/-- ADMISSION: decide the slot at C (R337) when the turn is its ring's; one that passes waits at step 8. A tenant without a free
completion entry admits nothing (R55). -/
def execAdmission (t : Tenant) (r : Ring) (lcb : Option Bytes) (replay : Option Bytes) (s : State) : Result :=
  .next (let q := getR (getT s t.val) r.val
    if q.decided.isSome ∨ !isTurn s t.val r.val then s
    else match nget none q.slots q.consumed.toNat with
      | none => s
      | some d => match admissionCheck s t.val q.consumed d lcb replay with
        | some (status, detail) => rejectSlot (readBlocks s t.val d) t.val r.val d status detail
        | none => modR (readBlocks s t.val d) t.val r.val (fun q => { q with
            decided := some (fit 512 (lcb.getD []), if dIsReplay d then fit 128 (replay.getD []) else []) }))

/-! ### Binding (step 9) -/

/-- Assign the next launch ID; the first one of a block stages the reservation of the block after it (R340). -/
def takeId (s : State) : State :=
  let id := s.fe.nextId.toNat
  let s1 := { s with fe := { s.fe with nextId := s.fe.nextId + 1 } }
  if id % 2 ^ 32 = 0 ∨ id = 1 then stageOwn s1 [{ kind := 0x0B, body := leBytes 8 (id / 2 ^ 32 + 1) }] else s1

/-- ADMISSION_BIND: at one edge the launch is bound to the epoch and the accord in force (R57). An accord swap since step 8
can reject it (ACCORD-MISMATCH; steps 4, 6 and 7 hold for the accord and the arena it meets then, R26, log 34). -/
def execAdmissionBind (t : Tenant) (r : Ring) (s : State) : Result :=
  .next (let q := getR (getT s t.val) r.val
    match q.decided, nget none q.slots q.consumed.toNat with
    | some (lcb, replay), some d =>
      if !isTurn s t.val r.val then s
      else if dIsReplay d ∧ !replayMatches s replay then rejectSlot s t.val r.val d Status.replayMismatch 0
      else match boundAccord s d replay with
        | none => rejectSlot s t.val r.val d Status.accordMismatch 0
        | some a =>
          if dAccord d ≠ 0 ∧ dAccord d ≠ a.id then rejectSlot s t.val r.val d Status.accordMismatch 0
          else match badForAccord s t.val d replay a with
            | some n => rejectSlot s t.val r.val d Status.descriptorInvalid n
            | none =>
              let l := newLaunch s t.val r.val q.consumed d lcb replay a
              let s1 := takeId { s with launches := s.launches ++ [l] }
              consumeDropped t.val r.val q.dropped.length (takeTurn (consume s1 t.val r.val) t.val r.val)
    | _, _ => s)

end Sys2Proof.Machine
end

