-- ==== Sys2Proof/Machine/Launching.lean ====
section
/-! DEFINITION. Dispatch, the hold copy, entry into a program, page faults and translations
(02_architecture.md, 05_control_core.md, 10_streams.md, 12_host.md). -/

namespace Sys2Proof.Machine

/-! ### Dispatch (R51, R52, R153) -/

/-- Launch queue entries of a skein (Table Arch-4). -/
def launchQueueLimit : Nat := 8

/-- A skein takes dispatch (R51, R496). -/
def takesDispatch (s : State) (k : Nat) : Bool := (getK s k).mode == .good && decide ((getK s k).queue.length < launchQueueLimit)

/-- A present skein outside a section that is not marked for retirement (R485). -/
def hasOtherSection (s : State) (n : Nat) : Bool :=
  (List.range 128).any (fun k => k / 16 != n && ((getK s k).mode == .good || (getK s k).mode == .testing))

/-- What an execution resumes from: its newest checkpoint image, IN streams fetching again beyond their watermarks (R489). -/
def resumeCore (c : Core) : Core :=
  let streams := c.streams.map (fun p => (p.1, p.2.map (fun st =>
    let u := unitRing st.desc
    { st with present := [], flags := st.flags.filter (fun f => decide (st.desc.isOut ∨ f.1 * u < st.w)) })))
  { c with streams, media := c.media.map (fun m => { m with granted := false, decoded := 0 }) }

/-- Executions of a launch that stand on a skein, or have a result from one, beside execution `ex`. -/
def placedBeside (l : Launch) (ex : Nat) : List Exec :=
  ((l.execs.zip (List.range l.execs.length)).filter (fun p => p.2 != ex
    && (p.1.phase == .placed || p.1.phase == .result || p.1.phase == .checked))).map (·.1)

/-- A skein lies in a section that an execution must keep out of: one its placement names, or one in which another execution of its
launch ran, wherever that one has moved since (R36, R52, R490). -/
def sectionTaken (l : Launch) (ex : Nat) (x : Exec) (k : Nat) : Bool :=
  x.place.sections.contains (k / 16) || (placedBeside l ex).any (fun y => y.ran / 16 == k / 16)

/-- An execution may run on a skein. With no other section left, one that runs for the primary may share a section (R485). -/
def mayRunOn (s : State) (l : Launch) (ex : Nat) (x : Exec) (k : Nat) : Bool :=
  !x.place.skeins.contains k
  && (!sectionTaken l ex x k || ((x.role == .primary || x.role == .reexec) && !hasOtherSection s (k / 16)))

/-- No audit runs for a launch: what there is of one is discarded, with an AUDIT-SKIPPED entry (R485). -/
def skipAudit (s : State) (l : Launch) : State :=
  let s1 := (l.execs.zip (List.range l.execs.length)).foldl (fun s p =>
    if p.1.role = .audit ∧ p.1.phase ≠ .dropped then discardExec s l.id p.2 else s) s
  logErr (modL s1 l.id (fun l => { l with audit := false })) Err.auditSkipped l.tenant l.id 0

/-- The audit execution of a selected launch goes with its primary, on another section; with no such section it is skipped
(R52, R483, R485). -/
def startAudit (s : State) (l : Launch) (k : Nat) : State :=
  if !l.audit ∨ l.execs.any (fun x => x.role == .audit) then s
  else if hasOtherSection s (k / 16) then addExec s l.id .audit ⟨[], [k / 16]⟩
  else skipAudit s l

/-- The execution that runs for the primary stands in a section outside which no skein is left: no audit can run (R485). -/
def auditHopeless (s : State) (l : Launch) : Bool :=
  l.execs.any (fun y => y.role != .audit && (y.phase == .placed || y.phase == .result || y.phase == .checked)
                        && !hasOtherSection s (y.ran / 16))

/-- The launch's audit stands in the section of a skein that another execution goes to. -/
def auditBeside (l : Launch) (ex k : Nat) : Bool := (placedBeside l ex).any (fun y => y.role == .audit && y.ran / 16 == k / 16)

/-- An execution goes to a skein: its core stands at its program's entry word, or where its newest checkpoint image stands. Every
dispatch but the first execution's counts as a re-execution (Table Reg-11). -/
def dispatchTo (s : State) (l : Launch) (ex : Nat) (x : Exec) (k : Nat) : State :=
  let core := match x.resume, x.ckpts with
    | true, c :: _ => resumeCore c.core
    | _, _ => Core.entry (fld (progEntry l.accord (dProg l.desc)) 0 4)
  let ctx : SkeinCtx := { launch := l.id, ex, core, preloaded := x.resume, started := false }
  let s1 := modK s k (fun q => { q with queue := q.queue ++ [ctx] })
  let s1 := if ex ≠ 0 ∨ x.resume then countEvent s1 4 1 else s1
  let s2 := modX s1 l.id ex (fun x => { x with phase := .placed, skein := some k, ran := k, resume := false })
  if x.role = .primary then startAudit s2 l k
  else s2

/-- DISPATCH of an execution that waits to a skein that takes it; a later execution first needs room for its areas (R341). -/
def execDispatch (launch : Nat) (ex : Nat) (k : Skein) (s : State) : Result :=
  .next (match findL s launch with
    | none => s
    | some l => match getX l ex with
      | none => s
      | some x =>
        if x.phase ≠ .waiting ∨ l.stage ≠ .running ∨ s.fe.hang.isSome ∨ s.jrn.powerFail ∨ !takesDispatch s k.val then s
        else if x.role = .audit ∧ auditHopeless s l then skipAudit s l
        else if !mayRunOn s l ex x k.val ∨ (ex ≠ 0 ∧ !x.resume ∧ !poolRoom s (areaBytes l.desc)) then s
        else dispatchTo (if auditBeside l ex k.val then skipAudit s l else s) l ex x k.val)

/-! ### The hold copy (R313) -/

/-- The launch has been dispatched. -/
def dispatched (l : Launch) : Bool := l.execs.any (fun x => x.phase != .waiting)

/-- The held bytes of a buffer are all there. -/
def holdDone (l : Launch) (i : Nat) : Bool := decide ((dInput l.desc i).2 ≤ (l.held.getD i []).length)

/-- Host address of the next unit of a buffer's hold copy, and its bytes: up to the next multiple of 256. -/
def holdNext (l : Launch) (i : Nat) : Nat × Nat :=
  let h := (l.held.getD i []).length
  let addr := (dInput l.desc i).1 + h
  (addr, min (256 - addr % 256) ((dInput l.desc i).2 - h))

/-- The hold copy of a buffer may go on. -/
def holdOpen (s : State) (l : Launch) (i : Nat) : Bool :=
  dispatched l && l.stage != .finished && decide (i < dInputs l.desc) && !holdDone l i && !isParked s l.id (.hold i)

/-- HOLD_COPY_UNIT: the next unit arrives, meets a page fault (R317), or meets a host access error (R318). -/
def execHoldCopyUnit (launch : Nat) (buf : Fin 8) (unit : HostRead) (s : State) : Result :=
  .next (match findL s launch with
    | none => s
    | some l =>
      if !holdOpen s l buf.val then s
      else
        let u := holdNext l buf.val
        let s := readHost s l.tenant u.1 u.2
        match unit with
        | .data b => modL s launch (fun l => { l with held := updAt (· ++ fit u.2 b) l.held buf.val })
        | .notPresent => park s l.tenant launch (.hold buf.val) u.1
        | .failed => failTransfer s launch (.hold buf.val))

/-- HOST_ACCESS_ERROR on a hold copy (R391). -/
def execHostAccessError (launch : Nat) (buf : Fin 8) (s : State) : Result :=
  .next (match findL s launch with
    | none => s
    | some l => if holdOpen s l buf.val then failTransfer s launch (.hold buf.val) else s)

/-! ### Entering a program (R140, R141, R153) -/

/-- RESIDENT_REGION_LOADED: no launch runs on the skein, and the region of its front launch's accord is in place. -/
def execResidentRegionLoaded (k : Skein) (launch : Nat) (s : State) : Result :=
  .next (match (getK s k.val).queue, findL s launch with
    | c :: _, some l => if c.started ∨ c.launch ≠ launch then s else modK s k.val (fun q => { q with resident := some l.accord.digest })
    | _, _ => s)

/-- The resident region a launch needs is in place. -/
def residentOk (s : State) (k launch : Nat) : Bool :=
  (findL s launch).any (fun l => (getK s k).resident == some l.accord.digest)

/-- PRELOAD_OPEN: a launch at the front of a skein's queue, or behind the running one, opens its entry's preload streams in the
bank that is free (R141, R311). -/
def execPreloadOpen (k : Skein) (launch : Nat) (ex : Nat) (s : State) : Result :=
  .next (let here (c : SkeinCtx) : Bool := c.launch == launch && c.ex == ex
    match ((getK s k.val).queue.take 2).find? here, findL s launch with
    | some x, some l =>
      if x.preloaded ∨ !residentOk s k.val launch then s
      else match openPreloads (launchEnv l ex) 0 (preloads l.accord (dProg l.desc)) x.core with
        | none => s
        | some c => modK s k.val (fun q => { q with queue := updFirst here (fun y => { y with core := c, preloaded := true }) q.queue })
    | _, _ => s)

/-- LAUNCH_ENTRY: the front launch starts at its entry word; its preload streams are open by then. -/
def execLaunchEntry (k : Skein) (s : State) : Result :=
  .next (match (getK s k.val).queue with
    | [] => s
    | c :: _ =>
      if c.started ∨ !c.preloaded ∨ !mayIssue s c.launch ∨ !residentOk s k.val c.launch then s
      else modK s k.val (fun q => { q with queue := updAt (fun c => { c with started := true }) q.queue 0 }))

/-! ### Page requests (R372 to R374) -/

/-- The transfer of a request still wants it (R316): its launch goes on, and so does its execution. -/
def wanted (s : State) (r : PageReq) : Bool :=
  !r.dead && (findL s r.launch).any (fun l => l.stage != .finished && (match r.what with
    | .hold _ => true
    | .outStream ex _ => (getX l ex).any (fun x => x.phase == .placed)
    | .copy _ _ => (match l.stage with | .decided _ => true | _ => false)))

/-- Take a request out of the list. -/
def dropRequest (s : State) (r : PageReq) : State :=
  { s with hst := { s.hst with requests := (s.hst.requests.takeWhile (· ≠ r)) ++ (s.hst.requests.dropWhile (· ≠ r)).drop 1 } }

/-- PAGE_RESPONSE to the request of a group: Success resumes the transfer; another answer ends its launch PARTIAL; one that
nothing waits for is discarded (R316, R373, R374). -/
def execPageResponse (fn : Tenant) (group : Nat) (ans : PageAnswer) (s : State) : Result :=
  .next (match s.hst.requests.find? (fun r => r.fn == fn.val && r.group == group && r.sent) with
    | none => s
    | some r =>
      let s1 := dropRequest s r
      let s2 := if ans = .responseFailure then { s1 with hst := { s1.hst with failed := sadd s1.hst.failed fn.val } } else s1
      let s3 := if ans = .success ∨ !wanted s r then s2 else failTransfer s2 r.launch r.what
      sendRequests s3 fn.val)

/-- PRI_TIMEOUT: the launch ends PARTIAL; a request already sent keeps its place until its response (R373). -/
def execPriTimeout (fn : Tenant) (page : Nat) (s : State) : Result :=
  .next (match s.hst.requests.find? (fun r => r.fn == fn.val && r.page == page && !r.dead && decide (r.due ≤ s.clk.elapsed)) with
    | none => s
    | some r =>
      let s1 := if r.sent then
          { s with hst := { s.hst with requests := updFirst (· == r) (fun r => { r with dead := true }) s.hst.requests } }
        else dropRequest s r
      if wanted s r then failTransfer s1 r.launch r.what else s1)

/-! ### Translations (R370, R371) -/

/-- Entries of the address translation cache. -/
def atcLimit : Nat := 16384

/-- A translation under a function's PASID covers one of `count` pages from `page` on. -/
def Translation.touches (e : Translation) (fn pasid page count : Nat) : Bool :=
  e.fn == fn && e.pasid == pasid && decide (page < e.page + e.pages ∧ e.page < page + count)

/-- ATS_INVALIDATION: entries that touch the pages go, and the invalidation completes; requests complete within the command
that makes them, so none is outstanding. -/
def execAtsInvalidation (fn : Tenant) (page : HostPage) (count : Nat) (s : State) : Result :=
  .next (emit { s with hst := { s.hst with atc := s.hst.atc.filter (fun e => !e.touches fn.val page.pasid.toNat page.page count) } }
    (.invalidationDone fn.val page.page))

/-- Transfers of a function whose next access lies in a page and has no translation, parked. -/
def parkAt (s : State) (fn page : Nat) (inToo : Bool) : State :=
  s.launches.foldl (fun s l =>
    if l.tenant ≠ fn then s
    else
      let s1 := if inToo then (List.range (dInputs l.desc)).foldl (fun s i =>
          if holdOpen s l i ∧ (holdNext l i).1 / 4096 = page then park s fn l.id (.hold i) (holdNext l i).1 else s) s else s
      (l.execs.zip (List.range l.execs.length)).foldl (fun s p =>
        match p.1.skein.bind (running s) with
        | none => s
        | some x =>
          if x.launch ≠ l.id ∨ x.ex ≠ p.2 ∨ !writesHost l p.1 then s
          else x.core.streams.foldl (fun s q => match q.2 with
            | none => s
            | some st =>
              let addr := (dOutput l.desc st.desc.buf).1 + (hostOffset st (st.w / unitRing st.desc * unitElems st.desc)).toNat
              if st.desc.isOut ∧ st.w + unitRing st.desc ≤ st.q ∧ inRange (addr / 4096) (lastByte addr (unitHost st.desc) / 4096) page
                 ∧ !isParked s l.id (.outStream p.2 q.1)
              then park s fn l.id (.outStream p.2 q.1) (4096 * page) else s) s) s1) s

/-- ATS_TRANSLATION_COMPLETION: a translation of 4 KiB to 1 GiB enters the cache; one reported not present, or not writable,
parks the transfers that wait to access the page (R317, R370). -/
def execAtsTranslationCompletion (fn : Tenant) (at_ : HostPage) (present : Option (Nat × Bool)) (s : State) : Result :=
  .next (let pasid := at_.pasid
    let page := at_.page
    let parked (s : State) (inToo : Bool) : State :=
      if rget s Reg.pasid fn.val = pasid.toNat then parkAt s fn.val page inToo else s
    match present with
    | none => parked s true
    | some (size, writable) =>
      let pages := size / 4096
      if (List.range 19).all (fun i => size ≠ 2 ^ (12 + i)) then s
      else
        let rest := s.hst.atc.filter (fun e => !e.touches fn.val pasid.toNat page pages)
        let e : Translation := { fn := fn.val, pasid := pasid.toNat, page, pages, writable }
        let s1 := { s with hst := { s.hst with atc := e :: rest.take (atcLimit - 1) } }
        if writable then s1 else parked s1 false)

end Sys2Proof.Machine
end

