-- ==== Sys2Proof/Machine/MatrixOps.lean ====
section
/-! DEFINITION. Matrix words and tile movers as jobs: the folder, passes and leaves, and what a job writes when it is
complete (05_control_core.md The folder, 06_matrix_vector.md). -/

namespace Sys2Proof.Machine

/-! ### The folder (R143 to R146, R181, R182) -/

/-- Chunks of K. -/
def chunks (w : TWord) : Nat := (dimK w + 31) / 32
/-- 32-column blocks of N. -/
def colBlocks (w : TWord) : Nat := (dimN w + 31) / 32

/-- SCLK of row slots: ⌈M × c⌉ for the wider operand format (R167, Table Matrix-1). -/
def rowSlots (w : TWord) : Nat :=
  let m := dimM w
  match max (codeWidth w.hdr.fa.toNat) (codeWidth w.hdr.fb.toNat) with
  | 4 => (m + 1) / 2
  | 8 => m
  | 16 => 2 * m
  | _ => 8 * m

/-- Non-empty halves of the chunks of K. -/
def halves (w : TWord) : Nat := (dimK w + 15) / 16

/-- T_arr of Choosing the engine; a mixed ASPLIT takes the unsplit figures (R181). -/
def tArrays (w : TWord) (asplit : BitVec 4) : Nat :=
  let s := rowSlots w
  if asplit = 0xF then
    let p := halves w * ((dimN w + 15) / 16)
    16 + (p + 15) / 16 * max s 16 + 31 + 6
  else
    let p := chunks w * colBlocks w
    32 + (p + 3) / 4 * max s 32 + 63 + 6

/-- T_mvp. -/
def tMvp (w : TWord) : Nat :=
  let f := if codeWidth w.hdr.fa.toNat = 32 ∨ codeWidth w.hdr.fb.toNat = 32 then 4 else 1
  (dimM w * dimN w * chunks w + 7) / 8 * f + 12

/-- The folder gives the word to the MVP (R181). -/
def usesMvp (w : TWord) (asplit : BitVec 4) : Bool :=
  match w.engine.toNat with
  | 1 => false
  | 2 => true
  | _ => decide (tMvp w < tArrays w asplit)

/-- A pass is numbered 5 u for unit u (a chunk by a 32-column block, in the order of R146) on a whole array, and
5 u + 1 + 2 qr + qc for quadrant (qr, qc) of that unit (R166, R182). Whether the quadrant holds data. -/
def quadrantUsed (w : TWord) (u qr qc : Nat) : Bool :=
  decide (32 * (u % chunks w) + 16 * qr < dimK w) && decide (32 * (u / chunks w) + 16 * qc < dimN w)

/-- Units of a word: chunks of K by 32-column blocks of N, in the order of R146. -/
def unitCount (w : TWord) : Nat := chunks w * colBlocks w

/-- The quadrant passes of a word with every array split, by 16-column block of N and then by half chunk of K, empty halves
skipped (R146, Worked case). -/
def quadPasses (w : TWord) : List Nat :=
  (List.range (2 * colBlocks w)).flatMap (fun b => (List.range (2 * chunks w)).filterMap (fun h =>
    let u := b / 2 * chunks w + h / 2
    if quadrantUsed w u (h % 2) (b % 2) then some (5 * u + 1 + 2 * (h % 2) + b % 2) else none))

/-- An array has no pass on any of its quadrants. -/
def arrayFree (c : Core) (i : Nat) : Bool := c.arrays.all (fun r => r.array != i)
/-- Quadrant q of array i has no pass. -/
def quadFree (c : Core) (i q : Nat) : Bool := c.arrays.all (fun r => r.array != i || (r.pass % 5 != 0 && r.pass % 5 != q + 1))

/-- Where the folder puts the next passes of a job, and which: a whole array takes a unit as one pass and a split one as its
quadrant passes (R182); with every array split each quadrant pass goes to the quadrant of its half and columns (R166), on the
lowest-numbered array where that is free (R146). None where no place is free or nothing is left to issue. -/
def nextPasses (c : Core) (j : Job) : Option (List PassRun) :=
  if j.asplit = 0xF then
    match (quadPasses j.word)[j.dealt]? with
    | none => none
    | some p => ((List.range 4).find? (fun i => quadFree c i (p % 5 - 1))).map (fun i => [{ array := i, job := j.id, pass := p }])
  else if j.dealt < unitCount j.word then
    ((List.range 4).find? (arrayFree c)).map (fun i =>
      if j.asplit.getLsbD i then
        ((List.range 4).filter (fun q => quadrantUsed j.word j.dealt (q / 2) (q % 2))).map (fun q =>
          { array := i, job := j.id, pass := 5 * j.dealt + 1 + q })
      else [{ array := i, job := j.id, pass := 5 * j.dealt }])
  else none

/-- The folder has passes of a job still to issue. -/
def dealing (j : Job) : Bool :=
  (j.kind == .mmul || j.kind == .mmac) && !usesMvp j.word j.asplit
  && decide (j.dealt < if j.asplit = 0xF then (quadPasses j.word).length else unitCount j.word)

/-- Change a job. -/
def modJob (c : Core) (id : Nat) (f : Job → Job) : Core := { c with jobs := updFirst (fun j => j.id == id) f c.jobs }

/-- The folder issues passes, word by word, as far as arrays and quadrants are free (R146, R188). There are 16 quadrants, so a
fuel of 16 never runs out. -/
def deal : Nat → Core → Core
  | 0, c => c
  | fuel + 1, c => match c.jobs.find? dealing with
    | none => c
    | some j => match nextPasses c j with
      | none => c
      | some ps => deal fuel (modJob { c with arrays := c.arrays ++ ps } j.id (fun j => { j with dealt := j.dealt + 1 }))

/-- Quadrants of a skein's four arrays. -/
def quadrants : Nat := 16

/-- Every pass of a unit has been delivered. -/
def unitDone (j : Job) (u : Nat) : Bool :=
  smem j.done (5 * u) || [0, 1, 2, 3].all (fun r => !quadrantUsed j.word u (r / 2) (r % 2) || smem j.done (5 * u + 1 + r))

/-- The number of a leaf of the MVP. -/
def leafNo (w : TWord) (m n chunk : Nat) : Nat := (m * dimN w + n) * chunks w + chunk

/-- Every leaf of every output element is in the chunk holder (R145). -/
def leavesDone (j : Job) : Bool :=
  match j.kind with
  | .mmul | .mmac =>
    if usesMvp j.word j.asplit then (List.range (dimM j.word * dimN j.word * chunks j.word)).all (smem j.done)
    else (List.range (unitCount j.word)).all (unitDone j)
  | _ => true

/-- The tokens of A and B have been granted, so a pass may read them (R171). -/
def operandsGranted (c : Core) (j : Job) : Bool :=
  let w := j.word
  let ts := tileSpan w.a (dimM w) (dimK w) ++ tileSpan w.b (dimK w) (dimN w)
  c.tokens.all (fun r => r.owner != j.id || !ts.contains r.tile || r.granted)

/-! ### What a job writes -/

/-- The sum of products of each element of D, from A and B as they stand (R105, R109). -/
def jobSums (e : Env) (c : Core) (j : Job) : List (List DotSum) :=
  let w := j.word
  let h := w.hdr
  (List.range (dimM w)).map (fun i => (List.range (dimN w)).map (fun x =>
    dotSum (codeFmt h.fa.toNat) (codeFmt h.fb.toNat) ((List.range (dimK w)).map (fun q =>
      (opdElem e c w.a h.fa.toNat (dimM w) (dimK w) i q, opdElem e c w.b h.fb.toNat (dimK w) (dimN w) q x)))))

/-- The rows of D of a matrix word, as patterns of FD with the flags each element raises: C joins as it stands (R145). -/
def formRows (e : Env) (c : Core) (j : Job) (sums : List (List DotSum)) : List (List (Nat × Flags)) :=
  let w := j.word
  let h := w.hdr
  let acc (i x : Nat) : Option (Fmt × Nat) :=
    if j.kind = .mmac then some (codeFmt h.fc.toNat, opdElem e c w.c h.fc.toNat (dimM w) (dimN w) i x) else none
  (sums.zip (List.range sums.length)).map (fun p => (p.1.zip (List.range p.1.length)).map (fun q =>
    dotFinish q.1 (acc p.2 q.2) (codeFmt h.fd.toNat) (codeRnd h.rnd.toNat)))

/-- The rows of D of a tile mover. -/
def moverRows (e : Env) (c : Core) (j : Job) : List (List (Nat × Flags)) :=
  let w := j.word
  let h := w.hdr
  let m := dimM w
  let n := dimN w
  let fa := codeFmt h.fa.toNat
  let fd := codeFmt h.fd.toNat
  let rnd := codeRnd h.rnd.toNat
  let elem (i x : Nat) : Nat × Flags := match j.kind with
    | .tcopy =>
      (if w.a.kind || w.d.kind then opdElem e c w.a h.fa.toNat m n i x else (opdCell c w.a m n i x).toNat, noFlags)
    | .tld | .tst => convert fa fd rnd false 0 (opdElem e c w.a h.fa.toNat m n i x)
    | .tcvt => convert fa fd rnd h.sat (scaleInt h) (opdElem e c w.a h.fa.toNat m n i x)
    | .tzero | .mmul | .mmac => (0, noFlags)
  (List.range m).map (fun i => (List.range n).map (elem i))

/-- Write a job's D, join its masked flags (R96, R142), release its tokens (R172). -/
def finishJob (e : Env) (c : Core) (j : Job) (rows : List (List (Nat × Flags))) : Core :=
  let fl := flagUnion (rows.map (fun r => flagUnion (r.map (·.2)))) &&& j.word.hdr.fmask
  let c1 := ((List.range (dimM j.word)).zip rows).foldl (fun c p =>
    putRow e c j.word.d j.word.hdr.fd.toNat (dimN j.word) p.1 (p.2.map (·.1))) c
  let c2 := releaseTokens (joinFlags c1 j.id fl) j.id
  { c2 with jobs := c2.jobs.filter (fun x => x.id != j.id) }

/-- Release a job's read tokens but for those of some tiles (Table Matrix-2). -/
def releaseReads (c : Core) (id : Nat) (keep : List Nat) : Core :=
  { c with tokens := c.tokens.filter (fun r => r.owner != id || r.write || keep.contains r.tile) }

/-- The tiles of C of a matrix word. -/
def accTiles (j : Job) : List Nat := if j.kind = .mmac then tileSpan j.word.c (dimM j.word) (dimN j.word) else []

/-- A matrix word all of whose passes have delivered sums its products and frees A and B, whether or not C and D are granted
(R172, R187, Table Matrix-2). -/
def sumJob (e : Env) (c : Core) (j : Job) : Core :=
  if (j.kind = .mmul ∨ j.kind = .mmac) ∧ j.stage = .passes ∧ leavesDone j then
    modJob (releaseReads c j.id (accTiles j)) j.id (fun x => { x with stage := .summed (jobSums e c j) })
  else c

/-- Once C is granted every element is formed and C is free. -/
def formJob (e : Env) (c : Core) (j : Job) : Core :=
  match j.stage with
  | .summed sums =>
    if c.tokens.all (fun r => r.owner != j.id || !(accTiles j).contains r.tile || r.granted) then
      modJob (releaseReads c j.id []) j.id (fun x => { x with stage := .formed (formRows e c j sums) })
    else c
  | _ => c

/-- Once D is granted it is written; a tile mover whose tokens are all granted moves at once. -/
def writeJob (e : Env) (c : Core) (j : Job) : Core :=
  if !allGranted c j.id then c
  else match j.stage with
    | .formed rows => finishJob e c j rows
    | .passes => if j.kind = .mmul ∨ j.kind = .mmac then c else finishJob e c j (moverRows e c j)
    | .summed _ => c

/-- One stage of a job, named by its number. -/
def jobStep (f : Core → Job → Core) (id : Nat) (c : Core) : Core :=
  match c.jobs.find? (fun j => j.id == id) with
  | none => c
  | some j => f c j

/-- Take every job as far as its passes and tokens let it. -/
def settleJobs (e : Env) (c : Core) : Core :=
  c.jobs.foldl (fun c j => jobStep (writeJob e) j.id (jobStep (formJob e) j.id (jobStep (sumJob e) j.id c))) c

/-- Program faults of a Form T word (Table Core-9). -/
def tileFaults (e : Env) (kind : JobKind) (w : TWord) : List (Bool × Nat) :=
  let h := w.hdr
  let m := dimM w
  let n := dimN w
  let k := dimK w
  let d := opdFaults e w.d h.fd.toNat m n true
  match kind with
  | .mmul => d ++ opdFaults e w.a h.fa.toNat m k false ++ opdFaults e w.b h.fb.toNat k n false
  | .mmac => d ++ opdFaults e w.a h.fa.toNat m k false ++ opdFaults e w.b h.fb.toNat k n false
             ++ opdFaults e w.c h.fc.toNat m n false
  | .tzero => d
  | _ => d ++ opdFaults e w.a h.fa.toNat m n false

/-- Issue a Form T word: faults, waits for scratch (R151, R152), token requests (R169), and, for a tile mover whose tokens
are all granted, its effect at once. -/
def issueTile (kind : JobKind) (w : TWord) (e : Env) (c : Core) : Eff Core :=
  match firstCause (tileFaults e kind w) with
  | some f => .fault f
  | none =>
    let j := Job.fresh c.nextId kind w c.asplit
    let x := jobExtents j
    if hazard e c x.1 x.2 || !(x.1 ++ x.2).all (fun p => extentReady c p.1 p.2) then .wait
    else
      let ts := jobTiles j
      let c1 := requestTokens c j.id ts.1 ts.2
      let c2 := { c1 with nextId := c.nextId + 1, jobs := c.jobs ++ [j],
                          tokens := c.tokens ++ grantFrom (fun _ => true) c.tokens (c1.tokens.drop c.tokens.length) }
      .done (deal quadrants (jobStep (writeJob e) j.id c2))

/-- Grant a tile's queued tokens (R170), then let the jobs that waited for them finish. -/
def grantTile (tile : Nat) (e : Env) (c : Core) : Core :=
  settleJobs e { c with tokens := grantFrom (· == tile) [] c.tokens }

/-- A pass of a job stands on an array or quadrant. -/
def passRuns (c : Core) (id p : Nat) : Bool := c.arrays.any (fun r => r.job == id && r.pass == p)

/-- An array or quadrant pass delivers its sums (R164, R166); the folder gives the place to the next pass (R146). -/
def passDone (id p : Nat) (e : Env) (c : Core) : Core :=
  match c.jobs.find? (fun j => j.id == id) with
  | none => c
  | some j =>
    if passRuns c id p ∧ operandsGranted c j then
      deal quadrants (settleJobs e (modJob { c with arrays := c.arrays.filter (fun r => r.job != id || r.pass != p) } id
        (fun j => { j with done := sadd j.done p })))
    else c

/-- An MVP chunk unit delivers a leaf (R168). -/
def chunkDone (id m n chunk : Nat) (e : Env) (c : Core) : Core :=
  match c.jobs.find? (fun j => j.id == id) with
  | none => c
  | some j =>
    if (j.kind = .mmul ∨ j.kind = .mmac) ∧ usesMvp j.word j.asplit ∧ m < dimM j.word ∧ n < dimN j.word
        ∧ chunk < chunks j.word ∧ operandsGranted c j then
      settleJobs e (modJob c id (fun j => { j with done := sadd j.done (leafNo j.word m n chunk) }))
    else c

end Sys2Proof.Machine
end

