-- ==== Sys2Proof/Machine/MemOps.lean ====
section
/-! DEFINITION. The stack controllers: write-combining, memory events, lost lines, BCU events
(07_memory.md, 08_near_bank.md Faults). -/

namespace Sys2Proof.Machine

/-! ### Banks in the middle of a near-bank step (R229, R250) -/

/-- A near-bank step runs in a bank. -/
def bankBusy (s : State) (i lpc bank : Nat) : Bool := (getS s i).steps.any (fun x => x.lpc == lpc && x.bank == bank)
/-- The bank of a line is in the middle of a step: nothing else is issued to it (R229). -/
def lineBusy (s : State) (line : Nat) : Bool :=
  let p := stripedLoc (256 * line)
  bankBusy s p.stack p.lpc p.bank
/-- The banks of some lines are free. -/
def linesFree (s : State) (l : List Nat) : Bool := l.all (fun x => !lineBusy s x)

/-- An access notes at the bank of a line that it waits there. -/
def holdAccess (w : Waiter) (s : State) (line : Nat) : State :=
  let p := stripedLoc (256 * line)
  let a : Held := { bank := 16 * p.lpc + p.bank, what := w }
  modS s p.stack (fun q => { q with held := if q.held.contains a then q.held else q.held ++ [a] })
/-- An access notes its wait at every busy bank of its lines. -/
def holdLines (s : State) (w : Waiter) (l : List Nat) : State := (l.filter (lineBusy s)).foldl (holdAccess w) s
/-- A waiting access has been served, or is gone. -/
def dropAccess (s : State) (w : Waiter) : State :=
  (List.range 8).foldl (fun s i => modS s i (fun q => { q with held := q.held.filter (fun a => a.what != w) })) s

/-- A table word reads lines through the controller: it waits for a lost plane-map line until it is rebuilt (R631), and for the
near-bank steps in the banks of its lines (R229, R250). -/
def afterBanks (s : State) (e : Env) (maps rows : List Nat) (f : State → Issued) : Issued :=
  let w : Waiter := .word e.l.id e.ex
  if maps.any (lineLost s) then .wait
  else if linesFree s (maps ++ rows) then f (dropAccess s w)
  else .parked (holdLines s w (maps ++ rows), none)

/-! ### Write-combining (R206 to R209, R625) -/

/-- Flush one entry: fully masked bursts are written and lose no longer; partly masked ones merge, unless their burst is
lost, when the write is discarded (R208, R625). -/
def flushEntry (s : State) (w : WcEntry) : State :=
  (List.range 8).foldl (fun s b =>
    let addr := 256 * w.line + 32 * b
    let bytes := (List.range 32).filterMap (fun i => (nget none w.data (32 * b + i)).map (fun v => (addr + i, v)))
    if bytes.isEmpty then s
    else if bytes.length = 32 then
      { s with mem := nputs 0 s.mem addr (bytes.map (·.2)), lostBursts := sdel s.lostBursts (addr / 32) }
    else if smem s.lostBursts (addr / 32) then logErr s Err.burstLostWrite noTenant addr w.fn
    else { s with mem := bytes.foldl (fun m p => nput 0 m p.1 p.2) s.mem }) s

/-- Flush the entries of a stack that satisfy a test, in order; one whose bank is in the middle of a near-bank step waits for
its end (R229, R252). -/
def flushWhere (s : State) (i : Nat) (p : WcEntry → Bool) : State :=
  let now (w : WcEntry) : Bool := p w && !lineBusy s w.line
  let out := (getS s i).wc.filter now
  out.foldl flushEntry (modS s i (fun st =>
    { st with wc := (st.wc.filter (fun w => !now w)).map (fun w => if p w then { w with due := true } else w) }))

/-- Flush the line a read reaches (R207, R209). -/
def flushLine (s : State) (line : Nat) : State := flushWhere s (line % 8) (fun w => w.line == line)
/-- Flush every entry of every stack. -/
def flushAll (s : State) : State := (List.range 8).foldl (fun s i => flushWhere s i (fun _ => true)) s

/-- Write bytes of one line through its combining buffer (R206, R207). -/
def wcWrite (s : State) (fn line off : Nat) (b : Bytes) : State :=
  let i := line % 8
  let old := (getS s i).wc.find? (fun w => w.line == line)
  let data := (b.zip (List.range b.length)).foldl (fun d p => nput none d (off + p.2) (some p.1)) (old.elim [] (·.data))
  let w : WcEntry := { line, data, since := s.clk.elapsed, fn, due := old.any (·.due) }
  let s1 := modS s i (fun st => { st with wc := st.wc.filter (fun w => w.line != line) ++ [w] })
  if data.length = 256 then flushLine s1 line
  else match (getS s1 i).wc with
    | first :: _ => if 256 < (getS s1 i).wc.length then flushLine s1 first.line else s1
    | [] => s1

/-! ### Host reads of device memory (R207, R250) -/

/-- A stored byte; that of a lost burst is a free value (log 54). -/
def storedByte (s : State) (n a : Nat) : Byte := if smem s.lostBursts (a / 32) then Config.lostByte n else nget 0 s.mem a

/-- The bytes stored, with whatever the combining buffers hold for them (R207). -/
def bar2Bytes (s : State) (l : List Nat) : State × Bytes :=
  let s1 := ((l.map (· / 256)).eraseDups).foldl flushLine s
  ({ s1 with free := s1.free + l.length }, (l.zip (List.range l.length)).map (fun p => storedByte s1 (s1.free + p.2) p.1))

/-- A host read of striped addresses is completed, or waits for the near-bank steps in its banks (R250, R251). -/
def hostRead (s : State) (fn : Nat) (addrs : List Nat) : State :=
  let lines := (addrs.map (· / 256)).eraseDups
  if linesFree s lines then
    let r := bar2Bytes s addrs
    emit r.1 (.completion fn (some r.2))
  else holdLines s (.host fn addrs) lines

/-! ### Lost bursts and lines (R223 to R225, R625, R631) -/

/-- The extents of a table in device memory: rows of both planes, plane map, data area, as a test on a striped address. -/
def inTable (d : Bytes) (a : Nat) : Bool :=
  let n := tCount d
  decide (tMap d ≤ a ∧ a < tMap d + mapBytes n)
  || (if tKind d = 1 then
        let p := stripedLoc a
        let per := 1024 / tSize d
        let rows := ((n + 3839) / 3840 + per - 1) / per
        [0, 1].any (fun pl => decide (tBase d pl ≤ p.row ∧ p.row < tBase d pl + rows))
      else decide (tData d ≤ a ∧ a < tData d + tLen d))

/-- The table whose extent holds a striped address, registered or retired and not yet free (R210, R632). -/
def tableHolding (s : State) (a : Nat) : Option Table := s.tables.find? (fun t => inTable t.desc a)

/-- An uncorrectable burst: it is lost until a write gives it new bytes (R625). A member asks a partner for the line of a table
(R223, R406). -/
def loseBurst (s : State) (burst : Nat) : State :=
  let known := s.lostBursts.any (fun b => b / 8 == burst / 8)
  let s1 := { s with lostBursts := sadd s.lostBursts burst }
  if inGroup s ∧ !known ∧ (tableHolding s (32 * burst)).isSome then sendFetch s1 2 s.fe.epoch.toNat [256 * (burst / 8)] else s1

/-! ### Events of pseudo-channels and BCUs -/

/-- MEMORY-DEGRADED (R227). -/
def memoryDegraded (s : State) (st lpc : Nat) : State :=
  msix (logErr (stopAdmit (raiseCond s condMemory) condMemory) Err.memoryDegraded noTenant lpc st) 0 5

/-- A pseudo-channel becomes permanent: rebuilt onto a spare, or MEMORY-DEGRADED (R226, R227). -/
def pcPermanent (s : State) (st lpc : Nat) : State :=
  match (getS s st).spares with
  | [] => memoryDegraded (persistMap { s with defects := { s.defects with failed := sadd s.defects.failed (32 * st + lpc) } }) st lpc
  | t :: rest => modS s st (fun q => { q with spares := rest, rebuild := q.rebuild ++ [{ lpc, target := t, cursor := 0 }] })

/-- A memory event of the physical pseudo-channel that a logical one names (R222, R494). -/
def memoryEvent (s : State) (st lpc : Nat) : State :=
  let r := event s chPc (32 * st + (getS s st).pcMap.getD lpc 0)
  if r.2 then pcPermanent r.1 st lpc else r.1

/-- A corrected error at a burst: rewritten and counted; one that recurs after its rewrite is a memory event (R221, R222). -/
def correctedError (s : State) (st lpc burst : Nat) : State :=
  let again := smem (getS s st).rewritten burst
  let now := s.clk.elapsed
  let s1 := countEvent (modS s st (fun q =>
    { q with corrected := (lpc, now) :: q.corrected.filter (fun e => decide (now ≤ e.2 + 1000000000)),
             rewritten := sadd q.rewritten burst })) 5 1
  if again then memoryEvent s1 st lpc else s1

/-- The physical pseudo-channel that R226 names for reads of a line: the spare below the cursor of its rebuild. A
pseudo-channel's lines ascend by 240 line numbers (R195). -/
def physOfLine (q : StackSt) (lpc line : Nat) : Nat :=
  match q.rebuild.head? with
  | some r => if r.lpc = lpc ∧ line / 240 < r.cursor then r.target else q.pcMap.getD lpc 0
  | none => q.pcMap.getD lpc 0

/-- An event against the BCU of a bank of a physical pseudo-channel; the third within the window fences it (R259). The entry names
the logical pseudo-channel. -/
def bcuEvent (s : State) (st lpc phys bank : Nat) : State :=
  let r := event s chBcu (512 * st + 16 * phys + bank)
  if r.2 then
    logErr (persistMap (modS r.1 st (fun q => { q with fenced := sadd q.fenced (16 * phys + bank) }))) Err.bcuFenced noTenant (16 * lpc + bank) st
  else r.1

end Sys2Proof.Machine
end

