-- ==== Sys2Proof/Machine/NearBank.lean ====
section
/-! DEFINITION. The near-bank words and the near-bank scheduler's events (08_near_bank.md). -/

namespace Sys2Proof.Machine

/-! ### What a word reads and how much it gives (Table NearBank-3, R303) -/

/-- NBGP mode WSUM. -/
def nbWeighted (kind : NbKind) (w : MWord) : Bool := kind == .gp && nbMode w == 1

/-- Elements of the operand vector: one per entry, or the query's E; none where the word has no operand vector. -/
def nbVecLen (kind : NbKind) (w : MWord) (elems : Nat) : Nat :=
  match kind with
  | .gp => if nbMode w = 1 then nbCount w else 0
  | .dot => elems
  | .sa => nbCount w
  | .copy => 0

/-- Elements of the bias vector. -/
def nbBiasLen (kind : NbKind) (w : MWord) (elems : Nat) : Nat := if kind = .sa ∧ nbBias w = true then elems else 0

/-- Results of a word: elements (R303). -/
def nbResults (kind : NbKind) (bags entries elems : Nat) : Nat :=
  match kind with
  | .gp => bags * elems
  | .dot => entries
  | .sa => entries * elems
  | .copy => entries * elems

/-- The scratch extents a word reads: index list, operand vector, bias vector. -/
def nbExtents (kind : NbKind) (w : MWord) (c : Core) (elems : Nat) : List Extent :=
  [((getX64 c w.sa).toNat, 8 * nbCount w), ((getX64 c w.sb).toNat, elemSide w.hdr.fb.toNat (nbVecLen kind w elems)),
   ((getX64 c w.sc).toNat, elemSide w.hdr.fb.toNat (nbBiasLen kind w elems))]

/-- Program faults of a near-bank word (Table NearBank-5, R264). -/
def nbFaults (kind : NbKind) (w : MWord) (e : Env) (c : Core) (elems : Nat) (known : Bool) : List (Bool × Nat) :=
  let unit := codeWidth w.hdr.fb.toNat / 8
  let vec := nbVecLen kind w elems
  let bias := nbBiasLen kind w elems
  [((nbExtents kind w c elems).any (fun x => x.2 != 0 && outside e x.1 x.2), pfRange),
   ((getX64 c w.sa).toNat % 8 != 0, pfAlign),
   (vec != 0 && (getX64 c w.sb).toNat % unit != 0, pfAlign),
   (bias != 0 && (getX64 c w.sc).toNat % unit != 0, pfAlign),
   (!known, pfTable)]

/-! ### Resolving the entries (R240 to R242) -/

/-- Index and END of each entry of an index list. -/
def nbIndexes (b : Bytes) (n : Nat) : List (Nat × Bool) :=
  (List.range n).map (fun i => (fld b (8 * i) 4, bit (fld b (8 * i + 4) 1) 0))

/-- The bag of each entry: END closes a bag in NBGP; in the other words each entry is its own (R240). -/
def nbBags (kind : NbKind) : Nat → List (Nat × Bool) → List (Nat × Nat)
  | _, [] => []
  | bag, (r, fin) :: l => (r, bag) :: nbBags kind (if fin || kind != .gp then bag + 1 else bag) l

/-- The physical pseudo-channel whose BCU serves a row (R254). -/
def rowPhys (s : State) (p : Loc) : Nat := physOfLine (getS s p.stack) p.lpc (stripedOf p / 256)

/-- The row's BCU is fenced (R259). -/
def rowFenced (s : State) (p : Loc) : Bool := smem (getS s p.stack).fenced (16 * rowPhys s p + p.bank)

/-- An index is served beside its bank: hint STREAM, no line of the row in the row cache, BCU not fenced (R230). -/
def bcuServes (s : State) (hint : Nat) (p : Loc) (lines : List Nat) : Bool :=
  hint == 1 && lines.all (fun l => !cached (getS s p.stack) l) && !rowFenced s p

/-- What resolving gathers: the state with the controller path's reads charged, the entries, whether an index lay past the
count, and the first index that the arena lacks. -/
structure NbGather where
  s      : State
  list   : List NbEntry
  beyond : Bool
  absent : Option Nat

/-- Resolve one index to its row version (R241, R242) and choose its path (R230). The controller path's read is done at
once, or after the step that its bank is in the middle of (R250); a row of the arena takes the controller path. A row for its BCU
is read by its step. -/
def nbResolve (w : MWord) (e : Env) (word : Nat) (src : Source) (g : NbGather) (x : Nat × Nat) : NbGather :=
  let entry (bytes : Bytes) (p : Loc) (phase : NbPhase) : NbEntry :=
    { row := x.1, bag := x.2, bytes, stack := x.1 % 8, lpc := p.lpc, bank := p.bank, dramRow := p.row, byte := p.byte,
      size := tSize src.desc, phase }
  let none_ : Loc := ⟨0, 0, 0, 0, 0⟩
  match gotRow g.s e src x.1 with
  | .beyond => { g with list := g.list ++ [entry (zeros (tSize src.desc)) none_ .done], beyond := true }
  | .absent => { g with absent := some (g.absent.getD x.1) }
  | .value b lost => match src with
    | .arena _ => { g with list := g.list ++ [entry b none_ .done] }
    | .live t =>
      let plane := planeFor g.s t e.l.epoch x.1
      let p := rowLoc (tSize t.desc) (tBase t.desc plane) x.1
      let lines := rowLines t.desc plane x.1
      if bcuServes g.s (parHint w) p lines then { g with list := g.list ++ [entry [] p .waiting] }
      else if linesFree g.s lines then
        { g with s := lines.foldl (fun s l => cacheRead s e.l.id (parHint w) (parUse w) l) (noteLost (lines.foldl flushLine g.s) e lost),
                 list := g.list ++ [entry b p .done] }
      else
        let o : StepOwner := { launch := e.l.id, ex := e.ex, word, entry := g.list.length }
        { g with s := holdLines g.s (.entry o) lines, list := g.list ++ [entry [] p .reading] }

/-- A stack's near-bank command queue is full of this skein's unfinished words (Table Arch-4). -/
def nbQueueFull (c : Core) (st : Nat) : Bool :=
  decide (32 ≤ (c.nb.filter (fun n => n.entries.any (fun x => x.stack == st && x.phase != .done))).length)

/-! ### Issue -/

/-- The stream takes a range of `size` bytes now (R304). -/
def rangeFits (st : Stream) (size : Nat) : Bool :=
  st.desc.dir == 3 && decide (rangesEnd st + roundUp size 256 ≤ st.q + st.desc.ringLen)
/-- A stream is open as an NB stream and takes a range of `size` bytes now; where it does not, the word completes at once (R304). -/
def streamTakes (c : Core) (n size : Nat) : Bool := (getStream c n).any (fun st => rangeFits st size)

/-- Issue a near-bank word (R248, R264, R303, R304). -/
def nbIssue (kind : NbKind) (w : MWord) (e : Env) (s : State) (c : Core) : Issued :=
  let elems := ((schemaOf e.acc (parHandle w)).map tElems).getD 0
  let src? := sourceOf s e (parHandle w)
  match firstCause (nbFaults kind w e c elems src?.isSome), src? with
  | some n, _ => .fault n
  | none, none => .wait
  | none, some src =>
    let ext := nbExtents kind w c elems
    let size (bags : Nat) : Nat := elemSide w.hdr.fd.toNat (nbResults kind bags (nbCount w) elems)
    if !streamTakes c (parStream w) (if kind = .gp then 0 else size 0) then streamInvalid s e c (parStream w) w.hdr.fmask
    else if hazard e c ext [] || !ext.all (fun x => extentReady c x.1 x.2) then .wait
    else
      let vecAt (r : BitVec 6) (n : Nat) : List Nat :=
        unpackElems (codeFmt w.hdr.fb.toNat) n (scratchRead e c (getX64 c r).toNat (elemSide w.hdr.fb.toNat n))
      let idx := nbBags kind 0 (nbIndexes (scratchRead e c (getX64 c w.sa).toNat (8 * nbCount w)) (nbCount w))
      let bags := (idx.getLast?.map (·.2 + 1)).getD 0
      match getStream c (parStream w) with
      | none => .wait
      | some st =>
        let start := rangesEnd st
        let len := roundUp (size bags) 256
        if !streamTakes c (parStream w) (size bags) then streamInvalid s e c (parStream w) w.hdr.fmask
        else if sourceDead src then deadTable s e
        else if (List.range 8).any (fun i => idx.any (fun x => x.1 % 8 == i) && nbQueueFull c i) then .wait
        else afterBanks s e (src.maps (idx.map (·.1))) [] (fun s =>
          let g := idx.foldl (nbResolve w e c.nextId src) { s, list := [], beyond := false, absent := none }
          match g.absent with
          | some r => arenaAbsent s e (parHandle w) r
          | none =>
            let word : NbWord :=
              { id := c.nextId, kind, word := w, fmt := tFmt src.desc, entries := g.list, bags, vec := vecAt w.sb (nbVecLen kind w elems),
                bias := vecAt w.sc (nbBiasLen kind w elems), stream := parStream w, start, len, home := [],
                flags := flagIf g.beyond flNV }
            let st1 := { st with ranges := st.ranges ++ [{ start, len, done := false }] }
            .done (g.s, some (setStream { c with nextId := c.nextId + 1, nb := c.nb ++ [word] } (parStream w) (some st1))))

/-- The accord's schemas name the word's handle as a ROW table (Table Core-10). -/
def nbHandleOk (s : State) (k : Nat) (w : MWord) : Bool := fitsAccord s k (fun e _ => schemaKind e.acc (parHandle w) 1)

/-- NBGP (R243, R244). -/
def execNbgp (k : Skein) (w : MWord) (s : State) : Result :=
  .next (issueWord s k.val (legalNbgp w && nbHandleOk s k.val w) w.hdr (nbIssue .gp w))
/-- NBDOT (R245). -/
def execNbdot (k : Skein) (w : MWord) (s : State) : Result :=
  .next (issueWord s k.val (legalNbdot w && nbHandleOk s k.val w) w.hdr (nbIssue .dot w))
/-- NBSA (R246). -/
def execNbsa (k : Skein) (w : MWord) (s : State) : Result :=
  .next (issueWord s k.val (legalNbsa w && nbHandleOk s k.val w) w.hdr (nbIssue .sa w))
/-- NBCOPY (R246). -/
def execNbcopy (k : Skein) (w : MWord) (s : State) : Result :=
  .next (issueWord s k.val (legalNbcopy w && nbHandleOk s k.val w) w.hdr (nbIssue .copy w))

/-! ### Values (R243 to R247) -/

/-- One addend: a row element, or the product of weight and element rounded once to FP32 (R243, step 1). -/
def nbAddend (f fb : Fmt) (weight : Option Nat) (x : Nat) : Val × Flags :=
  match weight with
  | none => (f.val x, noFlags)
  | some q =>
    let p := (fb.val q).mul (f.val x)
    let r := toFloatBits .fp32 .rne false p.1
    (Fmt.fp32.val r.1, p.2 ||| r.2)

/-- The exact sum of a cell, over a count for MEAN, rounded once into FD (R243, step 3). -/
def nbRound (cell : Cell320) (count : Nat) (fd : Fmt) (m : Rnd) : Nat × Flags :=
  let nan := bit cell 317
  let p := bit cell 318
  let n := bit cell 319
  if nan then (if fd.isFloat then (fd.nanBits, noFlags) else (0, flNV))
  else if p && n then (if fd.isFloat then (fd.nanBits, flNV) else (0, flNV))
  else if p then (Val.inf false).to fd m false
  else if n then (Val.inf true).to fd m false
  else
    let sum := signed 317 cell
    (if sum = 0 then Val.zero false else Val.fin sum count (-149)).to fd m false

/-- One element of a bag's result: `xs` are the bag's weights and elements (R243, R244). -/
def nbPool (mode : Nat) (f fb fd : Fmt) (m : Rnd) (xs : List (Nat × Nat)) : Nat × Flags :=
  if mode = 3 then
    convert f fd m false 0 (maxReduce f (xs.map (·.2)))
  else
    let adds := xs.map (fun x => nbAddend f fb (if mode = 1 then some x.1 else none) x.2)
    let r := nbRound (adds.foldl (fun c a => cellAdd c a.1) 0) (if mode = 2 then xs.length else 1) fd m
    (r.1, flagUnion (adds.map (·.2)) ||| r.2)

/-- The results of a word in the order of R248. -/
def nbValues (n : NbWord) : List (Nat × Flags) :=
  let f := codeFmt n.fmt
  let fb := codeFmt n.word.hdr.fb.toNat
  let fd := codeFmt n.word.hdr.fd.toNat
  let m := codeRnd n.word.hdr.rnd.toNat
  let rows := n.entries.map (fun x => (x.bag, unpackElems f (x.bytes.length * 8 / f.width) x.bytes))
  let elems := (rows.map (·.2.length)).headD 0
  let nth (l : List Nat) (j : Nat) : Nat := l.getD j 0
  let each (g : Nat → List Nat → List (Nat × Flags)) : List (Nat × Flags) :=
    (rows.zip (List.range rows.length)).flatMap (fun p => g p.2 p.1.2)
  match n.kind with
  | .gp =>
    (List.range n.bags).flatMap (fun bag =>
      let mine := (rows.zip (List.range rows.length)).filter (fun p => p.1.1 == bag)
      (List.range elems).map (fun j => nbPool (nbMode n.word) f fb fd m (mine.map (fun p => (nth n.vec p.2, nth p.1.2 j)))))
  | .dot => each (fun _ row => [dot f fb (row.zip n.vec) none fd m])
  | .sa => each (fun i row => (row.zip (List.range row.length)).map (fun p =>
      finish fd m (Val.fma m (fb.val (nth n.vec i)) (f.val p.1) (if n.bias.isEmpty then .zero false else fb.val (nth n.bias p.2)))))
  | .copy => each (fun _ row => row.map (convert f fd m false 0))

/-- The stack that forms a bag's result: that of its first entry. -/
def homeStack (n : NbWord) (bag : Nat) : Nat := ((n.entries.find? (fun x => x.bag == bag)).map (·.stack)).getD 0

/-- Every row is read, and every partial has reached its home stack. -/
def nbComplete (n : NbWord) : Bool :=
  n.entries.all (fun x => x.phase == .done
    && (n.kind != .gp || x.stack == homeStack n x.bag || smem n.home (8 * x.bag + x.stack)))

/-- Change a near-bank word of a core. -/
def modNb (c : Core) (id : Nat) (f : NbWord → NbWord) : Core := { c with nb := updFirst (fun n => n.id == id) f c.nb }

/-- Deliver a word's results to its range (R248); the words whose range the watermark has passed are complete (R249). -/
def nbDeliver (id : Nat) (e : Env) (c : Core) : Core :=
  match c.nb.find? (fun n => n.id == id) with
  | none => c
  | some n => match getStream c n.stream with
    | none => c
    | some st =>
      if !nbComplete n || !st.ranges.any (fun r => r.start == n.start && !r.done) then c
      else
        let vals := nbValues n
        let c1 := ringWrite e c st n.start (fit n.len (packElems (codeFmt n.word.hdr.fd.toNat) (vals.map (·.1))))
        let c2 := joinFlags c1 n.id ((n.flags ||| flagUnion (vals.map (·.2))) &&& n.word.hdr.fmask)
        let st1 := advanceRanges { st with ranges := st.ranges.map (fun r => if r.start = n.start then { r with done := true } else r) }
        setStream { c2 with nb := c2.nb.filter (fun x => x.stream != n.stream || decide (st1.w < x.start + x.len)) } n.stream (some st1)

/-- NB_RESULT_DELIVERY. -/
def execNbResultDelivery (k : Skein) (word : Nat) (s : State) : Result := .next (unitStep s k.val (nbDeliver word))

/-- A stack's exact partial of a bag reaches the home stack over the pool ring. -/
def poolPartial (src word bag : Nat) (_ : Env) (c : Core) : Core :=
  match c.nb.find? (fun n => n.id == word) with
  | none => c
  | some n =>
    let mine := n.entries.filter (fun x => x.bag == bag && x.stack == src)
    if n.kind = .gp ∧ !mine.isEmpty ∧ mine.all (·.phase == .done) ∧ src ≠ homeStack n bag then
      modNb c word (fun n => { n with home := sadd n.home (8 * bag + src) })
    else c

/-- POOL_RING_PARTIAL. -/
def execPoolRingPartial (src : Stack) (k : Skein) (word bag : Nat) (s : State) : Result :=
  .next (unitStep s k.val (poolPartial src.val word bag))

/-! ### Steps (R228 to R234, R250 to R260) -/

/-- The effective stack cap (R233): at most 64 while PWRBRK# is low or a stack is derated at 90 °C (R603, Table Module-5). -/
def stackCap (s : State) (i : Nat) : Nat :=
  let b := min 120 (rget s Reg.nbBudget i)
  if s.mdl.pwrbrk ∨ smem s.mdl.derates 2 then min b 64 else b

/-- A step may start in a bank of a pseudo-channel: one per bank, one per bank group, four places less the one that launch steps
leave to splice application, and the stack cap (R232 to R234). -/
def stepFits (s : State) (i lpc bank : Nat) (launch : Bool) : Bool :=
  let st := getS s i
  let here := st.steps.filter (fun x => x.lpc == lpc)
  let places := if launch && s.boundary.any (fun b => b.step == .apply) then 3 else 4
  here.all (fun x => x.bank / 4 != bank / 4) && decide (here.length < places)
  && decide (st.steps.length < stackCap s i)

/-- Change one entry of a near-bank word of an execution, wherever it runs; a discarded one has none left (R253). -/
def modEntry (s : State) (o : StepOwner) (f : NbEntry → NbEntry) : State :=
  match ((findL s o.launch).bind (fun l => getX l o.ex)).bind (·.skein) with
  | none => s
  | some k =>
    let g (n : NbWord) : NbWord := { n with entries := updAt f n.entries o.entry }
    let h (x : SkeinCtx) : SkeinCtx := { x with core := modNb x.core o.word g }
    modK s k (fun q => { q with queue := updFirst (fun x => x.launch == o.launch && x.ex == o.ex) h q.queue })

/-- The word whose entry a step computes, while its execution still holds it. -/
def wordOf (s : State) (o : StepOwner) : Option NbWord :=
  ((((findL s o.launch).bind (fun l => getX l o.ex)).bind (·.skein)).bind (fun k =>
    (getK s k).queue.find? (fun x => x.launch == o.launch && x.ex == o.ex))).bind (fun x =>
      x.core.nb.find? (fun n => n.id == o.word))
/-- The entry itself. -/
def entryOf (s : State) (o : StepOwner) : Option NbEntry := (wordOf s o).bind (fun n => n.entries[o.entry]?)

/-- Where an entry's row lies. -/
def entryLoc (n : NbEntry) : Loc := { stack := n.stack, lpc := n.lpc, bank := n.bank, row := n.dramRow, byte := n.byte }
/-- The lines of a row of `size` bytes. -/
def locLines (p : Loc) (size : Nat) : List Nat :=
  (List.range ((size + 255) / 256)).map (fun i => stripedOf { p with byte := p.byte + 256 * i } / 256)
/-- Its lines that hold a lost burst. -/
def locLost (s : State) (p : Loc) (size : Nat) : List Nat :=
  (List.range ((size + 255) / 256)).flatMap (fun i => runLost s (stripedOf { p with byte := p.byte + 256 * i }) (min size 256))

/-- The controller path reads an entry's row: its combining entries are flushed, the row cache sees the read, and the entry has its
bytes (R207, R230). -/
def serveEntry (s : State) (o : StepOwner) : State :=
  match wordOf s o, entryOf s o with
  | some w, some n =>
    let p := entryLoc n
    let lines := locLines p n.size
    let s1 := lines.foldl flushLine s
    let s2 := lines.foldl (fun s l => cacheRead s o.launch (parHint w.word) (parUse w.word) l) (noteReader s1 o.launch (locLost s1 p n.size))
    modEntry s2 o (fun n => { n with phase := .done, bytes := rowRead s1 p n.size })
  | _, _ => s

/-- The controller path takes an entry over: at once, or after the step that its bank is in the middle of (R250). -/
def takeEntry (s : State) (o : StepOwner) : State :=
  match entryOf s o with
  | none => s
  | some n =>
    let lines := locLines (entryLoc n) n.size
    if linesFree s lines then serveEntry s o
    else modEntry (holdLines s (.entry o) lines) o (fun n => { n with phase := .reading })

/-- Issue one step, once no normal access waits at its bank (R250): the row's write-combining entries are flushed first, and the
BCU reads the row (R219, R252). An entry whose BCU has been fenced since is served on the controller path (R259). -/
def stepIssue (s : State) (i k word entry : Nat) : State :=
  match running s k with
  | none => s
  | some x =>
    let o : StepOwner := { launch := x.launch, ex := x.ex, word, entry }
    match entryOf s o with
    | none => s
    | some n =>
      let p := entryLoc n
      if n.stack ≠ i ∨ n.phase ≠ .waiting ∨ (getS s i).retraining.any (fun r => r.1 == n.lpc) then s
      else if rowFenced s p then takeEntry s o
      else if stepFits s i n.lpc n.bank true ∧ (getS s i).held.all (fun a => a.bank != 16 * n.lpc + n.bank) then
        let s1 := flushWhere s i (fun w =>
          let q := stripedLoc (256 * w.line)
          q.lpc == n.lpc && q.bank == n.bank && q.row == n.dramRow)
        let x : NbStep := { lpc := n.lpc, bank := n.bank, phys := rowPhys s p, row := n.dramRow, byte := n.byte, size := n.size,
                            owner := some o, since := s.clk.elapsed, aborted := none, ended := none }
        modEntry (modS (noteReader s1 o.launch (locLost s1 p n.size)) i (fun st => { st with steps := st.steps ++ [x] }))
          o (fun n => { n with phase := .computing, bytes := rowRead s1 p n.size })
      else s

/-- NB_STEP_ISSUE. -/
def execNbStepIssue (st : Stack) (k : Skein) (word entry : Nat) (s : State) : Result :=
  .next (stepIssue s st.val k.val word entry)

/-- The step a bank computes. -/
def stepAt (s : State) (i lpc bank : Nat) : Option NbStep :=
  (getS s i).steps.find? (fun x => x.lpc == lpc && x.bank == bank)
/-- Change the step a bank computes. -/
def modStep (s : State) (i lpc bank : Nat) (f : NbStep → NbStep) : State :=
  modS s i (fun st => { st with steps := updFirst (fun x => x.lpc == lpc && x.bank == bank) f st.steps })

/-- An access that waited at a bank is served when no other bank of it is in the middle of a step; a word issues again by itself. -/
def serveAccess (s : State) (w : Waiter) : State :=
  match w with
  | .word _ _ => s
  | .entry o => serveEntry (dropAccess s w) o
  | .host fn addrs => hostRead (dropAccess s w) fn addrs

/-- A bank's step is over: flushes that waited for it are made and the accesses that waited at the bank are served (R250, R252). -/
def freeBank (s : State) (i lpc bank : Nat) : State :=
  let s1 := modS s i (fun st => { st with steps := st.steps.filter (fun x => x.lpc != lpc || x.bank != bank) })
  let s2 := flushWhere s1 i (fun w =>
    let q := stripedLoc (256 * w.line)
    w.due && q.lpc == lpc && q.bank == bank)
  (((getS s2 i).held.filter (fun a => a.bank == 16 * lpc + bank)).map (·.what)).foldl serveAccess s2

/-- Burst n of the row a step reads (R255, R256). -/
def stepBurst (i : Nat) (x : NbStep) (n : Nat) : Nat :=
  stripedOf { stack := i, lpc := x.lpc, bank := x.bank, row := x.row, byte := x.byte + 32 * n } / 32

/-- The burst that a step's end names lies in its row. -/
def endFits (x : NbStep) : StepEnd → Bool
  | .corrected n | .uncorrectable n _ => decide (32 * n < x.size)
  | .done | .residue => true

/-- What the end of a step does to its entry and to what it met in memory (R255 to R257); the value is the same on every path
(R231). An aborted step has no more effect (R258), and a discarded one none on its entry (R253). -/
def stepEffect (s : State) (i : Nat) (x : NbStep) (res : StepEnd) : State :=
  let served (s : State) : State := x.owner.elim s (fun o => modEntry s o (fun n => { n with phase := .done }))
  let byController (s : State) : State := x.owner.elim s (takeEntry s)
  match res with
  | .done => served s
  | .corrected n => correctedError (served s) i x.lpc (stepBurst i x n)
  | .residue | .uncorrectable _ true => bcuEvent (byController s) i x.lpc x.phys x.bank
  | .uncorrectable n false => byController (memoryEvent (loseBurst s (stepBurst i x n)) i x.lpc)

/-- The controller learns that a step has ended, and how. -/
def stepEnd (s : State) (i : Nat) (x : NbStep) (res : StepEnd) : State :=
  if x.aborted.isSome then freeBank s i x.lpc x.bank
  else if !endFits x res then s
  else freeBank (stepEffect s i x res) i x.lpc x.bank

/-- The stack switches to polled mode (R260). -/
def toPolled (s : State) (i lpc : Nat) : State :=
  logErr (modS s i (fun st => { st with ready := false })) Err.nbSideband noTenant lpc i

/-- NB_READY_FRAME (R237, R260); a stack in polled mode reads no frames. -/
def execNbReadyFrame (st : Stack) (lpc : Fin 30) (bank : Fin 16) (res : StepEnd) (s : State) : Result :=
  .next (if !(getS s st.val).ready then s
         else match stepAt s st.val lpc.val bank.val with
           | some x => stepEnd s st.val x res
           | none => toPolled s st.val lpc.val)

/-- NB-STATUS frames that stay away for this long make the stack poll (R260); a step that lasts as long is aborted (R258). -/
def stepLimit : Nat := 1280
/-- Time for an abort to clear the bank's NB-STATUS bit (R258). -/
def abortLimit : Nat := 640

/-- NB_STATUS_POLL (R238). In ready mode the poll is the check of R260: NB-STATUS shows an end, and no frame has announced it for
1,280 ns since. -/
def execNbStatusPoll (st : Stack) (lpc : Fin 30) (bank : Fin 16) (ended : Bool) (res : StepEnd) (s : State) : Result :=
  .next (match ended, stepAt s st.val lpc.val bank.val with
    | true, some x =>
      if !(getS s st.val).ready ∨ x.aborted.isSome then stepEnd s st.val x res
      else match x.ended with
        | none => modStep s st.val lpc.val bank.val (fun x => { x with ended := some s.clk.elapsed })
        | some t => if t + stepLimit ≤ s.clk.elapsed then stepEnd (toPolled s st.val lpc.val) st.val x res else s
    | _, _ => s)

/-- NB_STEP_TIMEOUT: 1,280 ns after it was written the step is aborted, and its row is served on the controller path once the bank
is free (R258). -/
def execNbStepTimeout (st : Stack) (lpc : Fin 30) (bank : Fin 16) (s : State) : Result :=
  .next (match stepAt s st.val lpc.val bank.val with
    | some x =>
      if x.aborted.isSome ∨ s.clk.elapsed < x.since + stepLimit then s
      else
        let s1 := x.owner.elim s (takeEntry s)
        bcuEvent (modStep s1 st.val lpc.val bank.val (fun x => { x with aborted := some s.clk.elapsed, owner := none }))
          st.val lpc.val x.phys bank.val
    | none => s)

/-- NB_ABORT_TIMEOUT: the abort has not cleared the bank's NB-STATUS bit for 640 ns (R258, R222). -/
def execNbAbortTimeout (st : Stack) (lpc : Fin 30) (bank : Fin 16) (s : State) : Result :=
  .next (match stepAt s st.val lpc.val bank.val with
    | some x =>
      if x.aborted.any (fun t => decide (t + abortLimit ≤ s.clk.elapsed)) then
        freeBank (memoryEvent s st.val lpc.val) st.val lpc.val bank.val
      else s
    | none => s)

end Sys2Proof.Machine
end

