-- ==== Sys2Proof/Machine/TableWords.lean ====
section
/-! DEFINITION. Tally words, ROWRD, SEQF and SPLICE (07_memory.md Tally operations, 09_tables_epochs.md). -/

namespace Sys2Proof.Machine

/-! ### Tally areas (R214 to R217) -/

/-- An addend belongs to an execution. -/
def Addend.of (a : Addend) (launch ex : Nat) : Bool := a.launch == launch && a.ex == ex

/-- Apply one addend to the tally area of its execution; an area that is gone absorbs it (R214). -/
def applyAddend (s : State) (a : Addend) : State :=
  modX s a.launch a.ex (fun x => { x with tally := nmod 0 x.tally a.cell (fun c => cellAdd c (a.kind.val a.value)) })

/-- Apply every accepted addend of an execution. -/
def settleTally (s : State) (launch ex : Nat) : State :=
  (List.range 8).foldl (fun s i =>
    ((getS s i).addends.filter (fun a => a.of launch ex)).foldl applyAddend
      (modS s i (fun st => { st with addends := st.addends.filter (fun a => !a.of launch ex) }))) s

/-- TALLY_APPLY: a tally unit applies the addend it accepted first (R217). A cell in a lost burst takes none: the launch has read
the burst, and runs again (R225, R625). -/
def execTallyApply (st : Stack) (s : State) : Result :=
  .next (match (getS s st.val).addends with
    | [] => s
    | a :: rest =>
      let s1 := modS s st.val (fun q => { q with addends := rest })
      if smem s.lostBursts (Config.tallyBurst a.launch a.ex a.cell) then reexecLaunch s1 a.launch else applyAddend s1 a)

/-- The cells a tally word names, in element order: SA onward, or INT32 indices; a negative index lies past any area. -/
def tallyCells (w : MWord) (e : Env) (c : Core) : List Nat :=
  if tallyIndexed w then
    (unpackElems .int32 (tallyCount w) (scratchRead e c (getX64 c w.sc).toNat (4 * tallyCount w))).map
      (fun v => if v < 2 ^ 31 then v else 2 ^ 64 + v)
  else (List.range (tallyCount w)).map (fun i => (getX64 c w.sa).toNat + i)

/-- The extent of a tally word's index vector. -/
def tallyIndexExtent (w : MWord) (c : Core) : Extent :=
  ((getX64 c w.sc).toNat, if tallyIndexed w then 4 * tallyCount w else 0)

/-- Faults of the index vector itself. -/
def tallyFaults (w : MWord) (e : Env) (c : Core) : List (Bool × Nat) :=
  let x := tallyIndexExtent w c
  [(x.2 != 0 && outside e x.1 x.2, pfRange), (x.2 != 0 && x.1 % 4 != 0, pfAlign)]

/-- A cell that the word names lies past the launch's area. -/
def cellBeyond (w : MWord) (e : Env) (c : Core) : Bool := (tallyCells w e c).any (fun i => decide (dTally e.l.desc ≤ i))

/-- A word whose operands in scratch can name a further SCRATCH-RANGE. Its faults are tested once those bytes are there (R128,
R295), or at once where SCRATCH-RANGE, the lowest cause (R626), holds already. -/
def afterRead (known : List (Bool × Nat)) (ready late : Bool) (f : Issued) : Issued :=
  if firstCause known = some pfRange then .fault pfRange
  else if !ready then .wait
  else match firstCause ((late, pfRange) :: known) with
    | some n => .fault n
    | none => f

/-- TALLY (R216, R217): the stack that owns a cell accepts its addend. -/
def execTally (k : Skein) (w : MWord) (s : State) : Result :=
  .next (issueWord s k.val (legalTally w) w.hdr (fun e s c =>
    let kind := (addKind (tallyCode w)).getD .fp32
    let a := (getX64 c w.sb).toNat
    let len := tallyCount w * kind.size
    let x := tallyIndexExtent w c
    afterRead ([(outside e a len, pfRange), (a % kind.size != 0, pfAlign)] ++ tallyFaults w e c)
      (!hazard e c [x] [] && extentReady c x.1 x.2) (cellBeyond w e c)
     (let rd := [(a, len), x]
      if hazard e c rd [] || !rd.all (fun x => extentReady c x.1 x.2) then .wait
      else
        let vals := (List.range (tallyCount w)).map (fun i => leNat (scratchRead e c (a + i * kind.size) kind.size))
        let s1 := ((tallyCells w e c).zip vals).foldl (fun s p => modS s (p.1 / 4 % 8) (fun st =>
          { st with addends := st.addends ++ [{ launch := e.l.id, ex := e.ex, cell := p.1, kind, value := p.2 }] })) s
        .done (s1, some c))))

/-- A cell of the launch's own area with every addend accepted before (R217). -/
def ownCell (s : State) (e : Env) (i : Nat) : Cell320 :=
  let base := (((findL s e.l.id).bind (fun l => getX l e.ex)).map (fun x => nget 0 x.tally i)).getD 0
  ((getS s (i / 4 % 8)).addends.filter (fun a => a.of e.l.id e.ex && a.cell == i)).foldl
    (fun c a => cellAdd c (a.kind.val a.value)) base

/-- The lines of the cells that a TALRD reads from a table. -/
def cellLines (s : State) (e : Env) (cells : List Nat) (src : Source) : List Nat :=
  match src with
  | .live t => ((cells.filter (fun r => decide (r < tCount t.desc))).map (fun r =>
      cellAddr t.desc (planeFor s t e.l.epoch r) r / 256)).eraseDups
  | .arena _ => []

/-- TALRD (R218): n results from the launch's area or a table. -/
def execTalrd (k : Skein) (w : MWord) (s : State) : Result :=
  .next (issueWord s k.val (legalTalrd w && (!tallyTable w || fitsAccord s k.val (fun e _ => schemaKind e.acc (parHandle w) 2)))
    w.hdr (fun e s c =>
    let code := (ReadCode.ofCode (tallyCode w)).getD .fp32
    let size := if code = .int64 then 8 else 4
    let a := (getX64 c w.sb).toNat
    let n := tallyCount w
    let src? := if tallyTable w then sourceOf s e (parHandle w) else none
    let x := tallyIndexExtent w c
    afterRead ([(outside e a (n * size), pfRange), (intoResident e a (n * size), pfResident), (a % size != 0, pfAlign),
                (tallyTable w && src?.isNone, pfTable)] ++ tallyFaults w e c)
      (!hazard e c [x] [] && extentReady c x.1 x.2) (!tallyTable w && cellBeyond w e c)
     (if hazard e c [x] [(a, n * size)] || !extentReady c a (n * size) || !extentReady c x.1 x.2 then .wait
      else if src?.any sourceDead then deadTable s e
      else
        let cells := tallyCells w e c
        let lines := src?.elim [] (cellLines s e cells)
        afterBanks s e (src?.elim [] (·.maps cells)) lines (fun s =>
        let got := cells.map (fun i => match src? with
          | some src => gotCell s e src i
          | none => .value (ownCell s e i) [])
        match (got.zip cells).find? (fun p => match p.1 with | .absent => true | _ => false) with
        | some p => arenaAbsent s e (parHandle w) p.2
        | none =>
          let r := got.map (fun g => match g with
            | .value v _ => cellRead v code (codeRnd w.hdr.rnd.toNat)
            | _ => let z := cellRead 0 code (codeRnd w.hdr.rnd.toNat); (z.1, z.2 ||| flNV))
          let s1 := got.foldl (fun s g => match g with
            | .value _ lost => noteLost s e lost
            | _ => s) (lines.foldl (fun s l => cacheRead s e.l.id 0 0 l) s)
          let c1 := scratchWrite e c a (r.flatMap (fun v => leBytes size v.1))
          .done (s1, some (addFlags c1 (flagUnion (r.map (·.2)) &&& w.hdr.fmask)))))))

/-! ### ROWRD and SEQF (R283, R284) -/

/-- Give a word's bytes to the next range of an NB stream at once (R248, R303). -/
def deliverRange (e : Env) (c : Core) (n : Nat) (st : Stream) (b : Bytes) : Core :=
  let start := rangesEnd st
  let len := roundUp b.length 256
  let c1 := ringWrite e c st start (fit len b)
  let st1 := advanceRanges { st with ranges := st.ranges ++ [{ start, len, done := true }] }
  setStream { c1 with nb := c1.nb.filter (fun x => x.stream != n || decide (st1.w < x.start + x.len)) } n (some st1)

/-- The lines of the rows that a ROWRD reads, row by row. -/
def rowsLines (s : State) (e : Env) (rows : List Nat) (src : Source) : List Nat :=
  match src with
  | .live t => (rows.filter (fun r => decide (r < tCount t.desc))).flatMap (fun r => rowLines t.desc (planeFor s t e.l.epoch r) r)
  | .arena _ => []

/-- ROWRD (R284). -/
def execRowrd (k : Skein) (w : MWord) (s : State) : Result :=
  .next (issueWord s k.val (legalRowrd w && nbHandleOk s k.val w) w.hdr (fun e s c =>
    let src? := sourceOf s e (parHandle w)
    match firstCause (nbFaults .copy w e c 0 src?.isSome), src? with
    | some n, _ => .fault n
    | none, none => .wait
    | none, some src =>
      let x : Extent := ((getX64 c w.sa).toNat, 8 * nbCount w)
      if !streamTakes c (parStream w) (nbCount w * tSize src.desc) then streamInvalid s e c (parStream w)
      else if hazard e c [x] [] || !extentReady c x.1 x.2 then .wait
      else match getStream c (parStream w) with
        | none => .wait
        | some st =>
          if sourceDead src then deadTable s e
          else
            let rows := (nbIndexes (scratchRead e c x.1 x.2) (nbCount w)).map (·.1)
            let lines := rowsLines s e rows src
            afterBanks s e (src.maps rows) lines (fun s =>
            let got := rows.map (fun r => (r, gotRow s e src r))
            match got.find? (fun p => match p.2 with | .absent => true | _ => false) with
            | some p => arenaAbsent s e (parHandle w) p.1
            | none =>
              let bytes := got.flatMap (fun p => match p.2 with
                | .value b _ => b
                | _ => zeros (tSize src.desc))
              let beyond := got.any (fun p => match p.2 with | .beyond => true | _ => false)
              let s1 := got.foldl (fun s p => match p.2 with
                | .value _ lost => noteLost s e lost
                | _ => s) s
              .done (lines.foldl (fun s l => cacheRead s e.l.id (parHint w) (parUse w) l) s1,
                     some (addFlags (deliverRange e c (parStream w) st bytes) (flagIf beyond flNV))))))

/-- Events of a version from window position `o` on: past the window, zero bytes (R283). -/
def windowEvents (v : SeqVer) (size o n : Nat) : Bytes :=
  (List.range n).flatMap (fun i => if o + i < v.events.length then v.events.getD (o + i) [] else zeros size)

/-- SEQF (R283). A subject at or beyond the count reads as an empty sequence and raises NV (DEDUCED from R242 and R284;
log 25). -/
def execSeqf (k : Skein) (w : MWord) (s : State) : Result :=
  .next (issueWord s k.val (legalSeqf w && fitsAccord s k.val (fun e _ => schemaKind e.acc (parHandle w) 3)) w.hdr (fun e s c =>
    match sourceOf s e (parHandle w) with
    | none => .fault pfTable
    | some src =>
      let r := (getX64 c w.sa).toNat
      match getStream c (parStream w) with
      | none => streamInvalid s e c (parStream w)
      | some st =>
        if !rangeFits st (nbCount w * tSize src.desc) then streamInvalid s e c (parStream w)
        else if sourceDead src then deadTable s e
        else
          let lines := match src with
            | .live t => Config.subjectLines t.desc r
            | .arena _ => []
          afterBanks s e (src.maps [r]) lines (fun s =>
          let give (s : State) (v : SeqVer) (f : Flags) : Issued :=
            let b := windowEvents v (tSize src.desc) (getX64 c w.sb).toNat (nbCount w)
            .done (s, some (addFlags (setX64 (deliverRange e c (parStream w) st b) w.sd (BitVec.ofNat 64 v.events.length)) f))
          match gotSubject s e src r with
          | .absent => arenaAbsent s e (parHandle w) r
          | .beyond => give s ⟨0, []⟩ flNV
          | .value v lost => give (lines.foldl (fun s l => cacheRead s e.l.id 0 0 l) (noteLost s e lost)) v noFlags)))

/-! ### SPLICE (R270, R271) -/

/-- Splice queue entries (Table Arch-4, R56). -/
def spliceQueueLimit : Nat := 4096

/-- SPLICE: a splice with a defect emits nothing; a good one enters the splice queue, or, for an execution whose splices
leave no chip (re-execution, audit, replay), is only kept for comparison (R26, R476). -/
def execSplice (k : Skein) (w : MWord) (s : State) : Result :=
  .next (issueWord s k.val (legalSplice w) w.hdr (fun e s c =>
    let a := (getX64 c w.sa).toNat
    let p := leNat (scratchRead e c (a + 4) 4)
    let len := 24 + roundUp p 8
    afterRead [(outside e a 24, pfRange), (a % 8 != 0, pfAlign)] (!hazard e c [(a, 24)] [] && extentReady c a 24)
      (decide (p ≤ 1032) && outside e a len)
     (let n := if p ≤ 1032 then len else 24
      if hazard e c [(a, n)] [] || !extentReady c a n then .wait
      else
        let b := scratchRead e c a n
        let good := match sourceOf s e (fld b 0 2) with
          | some src => spliceFits src.desc b
          | none => false
        if !good then .done (logWord s e Err.spliceInvalid e.l.id 0 c, some (addFlags c flNV))
        else
          let leaves := ((findL s e.l.id).bind (fun l => getX l e.ex)).any (fun x => x.role == .primary) && !dIsReplay e.l.desc
          if leaves && decide (spliceQueueLimit ≤ s.fe.queue.length) then .wait
          else
            let s1 := modX s e.l.id e.ex (fun x => { x with splices := x.splices ++ [{ body := b, id := none }] })
            let q : Queued := { launch := e.l.id, ex := e.ex, index := c.emission, body := b }
            .done (if leaves then { s1 with fe := { s1.fe with queue := s1.fe.queue ++ [q] } } else s1,
                   some { c with emission := c.emission + 1 }))))

end Sys2Proof.Machine
end

