-- ==== Sys2Proof/Machine/ResetStart.lean ====
section
/-! DEFINITION. The first steps of a retaining device reset (11_submission.md R357, 18_reset_clocks.md R553, R554). -/

namespace Sys2Proof.Machine

/-- A launch holds a reserved completion entry (R345). -/
def entryReserved (s : State) (l : Launch) : Bool := smem (getT s l.tenant).reserved l.id

/-- Steps 1, 3 and 4 of R357: polling and admission stop; every launch without a reserved completion entry is recalled and
finishes with HANG where it is the hung one, with ABORTED-BY-RESET otherwise. A running reset covers the request (R568); a chip
that has not booted holds no launch. -/
def startRetaining (s : State) (hung cause : Nat) : State :=
  if s.fe.hang.isSome ∨ ¬ [5, 6, 8].contains s.glb.phase.toNat then s
  else
    let s1 := { s with fe := { s.fe with polling := false, hang := some { launch := hung, start := s.clk.elapsed, cause } } }
    s1.launches.foldl (fun s l =>
      if entryReserved s l ∨ l.stage = .finished then s
      else endLaunch s l.id (if l.id = hung ∧ hung ≠ 0 then Status.hang else Status.aborted) 0 0 [] 0) s1

/-! ### What a hung launch waits on (R160, Table Reg-15) -/

/-- The unit of a word, by its opcode (Tables Core-1 and Reg-15); none for one that the control core runs itself. -/
def opUnit (op : Nat) (c : Core) : Option Nat :=
  if inRange 0x40 0x48 op then some (if c.jobs.any (fun j => usesMvp j.word j.asplit) then 2 else 1)
  else if inRange 0x60 0x64 op then some 1
  else if inRange 0x80 0x81 op then some 3
  else if inRange 0xA0 0xA4 op ∨ op = 0xD4 then some 4
  else if inRange 0xC0 0xC3 op ∨ op = 0xCC then some 5
  else if inRange 0xC8 0xC9 op then some 6
  else if op = 0xD0 then some 7
  else if op = 0xE0 then some 8
  else none

/-- The newest unit that still has a word of the core in flight, which a word of the control core waits on. -/
def busyUnit (c : Core) : Nat :=
  if !c.groups.isEmpty then 3
  else if !c.nb.isEmpty then 5
  else if c.jobs.any (fun j => usesMvp j.word j.asplit) then 2
  else if !c.jobs.isEmpty then 1
  else if c.media.any (fun m => !m.granted) then 8
  else if !c.streams.isEmpty then 4
  else 0

/-- The index of the word that a core waits at, and the unit it waits on: an OUT STMWAIT that is held has been passed by PC already
(DEDUCED, log 97). -/
def waitsAt (a : Accord) (c : Core) : Nat × Nat :=
  if c.hold.isSome then (c.pc - 1, 4) else (c.pc, (opUnit (fld (section_ a 2) (32 * c.pc) 1) c).getD (busyUnit c))

/-- The HANG entry of a launch: the word it waits at, on whichever skein runs it. -/
def logHang (s : State) (l : Launch) : State :=
  let c? := (l.execs.filterMap (·.skein)).findSome? (fun k => ((running s k).filter (fun x => x.launch == l.id)).map (·.core))
  match c? with
  | some c => let w := waitsAt l.accord c; logErr s Err.hang l.tenant l.id (w.1 % 2 ^ 24 + w.2 * 2 ^ 24)
  | none => logErr s Err.hang l.tenant l.id 0

end Sys2Proof.Machine
end

