-- ==== Sys2Proof/Machine/SkeinEvents.lean ====
section
/-! DEFINITION. Faults of skeins, sections and weave links (02_architecture.md Faults, 15_integrity.md Faults,
18_reset_clocks.md R557). -/

namespace Sys2Proof.Machine

/-! ### Skeins and sections -/

/-- SKEIN_FAULT: an uncorrectable error or a mismatch on a skein that a map names (R58, R157, R191, R192). The kind of fault
changes nothing else. -/
def execSkeinFault (k : Skein) (_ev : SkeinEvent) (s : State) : Result :=
  .next (if (getK s k.val).mode = .absent then s else failSkein s k.val)

/-- Count the events a skein collected before its self-test; none of them makes it permanent, or it is to be retired. The
channel is the physical skein's (R494, R496). -/
def countSkeinEvents (k : Nat) : Nat → State → State × Bool
  | 0, s => (s, false)
  | n + 1, s =>
    let r := event s chSkein (physicalOf s k)
    if r.2 then r else countSkeinEvents k n r.1

/-- SKEIN_SELF_TEST_DONE (R496). -/
def execSkeinSelfTestDone (k : Skein) (passed : Bool) (s : State) : Result :=
  .next (let q := getK s k.val
    if q.mode ≠ .testing then s
    else if !passed then retireSkein s k.val
    else
      let r := countSkeinEvents k.val q.events s
      if r.2 then retireSkein r.1 k.val else modK r.1 k.val (fun q => { q with mode := .good, events := 0 }))

/-- The logical skeins of a section (R42). -/
def sectionSkeins (n : Nat) : List Nat := (List.range 16).map (16 * n + ·)

/-- Executions whose results stand in a section's result queue are lost with it (Table Reset-1). -/
def clearResults (s : State) (n : Nat) : State :=
  s.launches.foldl (fun s l => (l.execs.zip (List.range l.execs.length)).foldl (fun s p =>
    if p.1.phase = .result ∧ p.1.ran / 16 = n then restartExec s ⟨[], [n]⟩ l.id p.2 else s) s) s

/-- A section reset: every skein of the section, and its result queue; its launches run again on other sections (Table
Reset-1). One event counts against the section, none against its skeins; a permanent section is retired whole (R557). -/
def resetSection (s : State) (n : Nat) : State :=
  let s1 := (sectionSkeins n).foldl (fun s k =>
    modK (clearSkein s ⟨[], [n]⟩ k) k (fun q => if q.mode = .good then { q with mode := .testing } else q)) s
  let r := event (clearResults s1 n) chSection n
  if r.2 then (sectionSkeins n).foldl retireSkein r.1 else r.1

/-- SECTION_FAULT. -/
def execSectionFault (n : Section) (s : State) : Result := .next (resetSection s n.val)

/-! ### Weave routes (02_architecture.md, Table Reg-6) -/

/-- Numbers from the smaller to below the larger of two. -/
def between (a b : Nat) : List Nat := (List.range (max a b - min a b)).map (min a b + ·)
/-- Links of a row between two columns. -/
def rowLinks (y a b : Nat) : List Nat := (between a b).map (15 * y + ·)
/-- Links of a column between two rows. -/
def colLinks (x a b : Nat) : List Nat := (between a b).map (fun y => 150 + 16 * y + x)
/-- Links of the X-then-Y route between two sites. -/
def routeXY (a b : Nat) : List Nat := rowLinks (a / 16) (a % 16) (b % 16) ++ colLinks (b % 16) (a / 16) (b / 16)
/-- Links of the Y-then-X route. -/
def routeYX (a b : Nat) : List Nat := colLinks (a % 16) (a / 16) (b / 16) ++ rowLinks (b / 16) (a % 16) (b % 16)

/-- Both route orders between two sites cross permanent links. -/
def cutOff (perm : NSet) (a b : Nat) : Bool := (routeXY a b).any (smem perm) && (routeYX a b).any (smem perm)

/-- Sites that originate traffic and are no skein, and sites of skeins with their physical numbers. -/
def otherSites : List Nat := (List.range 160).filter (fun i => (Config.siteMap i).1 ≠ 0 ∧ (Config.siteMap i).1 ≠ 1)
/-- Skein sites. -/
def skeinSites : List Nat := (List.range 160).filter (fun i => (Config.siteMap i).1 = 1)

/-- R64: a skein site cut off from a site that is no skein is unreachable: its skein is marked, and a spare there carries no logical
number from then on; two other sites cut off from each other degrade
the weave, stop admission and lead to a retaining device reset (log 32). -/
def settleRoutes (s : State) (link : Nat) : State :=
  let perm := s.weave.permanent
  let lost := skeinSites.filter (fun a => otherSites.any (cutOff perm a))
  let gone := lost.map (fun a => (Config.siteMap a).2)
  let s0 := gone.foldl (fun s p =>
    (List.range 128).foldl (fun s k => if physicalOf s k = p then retireSkein s k else s) s) s
  let s1 := if gone.all (smem s0.defects.skeins) then s0
    else persistMap { s0 with defects := { s0.defects with skeins := gone.foldl sadd s0.defects.skeins } }
  if otherSites.any (fun a => otherSites.any (cutOff perm a)) then
    startRetaining (msix (logErr (stopAdmit (raiseCond s1 condWeave) condWeave) Err.weaveDegraded noTenant link 0) 0 5) 0 0x0B
  else s1

/-- The third uncorrectable flit within 1 s makes a link permanent; its pairs switch route at the next boundary (R63). -/
def linkEvent (s : State) (link : Nat) : State :=
  if smem s.weave.permanent link then s
  else
    let now := s.clk.elapsed
    let events := (link, now) :: s.weave.events.filter (fun e => decide (now ≤ e.2 + 1000000000))
    let s1 := { s with weave := { s.weave with events } }
    if (events.filter (fun e => e.1 == link)).length < 3 then s1
    else settleRoutes (persistMap { s1 with weave := { s1.weave with
      permanent := sadd s1.weave.permanent link, pendingSwap := sadd s1.weave.pendingSwap link } }) link

/-- An execution whose result has passed on is discarded and runs from the start on another skein. -/
def rerun (s : State) (launch ex : Nat) (x : Exec) : State :=
  let s1 := addExec (discardExec s launch ex) launch (again x.role) { x.place with skeins := x.ran :: x.place.skeins }
  modL s1 launch (fun l => { l with reexecuted := true })

/-- A failed transaction of an execution: as under R58 it runs again on another skein, from its newest checkpoint image where it
still runs, from the start where its result has passed on (R62). A launch that the checker has decided goes back to it; one
whose seal is formed has no further transaction of an execution (log 88). -/
def failTransaction (s : State) (launch ex : Nat) : State :=
  match findL s launch with
  | none => s
  | some l => match getX l ex, l.stage with
    | some x, .running =>
      match x.phase with
      | .placed => restartExec (x.skein.elim s (fun k => dropCtx s k launch ex)) ⟨[x.ran], []⟩ launch ex
      | .result | .checked => rerun s launch ex x
      | _ => s
    | some x, .decided e =>
      if e = ex then rerun (modL s launch (fun l => { l with stage := .running, copied := (0, 0) })) launch ex x else s
    | _, _ => s

/-- FLIT_DOUBLE_ERROR on a link (R61 to R64). The single-bit errors corrected since the last such event are counted with it (log
89). -/
def execFlitDoubleError (link : Fin 294) (errors : FlitErrors) (s : State) : Result :=
  .next (let s1 := linkEvent (countEvent s 7 errors.corrected) link.val
    match errors.owner with
    | some (l, e) => failTransaction s1 l e
    | none => s1)

/-- WAIT_BOUND: the entry names site and class; at a skein the skein fails (R65), elsewhere it is treated as a hang (R66). -/
def execWaitBound (site : WaitSite) (number : Fin 160) (cls : Fin 5) (s : State) : Result :=
  .next (let s1 := logErr s Err.waitBound noTenant number.val cls.val
    match site with
    | .skein k => if (getK s k.val).mode = .absent then s else failSkein s1 k.val
    | .other => startRetaining s1 0 0x0A)

end Sys2Proof.Machine
end

