-- ==== Sys2Proof/Machine/Integrity.lean ====
section
/-! DEFINITION. Envelopes, the sealed message, and which execution is sealed (15_integrity.md, 01_replay_contract.md). -/

namespace Sys2Proof.Machine

/-! ### Exact fractions (R472) -/

/-- A fraction with a positive denominator. -/
abbrev Frac := Int × Nat

/-- The exact value of a finite number. -/
def fracOf : Val → Option Frac
  | .zero _ => some (0, 1)
  | .fin n d e => some (n * ((2 ^ e.toNat : Nat) : Int), d * 2 ^ (-e).toNat)
  | _ => none

/-- Sum. -/
def Frac.add (a b : Frac) : Frac := (a.1 * (b.2 : Int) + b.1 * (a.2 : Int), a.2 * b.2)
/-- Difference. -/
def Frac.sub (a b : Frac) : Frac := (a.1 * (b.2 : Int) - b.1 * (a.2 : Int), a.2 * b.2)
/-- Product. -/
def Frac.mul (a b : Frac) : Frac := (a.1 * b.1, a.2 * b.2)
/-- Quotient by a positive fraction. -/
def Frac.div (a b : Frac) : Frac := (a.1 * (b.2 : Int), a.2 * b.1.toNat)
/-- At most. -/
def Frac.le (a b : Frac) : Bool := decide (a.1 * (b.2 : Int) ≤ b.1 * (a.2 : Int))

/-! ### Envelope tables (R469, R470) -/

/-- The set of a program-table index: its 8-byte header and its entries; `fuel` bounds the walk. -/
def findSet (prog : Nat) : Nat → Bytes → Option (Bytes × List Bytes)
  | 0, _ => none
  | fuel + 1, b =>
    let n := fld b 2 1
    if fld b 0 2 = prog then some (b.take 8, (List.range n).map (fun i => slice b (8 + 128 * i) 128))
    else findSet prog fuel (b.drop (8 + 128 * n))

/-- The set that applies to a launch. -/
def setFor (a : Accord) (prog : Nat) : Option (Bytes × List Bytes) :=
  findSet prog (fld (section_ a 8) 0 4) ((section_ a 8).drop 8)

/-- A knot: x, lo, hi. -/
def knotOf (e : Bytes) (j : Nat) : Frac × Frac × Frac :=
  let v (off : Nat) : Frac := (fracOf (Fmt.fp32.val (fld e (32 + 12 * j + off) 4))).getD (0, 1)
  (v 0, v 4, v 8)

/-- The bounds at x among knots in ascending x. -/
def boundsAt (x : Frac) : List (Frac × Frac × Frac) → Frac × Frac
  | [] => ((0, 1), (0, 1))
  | [k] => (k.2.1, k.2.2)
  | k :: k' :: l =>
    if x.le k.1 then (k.2.1, k.2.2)
    else if k'.1.le x then boundsAt x (k' :: l)
    else
      let t := (x.sub k.1).div (k'.1.sub k.1)
      (k.2.1.add (t.mul (k'.2.1.sub k.2.1)), k.2.2.add (t.mul (k'.2.2.sub k.2.2)))

/-- The bounds an entry gives for a driver value; none for a NaN. -/
def boundsFor (e : Bytes) (x : Val) : Option (Frac × Frac) :=
  let k := fld e 5 1
  let knots := (List.range k).map (knotOf e)
  match x, fracOf x with
  | .nan, _ => none
  | .inf neg, _ => some (knotOf e (if neg then 0 else k - 1)).2
  | _, some f => some (boundsAt f knots)
  | _, none => none

/-! ### Evaluation (R472 to R475) -/

/-- Bytes of an execution's output shadow. -/
def shadowRead (x : Exec) (buf off n : Nat) : Bytes := ngets 0 x.shadow (2 ^ 32 * buf + off) n

/-- Element i of an entry violates it. -/
def violates (l : Launch) (x : Exec) (e : Bytes) (i : Nat) : Bool :=
  let buf := fld e 0 1
  let f := codeFmt (fld e 1 1)
  let g := codeFmt (fld e 3 1)
  let src := fld e 2 1
  let len := (dOutput l.desc buf).2
  let off := fld e 8 4 + i * fld e 12 4
  let doff := fld e 20 4 + i * fld e 24 4
  let size := f.width / 8
  let dsize := g.width / 8
  if dOutputs l.desc ≤ buf ∨ len < off + size ∨ (src = 1 ∧ len < doff + dsize) then true
  else
    let v := f.val (leNat (shadowRead x buf off size))
    let b := match src with
      | 0 => some (knotOf e 0).2
      | 1 => boundsFor e (g.val (leNat (shadowRead x buf doff dsize)))
      | _ => boundsFor e (g.val (fld l.lcb doff dsize))
    match b, v, fracOf v with
    | none, _, _ => true
    | some _, .nan, _ => !bit (fld e 4 1) 0
    | some (lo, hi), _, some q => !(lo.le q && q.le hi)
    | _, _, none => true

/-- Violating elements of an entry. -/
def countViolations (l : Launch) (x : Exec) (e : Bytes) : Nat :=
  ((List.range (fld e 16 4)).filter (violates l x e)).length

/-- The envelope verdict word (Table Integrity-3). -/
def verdictOf (l : Launch) (x : Exec) : Nat :=
  match setFor l.accord (dProg l.desc) with
  | none => 0
  | some (h, entries) =>
    let flag := decide (x.flags.toNat &&& fld h 3 1 ≠ 0)
    let counts := entries.map (countViolations l x)
    let total := counts.foldl (· + ·) 0 + (if flag then 1 else 0)
    let first := if flag then 0 else (counts.findIdx? (· ≠ 0)).elim 0 (· + 1)
    if total = 0 then 0 else 1 + first * 2 ^ 8 + min total 0xFFFF * 2 ^ 16

/-! ### The sealed message (R18 to R22, R333) -/

/-- The sealed-field image (Table Submit-4). -/
def sealedFields (d : Bytes) : Bytes :=
  slice d 4 4 ++ slice d 36 4 ++ (List.range 4).flatMap (fun i => slice d (200 + 16 * i) 4) ++ zeros 8

/-- Input digest (R19). -/
def inputDigest (l : Launch) : Bytes :=
  sha256 (sealedFields l.desc ++ l.lcb ++ l.held.flatMap (fun b => leBytes 8 b.length ++ b))
/-- An output buffer as the execution left it. -/
def outputOf (l : Launch) (x : Exec) (i : Nat) : Bytes := shadowRead x i 0 (dOutput l.desc i).2
/-- Output digest (R20). -/
def outputDigest (l : Launch) (x : Exec) : Bytes :=
  sha256 ((List.range (dOutputs l.desc)).flatMap (fun i => leBytes 8 (outputOf l x i).length ++ outputOf l x i))
/-- Splice digest (R21). -/
def spliceDigest (x : Exec) : Bytes := if x.splices.isEmpty then zeros 32 else sha256 (x.splices.flatMap (·.body))
/-- Evidence digest (R22). -/
def evidenceDigest (x : Exec) : Bytes := if x.evidence.isEmpty then zeros 32 else sha256 (x.evidence.flatMap id)

/-- Accord identifier, epoch and head that the seal names: of the replay block for a replay launch (R336). -/
def sealNames (l : Launch) : Nat × Nat × Bytes :=
  if dIsReplay l.desc then (fld l.replay 48 4, fld l.replay 8 8, slice l.replay 16 32) else (l.accord.id, l.epoch, l.head)

/-- The 224 bytes of the sealed message (Table Replay-2). -/
def sealedMessage (l : Launch) (x : Exec) : Bytes :=
  let n := sealNames l
  beBytes 8 0x54515345414C3031 ++ leBytes 2 1 ++ slice (section_ l.accord 1) 0 2 ++ leBytes 4 n.1 ++ fit 32 l.accord.digest ++ leBytes 8 n.2.1
  ++ fit 32 n.2.2 ++ inputDigest l ++ outputDigest l x ++ spliceDigest x ++ evidenceDigest x ++ leBytes 4 x.flags.toNat
  ++ leBytes 4 x.verdict

/-! ### Which execution is sealed (R476 to R485) -/

/-- The executions of a launch with their indices. -/
def indexed (l : Launch) : List (Exec × Nat) := l.execs.zip (List.range l.execs.length)
/-- Those whose envelopes have been evaluated. -/
def checkedExecs (l : Launch) : List (Exec × Nat) := (indexed l).filter (fun p => p.1.phase == .checked)
/-- Those that have still to end. -/
def liveExecs (l : Launch) : List (Exec × Nat) :=
  (indexed l).filter (fun p => p.1.phase == .waiting || p.1.phase == .placed || p.1.phase == .result)

/-- A verdict rejects. -/
def rejects (x : Exec) : Bool := bit x.verdict 0

/-- The primary among some executions, else the first. -/
def preferPrimary (c : List (Exec × Nat)) : Option (Exec × Nat) :=
  match c.find? (fun p => p.1.role == .primary) with
  | some p => some p
  | none => c.head?

/-- The execution to seal is chosen: the others are dropped with their splices, a rejecting verdict recalls the sealed one's
too (R37, R155, R478); skeins of executions that do not agree, and of program faults that did not repeat, count an event
(R159, R482). -/
def chooseExec (s : State) (l : Launch) (p : Exec × Nat) (audited : Bool) : State :=
  let m := sealedMessage l p.1
  let losers := (checkedExecs l).filter (fun q => sealedMessage l q.1 != m)
  let faulted := l.execs.filter (fun x => x.fault.isSome)
  let s1 := (losers.map (·.1) ++ faulted).foldl (fun s x => skeinEvent s x.ran) s
  let s2 := (indexed l).foldl (fun s q => if q.2 = p.2 ∨ q.1.phase = .dropped then s else discardExec s l.id q.2) s1
  let s3 := if rejects p.1 then recallExec s2 l.id p.2 else s2
  let s4 := if audited then { s3 with itg := { s3.itg with audited := s3.itg.audited + 1 } } else s3
  modL s4 l.id (fun l => { l with stage := .decided p.2, audited, copied := (0, 0) })

/-- No two of three executions agree: SILENT-ERROR (R481). -/
def silentError (s : State) (l : Launch) (execs : List (Exec × Nat)) : State :=
  let k (i : Nat) : Nat := ((execs[i]?).map (·.1.ran)).getD 0
  let s1 := logErr s Err.silentError l.tenant l.id (k 0 + k 1 * 2 ^ 8 + k 2 * 2 ^ 16)
  endLaunch { s1 with itg := { s1.itg with silent := s1.itg.silent + 1 } } l.id Status.silentError 0 0 [] 0

/-- One passing, or rejecting, execution alone: a violation is run again in another section (R479), or anywhere else where no
other section is left (R485). -/
def decideOne (s : State) (l : Launch) (p : Exec × Nat) : State :=
  if !rejects p.1 ∨ l.audit then chooseExec s l p false
  else if hasOtherSection s (p.1.ran / 16) then addExec s l.id .reexec ⟨[], [p.1.ran / 16]⟩
  else addExec (logErr s Err.auditSkipped l.tenant l.id 0) l.id .reexec ⟨[p.1.ran], []⟩

/-- Two completed executions (R480, R484). -/
def decideTwo (s : State) (l : Launch) (p q : Exec × Nat) : State :=
  if sealedMessage l p.1 = sealedMessage l q.1 then
    chooseExec s l ((preferPrimary [p, q]).getD p) (p.1.role == .audit || q.1.role == .audit)
  else if !l.audit ∧ (rejects p.1 != rejects q.1) then chooseExec s l (if rejects p.1 then q else p) false
  else addExec s l.id .third ⟨[], [p.1.ran / 16, q.1.ran / 16]⟩

/-- Three (R481): what is sealed is matched by another execution on a different section (R36). -/
def decideMore (s : State) (l : Launch) (c : List (Exec × Nat)) : State :=
  let agreeing := c.filter (fun p => (c.filter (fun q => q.2 != p.2 && q.1.ran / 16 != p.1.ran / 16)).any (fun q =>
    sealedMessage l q.1 == sealedMessage l p.1))
  match preferPrimary agreeing with
  | some p => chooseExec s l p false
  | none => silentError s l c

/-- Decide a launch once no execution of it is still to end. -/
def decideLaunch (s : State) (l : Launch) : State :=
  if !(liveExecs l).isEmpty then s
  else match checkedExecs l with
    | [] => s
    | [p] => decideOne s l p
    | [p, q] => decideTwo s l p q
    | c => decideMore s l c

/-- Seal-queue entries (Table Arch-4). -/
def sealQueueLimit : Nat := 64
/-- Launches that wait for the seal engine. -/
def sealQueue (s : State) : List Launch := s.launches.filter (fun l => match l.stage with | .decided _ => true | _ => false)

/-- A launch has read a line that is lost and not yet rebuilt or given up (R223, R224). -/
def readsLost (s : State) (launch : Nat) : Bool := s.lostReaders.any (fun p => p.2 == launch)

/-- The checker takes an execution: its result is in the result queue, or it was checked while another execution was still to
end that has gone since. It waits while an input is still being held, while the launch has read a lost line (R224), and while
the seal queue is full (R53). -/
def checkReady (s : State) (l : Launch) (x : Exec) : Bool :=
  (x.phase == .result || x.phase == .checked) && l.stage == .running && (List.range (dInputs l.desc)).all (holdDone l)
  && !readsLost s l.id && decide ((sealQueue s).length < sealQueueLimit)

/-- INTEGRITY_CHECK of an execution (R474). -/
def execIntegrityCheck (launch : Nat) (ex : Nat) (s : State) : Result :=
  .next (match findL s launch with
    | none => s
    | some l => match getX l ex with
      | none => s
      | some x =>
        if !checkReady s l x then s
        else
          let s1 := modX s launch ex (fun x => { x with verdict := verdictOf l x, phase := .checked })
          match findL s1 launch with
          | none => s1
          | some l => decideLaunch s1 l)

end Sys2Proof.Machine
end

