-- ==== Sys2Proof/Machine/Scalar.lean ====
section
/-! DEFINITION. Form S words: arithmetic, predicates, scratch and constant-block access, control flow, FENCE, RDFLAGS,
ASPLIT (05_control_core.md Table Core-7). -/

namespace Sys2Proof.Machine

/-- SD takes a function of SA and b (Table Core-7). -/
def issueAlu (s : State) (k : Skein) (w : SWord) (f : W64 → W64 → W64) : Result :=
  .next (issueCore s k.val (legalAlu w) w.hdr (fun _ c => .done (setX64 c w.sd (f (getX64 c w.sa) (opB c w)))))

/-- pSD takes a comparison of SA and b. -/
def issueCmp (s : State) (k : Skein) (w : SWord) (f : W64 → W64 → Bool) : Result :=
  .next (issueCore s k.val (legalCmp w) w.hdr (fun _ c => .done (setPred c w.sd.toNat (f (getX64 c w.sa) (opB c w)))))

/-- High 64 bits of the signed 128-bit product (R127). -/
def mulHighS (a b : W64) : W64 := ((a.signExtend 128 * b.signExtend 128) >>> 64).truncate 64
/-- High 64 bits of the unsigned 128-bit product. -/
def mulHighU (a b : W64) : W64 := ((a.zeroExtend 128 * b.zeroExtend 128) >>> 64).truncate 64

/-- NOP (Table Core-7). -/
def execNop (k : Skein) (w : SWord) (s : State) : Result :=
  .next (issueCore s k.val (legalBare w) w.hdr (fun _ c => .done c))

/-- ADD. -/
def execAdd (k : Skein) (w : SWord) (s : State) : Result := issueAlu s k w (fun a b => a + b)
/-- SUB. -/
def execSub (k : Skein) (w : SWord) (s : State) : Result := issueAlu s k w (fun a b => a - b)
/-- MUL. -/
def execMul (k : Skein) (w : SWord) (s : State) : Result := issueAlu s k w (fun a b => a * b)
/-- MULHS. -/
def execMulhs (k : Skein) (w : SWord) (s : State) : Result := issueAlu s k w mulHighS
/-- MULHU. -/
def execMulhu (k : Skein) (w : SWord) (s : State) : Result := issueAlu s k w mulHighU
/-- AND. -/
def execAnd (k : Skein) (w : SWord) (s : State) : Result := issueAlu s k w (fun a b => a &&& b)
/-- OR. -/
def execOr (k : Skein) (w : SWord) (s : State) : Result := issueAlu s k w (fun a b => a ||| b)
/-- XOR. -/
def execXor (k : Skein) (w : SWord) (s : State) : Result := issueAlu s k w (fun a b => a ^^^ b)
/-- SHL, by the low 6 bits of b (R127). -/
def execShl (k : Skein) (w : SWord) (s : State) : Result := issueAlu s k w (fun a b => a <<< (b.toNat % 64))
/-- SHR. -/
def execShr (k : Skein) (w : SWord) (s : State) : Result := issueAlu s k w (fun a b => a >>> (b.toNat % 64))
/-- SAR. -/
def execSar (k : Skein) (w : SWord) (s : State) : Result := issueAlu s k w (fun a b => a.sshiftRight (b.toNat % 64))
/-- MIN, signed. -/
def execMin (k : Skein) (w : SWord) (s : State) : Result := issueAlu s k w (fun a b => if a.slt b then a else b)
/-- MAX, signed. -/
def execMax (k : Skein) (w : SWord) (s : State) : Result := issueAlu s k w (fun a b => if a.slt b then b else a)
/-- MINU. -/
def execMinu (k : Skein) (w : SWord) (s : State) : Result := issueAlu s k w (fun a b => if a.ult b then a else b)
/-- MAXU. -/
def execMaxu (k : Skein) (w : SWord) (s : State) : Result := issueAlu s k w (fun a b => if a.ult b then b else a)

/-- CMPEQ. -/
def execCmpeq (k : Skein) (w : SWord) (s : State) : Result := issueCmp s k w (fun a b => a == b)
/-- CMPLT, signed. -/
def execCmplt (k : Skein) (w : SWord) (s : State) : Result := issueCmp s k w BitVec.slt
/-- CMPLTU. -/
def execCmpltu (k : Skein) (w : SWord) (s : State) : Result := issueCmp s k w BitVec.ult
/-- PAND. -/
def execPand (k : Skein) (w : SWord) (s : State) : Result :=
  .next (issueCore s k.val (legalPred2 w) w.hdr (fun _ c =>
    .done (setPred c w.sd.toNat (getPred c w.sa.toNat && getPred c w.sb.toNat))))
/-- POR. -/
def execPor (k : Skein) (w : SWord) (s : State) : Result :=
  .next (issueCore s k.val (legalPred2 w) w.hdr (fun _ c =>
    .done (setPred c w.sd.toNat (getPred c w.sa.toNat || getPred c w.sb.toNat))))
/-- PNOT. -/
def execPnot (k : Skein) (w : SWord) (s : State) : Result :=
  .next (issueCore s k.val (legalPnot w) w.hdr (fun _ c => .done (setPred c w.sd.toNat (!getPred c w.sa.toNat))))

/-- The scratch address of LDS and STS. -/
def ldsAddr (c : Core) (w : SWord) : Nat := (getX64 c w.sa + w.imm).toNat

/-- LDS: 8 bytes of scratch (Table Core-9, R151, R295). -/
def execLds (k : Skein) (w : SWord) (s : State) : Result :=
  .next (issueCore s k.val (legalLds w) w.hdr (fun e c =>
    let a := ldsAddr c w
    match firstCause [(outside e a 8, pfRange), (a % 8 != 0, pfAlign)] with
    | some n => .fault n
    | none =>
      if hazard e c [(a, 8)] [] || !extentReady c a 8 then .wait
      else .done (setX64 c w.sd (BitVec.ofNat 64 (leNat (scratchRead e c a 8))))))

/-- STS: 8 bytes of scratch take the register SD names. -/
def execSts (k : Skein) (w : SWord) (s : State) : Result :=
  .next (issueCore s k.val (legalLds w) w.hdr (fun e c =>
    let a := ldsAddr c w
    match firstCause [(outside e a 8, pfRange), (intoResident e a 8, pfResident), (a % 8 != 0, pfAlign)] with
    | some n => .fault n
    | none =>
      if hazard e c [] [(a, 8)] || !extentReady c a 8 then .wait
      else .done (scratchWrite e c a (leBytes 8 (getX64 c w.sd).toNat))))

/-- LDC: 8 bytes of the launch constant block. -/
def execLdc (k : Skein) (w : SWord) (s : State) : Result :=
  .next (issueCore s k.val (legalLdc w) w.hdr (fun e c =>
    .done (setX64 c w.sd (BitVec.ofNat 64 (fld e.l.lcb w.imm.toNat 8)))))

/-- The target of an immediate branch, from the word's own index; the core has moved past it. -/
def branchTo (c : Core) (w : SWord) : Int := ((c.pc : Int) - 1) + immInt w
/-- An immediate branch target lies inside the program image (Table Core-10). -/
def inImage (e : Env) (t : Int) : Bool := decide (0 ≤ t ∧ t < imageLen e.acc)

/-- The accord was staged with every immediate target inside the image; a word that breaks this failed its decode (R157). -/
def targetOk (s : State) (k : Nat) (w : SWord) : Bool :=
  fitsAccord s k (fun e c => inImage e ((c.pc : Int) + immInt w))

/-- BR. -/
def execBr (k : Skein) (w : SWord) (s : State) : Result :=
  .next (issueCore s k.val (legalBr w && targetOk s k.val w) w.hdr (fun _ c => .done { c with pc := (branchTo c w).toNat }))

/-- BRI: a target outside the image is a program fault (Table Core-9). -/
def execBri (k : Skein) (w : SWord) (s : State) : Result :=
  .next (issueCore s k.val (legalBri w) w.hdr (fun e c =>
    let t := (getX64 c w.sa).toNat
    if imageLen e.acc ≤ t then .fault pfPc else .done { c with pc := t }))

/-- CALL: SD = PC + 1. -/
def execCall (k : Skein) (w : SWord) (s : State) : Result :=
  .next (issueCore s k.val (legalCall w && targetOk s k.val w) w.hdr (fun _ c =>
    .done { setX64 c w.sd (BitVec.ofNat 64 c.pc) with pc := (branchTo c w).toNat }))

/-- LOOP: SD = SD − 1, and the branch while it is not 0; s0 stays 0. -/
def execLoop (k : Skein) (w : SWord) (s : State) : Result :=
  .next (issueCore s k.val (legalCall w && targetOk s k.val w) w.hdr (fun _ c =>
    let c1 := setX64 c w.sd (getX64 c w.sd - 1)
    .done (if getX64 c1 w.sd = 0 then c1 else { c1 with pc := (branchTo c w).toNat })))

/-- FENCE. -/
def execFence (k : Skein) (w : SWord) (s : State) : Result :=
  .next (issueCore s k.val (legalBare w) w.hdr (fun _ c => if quiet c then .done c else .wait))

/-- RDFLAGS: the flags of every earlier word, so it waits as FENCE does (R97). -/
def execRdflags (k : Skein) (w : SWord) (s : State) : Result :=
  .next (issueCore s k.val (legalRdflags w) w.hdr (fun _ c =>
    if quiet c then .done (setX64 c w.sd (c.flags.zeroExtend 64)) else .wait))

/-- ASPLIT (R138). -/
def execAsplit (k : Skein) (w : SWord) (s : State) : Result :=
  .next (issueCore s k.val (legalAsplit w) w.hdr (fun _ c => .done { c with asplit := w.imm.truncate 4 }))

end Sys2Proof.Machine
end

