-- ==== Sys2Proof/Machine/StrandOps.lean ====
section
/-! DEFINITION. What every strand word shares: registers, lanes, issue, and the checks on tiles and scratch
(06_matrix_vector.md Strands, Limits). -/

namespace Sys2Proof.Machine

/-! ### Registers and lanes (R162, R175) -/

/-- Scalar register r of a strand; x0 reads 0. -/
def strX (t : StrandSt) (r : BitVec 5) : W32 := if r = 0 then 0 else nget 0 t.x r.toNat
/-- Write scalar register r; a write to x0 is discarded. -/
def strSetX (t : StrandSt) (r : BitVec 5) (v : W32) : StrandSt := if r = 0 then t else { t with x := nput 0 t.x r.toNat v }
/-- Lane i of lane register r, the whole cell. -/
def lane (t : StrandSt) (r : BitVec 3) (i : Nat) : W32 := nget 0 t.v (32 * r.toNat + i)
/-- Write lane i of lane register r. -/
def setLane (t : StrandSt) (r : BitVec 3) (i : Nat) (v : W32) : StrandSt := { t with v := nput 0 t.v (32 * r.toNat + i) v }
/-- The 32 cells of a lane register. -/
def lanes (t : StrandSt) (r : BitVec 3) : List W32 := (List.range 32).map (lane t r)
/-- Write all 32 cells of a lane register. -/
def setLanes (t : StrandSt) (r : BitVec 3) (l : List W32) : StrandSt :=
  { t with v := nputs 0 t.v (32 * r.toNat) (fit32 l) }
where
  /-- Exactly 32 cells. -/
  fit32 (l : List W32) : List W32 := (l ++ List.replicate 32 0).take 32
/-- The elements of a lane register as patterns of a format: bits above its width are ignored (R162). -/
def laneElems (t : StrandSt) (r : BitVec 3) (f : Fmt) : List Nat := (lanes t r).map (fun c => c.toNat % 2 ^ f.width)
/-- Write patterns of a format; bits above its width are cleared (R162). -/
def setElems (t : StrandSt) (r : BitVec 3) (l : List Nat) : StrandSt := setLanes t r (l.map (BitVec.ofNat 32))
/-- Raise flags. -/
def strFlags (t : StrandSt) (f : Flags) : StrandSt := { t with flags := t.flags ||| f }

/-! ### Issue -/

/-- What a strand word works with: the launch, the strand's number, its group. -/
structure StrEnv where
  e : Env
  i : Nat
  g : Group

/-- Strand i of a core. -/
def getStr (c : Core) (i : Nat) : StrandSt := nget StrandSt.idle c.strands i
/-- Change strand i. -/
def setStr (c : Core) (i : Nat) (t : StrandSt) : Core := { c with strands := nput StrandSt.idle c.strands i t }

/-- Words of the strand image. -/
def strImage (a : Accord) : Nat := (section_ a 4).length / 4

/-- Issue one word on strand i of skein k. A strand that runs nothing does nothing (log 2). A word that fails its decode is
a skein fault (R157, R183); a program fault stops the group and the launch at the STRGO (06 Limits), once no group of an
earlier STRGO runs (R128, DEDUCED, log 76). -/
def issueStrand (s : State) (k i : Nat) (legal : Bool) (f : StrEnv → Core → StrandSt → Eff (Core × StrandSt)) : State :=
  match running s k with
  | none => s
  | some x =>
    match envOf s x with
    | none => s
    | some e =>
      let c := x.core
      let t := getStr c i
      match c.groups.find? (fun g => g.id == t.group && g.started && smem g.live i) with
      | none => s
      | some g =>
        if !mayIssue s x.launch then s
        else if !legal then failSkein s k
        else
          let stop (cause : Nat) : State :=
            if c.groups.any (fun h => decide (h.id < g.id)) then s else programFault s k x.launch x.ex cause g.pc
          if strImage e.acc ≤ t.pc then stop pfPc
          else match f ⟨e, i, g⟩ c { t with pc := t.pc + 1 } with
            | .wait | .parked _ => s
            | .fault cause => stop cause
            | .done (c', t') => modCore s k (fun _ => setStr c' i t')

/-- A strand word that changes only the strand. -/
def issueLane (s : State) (k i : Nat) (legal : Bool) (f : StrandSt → StrandSt) : State :=
  issueStrand s k i legal (fun _ c t => .done (c, f t))

/-- A test of a strand word against its group and accord (R627). -/
def fitsGroup (s : State) (k i : Nat) (p : Env → Group → StrandSt → Bool) : Bool :=
  fitsAccord s k (fun e c =>
    let t := getStr c i
    match c.groups.find? (fun g => g.id == t.group && g.started && smem g.live i) with
    | some g => p e g t
    | none => true)

/-! ### Scratch (R177, R190) -/

/-- A byte lies in the group's window. -/
def inWindow (g : Group) (a : Nat) : Bool := decide (g.window ≤ a ∧ a < g.window + g.winLen)
/-- A byte lies in the strand's own slice. -/
def inSlice (g : Group) (i a : Nat) : Bool :=
  decide (g.window + i * (g.winLen / 32) ≤ a ∧ a < g.window + (i + 1) * (g.winLen / 32))

/-- The address of a MEM word, modulo 2^32 (DEDUCED, log 21). -/
def memAddr (t : StrandSt) (w : MemW) : Nat := (strX t w.xa + w.off.signExtend 32).toNat

/-- Program faults of a strand read of n bytes. -/
def strReadFaults (v : StrEnv) (a n : Nat) : List (Bool × Nat) :=
  [(outside v.e a n || (List.range n).any (fun b => inWindow v.g (a + b) && !inSlice v.g v.i (a + b)), pfRange),
   (a % n != 0, pfAlign)]
/-- Program faults of a strand write of n bytes. -/
def strWriteFaults (v : StrEnv) (a n : Nat) : List (Bool × Nat) :=
  let bad := (List.range n).any (fun b => !inSlice v.g v.i (a + b))
  [(bad && !intoResident v.e a n, pfRange), (bad && intoResident v.e a n, pfResident), (a % n != 0, pfAlign)]

/-- A strand's read of scratch, once its faults are settled and the streams have delivered. -/
def strRead (v : StrEnv) (c : Core) (a n : Nat) (f : Bytes → StrandSt) : Eff (Core × StrandSt) :=
  match firstCause (strReadFaults v a n) with
  | some x => .fault x
  | none => if extentReady c a n then .done (c, f (scratchRead v.e c a n)) else .wait
/-- A strand's write of scratch. -/
def strWrite (v : StrEnv) (c : Core) (t : StrandSt) (a : Nat) (b : Bytes) : Eff (Core × StrandSt) :=
  match firstCause (strWriteFaults v a b.length) with
  | some x => .fault x
  | none => if extentReady c a b.length then .done (scratchWrite v.e c a b, t) else .wait

/-! ### Tiles (R176, R628) -/

/-- A tile lies in a mask of the group. -/
def inMask (m : BitVec 64) (tile : BitVec 6) : Bool := m.getLsbD tile.toNat

/-- Read one row of a tile as patterns of a format: TRD and TRDX ignore the bits above FMT's width (R162; DEDUCED, log 80). -/
def tileRow (c : Core) (tile : BitVec 6) (row : Nat) (f : Fmt) : List Nat :=
  (List.range 32).map (fun j => (getCell c (cellKey tile.toNat row j)).toNat % 2 ^ f.width)
/-- Write one row of a tile; TWR clears the bits above FMT's width (R162; DEDUCED, log 80). -/
def setTileRow (c : Core) (tile : BitVec 6) (row : Nat) (l : List Nat) : Core :=
  { c with tiles := nputs 0 c.tiles (cellKey tile.toNat row 0) (l.map (BitVec.ofNat 32)) }

/-! ### Lane arithmetic -/

/-- A lane operation of one or more sources: the patterns and the union of the flags (R90). -/
def mapLanes (t : StrandSt) (vd : BitVec 3) (l : List (Nat × Flags)) : StrandSt :=
  strFlags (setElems t vd (l.map (·.1))) (flagUnion (l.map (·.2)))

/-- The format and rounding mode of a VARITH word. -/
def vFmt (w : VarithW) : Fmt := codeFmt w.fmt.toNat
/-- Its rounding mode. -/
def vRnd (w : VarithW) : Rnd := codeRnd w.rnd.toNat

/-- A unary VARITH word. -/
def lane1 (w : VarithW) (f : Fmt → Rnd → Nat → Nat × Flags) (t : StrandSt) : StrandSt :=
  mapLanes t w.vd ((laneElems t w.va (vFmt w)).map (f (vFmt w) (vRnd w)))
/-- A binary VARITH word. -/
def lane2 (w : VarithW) (f : Fmt → Rnd → Nat → Nat → Nat × Flags) (t : StrandSt) : StrandSt :=
  mapLanes t w.vd (((laneElems t w.va (vFmt w)).zip (laneElems t w.vb (vFmt w))).map (fun p => f (vFmt w) (vRnd w) p.1 p.2))
/-- A compare: 1 or 0 as INT32, no flag (R102). -/
def laneCmp (w : VarithW) (f : Fmt → Nat → Nat → Bool) (t : StrandSt) : StrandSt :=
  lane2 w (fun m _ a b => (if f m a b then 1 else 0, noFlags)) t
/-- A result into lane 0, the other lanes +0. -/
def lane0 (vd : BitVec 3) (r : Nat × Flags) (t : StrandSt) : StrandSt := strFlags (setElems t vd [r.1]) r.2

/-- The curve a launch's accord selects for a function ID (R115, R117). -/
def accordCurve (s : State) (a : Accord) (fid : Nat) : Option Curve :=
  (s.curves.find? (fun c => c.version == fld (section_ a 1) 4 2)).bind (fun c => c.curves.find? (fun c => c.fid == fid))

/-! ### Sorting (R185) -/

/-- A key that ascends as R185 orders: class first, then the value, greater values first. -/
def sortRank (f : Fmt) (b : Nat) : Nat :=
  if !f.isFloat then 0
  else match f.val b with
    | .inf false => 0
    | .fin n _ _ => if 0 < n then 1 else 4
    | .zero false => 2
    | .zero true => 3
    | .inf true => 5
    | .nan => 6

/-- Pattern a sorts strictly before pattern b. -/
def sortsBefore (f : Fmt) (a b : Nat) : Bool :=
  decide (sortRank f a < sortRank f b)
  || (sortRank f a == sortRank f b && (f.val b).cmp (f.val a) == some .lt)

/-- Put an index after every one that does not sort behind it. -/
def sortInsert (f : Fmt) (key : Nat → Nat) (x : Nat) : List Nat → List Nat
  | [] => [x]
  | y :: l => if sortsBefore f (key x) (key y) then x :: y :: l else y :: sortInsert f key x l

/-- Lane indices in descending key order, equal keys in lane order. -/
def sortLanes (f : Fmt) (keys : List Nat) : List Nat :=
  (List.range keys.length).foldl (fun acc i => sortInsert f (fun j => keys.getD j 0) i acc) []

/-! ### Packed strings (R184) -/

/-- The number the 32 elements of a format form, w bits each. -/
def packBits (w : Nat) (l : List Nat) : Nat := (l.zip (List.range l.length)).foldl (fun n p => n + p.1 * 2 ^ (w * p.2)) 0

end Sys2Proof.Machine
end

