-- ==== Sys2Proof/Machine/Strand.lean ====
section
/-! DEFINITION. STRGO, STRWAIT, the start of a strand group, and the 58 strand words (06_matrix_vector.md). -/

namespace Sys2Proof.Machine

/-! ### Groups -/

/-- Entries of the strand program table. -/
def strTable (a : Accord) : Nat := (section_ a 5).length / 8

/-- Strands of a mask. -/
def maskStrands (m : BitVec 32) : List Nat := (List.range 32).filter (fun i => m.getLsbD i)

/-- Tiles of a mask. -/
def maskTiles (m : BitVec 64) : List Nat := (List.range 64).filter (fun t => m.getLsbD t)

/-- A strand of the list has not ended its group. -/
def strandsBusy (c : Core) (l : List Nat) : Bool := c.groups.any (fun g => l.any (smem g.live))

/-- STRGO (R174 to R178, R189): queues a strand group with its token requests. -/
def execStrgo (k : Skein) (w : MWord) (s : State) : Result :=
  .next (issueCore s k.val (legalStrgo w && fitsAccord s k.val (fun e _ => decide (strgoEntry w < strTable e.acc))) w.hdr
    (fun e c =>
      let mask : BitVec 32 := (getX64 c w.sa).truncate 32
      let base := (getX64 c w.sb).toNat
      let len := (getX64 c w.sc).toNat
      if mask = 0 then .done c
      else match firstCause [(decide (len ≠ 0 ∧ (base < e.res ∨ e.top < base + len)), pfRange),
                             (decide (len ≠ 0 ∧ (base % 128 ≠ 0 ∨ len % 4096 ≠ 0)), pfAlign)] with
        | some n => .fault n
        | none =>
          if strandsBusy c (maskStrands mask) || hazard e c [(0, e.top)] [(base, len)] then .wait
          else
            let g : Group :=
              { id := c.nextId, pc := c.pc - 1, mask, entry := fld (section_ e.acc 5) (8 * strgoEntry w) 4, window := base,
                winLen := len, rmask := strgoRead w, wmask := strgoWrite w, started := false, seen := c.flags,
                flags := noFlags, live := maskStrands mask }
            let c1 := requestTokens c g.id (maskTiles g.rmask) (maskTiles g.wmask)
            .done { c1 with nextId := c.nextId + 1, groups := c.groups ++ [g],
                            tokens := c.tokens ++ grantFrom (fun _ => true) c.tokens (c1.tokens.drop c.tokens.length) }))

/-- STRWAIT (R179). -/
def execStrwait (k : Skein) (w : MWord) (s : State) : Result :=
  .next (issueCore s k.val (legalStrwait w) w.hdr (fun _ c =>
    if strandsBusy c (maskStrands ((getX64 c w.sa).truncate 32)) then .wait else .done c))

/-- A strand at the start of its group (R175). -/
def strandStart (g : Group) (i : Nat) : StrandSt :=
  let x (n v : Nat) (m : NMap W32) : NMap W32 := nput 0 m n (BitVec.ofNat 32 v)
  { group := g.id, pc := g.entry, flags := noFlags, v := [],
    x := x 1 i (x 2 (g.window + i * (g.winLen / 32)) (x 3 (g.winLen / 32) [])) }

/-- Start a group all of whose tokens are granted (R173). -/
def startGroup (id : Nat) (_ : Env) (c : Core) : Core :=
  match c.groups.find? (fun g => g.id == id) with
  | none => c
  | some g =>
    if g.started ∨ !allGranted c id then c
    else
      let c1 := { c with groups := updFirst (fun g => g.id == id) (fun g => { g with started := true }) c.groups }
      g.live.foldl (fun c i => setStr c i (strandStart g i)) c1

/-- STRAND_GROUP_START. -/
def execStrandGroupStart (k : Skein) (group : Nat) (s : State) : Result :=
  .next (unitStep s k.val (startGroup group))

/-! ### SALU and SIMM -/

/-- The second source. -/
def saluB (t : StrandSt) : SSrc → W32
  | .reg xb => strX t xb
  | .imm v => v.signExtend 32

/-- XD takes a function of XA and the second source, wrapping (R183). -/
def issueSalu (s : State) (k : Skein) (i : Strand) (w : SaluW) (f : W32 → W32 → W32) : Result :=
  .next (issueLane s k.val i.val true (fun t => strSetX t w.xd (f (strX t w.xa) (saluB t w.src))))

/-- S_ADD. -/
def execSAdd (k : Skein) (i : Strand) (w : SaluW) (s : State) : Result := issueSalu s k i w (fun a b => a + b)
/-- S_SUB. -/
def execSSub (k : Skein) (i : Strand) (w : SaluW) (s : State) : Result := issueSalu s k i w (fun a b => a - b)
/-- S_MUL. -/
def execSMul (k : Skein) (i : Strand) (w : SaluW) (s : State) : Result := issueSalu s k i w (fun a b => a * b)
/-- S_MULHS: high 32 bits of the signed product. -/
def execSMulhs (k : Skein) (i : Strand) (w : SaluW) (s : State) : Result :=
  issueSalu s k i w (fun a b => ((a.signExtend 64 * b.signExtend 64) >>> 32).truncate 32)
/-- S_MULHU. -/
def execSMulhu (k : Skein) (i : Strand) (w : SaluW) (s : State) : Result :=
  issueSalu s k i w (fun a b => ((a.zeroExtend 64 * b.zeroExtend 64) >>> 32).truncate 32)
/-- S_AND. -/
def execSAnd (k : Skein) (i : Strand) (w : SaluW) (s : State) : Result := issueSalu s k i w (fun a b => a &&& b)
/-- S_OR. -/
def execSOr (k : Skein) (i : Strand) (w : SaluW) (s : State) : Result := issueSalu s k i w (fun a b => a ||| b)
/-- S_XOR. -/
def execSXor (k : Skein) (i : Strand) (w : SaluW) (s : State) : Result := issueSalu s k i w (fun a b => a ^^^ b)
/-- S_SHL: by the low 5 bits, as the control core takes the low 6 of 64 (DEDUCED, log 21). -/
def execSShl (k : Skein) (i : Strand) (w : SaluW) (s : State) : Result := issueSalu s k i w (fun a b => a <<< (b.toNat % 32))
/-- S_SHR. -/
def execSShr (k : Skein) (i : Strand) (w : SaluW) (s : State) : Result := issueSalu s k i w (fun a b => a >>> (b.toNat % 32))
/-- S_SAR. -/
def execSSar (k : Skein) (i : Strand) (w : SaluW) (s : State) : Result :=
  issueSalu s k i w (fun a b => a.sshiftRight (b.toNat % 32))
/-- S_MIN. -/
def execSMin (k : Skein) (i : Strand) (w : SaluW) (s : State) : Result :=
  issueSalu s k i w (fun a b => if a.slt b then a else b)
/-- S_MAX. -/
def execSMax (k : Skein) (i : Strand) (w : SaluW) (s : State) : Result :=
  issueSalu s k i w (fun a b => if a.slt b then b else a)
/-- S_MINU. -/
def execSMinu (k : Skein) (i : Strand) (w : SaluW) (s : State) : Result :=
  issueSalu s k i w (fun a b => if a.ult b then a else b)
/-- S_MAXU. -/
def execSMaxu (k : Skein) (i : Strand) (w : SaluW) (s : State) : Result :=
  issueSalu s k i w (fun a b => if a.ult b then b else a)

/-! ### BRANCH -/

/-- A branch condition holds (Table Matrix-6). -/
def condOn (c : BitVec 3) (a b : W32) : Bool :=
  match c.toNat with
  | 0 => a == b
  | 1 => a != b
  | 2 => a.slt b
  | 3 => !a.slt b
  | 4 => a.ult b
  | 5 => !a.ult b
  | _ => true

/-- The target: the branch word's own index plus the offset. -/
def strTarget (pc : Nat) (w : BranchW) : Int := (pc : Int) + signed 12 w.off.toNat

/-- BRANCH. A target outside the strand image is refused at staging (R627). -/
def execBranch (k : Skein) (i : Strand) (w : BranchW) (s : State) : Result :=
  let ok := fitsGroup s k.val i.val (fun e _ t => decide (0 ≤ strTarget t.pc w ∧ strTarget t.pc w < strImage e.acc))
  .next (issueLane s k.val i.val (legalBranch w && ok) (fun t =>
    if condOn w.cond (strX t w.xa) (strX t w.xb) then { t with pc := (strTarget (t.pc - 1) w).toNat } else t))

/-! ### VARITH (Table Matrix-7) -/

/-- VADD. -/
def execVadd (k : Skein) (i : Strand) (w : VarithW) (s : State) : Result :=
  .next (issueLane s k.val i.val (legalVarith w) (lane2 w eAdd))
/-- VSUB. -/
def execVsub (k : Skein) (i : Strand) (w : VarithW) (s : State) : Result :=
  .next (issueLane s k.val i.val (legalVarith w) (lane2 w eSub))
/-- VMUL. -/
def execVmul (k : Skein) (i : Strand) (w : VarithW) (s : State) : Result :=
  .next (issueLane s k.val i.val (legalVarith w) (lane2 w eMul))
/-- VFMA: VA × VB + VC, rounded once (R100). -/
def execVfma (k : Skein) (i : Strand) (w : VarithW) (s : State) : Result :=
  .next (issueLane s k.val i.val (legalVfloat w) (fun t =>
    mapLanes t w.vd ((((laneElems t w.va (vFmt w)).zip (laneElems t w.vb (vFmt w))).zip (laneElems t w.vc (vFmt w))).map
      (fun p => eFma (vFmt w) (vRnd w) p.1.1 p.1.2 p.2))))
/-- VDIV. -/
def execVdiv (k : Skein) (i : Strand) (w : VarithW) (s : State) : Result :=
  .next (issueLane s k.val i.val (legalVarith w) (lane2 w eDiv))
/-- VSQRT. -/
def execVsqrt (k : Skein) (i : Strand) (w : VarithW) (s : State) : Result :=
  .next (issueLane s k.val i.val (legalVfloat w) (lane1 w eSqrt))
/-- VMIN (R101). -/
def execVmin (k : Skein) (i : Strand) (w : VarithW) (s : State) : Result :=
  .next (issueLane s k.val i.val (legalVarith w) (lane2 w (fun f _ a b => (eMin f a b, noFlags))))
/-- VMAX. -/
def execVmax (k : Skein) (i : Strand) (w : VarithW) (s : State) : Result :=
  .next (issueLane s k.val i.val (legalVarith w) (lane2 w (fun f _ a b => (eMax f a b, noFlags))))
/-- VABS. -/
def execVabs (k : Skein) (i : Strand) (w : VarithW) (s : State) : Result :=
  .next (issueLane s k.val i.val (legalVarith w) (lane1 w (fun f _ a => eAbs f a)))
/-- VNEG. -/
def execVneg (k : Skein) (i : Strand) (w : VarithW) (s : State) : Result :=
  .next (issueLane s k.val i.val (legalVarith w) (lane1 w (fun f _ a => eNeg f a)))
/-- VCMPEQ. -/
def execVcmpeq (k : Skein) (i : Strand) (w : VarithW) (s : State) : Result :=
  .next (issueLane s k.val i.val (legalVarith w) (laneCmp w eEq))
/-- VCMPLT. -/
def execVcmplt (k : Skein) (i : Strand) (w : VarithW) (s : State) : Result :=
  .next (issueLane s k.val i.val (legalVarith w) (laneCmp w eLt))
/-- VCMPLE. -/
def execVcmple (k : Skein) (i : Strand) (w : VarithW) (s : State) : Result :=
  .next (issueLane s k.val i.val (legalVarith w) (laneCmp w eLe))
/-- VCMPUN. -/
def execVcmpun (k : Skein) (i : Strand) (w : VarithW) (s : State) : Result :=
  .next (issueLane s k.val i.val (legalVfloat w) (laneCmp w eUn))
/-- VSEL: whole cells, by the whole cell of VC (DEDUCED, log 20). -/
def execVsel (k : Skein) (i : Strand) (w : VarithW) (s : State) : Result :=
  .next (issueLane s k.val i.val (legalVarith w) (fun t =>
    setLanes t w.vd ((List.range 32).map (fun j => if lane t w.vc j != 0 then lane t w.va j else lane t w.vb j))))
/-- VDOT: one chunk in lay order, into lane 0. -/
def execVdot (k : Skein) (i : Strand) (w : VarithW) (s : State) : Result :=
  .next (issueLane s k.val i.val (legalVarith w) (fun t =>
    lane0 w.vd (dot (vFmt w) (vFmt w) ((laneElems t w.va (vFmt w)).zip (laneElems t w.vb (vFmt w))) none (vFmt w) (vRnd w)) t))
/-- VSUM (R110). -/
def execVsum (k : Skein) (i : Strand) (w : VarithW) (s : State) : Result :=
  .next (issueLane s k.val i.val (legalVarith w) (fun t =>
    lane0 w.vd (sumReduce (vFmt w) (laneElems t w.va (vFmt w)) (vFmt w) (vRnd w)) t))
/-- VRMIN. -/
def execVrmin (k : Skein) (i : Strand) (w : VarithW) (s : State) : Result :=
  .next (issueLane s k.val i.val (legalVarith w) (fun t =>
    lane0 w.vd (minReduce (vFmt w) (laneElems t w.va (vFmt w)), noFlags) t))
/-- VRMAX. -/
def execVrmax (k : Skein) (i : Strand) (w : VarithW) (s : State) : Result :=
  .next (issueLane s k.val i.val (legalVarith w) (fun t =>
    lane0 w.vd (maxReduce (vFmt w) (laneElems t w.va (vFmt w)), noFlags) t))
/-- VCURVE: the accord's curve-table version; an ID it has no entry for is illegal (R627). -/
def execVcurve (k : Skein) (i : Strand) (w : VarithW) (s : State) : Result :=
  let ok := fitsGroup s k.val i.val (fun e _ _ => (accordCurve s e.acc (curveId w)).isSome)
  .next (issueStrand s k.val i.val (legalVcurve w && ok) (fun v c t =>
    match accordCurve s v.e.acc (curveId w) with
    | none => .wait
    | some cu => .done (c, lane1 w (curveEval cu) t)))
/-- VCVT (R77). -/
def execVcvt (k : Skein) (i : Strand) (w : VcvtW) (s : State) : Result :=
  let fa := codeFmt w.fa.toNat
  let fd := codeFmt w.fd.toNat
  .next (issueLane s k.val i.val (legalVcvt w) (fun t =>
    mapLanes t w.vd ((laneElems t w.va fa).map (convert fa fd (codeRnd w.rnd.toNat) w.sat (signed 8 w.scale.toNat)))))

/-! ### VPERM: whole cells move, as moves that do not convert do (R163; DEDUCED, log 20) -/

/-- VD takes a permutation of cells. -/
def issuePerm (s : State) (k : Skein) (i : Strand) (w : VpermW) (f : StrandSt → Nat → W32) : Result :=
  .next (issueLane s k.val i.val (legalVperm w) (fun t => setLanes t w.vd ((List.range 32).map (f t))))

/-- PERM. -/
def execPerm (k : Skein) (i : Strand) (w : VpermW) (s : State) : Result :=
  issuePerm s k i w (fun t j => lane t w.va ((lane t w.vb j).toNat % 32))
/-- ROT. -/
def execRot (k : Skein) (i : Strand) (w : VpermW) (s : State) : Result :=
  issuePerm s k i w (fun t j => lane t w.va ((j + (strX t w.xs).toNat) % 32))
/-- BCAST. -/
def execBcast (k : Skein) (i : Strand) (w : VpermW) (s : State) : Result :=
  issuePerm s k i w (fun t _ => lane t w.va w.imm5.toNat)
/-- ZIPLO. -/
def execZiplo (k : Skein) (i : Strand) (w : VpermW) (s : State) : Result :=
  issuePerm s k i w (fun t j => lane t (if j % 2 = 0 then w.va else w.vb) (j / 2))
/-- ZIPHI. -/
def execZiphi (k : Skein) (i : Strand) (w : VpermW) (s : State) : Result :=
  issuePerm s k i w (fun t j => lane t (if j % 2 = 0 then w.va else w.vb) (j / 2 + 16))
/-- UNZIPE. -/
def execUnzipe (k : Skein) (i : Strand) (w : VpermW) (s : State) : Result :=
  issuePerm s k i w (fun t j => lane t (if j < 16 then w.va else w.vb) (2 * (j % 16)))
/-- UNZIPO. -/
def execUnzipo (k : Skein) (i : Strand) (w : VpermW) (s : State) : Result :=
  issuePerm s k i w (fun t j => lane t (if j < 16 then w.va else w.vb) (2 * (j % 16) + 1))
/-- PACK: the 32 elements of VA into w cells of VD from IMM5 (R184). -/
def execPack (k : Skein) (i : Strand) (w : VpermW) (s : State) : Result :=
  let f := codeFmt w.fmt.toNat
  .next (issueLane s k.val i.val (legalPack w) (fun t =>
    let n := packBits f.width (laneElems t w.va f)
    (List.range f.width).foldl (fun t q => setLane t w.vd (w.imm5.toNat + q) (BitVec.ofNat 32 (n / 2 ^ (32 * q)))) t))
/-- UNPACK. -/
def execUnpack (k : Skein) (i : Strand) (w : VpermW) (s : State) : Result :=
  let f := codeFmt w.fmt.toNat
  .next (issueLane s k.val i.val (legalPack w) (fun t =>
    let n := packBits 32 ((List.range f.width).map (fun q => (lane t w.va (w.imm5.toNat + q)).toNat))
    setElems t w.vd ((List.range 32).map (fun j => n / 2 ^ (f.width * j) % 2 ^ f.width))))
/-- SORT: lane indices of VA in descending key order (R185). -/
def execSort (k : Skein) (i : Strand) (w : VpermW) (s : State) : Result :=
  let f := codeFmt w.fmt.toNat
  .next (issueLane s k.val i.val (legalVperm w) (fun t => setElems t w.vd (sortLanes f (laneElems t w.va f))))
/-- MOVX: one cell of VD takes XS. -/
def execMovx (k : Skein) (i : Strand) (w : VpermW) (s : State) : Result :=
  .next (issueLane s k.val i.val (legalVperm w) (fun t => setLane t w.vd w.imm5.toNat (strX t w.xs)))
/-- LANE: XS takes one cell of VA. -/
def execLane (k : Skein) (i : Strand) (w : VpermW) (s : State) : Result :=
  .next (issueLane s k.val i.val (legalVperm w) (fun t => strSetX t w.xs (lane t w.va w.imm5.toNat)))

/-! ### TILE -/

/-- The tile lies in one of the group's masks (Table Matrix-8). -/
def tileOk (s : State) (k : Skein) (i : Strand) (w : TileW) : Bool :=
  legalTile w && fitsGroup s k.val i.val (fun _ g _ => inMask g.rmask w.tile || inMask g.wmask w.tile)

/-- TRD: own row to V. -/
def execTrd (k : Skein) (i : Strand) (w : TileW) (s : State) : Result :=
  .next (issueStrand s k.val i.val (tileOk s k i w) (fun v c t =>
    .done (c, setElems t w.v (tileRow c w.tile v.i (codeFmt w.fmt.toNat)))))
/-- TWR: V to own row of a write-mask tile. -/
def execTwr (k : Skein) (i : Strand) (w : TileW) (s : State) : Result :=
  let ok := legalTile w && fitsGroup s k.val i.val (fun _ g _ => inMask g.wmask w.tile)
  .next (issueStrand s k.val i.val ok (fun v c t =>
    .done (setTileRow c w.tile v.i (laneElems t w.v (codeFmt w.fmt.toNat)), t)))
/-- TRDX: the row XS names (R628). -/
def execTrdx (k : Skein) (i : Strand) (w : TileW) (s : State) : Result :=
  .next (issueStrand s k.val i.val (tileOk s k i w) (fun v c t =>
    let row := (strX t w.xs).toNat
    if 31 < row ∨ (inMask v.g.wmask w.tile ∧ row ≠ v.i) then .fault pfTileRow
    else .done (c, setElems t w.v (tileRow c w.tile row (codeFmt w.fmt.toNat)))))

/-! ### MEM -/

/-- LDW. -/
def execLdw (k : Skein) (i : Strand) (w : MemW) (s : State) : Result :=
  .next (issueStrand s k.val i.val (legalLdw w) (fun v c t =>
    strRead v c (memAddr t w) 4 (fun b => strSetX t w.xd (BitVec.ofNat 32 (leNat b)))))
/-- STW. -/
def execStw (k : Skein) (i : Strand) (w : MemW) (s : State) : Result :=
  .next (issueStrand s k.val i.val (legalLdw w) (fun v c t =>
    strWrite v c t (memAddr t w) (leBytes 4 (strX t w.xd).toNat)))
/-- VLD: 32 whole cells. -/
def execVld (k : Skein) (i : Strand) (w : MemW) (s : State) : Result :=
  .next (issueStrand s k.val i.val (legalVld w) (fun v c t =>
    strRead v c (memAddr t w) 128 (fun b =>
      setElems t (w.xd.truncate 3) ((List.range 32).map (fun j => fld b (4 * j) 4)))))
/-- VST. -/
def execVst (k : Skein) (i : Strand) (w : MemW) (s : State) : Result :=
  .next (issueStrand s k.val i.val (legalVld w) (fun v c t =>
    strWrite v c t (memAddr t w) ((lanes t (w.xd.truncate 3)).flatMap (fun x => leBytes 4 x.toNat))))

/-! ### CTRL -/

/-- The last strand of a group has ended: its flags join the launch's, then its tokens are released (R172, R180). -/
def endGroup (c : Core) (g : Group) : Core :=
  let c1 := releaseTokens (joinFlags c g.id g.flags) g.id
  { c1 with groups := c1.groups.filter (fun x => x.id != g.id) }

/-- END. -/
def execStrandEnd (k : Skein) (i : Strand) (w : CtrlW) (s : State) : Result :=
  .next (issueStrand s k.val i.val (legalEnd w) (fun v c t =>
    let g := { v.g with flags := v.g.flags ||| t.flags, live := sdel v.g.live v.i }
    let c1 := { c with groups := updFirst (fun x => x.id == g.id) (fun _ => g) c.groups }
    .done (if g.live.isEmpty then endGroup c1 g else c1, StrandSt.idle)))

/-- STRAND_RDFLAGS: the flags of what the launch issued before the STRGO and of the strand's own words; it waits until
every earlier word has completed (R97, log 16). -/
def execStrandRdflags (k : Skein) (i : Strand) (w : CtrlW) (s : State) : Result :=
  .next (issueStrand s k.val i.val (legalEnd w) (fun v c t =>
    if c.jobs.any (fun j => decide (j.id < v.g.id)) || c.groups.any (fun g => decide (g.id < v.g.id))
       || c.nb.any (fun n => decide (n.id < v.g.id)) || !c.media.all (·.granted) then .wait
    else .done (c, strSetX t w.xd ((v.g.seen ||| t.flags).zeroExtend 32))))

/-- STRAND_LDC: 4 bytes of the launch constant block. -/
def execStrandLdc (k : Skein) (i : Strand) (w : CtrlW) (s : State) : Result :=
  .next (issueStrand s k.val i.val (legalSldc w) (fun v c t =>
    .done (c, strSetX t w.xd (BitVec.ofNat 32 (fld v.e.l.lcb w.imm.toNat 4)))))

end Sys2Proof.Machine
end

