-- ==== Sys2Proof/Machine/Staging.lean ====
section
/-! DEFINITION. The staging checks of an accord and filling the staged slot (09_tables_epochs.md Accords, 05_control_core.md R156,
06_matrix_vector.md R627, 15_integrity.md R471). -/

namespace Sys2Proof.Machine

/-! ### Program image (R156, Table Core-10) -/

/-- Word i of the program image. -/
def imageWord (a : Accord) (i : Nat) : Option Instr := decodeWord 0 (fld (section_ a 2) (32 * i) 32)
/-- Word i of the strand image. -/
def strandWord (a : Accord) (i : Nat) : Option Instr := decodeStrand 0 0 (fld (section_ a 4) (4 * i) 4)

/-- Where a strand word can go on to (R627); `strTarget` counts from the branch word. -/
def strandNext (i : Nat) : Instr → List Nat
  | .branch _ _ w => [(strTarget i w).toNat, i + 1]
  | .strandEnd _ _ _ => []
  | _ => [i + 1]

/-- Strand words reachable from those to do. -/
def reach (a : Accord) : Nat → List Nat → NSet → NSet
  | 0, _, seen => seen
  | _, [], seen => seen
  | fuel + 1, i :: todo, seen =>
    if smem seen i ∨ strImage a ≤ i then reach a fuel todo seen
    else reach a fuel (((strandWord a i).map (strandNext i)).getD [] ++ todo) (sadd seen i)

/-- A strand word keeps to the masks of its STRGO. -/
def tilesOk (r w : BitVec 64) : Instr → Bool
  | .trd _ _ t => r.getLsbD t.tile.toNat || w.getLsbD t.tile.toNat
  | .trdx _ _ t => r.getLsbD t.tile.toNat || w.getLsbD t.tile.toNat
  | .twr _ _ t => w.getLsbD t.tile.toNat
  | _ => true

/-- A STRGO names a strand program whose reachable words keep to its masks, no tile in both (R627). -/
def strgoOk (a : Accord) (w : MWord) : Bool :=
  let e := strgoEntry w
  decide (strgoRead w &&& strgoWrite w = 0) && decide (e < strTable a)
  && (reach a (2 * strImage a + 2) [fld (section_ a 5) (8 * e) 4] []).all (fun i =>
        ((strandWord a i).map (tilesOk (strgoRead w) (strgoWrite w))).getD false)

/-- What a word asks of its accord (Table Core-10): targets, schemas, descriptors, strand programs. -/
def wordFits (a : Accord) (i : Nat) : Instr → Bool
  | .br _ w => decide (0 ≤ (i : Int) + immInt w ∧ (i : Int) + immInt w < imageLen a)
  | .call _ w => decide (0 ≤ (i : Int) + immInt w ∧ (i : Int) + immInt w < imageLen a)
  | .loop _ w => decide (0 ≤ (i : Int) + immInt w ∧ (i : Int) + immInt w < imageLen a)
  | .strgo _ w => strgoOk a w
  | .stmopen _ w => (streamAt a (stmDesc w)).isSome
  | .nbgp _ w => schemaKind a (parHandle w) 1
  | .nbdot _ w => schemaKind a (parHandle w) 1
  | .nbsa _ w => schemaKind a (parHandle w) 1
  | .nbcopy _ w => schemaKind a (parHandle w) 1
  | .rowrd _ w => schemaKind a (parHandle w) 1
  | .talrd _ w => !tallyTable w || schemaKind a (parHandle w) 2
  | .seqf _ w => schemaKind a (parHandle w) 3
  | _ => true

/-- Word i is legal. -/
def wordOk (a : Accord) (i : Nat) : Bool :=
  match imageWord a i with
  | some c => c.wf && wordFits a i c
  | none => false

/-- The first illegal word of the image. -/
def firstIllegal (a : Accord) : Option Nat := (List.range (imageLen a)).find? (fun i => !wordOk a i)

/-- A strand word is legal in its image; a CURVE names a function its version has (R117, R627). -/
def strandOk (a : Accord) (curves : List Curve) (i : Nat) : Bool :=
  match strandWord a i with
  | none => false
  | some c => c.wf && (match c with
      | .branch _ _ w => decide (0 ≤ strTarget i w ∧ strTarget i w < strImage a)
      | .vcurve _ _ w => curves.any (fun f => f.fid == curveId w)
      | _ => true)

/-- A program-table entry is in order; its preload descriptors lie in the descriptor area, carry no reserved value and are IN
streams (R139, R156, R292, R311, Table Streams-2 and the limits of 10_streams.md). -/
def entryOk (a : Accord) (i : Nat) : Bool :=
  let e := progEntry a i
  decide (fld e 0 4 < imageLen a) && zeroAt e 4 4 && zeroAt e 18 2 && zeroAt e 24 8 && decide (fld e 16 2 ≤ 8)
  && (preloads a i).all (fun d => d.any (fun d => d.dir == 1))

/-- A strand-program-table entry is in order (R627). -/
def strandEntryOk (a : Accord) (i : Nat) : Bool :=
  decide (fld (section_ a 5) (8 * i) 4 < strImage a) && zeroAt (section_ a 5) (8 * i + 4) 4

/-! ### Envelope tables (R471) -/

/-- A finite FP32 pattern. -/
def finiteBits (b : Nat) : Bool := (fracOf (Fmt.fp32.val b)).isSome

/-- The knots of an entry: finite, lo not above hi, x rising, the unused ones zero. -/
def knotsOk (e : Bytes) (k : Nat) : Bool :=
  (List.range k).all (fun j =>
    finiteBits (fld e (32 + 12 * j) 4) && finiteBits (fld e (36 + 12 * j) 4) && finiteBits (fld e (40 + 12 * j) 4)
    && (knotOf e j).2.1.le (knotOf e j).2.2 && (j == 0 || !(knotOf e j).1.le (knotOf e (j - 1)).1))
  && zeroAt e (32 + 12 * k) (96 - 12 * k)

/-- A data format other than INT4. -/
def envFmt (c : Nat) : Bool := (Fmt.ofCode c).any (fun f => f != .int4)

/-- An envelope entry is in order. -/
def envelopeOk (e : Bytes) : Bool :=
  let src := fld e 2 1
  let k := fld e 5 1
  let n := fld e 16 4
  let size := (codeFmt (fld e 1 1)).width / 8
  let dsize := (codeFmt (fld e 3 1)).width / 8
  decide (fld e 0 1 < 4 ∧ src < 3 ∧ fld e 4 1 < 2 ∧ 1 ≤ k ∧ k ≤ 8 ∧ 1 ≤ n ∧ n ≤ 2 ^ 24) && envFmt (fld e 1 1)
  && (if src = 0 then fld e 3 1 == 0 && k == 1 else envFmt (fld e 3 1))
  && zeroAt e 6 2 && zeroAt e 28 4 && fld e 8 4 % size == 0 && fld e 12 4 % size == 0
  && (src == 0 || (fld e 20 4 % dsize == 0 && fld e 24 4 % dsize == 0))
  && (src != 2 || decide (fld e 20 4 + (n - 1) * fld e 24 4 + dsize ≤ 512)) && knotsOk e k

/-- The sets of section 0x08 from the one after index `lo - 1` on, to the end of its bytes. -/
def setsOk (progs : Nat) : Nat → Nat → Bytes → Bool
  | 0, _, b => b.isEmpty
  | s + 1, lo, b =>
    let n := fld b 2 1
    decide (8 + 128 * n ≤ b.length ∧ lo ≤ fld b 0 2 ∧ fld b 0 2 < progs) && decide (fld b 3 1 < 64) && zeroAt b 4 4
    && (List.range n).all (fun i => envelopeOk (slice b (8 + 128 * i) 128)) && setsOk progs s (fld b 0 2 + 1) (b.drop (8 + 128 * n))

/-! ### Sections (R24, R211, R279, R280, Table Core-9) -/

/-- Every section is known, the nine computation sections are there, and lengths fit. -/
def sectionsFit (a : Accord) : Bool :=
  let codes := a.sections.map (·.1)
  let len (c : Nat) : Nat := (section_ a c).length
  codes.all (fun c => inRange 1 9 c || inRange 0x20 0x22 c) && (List.range 9).all (fun i => codes.contains (i + 1))
  && len 1 == 8 && len 2 % 32 == 0 && decide (len 2 ≤ 65536 * 32) && len 3 % 32 == 0 && len 4 % 4 == 0 && decide (len 4 ≤ 65536 * 4)
  && len 5 % 8 == 0 && len 7 % 64 == 0 && decide (8 ≤ len 8) && len 9 == 8
  && (!hasSection a 0x20 || len 0x20 == 128) && (!hasSection a 0x21 || len 0x21 == 8) && (!hasSection a 0x22 || len 0x22 == 1024)

/-- Profile code of an accord. -/
def accProfile (a : Accord) : Nat := fld (section_ a 1) 0 2
/-- Curve-table version of an accord. -/
def accCurves (a : Accord) : Nat := fld (section_ a 1) 4 2

/-- The profile is NP-1, or the bring-up profile where R24 lets it stand. -/
def profileOk (s : State) (a : Accord) : Bool :=
  accProfile a == 1 || (accProfile a == 0xF1 && !s.glb.locked && (grantOf a 0).1 && (List.range 127).all (fun t => !(grantOf a (t + 1)).1))

/-- Schemas: handles rise, placement fields are zero (R279). -/
def schemasOk (a : Accord) : Bool := rising ((schemas a).map tHandle) && (schemas a).all (fun d => unplaced d == d)

/-- Section 0x20 (Table Tables-9). -/
def keysOk (b : Bytes) : Bool :=
  let k := beNat (slice b 72 48)
  zeroAt b 8 24 && zeroAt b 68 4 && zeroAt b 120 8 && decide (fld b 64 4 < 2)
  && (if fld b 64 4 = 1 then decide (0 < k ∧ k < n384) else k == 0)

/-- Section 0x21 (Table Tables-10, R211). -/
def sharesOk (b : Bytes) : Bool :=
  inRange 4 56 (fld b 0 1) && inRange 4 56 (fld b 1 1) && inRange 4 56 (fld b 2 1) && fld b 0 1 + fld b 1 1 + fld b 2 1 == 64
  && decide (fld b 3 1 ≤ 12) && zeroAt b 4 4

/-- Section 0x22 (Table Tables-11). -/
def grantsOk (b : Bytes) : Bool :=
  (List.range 128).all (fun t => decide (fld b (8 * t) 1 < 2) && zeroAt b (8 * t + 1) 1 && decide (fld b (8 * t + 2) 2 ≤ 4096)
    && zeroAt b (8 * t + 4) 4)

/-- Every check of R281 on a parsed accord but the words of its image, which `firstIllegal` finds. -/
def accordFits (s : State) (a : Accord) : Bool :=
  let s1 := section_ a 1
  match s.curves.find? (fun c => c.version == accCurves a) with
  | none => false
  | some cf =>
    a.id != 0 && zeroAt s1 2 2 && zeroAt s1 6 2 && profileOk s a && (List.range ((section_ a 3).length / 32)).all (entryOk a)
    && (List.range (strImage a)).all (strandOk a cf.curves) && (List.range (strTable a)).all (strandEntryOk a) && schemasOk a
    && zeroAt (section_ a 8) 4 4 && setsOk ((section_ a 3).length / 32) (fld (section_ a 8) 0 4) 0 ((section_ a 8).drop 8)
    && decide (resBytes a % 2 ^ 16 = 0 ∧ resBytes a ≤ 3 * 2 ^ 20)
    && (!hasSection a 0x20 || keysOk (section_ a 0x20)) && (!hasSection a 0x21 || sharesOk (section_ a 0x21))
    && (!hasSection a 0x22 || grantsOk (section_ a 0x22))

/-- "Any other check" in the detail of ACCORD-INVALID. -/
def otherCheck : Nat := 0xFFFFFFFF

/-- What is wrong with an accord: the detail of its ACCORD-INVALID entry. DEDUCED (log 36): an illegal word is named before any
other check, once the sections fit. -/
def accordFault (s : State) (a : Accord) : Option Nat :=
  if !sectionsFit a then some otherCheck
  else match firstIllegal a with
    | some i => some i
    | none => if accordFits s a then none else some otherCheck

/-! ### The staged slot (R281) -/

/-- A launch is bound to the staged slot, whose accord no other slot holds (R32, R281). -/
def stagedInUse (s : State) : Bool :=
  s.fe.accordStaged.any (fun a => s.fe.accordCur != some a && s.fe.accordPrev != some a
    && s.launches.any (fun l => l.stage != .finished && l.accord == a))

/-- The chip holds a manifest that names the staged accord and whose step 8 has not run. -/
def stagedNamed (s : State) : Bool :=
  s.fe.accordStaged.any (fun a =>
    let names (w : Option (Nat × Bytes)) : Bool := w.any (fun p => p.1 == a.id && p.2 == a.digest)
    s.boundary.any (fun b => names b.swap) || (!s.group.manifest.isEmpty && names (manSwap s.group.manifest)))

/-- Refuse an accord: the state code, and the entry. -/
def refuseStage (s : State) (code id b state : Nat) : State := logErr { s with fe := { s.fe with stageState := state } } code noTenant id b

/-- The image that FE_ACCORD_STAGE names, as device memory holds it; none outside it. -/
def stagedImage (s : State) : State × Option Bytes :=
  let a := rget s Reg.stageAddr
  let n := rget s Reg.stageLength
  match dpaStriped a, dpaStriped (a + n - 1) with
  | some _, some _ =>
    let addrs := (List.range n).filterMap (fun i => dpaStriped (a + i))
    let s1 := (addrs.map (· / 256)).eraseDups.foldl flushLine s
    (s1, some (addrs.map (fun x => nget 0 s1.mem x)))
  | _, _ => (s, none)

/-- The three accords, with the one to be staged, fit a store copy. -/
def storeFits (s : State) (a : Accord) : Bool :=
  decide ((storeImage 0 (parsedRange s).2 [s.fe.accordCur, s.fe.accordPrev, some a]).length ≤ storeBytes)

/-- First byte of a part of the accord area (Table Reg-4). DESIGN CHOICE (log 95): parts of 256 MiB, one to a slot. -/
def areaBase (i : Nat) : Nat := 0x2CC0000000 + 2 ^ 28 * i

/-- The program image and the program table of an accord are copied into a part of the accord area (R161). -/
def copyImage (s : State) (i : Nat) (a : Option Accord) : State :=
  a.elim s (fun a => memWrite s (areaBase i) (section_ a 2 ++ section_ a 3))

/-- The staged slot takes an accord: its image is copied, the store is written, and the event is journalled. -/
def fillStaged (s : State) (a : Accord) : State :=
  let s1 := copyImage s s.fe.areas.2.2 (some a)
  stageOwn (writeStore { s1 with fe := { s1.fe with accordStaged := some a, stageState := 2 } }) [accordRecord a 1]

end Sys2Proof.Machine
end

