-- ==== Sys2Proof/Machine/GroupOps.lean ====
section
/-! DEFINITION. The replica group: the anchor, manifests, confirmation, reports, votes, and catching up
(13_lanyards.md, 09_tables_epochs.md R282, R288, R289, R630). -/

namespace Sys2Proof.Machine

/-! ### Who the anchor is (R394, R423) -/

/-- The term the chip serves in; a chip without a group serves in term 1 for good. -/
def termNow (s : State) : Nat := if inGroup s then s.group.term else 1
/-- The anchor's member number. -/
def anchorNow (s : State) : Nat := if inGroup s then s.group.anchor else ownMember s
/-- The chip is the anchor; one that knows a higher term than its own is not (R434). -/
def isAnchor (s : State) : Bool := anchorNow s == ownMember s && (!inGroup s || decide (s.group.votedTerm ≤ termNow s))
/-- Acknowledgments that confirm a manifest (R425). -/
def needed (s : State) : Nat := if inGroup s then quorum s else 1

/-- The group's state as its generation begins: term 1 belongs to the lowest member of the roster, splices of the old
generation are gone (R394, R396, R421). -/
def enterGroup (s : State) : State :=
  let g := s.group
  let lowest := ((members s).head?).getD 0
  { s with group := { GroupSt.reset with
      term := if inGroup s then 1 else 0, anchor := if inGroup s then lowest else 0, lastConfirm := s.clk.elapsed,
      epochWait := 1000 * rget s Reg.epochPeriod, anchorWait := 1000 * rget s Reg.anchorTimeout, closeDue := g.closeDue,
      applied := g.applied, memberSet := g.memberSet, behind := g.behind, owedSwap := g.owedSwap,
      reports := g.reports, fetchId := g.fetchId, turn := g.turn, resync := g.resync, lines := g.lines } }

/-- After a reset the chip goes on in its group: term and anchor are those a generation begins with until it accepts a higher term
(R598), the highest term it voted in or accepted stays (R434), and its requests are gone with their sessions (DEDUCED, log 93). -/
def resumeGroup (s : State) : State :=
  let g := s.group
  let e := (enterGroup s).group
  { s with group := { g with term := e.term, anchor := e.anchor, votedTerm := max g.term g.votedTerm, lastConfirm := e.lastConfirm,
                             epochWait := e.epochWait, anchorWait := e.anchorWait, fetches := [], asked := [], issuing := [],
                             acks := [], reissue := none } }

/-! ### Behind the group (R288, R289, R630) -/

/-- BOUNDARY-BEHIND: admission stops. -/
def fallBehind (s : State) (epoch : Nat) : State :=
  if s.group.behind ≠ 0 then s
  else logErr (stopAdmit (raiseCond { s with group := { s.group with behind := 1 } } condBoundary) condBoundary)
         Err.boundaryBehind noTenant epoch 0

/-- CHAIN-MISMATCH: admission stops. -/
def chainMismatch (s : State) (epoch : Nat) : State :=
  if s.group.behind = 2 then s
  else logErr (stopAdmit (raiseCond { s with group := { s.group with behind := 2 } } condBoundary) condBoundary)
         Err.chainMismatch noTenant epoch 0

/-- The highest epoch that a member has reported, or under which an UP port's partner seals its frames (R402). -/
def groupEpoch (s : State) : Nat :=
  ((s.group.reports.map (fun r => fld r.body 0 8)) ++ (upPorts s).map (fun p => (getP s p).keyEpoch)).foldl max s.fe.epoch.toNat

/-- A chip that has caught up, with no swap owed, admits again. -/
def rejoin (s : State) : State :=
  if s.group.behind = 1 ∧ s.group.owedSwap.isNone ∧ groupEpoch s ≤ s.fe.epoch.toNat then
    resumeAdmit (clearCond { s with group := { s.group with behind := 0 } } condBoundary) condBoundary
  else s

/-! ### FETCH -/

/-- Ask the next port for splice bodies, 252 to a request. -/
def fetchBodies (s : State) (ids : List Nat) : State := if ids.isEmpty then s else sendFetch s 1 s.fe.epoch.toNat ids

/-- Ask for the manifest of an epoch. DESIGN CHOICE (log 38): a FETCH of splice bodies with no items names it. -/
def fetchManifest (s : State) (epoch : Nat) : State := sendFetch s 1 epoch []

/-- The manifest of an epoch as far as the chip holds it: confirmed, in progress or journalled. -/
def manifestOf (s : State) (epoch : Nat) : Option Bytes :=
  if !s.group.manifest.isEmpty ∧ manEpoch s.group.manifest = epoch then some s.group.manifest
  else match s.boundary with
    | some b => if manEpoch b.manifest = epoch then some b.manifest
                else ((flashRecs s).filter (fun r => r.kind == 0x03 && manEpoch r.body == epoch)).getLast?.map (·.body)
    | none => ((flashRecs s).filter (fun r => r.kind == 0x03 && manEpoch r.body == epoch)).getLast?.map (·.body)

/-- The body of a splice as far as the chip holds it. -/
def bodyOf (s : State) (id : Nat) : Option Bytes :=
  match (findSplice s id).bind (·.body) with
  | some b => some b
  | none => ((flashRecs s).find? (fun r => r.kind == 0x01 && fld r.body 0 8 == id)).map (fun r => r.body.drop 16)

/-! ### Manifests -/

/-- The chunks of a manifest, in order, as MANIFEST payloads (Table Lanyard-4). -/
def manifestChunks (m : Bytes) : List Bytes :=
  let l := chunksOf 2040 m
  (l.zip (List.range l.length)).map (fun p => leBytes 4 p.2 ++ leBytes 4 l.length ++ p.1)

/-- MANIFEST-ACK and CONFIRM payload. -/
def ackBody (s : State) (m : Bytes) : Bytes :=
  leBytes 8 (manEpoch m) ++ leBytes 4 (manTerm m) ++ leBytes 1 (ownMember s) ++ zeros 3 ++ sha256 m

/-- Listed splices whose bodies the chip lacks. -/
def lacking (s : State) (ids : List Nat) : List Nat := ids.filter (fun id => ((findSplice s id).bind (·.body)).isNone)

/-- The boundary of a confirmed manifest begins. Missing bodies are asked for where the chip lags its group. -/
def startBoundary (s : State) (m : Bytes) : State :=
  let ids := manIds m
  let behind := s.group.behind != 0
  let b : Boundary := { step := .gather, manifest := m, ids, swap := manSwap m, position := 0, refused := [],
                        due := s.clk.elapsed + 1000 * rget s Reg.boundaryLimit, asked := if behind then 1 else 0 }
  let s1 := ids.foldl (fun s id => modSplice s id (fun r => { r with listed := true })) s
  let s2 := { s1 with boundary := some b, group := { s1.group with manifest := [], confirm := none, lastConfirm := s.clk.elapsed,
                                                                   epochWait := 1000 * rget s Reg.epochPeriod,
                                                                   anchorWait := 1000 * rget s Reg.anchorTimeout,
                                                                   chunks := s1.group.chunks.filter (fun c => decide (manEpoch m < c.1)) } }
  if behind then fetchBodies s2 (lacking s2 ids) else s2

/-- Step 1 ends: the boundary begins, and the confirmed manifest is journalled (Table Tables-5, Table Sillage-2). -/
def beginBoundary (s : State) (m : Bytes) : State := stageOwn (startBoundary s m) [{ kind := 0x03, body := m }]

/-- A CONFIRM that the chip holds for the manifest it holds ends step 1 (R426). A chip that owes a swap waits for it at the boundary
that named it (R630). -/
def maybeBegin (s : State) : State :=
  match s.group.confirm with
  | none => s
  | some (e, d) =>
    let m := s.group.manifest
    if s.boundary.isNone ∧ s.group.owedSwap.isNone ∧ !m.isEmpty ∧ manEpoch m = s.fe.epoch.toNat + 1 ∧ e = manEpoch m ∧ d = sha256 m
    then beginBoundary s m else s

/-- The epoch of the set whose step 1 comes next: that of a boundary in progress is closed. -/
def nextSet (s : State) : Nat := s.fe.epoch.toNat + 1 + (if s.boundary.isSome then 1 else 0)

/-- The anchor confirms the manifest it has issued at a quorum (R425). -/
def tryConfirm (s : State) : State :=
  let m := s.group.issuing
  if isAnchor s ∧ !m.isEmpty ∧ needed s ≤ s.group.acks.length then
    let held := if manEpoch m = nextSet s then some (manEpoch m, sha256 m) else s.group.confirm
    maybeBegin (flood { s with group := { s.group with issuing := [], confirm := held } } 8 0x05 (ownMember s) (ackBody s m))
  else s

/-- The anchor issues a manifest: holds it, floods it and acknowledges it itself. -/
def issueManifest (s : State) (m : Bytes) : State :=
  let g := s.group
  let s1 := { s with group := { g with issuing := m, acks := [ownMember s],
                                       manifest := if manEpoch m = nextSet s then m else g.manifest } }
  tryConfirm ((manifestChunks m).foldl (fun s c => flood s 8 0x03 (ownMember s) c) s1)

/-- Acknowledge a whole manifest (R425). -/
def acknowledge (s : State) (m : Bytes) : State := flood s 8 0x04 (ownMember s) (ackBody s m)

/-- Ask for the next manifest while the group is ahead; a chip that lags by more than the boundary under way is behind (R388,
log 39). -/
def catchUp (s : State) : State :=
  if inGroup s ∧ s.boundary.isNone ∧ s.group.owedSwap.isNone ∧ s.fe.epoch.toNat < groupEpoch s then
    fetchManifest (if s.fe.epoch.toNat + 1 < groupEpoch s then fallBehind s s.fe.epoch.toNat else s) (s.fe.epoch.toNat + 1)
  else s

/-- A manifest but for its term and anchor, in which an anchor that issues it again puts its own (R433; log 38). -/
def manCore (m : Bytes) : Bytes := m.take 16 ++ m.drop 21

/-- The same manifest under a chip's own term. -/
def reissued (s : State) (m : Bytes) : Bytes := m.take 16 ++ leBytes 4 s.group.term ++ leBytes 1 (ownMember s) ++ m.drop 21

/-- A term the chip accepts: a higher one ends what it was doing as an anchor (R434). -/
def acceptTerm (s : State) (term anchor : Nat) : State :=
  if s.group.term < term then
    { s with group := { s.group with term, anchor, votedTerm := max term s.group.votedTerm, issuing := [], reissue := none } }
  else s

/-- The digest of what the chip applied for an epoch, term and anchor left out: the last one's, or that of the manifest in its
journal (R435). -/
def appliedCore (s : State) (e : Nat) : Option Bytes :=
  if e = s.fe.epoch.toNat ∧ s.group.applied ≠ [] then some s.group.applied
  else (((flashRecs s).filter (fun r => r.kind == 0x03 && manEpoch r.body == e)).getLast?).map (fun r => sha256 (manCore r.body))

/-- A manifest for an epoch the chip has applied: a duplicate, or a CHAIN-MISMATCH (R435). -/
def takeOld (s : State) (m : Bytes) : State :=
  match appliedCore s (manEpoch m) with
  | none => s
  | some d => if d = sha256 (manCore m) then acknowledge s m else chainMismatch s (manEpoch m)

/-- The manifest is the one the chip, a new anchor, has to issue again (R433). -/
def isReissue (s : State) (m : Bytes) : Bool := s.group.reissue.any (fun r => r.1 == manEpoch m && r.2.2 == sha256 m)

/-- Issue the awaited manifest again under the own term. -/
def reissueNow (s : State) (m : Bytes) : State :=
  issueManifest { s with group := { s.group with reissue := none } } (reissued s m)

/-- Hold a whole manifest until its CONFIRM comes. -/
def holdManifest (s : State) (m : Bytes) : State := maybeBegin { s with group := { s.group with manifest := m } }

/-- Take a whole manifest (R425, R434, R435). A reply to FETCH is one the chip asked for: it serves a reissue (R433) or, as its
CONFIRM comes with it, catching up, whatever its term (log 38). -/
def takeManifest (s : State) (m : Bytes) (fetched : Bool) : State :=
  if m.take 8 ≠ beBytes 8 0x54514D414E494631 ∨ m.length ≠ 104 + 8 * fld m 28 4 then s
  else if isReissue s m then reissueNow s m
  else if fetched then (if manEpoch m = s.fe.epoch.toNat + 1 ∧ s.boundary.isNone then holdManifest s m else s)
  else if manTerm m < max s.group.term s.group.votedTerm then s
  else
    let s1 := acceptTerm s (manTerm m) (manAnchor m)
    if manEpoch m ≤ s.fe.epoch.toNat then takeOld s1 m
    else if s.boundary.any (fun b => manEpoch b.manifest == manEpoch m) then
      (if s.boundary.any (fun b => manCore b.manifest == manCore m) then acknowledge s1 m else s1)
    else if manEpoch m ≠ nextSet s then s1
    else holdManifest (acknowledge s1 m) m

/-! ### Reports (R428, R429) -/

/-- REPORT payload. -/
def reportBody (s : State) : Bytes :=
  leBytes 8 s.fe.epoch.toNat ++ s.fe.head ++ leBytes 4 ((s.fe.accordStaged.map (·.id)).getD 0) ++ zeros 4
  ++ ((s.fe.accordStaged.map (fun a => fit 32 a.digest)).getD (zeros 32))

/-- Store a member's report: its newest one, and those of the chip's epoch and later ones (R428). -/
def putReport (s : State) (m : Nat) (b : Bytes) : State :=
  let kept := s.group.reports.filter (fun r =>
    r.member != m || (decide (s.fe.epoch.toNat ≤ fld r.body 0 8) && fld r.body 0 8 != fld b 0 8))
  { s with group := { s.group with reports := { member := m, body := b, since := s.clk.elapsed } :: kept } }

/-- A member's report of an epoch. -/
def reportOf (s : State) (m e : Nat) : Option Report := s.group.reports.find? (fun r => r.member == m && fld r.body 0 8 == e)

/-- A member whose head differs from the anchor's for its epoch (R289, R428). -/
def checkHead (s : State) : State :=
  if isAnchor s then s
  else match reportOf s s.group.anchor s.fe.epoch.toNat with
    | some r => if slice r.body 8 32 ≠ s.fe.head then chainMismatch s s.fe.epoch.toNat else s
    | none => s

/-- Members present at a close: the anchor, and those whose report of the current epoch has come (R429). -/
def presentMembers (s : State) : List Nat :=
  if inGroup s then
    (members s).filter (fun m => m == ownMember s || (reportOf s m s.fe.epoch.toNat).isSome)
  else [ownMember s]

/-- The swap a manifest may name: the anchor's staged accord, when every present member has reported it (R429). -/
def swapToName (s : State) : Option (Nat × Bytes) :=
  match s.fe.accordStaged with
  | none => none
  | some a =>
    if ((presentMembers s).filter (· != ownMember s)).all (fun m => (reportOf s m s.fe.epoch.toNat).any (fun r =>
        fld r.body 40 4 == a.id && slice r.body 48 32 == a.digest)) then some (a.id, a.digest)
    else none

/-! ### Votes (R432, R433) -/

/-- Epoch, term and digest of the manifest a member holds: unconfirmed, in progress, or the last one applied. -/
def heldManifest (s : State) : Nat × Nat × Bytes :=
  let e := s.fe.epoch.toNat
  match [e + 2, e + 1, e].findSome? (manifestOf s) with
  | some m => (manEpoch m, manTerm m, sha256 m)
  | none => (0, 0, zeros 32)

/-- VOTE payload. -/
def voteBody (s : State) (term candidate : Nat) : Bytes :=
  let h := heldManifest s
  leBytes 4 term ++ leBytes 1 candidate ++ leBytes 1 (ownMember s) ++ zeros 2
  ++ leBytes 8 (s.fe.epoch.toNat + (if s.boundary.isSome then 1 else 0)) ++ leBytes 8 h.1 ++ leBytes 4 h.2.1 ++ zeros 4 ++ h.2.2

/-- The candidate of a term: the members heard lately, other than the silent anchor, in ascending order, each later failed
term naming the next one (R432; after the last the first follows, log 38). -/
def candidateOf (s : State) (term : Nat) : Nat :=
  let l := (members s).filter (fun m => m != s.group.anchor && (m == ownMember s || s.group.reports.any (fun r =>
    r.member == m && decide (s.clk.elapsed ≤ r.since + s.group.anchorWait))))
  l.getD ((term - s.group.term - 1) % l.length) (ownMember s)

/-- Take a vote; the same voter and term only once. -/
def putVote (s : State) (b : Bytes) : State :=
  let v : VoteRec := { term := fld b 0 4, candidate := fld b 4 1, voter := fld b 5 1, body := b }
  if s.group.votes.any (fun x => x.term == v.term && x.voter == v.voter) then s
  else { s with group := { s.group with votes := s.group.votes ++ [v] } }

/-- Of two manifests, the one of the higher epoch, and for one epoch that of the higher term (R433). -/
def higherManifest (a b : Nat × Nat × Bytes) : Nat × Nat × Bytes :=
  if a.1 < b.1 ∨ a.1 = b.1 ∧ a.2.1 < b.2.1 then b else a

/-- A new anchor issues the awaited manifest again, or asks the next port for it; one that its own epoch does not reach yet waits
until the chip has caught up (R433). -/
def tryReissue (s : State) : State :=
  match s.group.reissue with
  | none => s
  | some (e, _, d) =>
    if nextSet s < e then s
    else match manifestOf s e with
      | some m => if sha256 m = d then reissueNow s m else fetchManifest s e
      | none => fetchManifest s e

/-- The chip becomes anchor of a term once it holds a quorum of VOTEs for it, and issues the highest manifest that they or its own
store report again before it closes any set (R433). -/
def tryElect (s : State) (term : Nat) : State :=
  let mine := s.group.votes.filter (fun v => v.term == term && v.candidate == ownMember s)
  if !inGroup s ∨ term ≤ s.group.term ∨ mine.length < quorum s then s
  else
    let s1 := { s with group := { s.group with term, anchor := ownMember s, votedTerm := max term s.group.votedTerm, issuing := [] } }
    let top := (mine.map (fun v => (fld v.body 16 8, fld v.body 24 4, slice v.body 32 32))).foldl higherManifest (heldManifest s1)
    if top.1 = 0 then s1 else tryReissue { s1 with group := { s1.group with reissue := some top } }

end Sys2Proof.Machine
end

