-- ==== Sys2Proof/Machine/Registering.lean ====
section
/-! DEFINITION. Registering and retiring tables, and what one listed splice changes (09_tables_epochs.md R273 to R277, R629 to
R633). -/

namespace Sys2Proof.Machine

/-! ### Extents (R199, R273, R594) -/

/-- A part of a table's or a reserved extent: DRAM rows in every active bank, or striped bytes; first and end. -/
inductive Region where
  | rows (a b : Nat)
  | bytes (a b : Nat)
  deriving DecidableEq, Repr

/-- Striped bytes of one DRAM row over all banks. -/
def rowStripe : Nat := 8 * 30 * 16 * 1024

/-- Two parts overlap; an empty range overlaps nothing. -/
def Region.meets : Region → Region → Bool
  | .rows a b, .rows c d => decide (a < d ∧ c < b)
  | .bytes a b, .bytes c d => decide (a < b ∧ c < d ∧ a < d ∧ c < b)
  | .rows a b, .bytes c d => decide (c < d ∧ a * rowStripe < d ∧ c < b * rowStripe)
  | .bytes c d, .rows a b => decide (c < d ∧ a * rowStripe < d ∧ c < b * rowStripe)

/-- It lies inside device memory. -/
def Region.inside : Region → Bool
  | .rows _ b => decide (b ≤ 49152)
  | .bytes _ b => decide (b ≤ dpaLimit)

/-- DRAM rows of one plane of a ROW table. -/
def planeRows (d : Bytes) : Nat := ((tCount d + 3839) / 3840 + 1024 / tSize d - 1) / (1024 / tSize d)

/-- The extent of a table. -/
def tableExtent (d : Bytes) : List Region :=
  .bytes (tMap d) (tMap d + mapBytes (tCount d))
  :: (if tKind d = 1 then [.rows (tBase d 0) (tBase d 0 + planeRows d), .rows (tBase d 1) (tBase d 1 + planeRows d)]
      else [.bytes (tData d) (tData d + tLen d)])

/-- The accord area: the last GiB below 180 GiB (20_registers.md). -/
def accordArea : Nat × Nat := (0x2CC0000000, 2 ^ 30)
/-- The ranges of HST_RESERVED_MAP: base and length in bytes (Table Reg-4). -/
def reservedMap (s : State) : List (Nat × Nat) :=
  [(rget s Reg.holdPoolBase * 2 ^ 30, rget s Reg.holdPoolSize * 2 ^ 30), (rget s Reg.arenaBase * 2 ^ 30, rget s Reg.arenaSize * 2 ^ 30),
   (rget s Reg.emdBase * 2 ^ 30, rget s Reg.emdSize * 2 ^ 30), accordArea]

/-- Every two parts of a list keep apart. -/
def apart : List Region → Bool
  | [] => true
  | x :: l => l.all (fun y => !x.meets y) && apart l

/-- Check 2 of R273. -/
def extentOkFor (s : State) (d : Bytes) : Bool :=
  let mine := tableExtent d
  let other := s.tables.flatMap (fun t => tableExtent t.desc) ++ (reservedMap s).map (fun r => .bytes r.1 (r.1 + r.2))
  mine.all (·.inside) && apart mine && mine.all (fun x => other.all (fun y => !x.meets y))

/-! ### Checks 1 and 3 (R633) -/

/-- The schemas of the current and previous accords agree with a descriptor. -/
def schemasAgree (s : State) (d : Bytes) : Bool :=
  [s.fe.accordCur, s.fe.accordPrev].all (fun a => (a.bind (fun a => schemaOf a (tHandle d))).all (fun x => x == unplaced d))

/-- The fields of a descriptor by themselves. -/
def descOk (d : Bytes) : Bool :=
  let log := fld d 5 1
  let n := tCount d
  let aligned (a : Nat) : Bool := decide (a % 256 = 0 ∧ a < dpaLimit)
  let noSeq := fld d 40 1 == 0 && fld d 44 4 == 0
  let noRow := zeroAt d 12 4
  d.length == 64 && tHandle d != 0 && decide (tOwner d < 128) && decide (1 ≤ n) && zeroAt d 6 2 && zeroAt d 41 3 && zeroAt d 48 16
  && aligned (tMap d)
  && (match tKind d with
      | 1 => inRange 6 10 log && (Fmt.ofCode (tFmt d)).isSome && noSeq && zeroAt d 24 16
      | 2 => log == 6 && (Fmt.ofCode (tFmt d)).isSome && noSeq && noRow && aligned (tData d) && decide (2 * tallyPlane n ≤ tLen d)
      | 3 => inRange 3 6 log && tFmt d == 0 && noRow && inRange 8 24 (fld d 40 1) && aligned (tData d)
             && decide (128 * n + 1024 * tPool d ≤ tLen d)
      | _ => false)

/-- Check 1: the fields, a free handle, the schemas, and a place among 4,096 tables (Table Tables-7). -/
def registerOk (s : State) (d : Bytes) : Bool :=
  descOk d && !s.tables.any (fun t => tHandle t.desc == tHandle d) && schemasAgree s d
  && decide ((s.tables.filter (fun t => t.retired.isNone)).length < 4096)

/-- Plane 0 holds a lost burst. -/
def planeLost (s : State) (d : Bytes) : Bool :=
  s.lostBursts.any (fun b => match tKind d with
    | 1 => let p := stripedLoc (32 * b); decide (tBase d 0 ≤ p.row ∧ p.row < tBase d 0 + planeRows d)
    | 2 => decide (tData d ≤ 32 * b ∧ 32 * b < tData d + tallyPlane (tCount d))
    | _ => false)

/-- Check 3: plane 0 has the content the splice names. -/
def contentOk (s : State) (d digest : Bytes) : Bool := !planeLost s d && sha256 (initialContent s d) == digest

/-! ### Writing a registration image (R453) -/

/-- Base-area segments an image takes. -/
def imageSegments (n : Nat) : Nat := (n + 2 ^ 30 - 1) / 2 ^ 30
/-- Base-area segments: 2 to 321. -/
def baseEnd : Nat := 322
/-- The first base segment from which an image of `n` bytes fits between the images kept. -/
def freeBase (s : State) (n : Nat) : Option Nat :=
  let used := s.jrn.images.map (fun i => (i.first, i.first + imageSegments i.bytes.length))
  (2 :: used.map (·.2)).find? (fun a => decide (a + imageSegments n ≤ baseEnd)
    && used.all (fun u => decide (a + imageSegments n ≤ u.1 ∨ u.2 ≤ a)))

/-- BASE-NOTE body. -/
def baseNoteBody (i : Image) : Bytes :=
  leBytes 8 i.epoch ++ i.head ++ sha256 i.bytes ++ leBytes 8 i.bytes.length ++ leBytes 4 i.first
  ++ leBytes 4 (if i.registration then 1 else 0) ++ leBytes 8 i.from_

/-- The serial of the open segment, or of the next one. -/
def openSerial (s : State) : Nat := ((openSegment s).map (·.serial)).getD s.jrn.serial

/-- The journal controller writes plane 0's initial content as a one-table image with its BASE-NOTE record (R453); none while the
base area has no room for it. -/
def registrationImage (s : State) (epoch : Nat) (head d : Bytes) : Option State :=
  let bytes := imageBytes epoch head (openSerial s) [readContent d (initialContent s d)] []
  (freeBase s bytes.length).map (fun first =>
    let i : Image := { first, epoch, head, from_ := openSerial s, bytes, registration := true }
    stageOwn (noteWear { s with jrn := { s.jrn with images := s.jrn.images ++ [i] } } bytes.length) [{ kind := 0x05, body := baseNoteBody i }])

/-! ### TABLE-REGISTER and TABLE-RETIRE (R273, R629, R632) -/

/-- The outcome of one listed splice. -/
inductive Applied where
  | done (s : State)
  | refused (s : State)
  /-- It waits for a line that is being rebuilt, for a near-bank step, or for room in the base area. -/
  | waits

/-- TABLE-INVALID. -/
def tableInvalid (s : State) (h : Nat) : State := logErr s Err.tableInvalid noTenant h 0

/-- Flush the write-combining entries inside a table's extent. -/
def flushTable (s : State) (d : Bytes) : State :=
  (List.range 8).foldl (fun s i => flushWhere s i (fun w => inTable d (256 * w.line))) s

/-- Zero `n` bytes from a striped address: no byte of the range stays listed. -/
def zeroRange (s : State) (a n : Nat) : State :=
  { s with mem := s.mem.filter (fun p => decide (p.1 < a ∨ a + n ≤ p.1)),
           lostBursts := s.lostBursts.filter (fun b => decide (32 * b < a ∨ a + n < 32 * b + 32)) }

/-- Apply a TABLE-REGISTER at the boundary into an epoch. A member whose loaded bytes fail check 3 registers the table without them,
stops admitting, and takes its lines from a replica once the boundary is over (R273, log 94). -/
def applyRegister (s : State) (epoch : Nat) (head b : Bytes) : Applied :=
  let d := slice b 24 64
  let digest := slice b 88 32
  if !registerOk s d ∨ !extentOkFor s d then .refused (tableInvalid s (tHandle d))
  else
    let s1 := flushTable s d
    if contentOk s1 d digest then
      let t : Table := { desc := d, since := epoch, retired := none, young := [], pending := [], subjects := [], lost := false }
      let s2 := zeroRange s1 (tMap d) (mapBytes (tCount d))
      (registrationImage { s2 with tables := s2.tables ++ [t] } epoch head d).elim .waits .done
    else if inGroup s1 then
      let t : Table := { desc := d, since := epoch, retired := none, young := [], pending := [], subjects := [], lost := true }
      let s2 := zeroRange (stopAdmit (tableInvalid s1 (tHandle d)) stopTable) (tMap d) (mapBytes (tCount d))
      .done { s2 with tables := s2.tables ++ [t], group := { s2.group with resync := sadd s2.group.resync (tHandle d) } }
    else .refused (tableInvalid s1 (tHandle d))

/-- The table that a handle names as step 5 reaches a splice. -/
def standing (s : State) (h : Nat) : Option Table := s.tables.find? (fun t => tHandle t.desc == h && t.retired.isNone)
/-- Change it. -/
def modStanding (s : State) (h : Nat) (f : Table → Table) : State :=
  { s with tables := updFirst (fun t => tHandle t.desc == h && t.retired.isNone) f s.tables }

/-- Apply a TABLE-RETIRE: the table is gone for launches of the new epoch (R632). -/
def applyRetire (s : State) (epoch : Nat) (b : Bytes) : Applied :=
  if (standing s (fld b 0 2)).isSome then .done (modStanding s (fld b 0 2) (fun t => { t with retired := some epoch })) else .refused s

/-! ### Row, cell and sequence splices (R275, R277, R629) -/

/-- The plane a splice of the set reads element r from, and the plane it writes (R275). -/
def applyPlanes (s : State) (t : Table) (r : Nat) : Nat × Nat :=
  let p := planeBit s t.desc r
  (if smem t.pending r then 1 - p else p, 1 - p)

/-- Bytes written over whole bursts are lost no longer (R625). -/
def writeClear (s : State) (a : Nat) (b : Bytes) : State :=
  let s1 := memWrite s a b
  { s1 with lostBursts := s1.lostBursts.filter (fun x => decide (32 * x < a ∨ a + b.length < 32 * x + 32)) }

/-- Lines that applying a splice to an element reads and that hold a lost burst (R290, R631). -/
def applyLost (s : State) (t : Table) (r : Nat) : List Nat :=
  let src := (applyPlanes s t r).1
  runLost s (tMap t.desc + r / 8) 1
  ++ (match tKind t.desc with
      | 1 => (rowRuns t.desc src r).flatMap (fun x => runLost s x.1 x.2)
      | 2 => runLost s (cellAddr t.desc src r) 64
      | _ => [])

/-- Mark an element as touched by the set. -/
def touch (s : State) (h r : Nat) : State := modStanding s h (fun t => { t with pending := sadd t.pending r })

/-- A new row version. -/
def applyRow (s : State) (t : Table) (b : Bytes) : State :=
  let r := bIndex b
  let pl := applyPlanes s t r
  let new := newRow t.desc b (planeRow s t.desc pl.1 r)
  let s1 := ((rowRuns t.desc pl.2 r).zip (List.range 4)).foldl (fun s x => writeClear s x.1.1 (slice new (256 * x.2) x.1.2)) s
  touch s1 (tHandle t.desc) r

/-- One addend into one cell. -/
def applyCell (s : State) (t : Table) (r : Nat) (v : Val) : State :=
  let pl := applyPlanes s t r
  touch (writeClear s (cellAddr t.desc pl.2 r) (leBytes 64 (cellAdd (planeCell s t.desc pl.1 r) v))) (tHandle t.desc) r

/-- A TALLY-ADD: its addends in order. -/
def applyTally (s : State) (h : Nat) (b : Bytes) : State :=
  (List.range (bCount b)).foldl (fun s i => match standing s h with
    | some t => applyCell s t (bIndex b + i) (bAddend b i)
    | none => s) s

/-- A SEQ-APPEND. -/
def applySeq (s : State) (t : Table) (b : Bytes) : State :=
  let r := bIndex b
  let pl := applyPlanes s t r
  let sub := nget Subject.empty t.subjects r
  let v := newSeq t.desc b (if pl.1 = 0 then sub.p0 else sub.p1)
  let sub' := if pl.2 = 0 then { sub with p0 := v } else { sub with p1 := v }
  let s1 := modStanding s (tHandle t.desc) (fun t =>
    { t with subjects := nput Subject.empty t.subjects r { sub' with inSet := sub.inSet + bCount b } })
  touch s1 (tHandle t.desc) r

/-- A SEQ-APPEND is refused: too many events in one set, or no free segment (R277; log 12). -/
def seqRefused (s : State) (t : Table) (b : Bytes) : Bool :=
  decide (65536 < (nget Subject.empty t.subjects (bIndex b)).inSet + bCount b) || Config.segmentPoolEmpty (tHandle t.desc) s.free

/-- Elements a body names. -/
def bodyElements (b : Bytes) : List Nat := if bKind b = 4 then (List.range (bCount b)).map (bIndex b + ·) else [bIndex b]

/-- The banks that a splice works in are free, and its row pair finds a place among the computing banks (R229, R232 to R234). -/
def applyFits (s : State) (t : Table) (b : Bytes) : Bool :=
  linesFree s (mapLines t.desc (bodyElements b))
  && (match tKind t.desc with
      | 1 => let p := rowLoc (tSize t.desc) (tBase t.desc 0) (bIndex b); stepFits s p.stack p.lpc p.bank false
      | 2 => linesFree s ((bodyElements b).flatMap (fun r => [cellAddr t.desc 0 r / 256, cellAddr t.desc 1 r / 256]))
      | _ => linesFree s (Config.subjectLines t.desc (bIndex b)))

/-- Apply one row, cell or sequence splice; a table whose rebuild has failed takes none of its bytes on (R224, log 40). -/
def applyData (s : State) (b : Bytes) : Applied :=
  match standing s (fld b 0 2) with
  | none => .refused s
  | some t =>
    if !spliceFits t.desc b then .refused s
    else if t.lost then .done ((bodyElements b).foldl (fun s r => touch s (fld b 0 2) r) s)
    else if (bodyElements b).any (fun r => !(applyLost s t r).isEmpty) || !applyFits s t b then .waits
    else match bKind b with
      | 4 => .done (applyTally s (fld b 0 2) b)
      | 5 =>
        let s1 := { s with free := s.free + 1 }
        if seqRefused s t b then .refused s1 else .done (applySeq s1 t b)
      | _ => .done (applyRow s t b)

/-- Flush the write-combining entries of the lines a body touches (Table Tables-5 step 5). -/
def flushTouched (s : State) (b : Bytes) : State :=
  match standing s (fld b 0 2) with
  | none => s
  | some t =>
    let runs := (bodyElements b).flatMap (fun r => match tKind t.desc with
      | 1 => rowRuns t.desc 0 r ++ rowRuns t.desc 1 r
      | 2 => [(cellAddr t.desc 0 r, 64), (cellAddr t.desc 1 r, 64)]
      | _ => [])
    runs.foldl (fun s x => flushLine s (x.1 / 256)) s

end Sys2Proof.Machine
end

