-- ==== Sys2Proof/Machine/Boundary.lean ====
section
/-! DEFINITION. The splice sequencer, the epoch boundary, and table commands (09_tables_epochs.md R274 to R291, R629 to R633). -/

namespace Sys2Proof.Machine

/-! ### The splice sequencer (R267, R285, R417) -/

/-- Sequence the front splice: its ID, its SPLICE record, and for a table-control splice its seizing at once (R273). -/
def sequence (s : State) (q : Queued) (rest : List Queued) : State :=
  let id := nextSpliceId s
  let s1 := { s with fe := { s.fe with queue := rest, counter := s.fe.counter + 1 } }
  let r : JrnRecord := { kind := 0x01, body := spliceRecord id q.body }
  if q.launch = 0 then
    stageOwn { s1 with fe := { s1.fe with tableSplice := some id } } (r :: stateRecords [id] 1)
  else
    let s2 := modX s1 q.launch q.ex (fun x => { x with splices := updAt (fun e => { e with id := some id }) x.splices q.index })
    stageOwn (modL s2 q.launch (fun l => { l with ids := l.ids ++ [id] })) [r]

/-- SPLICE_SEQUENCE: the front of the splice queue leaves it once the journal takes its record; it waits while other writes
wait (R53). -/
def execSpliceSequence (s : State) : Result :=
  .next (match s.fe.queue with
    | [] => s
    | q :: rest =>
      let w : JrnWrite := { recs := [{ kind := 0x01, body := spliceRecord (nextSpliceId s) q.body }], frame := none }
      if !s.jrn.waiting.isEmpty ∨ (0 < s.jrn.covered.toNat ∧ !acceptable s w) then s else sequence s q rest)

/-! ### Step 1: the close (R423, R424, R429) -/

/-- Splices a set may list. -/
def setLimit : Nat := 1048576

/-- The splices a close lists: durable, seized, unlisted, in ascending ID. -/
def closable (s : State) : List SpliceRec :=
  (s.group.known.filter (fun r => r.body.isSome && r.state == 1 && !r.listed && !r.applied)).take setLimit

/-- The manifest of a close. -/
def closeManifest (s : State) : Bytes :=
  let l := closable s
  let present := ((presentMembers s).map (2 ^ ·)).foldl (· + ·) 0
  manifestBytes (s.fe.epoch.toNat + 1) (termNow s) (ownMember s) present (swapToName s) (bodiesDigest (l.filterMap (·.body)))
    (l.map (·.id))

/-- Boundaries take place: the epoch sequencer is loaded, the chip stands with its group and owes no swap, no table waits to be
rebuilt. -/
def mayClose (s : State) : Bool :=
  inRange 5 6 s.glb.phase.toNat && s.boundary.isNone && s.group.manifest.isEmpty && s.group.issuing.isEmpty && s.group.reissue.isNone
  && s.group.behind == 0 && s.group.owedSwap.isNone
  && !smem s.glb.stopped stopRebuild && s.fe.hang.isNone && !s.jrn.powerFail

/-- The last epoch. -/
def lastEpoch : Nat := 2 ^ 64 - 1

/-- ANCHOR_CLOSE. A new anchor that still lacks the manifest it has to issue again asks the next port for it (R433). -/
def execAnchorClose (s : State) : Result :=
  .next (if inGroup s ∧ isAnchor s ∧ s.group.reissue.isSome then tryReissue s
    else if !isAnchor s ∨ !mayClose s ∨ s.clk.elapsed < s.group.closeDue then s
    else
      let s1 := { s with group := { s.group with closeDue := s.clk.elapsed + 1000 * rget s Reg.epochPeriod } }
      if s.fe.epoch.toNat = lastEpoch then
        (if smem s.glb.stopped stopEpoch then s1 else logErr (stopAdmit s1 stopEpoch) Err.epochExhausted noTenant 0 0)
      else issueManifest s1 (closeManifest s1))

/-! ### Steps 2 to 4 -/

/-- Change the boundary in progress. -/
def modB (s : State) (f : Boundary → Boundary) : State := { s with boundary := s.boundary.map f }

/-- The bodies of a list of IDs, as far as the chip holds them. -/
def bodiesOf (s : State) (ids : List Nat) : List Bytes := ids.filterMap (fun id => (findSplice s id).bind (·.body))

/-- Every listed body is durable and M checks: step 2 can end. -/
def gathered (s : State) (b : Boundary) : Bool :=
  decide ((bodiesOf s b.ids).length = b.ids.length) && bodiesDigest (bodiesOf s b.ids) == manM b.manifest

/-- Ask the next port for the bodies the set lacks; a whole set that fails M is dropped first (R427). -/
def askBodies (s : State) (b : Boundary) : State :=
  let s1 := if (bodiesOf s b.ids).length = b.ids.length then
              b.ids.foldl (fun s id => modSplice s id (fun r => { r with body := none })) s
            else s
  fetchBodies (modB s1 (fun b => { b with asked := b.asked + 1 })) (lacking s1 b.ids)

/-- BOUNDARY_GATHER_DONE: every listed body is durable and M checks. Bodies that fail M are dropped and fetched again, from one port
after another; a port that left some out has had its turn (R427, log 39). -/
def execBoundaryGatherDone (s : State) : Result :=
  .next (match s.boundary with
    | none => s
    | some b =>
      if b.step ≠ .gather then s
      else if gathered s b then modB s (fun b => { b with step := .drain })
      else if (bodiesOf s b.ids).length = b.ids.length ∨ 0 < b.asked then askBodies s b
      else s)

/-- Flip the plane bit of an element. -/
def flipPlane (s : State) (d : Bytes) (r : Nat) : State :=
  let a := tMap d + r / 8
  memWrite s a (((memRead s a 1).map (fun v => v ^^^ BitVec.ofNat 8 (2 ^ (r % 8)))))

/-- Step 4: fold the young set of each table, and forget the appends of the last set. -/
def fold (s : State) : State :=
  let s1 := s.tables.foldl (fun s t => t.young.foldl (fun s r => flipPlane s t.desc r) s) s
  { s1 with tables := s1.tables.map (fun t =>
      { t with young := [], pending := [], subjects := nmap Subject.empty (fun q => { q with inSet := 0 }) t.subjects }) }

/-- A plane-map line that the fold needs is lost and may still be rebuilt (R631). -/
def foldLost (s : State) : Bool :=
  s.tables.any (fun t => !t.lost && t.young.any (fun r => !(runLost s (tMap t.desc + r / 8) 1).isEmpty))
/-- A bank that the fold reaches is in the middle of a near-bank step (R229). -/
def foldBusy (s : State) : Bool := s.tables.any (fun t => !linesFree s (mapLines t.desc t.young))

/-! ### Steps 5 to 7 -/

/-- Every table that an accord's schemas name is registered for the new epoch as they describe it (R282). -/
def schemasStand (s : State) (a : Accord) : Bool :=
  (schemas a).all (fun d => (standing s (tHandle d)).any (fun t => unplaced t.desc == d))

/-- The accord that a boundary swaps in: staged as named, its tables registered. -/
def swapIn (s : State) (b : Boundary) : Option Accord :=
  match b.swap, s.fe.accordStaged with
  | some (id, digest), some a => if a.id = id ∧ a.digest = digest ∧ schemasStand s a then some a else none
  | _, _ => none

/-- BOUNDARY body (Table Sillage-3). -/
def boundaryBody (s : State) (b : Boundary) (head : Bytes) : Bytes :=
  let acc := match swapIn s b with
    | some a => a.id
    | none => (s.fe.accordCur.map (·.id)).getD 0
  leBytes 8 (s.fe.epoch.toNat + 1) ++ head ++ sha256 b.manifest ++ leBytes 8 (s.fe.nextId.toNat - 1) ++ leBytes 4 acc
  ++ leBytes 4 b.refused.length ++ leBytes 8 s.clk.time.toNat ++ leBytes 8 s.fe.counter ++ b.refused.flatMap (leBytes 4)

/-- H(C + 1) of a boundary. -/
def nextHead (s : State) (b : Boundary) : Bytes := chainHead (s.fe.epoch.toNat + 1) s.fe.head (manM b.manifest)

/-- Step 6, once every listed splice has been applied, and step 7: the BOUNDARY record goes to the journal. -/
def commitIfDone (s : State) : State :=
  match s.boundary with
  | none => s
  | some b =>
    if b.step ≠ .apply ∨ b.position < b.ids.length then s
    else stageOwn (modB s (fun b => { b with step := .record })) [{ kind := 0x04, body := boundaryBody s b (nextHead s b) }]

/-- A launch bound to an epoch is still there: it has not ended, or its seal names that epoch's accord. -/
def boundTo (s : State) (epoch : Nat) : Bool := s.launches.any (fun l => l.epoch == epoch && l.stage != .finished)

/-- BOUNDARY_DRAIN_DONE: no launch bound to C − 1 remains, and no snapshot still reads it (R466); the extents of tables
retired at C are free (R632); the fold follows. -/
def execBoundaryDrainDone (s : State) : Result :=
  .next (match s.boundary with
    | none => s
    | some b =>
      let c := s.fe.epoch.toNat
      if b.step ≠ .drain ∨ boundTo s (c - 1) ∧ 0 < c ∨ s.jrn.drydown.any (fun d => d.2 && decide (d.1 < c)) ∨ foldLost s ∨ foldBusy s then s
      else
        let s1 := fold { s with tables := s.tables.filter (fun t => t.retired.all (fun e => decide (c < e))) }
        commitIfDone (modB s1 (fun b => { b with step := .apply, position := 0, refused := [] })))

/-- FE_TABLE_CTRL.STATE for the table-control splice that tenant 0 asked for here (R629). -/
def settleTable (s : State) (id code : Nat) : State :=
  if s.fe.tableSplice = some id then { s with fe := { s.fe with tableState := code, tableSplice := none } } else s

/-- The next splice of the set. -/
def nextPosition (s : State) (id : Nat) (refused : Bool) : State :=
  settleTable (modB s (fun b => { b with position := b.position + 1, refused := if refused then b.refused ++ [b.position] else b.refused }))
    id (if refused then 3 else 2)

/-- A body applied at the boundary into an epoch. -/
def applyOne (s : State) (b : Boundary) (body : Bytes) : Applied :=
  let epoch := s.fe.epoch.toNat + 1
  match bKind body with
  | 0x10 => applyRegister s epoch (nextHead s b) body
  | 0x11 => applyRetire s epoch body
  | _ => applyData s body

/-- The next listed splice takes effect or is refused (R275, R277, R629). -/
def applyNext (s : State) : State :=
  match s.boundary with
  | none => s
  | some b => match b.step, b.ids[b.position]? with
    | .apply, some id => match (findSplice s id).bind (·.body) with
      | none => s
      | some body => match applyOne (flushTouched s body) b body with
        | .waits => s
        | .done s1 => commitIfDone (nextPosition s1 id false)
        | .refused s1 =>
          let seq := bKind body == 5 && (standing s1 (fld body 0 2)).any (fun t => spliceFits t.desc body)
          commitIfDone (nextPosition (logErr s1 (if seq then Err.seqRefused else Err.spliceRefused) noTenant id b.position) id true)
    | _, _ => s

/-- SPLICE_APPLY. -/
def execSpliceApply (s : State) : Result := .next (applyNext s)

/-! ### Steps 8 and 9 -/

/-- A chip that is in no group any more ends its ports' sessions: they carry no replication traffic (R394). -/
def leavePorts (s : State) : State := if inGroup s then s else (List.range 8).foldl portRetrain s

/-- Rotate the slots: the staged accord becomes current (R282), and the row cache takes its keep ways (R201). A new group generation
starts a new numbering (R396). -/
def rotate (s : State) (a : Accord) : State :=
  let gen := groupGen s
  let areas := (s.fe.areas.2.2, s.fe.areas.1, s.fe.areas.2.1)
  let s1 := { s with fe := { s.fe with accordPrev := s.fe.accordCur, accordCur := some a, accordStaged := none, stageState := 0, areas } }
  let s2 := stageOwn (writeStore (resizeCaches s1)) [accordRecord a 2]
  leavePorts (if groupGen s2 = gen then s2 else enterGroup { s2 with fe := { s2.fe with counter := 0 } })

/-- The staged accord is refused at a swap, as on every replica alike (R282). -/
def refuseSwap (s : State) (id : Nat) : State :=
  logErr (writeStore { s with fe := { s.fe with accordStaged := none, stageState := 3 } }) Err.accordInvalid noTenant id otherCheck

/-- Step 8's swap: made, refused alike on every replica (R282), or owed because the staged slot holds another accord (R630). -/
def doSwap (s : State) (b : Boundary) : State :=
  match b.swap, swapIn s b with
  | none, _ => s
  | some _, some a => rotate s a
  | some (id, digest), none =>
    if s.fe.accordStaged.any (fun a => a.id == id && a.digest == digest) then refuseSwap s id
    else
      fallBehind (logErr { s with group := { s.group with owedSwap := some (id, digest) } } Err.accordInvalid noTenant id otherCheck)
        s.fe.epoch.toNat

/-- A good physical skein of a section that carries no logical number (R498). -/
def spareSkein (s : State) (sec : Nat) : Option Nat :=
  ((List.range 17).map (17 * sec + ·)).find? (fun p => !s.weave.lsm.contains p && !smem s.defects.skeins p)

/-- One retired logical number goes to a spare skein of its section, or is absent from then on (R45, R498). An execution that still
runs under the number runs on to its end (log 31). -/
def relabel (s : State) (k : Nat) : State :=
  let q := getK s k
  if q.mode ≠ .retiring then s
  else
    let p := spareSkein s (k / 16)
    let s1 := modK s k (fun q => { q with mode := if p.isSome then .good else .absent, events := 0,
                                          resident := if q.queue.isEmpty then none else q.resident })
    { s1 with weave := { s1.weave with lsm := updAt (fun _ => p.getD 0xFF) s1.weave.lsm k,
                                       retire := s1.weave.retire &&& ~~~(BitVec.twoPow 128 k) } }

/-- Pairs of sites whose route crosses a link change over (R63): 160 × a + b. -/
def swappedPairs (links : NSet) (swapped : NSet) : NSet :=
  (List.range 160).foldl (fun w a => (List.range 160).foldl (fun w b =>
    let now := if smem w (160 * a + b) then routeYX a b else routeXY a b
    if now.any (smem links) then (if smem w (160 * a + b) then sdel w (160 * a + b) else sadd w (160 * a + b)) else w) w) swapped

/-- Step 8's other changes. -/
def stepEight (s : State) (b : Boundary) : State :=
  let s1 := (List.range 128).foldl relabel (doSwap s b)
  if s1.weave.pendingSwap.isEmpty then s1
  else { s1 with weave := { s1.weave with pendingSwap := [], swapped := swappedPairs s1.weave.pendingSwap s1.weave.swapped } }

/-- Ask a replica for every line of the tables that are resynchronised, in the version of the chip's epoch (R273, R288). -/
def askResync (s : State) : State :=
  let lines := ((s.tables.filter (fun t => s.group.resync.contains (tHandle t.desc))).flatMap (fun t => tableLines t.desc)).eraseDups
  if s.group.resync.isEmpty ∨ lines.isEmpty then s
  else sendFetch { s with group := { s.group with lines, fetches := [] } } 2 s.fe.epoch.toNat lines

/-- Step 9: admission binds to C + 1; the pending sets become young; the members report (R57, R276, R428). -/
def cutOver (s : State) (b : Boundary) (head : Bytes) : State :=
  let tables := s.tables.map (fun t => { t with young := t.pending, pending := [] })
  let group := { s.group with applied := sha256 (manCore b.manifest) }
  let s3 := { s with fe := { s.fe with epoch := s.fe.epoch + 1, head }, boundary := none, tables, group }
  let s4 := flood (putReport s3 (ownMember s3) (reportBody s3)) 8 0x06 (ownMember s3) (reportBody s3)
  tryReissue (catchUp (maybeBegin (rejoin (checkHead (askResync (msix s4 0 3))))))

/-- The BOUNDARY record of the boundary in progress is durable, and so are the registration images of its set (R453). -/
def recordDone (s : State) : Bool := s.jrn.waiting.all (fun w => w.recs.all (fun r => r.kind != 0x04 && r.kind != 0x05))

/-- Steps 8 and 9, once the record is durable. -/
def closeBoundary (s : State) : State :=
  match s.boundary with
  | none => s
  | some b =>
    if b.step ≠ .record ∨ !recordDone s then s
    else
      let head := nextHead s b
      cutOver (stepEight (markApplied s b.ids) b) b head

/-- BOUNDARY_RECORD_DURABLE. -/
def execBoundaryRecordDurable (s : State) : Result := .next (closeBoundary s)

/-- BOUNDARY_LIMIT_EXPIRY: step 2 has lasted FE_BOUNDARY_LIMIT and the chip still lacks a listed body, or M fails (R288, R427). -/
def execBoundaryLimitExpiry (s : State) : Result :=
  .next (match s.boundary with
    | none => s
    | some b =>
      if b.step ≠ .gather ∨ gathered s b ∨ s.clk.elapsed < b.due then s
      else askBodies (fallBehind s (manEpoch b.manifest)) b)

/-! ### Table commands (R273, R281) -/

/-- Queue a table-control splice; a full queue holds it up (R56), and a command while another is QUEUED is ignored (R591). -/
def queueTable (s : State) (body : Bytes) : State :=
  if spliceQueueLimit ≤ s.fe.queue.length ∨ s.fe.tableState = 1 then s
  else { s with fe := { s.fe with queue := s.fe.queue ++ [{ launch := 0, ex := 0, index := 0, body }], tableState := 1 } }

/-- A table-control body: handle, kind and payload. -/
def controlBody (handle kind : Nat) (payload : Bytes) : Bytes :=
  leBytes 2 handle ++ leBytes 1 kind ++ zeros 1 ++ leBytes 4 payload.length ++ zeros 16 ++ payload

/-- TABLE_CTRL_REGISTER. A read of the block that fails leaves the request INVALID (log 41). -/
def execTableCtrlRegister (block : HostRead) (s : State) : Result :=
  .next (match block with
    | .data b => queueTable s (controlBody (fld b 0 2) 0x10 (fit 96 b))
    | _ => if s.fe.tableState = 1 then s else { s with fe := { s.fe with tableState := 3 } })

/-- TABLE_CTRL_RETIRE of FE_TABLE_CTRL.HANDLE. -/
def execTableCtrlRetire (s : State) : Result := .next (queueTable s (controlBody (rget s Reg.tableHandle) 0x11 []))

end Sys2Proof.Machine
end

