-- ==== Sys2Proof/Machine/Completion.lean ====
section
/-! DEFINITION. Seals, OUTCOME records, completion records and interrupts (01_replay_contract.md, 11_submission.md,
14_sillage.md R445). -/

namespace Sys2Proof.Machine

/-! ### Forming the seal (R18, R40, R345, R477) -/

/-- The bytes of output buffer `i` that the copy of the outputs writes from one cursor up to another. -/
def copyPart (l : Launch) (from_ upTo : Nat × Nat) (i : Nat) : Nat × Nat :=
  let len := (dOutput l.desc i).2
  (if i < from_.1 then len else if i = from_.1 then from_.2 else 0, if i < upTo.1 then len else if i = upTo.1 then min upTo.2 len else 0)

/-- The output buffers of the sealed execution as they go to the host, from one cursor up to another: this covers R477 and the
zeros of R312; a primary's bytes already there are written again with the same values (log 33). -/
def writeOutputs (s : State) (l : Launch) (x : Exec) (from_ upTo : Nat × Nat) : State :=
  (List.range (dOutputs l.desc)).foldl (fun s i =>
    let r := copyPart l from_ upTo i
    if r.1 < r.2 then writeHost s l.tenant ((dOutput l.desc i).1 + r.1) (shadowRead x i r.1 (r.2 - r.1)) else s) s

/-- The copy of a launch's outputs waits for a page. -/
def copyParked (s : State) (launch : Nat) : Bool :=
  s.hst.requests.any (fun r => r.launch == launch && !r.dead && (match r.what with | .copy _ _ => true | _ => false))

/-- The copy meets a page fault or a failed access at a byte of an output that it has not written. -/
def copyStops (l : Launch) (buf off : Nat) : Bool :=
  decide (buf < dOutputs l.desc ∧ off < (dOutput l.desc buf).2 ∧ (l.copied.1 < buf ∨ l.copied.1 = buf ∧ l.copied.2 ≤ off))

/-- SEAL_FORM: the outputs go to the host's buffers; once every byte is there (R40) and a completion entry is reserved, the seal is
formed. A page fault parks the copy at its cursor (R317), and a failed access ends the launch PARTIAL (R318). -/
def execSealForm (work : SealWork) (s : State) : Result :=
  .next (let launch := work.launch
    let copy := work.copy
    match findL s launch with
    | none => s
    | some l => match l.stage with
      | .decided e => match getX l e with
        | none => s
        | some x =>
          if !cqFree s l.tenant ∨ s.fe.hang.isSome ∨ copyParked s launch then s
          else match copy with
            | .done =>
              let s1 := modT (writeOutputs s l x l.copied (dOutputs l.desc, 0)) l.tenant (fun t => { t with reserved := sadd t.reserved launch })
              modL s1 launch (fun l => { l with stage := .sealed e, digestSeal := sha256 (sealedMessage l x) })
            | .notPresent buf off =>
              if !copyStops l buf off then s
              else
                let s1 := modL (writeOutputs s l x l.copied (buf, off)) launch (fun l => { l with copied := (buf, off) })
                park s1 l.tenant launch (.copy buf off) ((dOutput l.desc buf).1 + off)
            | .failed buf off =>
              if !copyStops l buf off then s
              else failTransfer (writeOutputs s l x l.copied (buf, off)) launch (.copy buf off)
      | _ => s)

/-! ### The OUTCOME write (R445, R478) -/

/-- OUTCOME body (Table Sillage-2). -/
def outcomeBody (l : Launch) : Bytes :=
  leBytes 1 l.tenant ++ leBytes 1 l.ring ++ zeros 2 ++ leBytes 4 l.seq.toNat ++ leBytes 8 (dTag l.desc) ++ leBytes 8 l.id
  ++ l.digestSeal

/-- The sealed execution of a launch whose seal is formed. -/
def sealedExec (l : Launch) : Option (Nat × Exec) :=
  match l.stage with
  | .sealed e => (getX l e).map (fun x => (e, x))
  | _ => none

/-- Give new splice IDs to the bodies that a sealed re-execution kept (R38, R478). -/
def numberSplices (s : State) (launch ex : Nat) : State :=
  match (findL s launch).bind (fun l => getX l ex) with
  | none => s
  | some x =>
    let base := nextSpliceId s
    let given := (x.splices.zip (List.range x.splices.length)).map (fun p => { p.1 with id := some (base + p.2) })
    let s1 := modX { s with fe := { s.fe with counter := s.fe.counter + x.splices.length } } launch ex (fun x => { x with splices := given })
    modL s1 launch (fun l => { l with ids := l.ids ++ given.filterMap (·.id) })

/-- The records of one OUTCOME write: the bodies a re-execution kept, the seizings, and the OUTCOME. -/
def outcomeRecords (l : Launch) (x : Exec) : List JrnRecord :=
  let ids := x.splices.filterMap (·.id)
  (if x.role = .primary then [] else x.splices.map (fun e => { kind := 0x01, body := spliceRecord (e.id.getD 0) e.body }))
  ++ stateRecords ids 1 ++ [{ kind := 0x0A, body := outcomeBody l }]

/-- A sealed launch writes no OUTCOME record: it emitted no splice, or is a replay, whose splices are discarded (R39). -/
def noOutcome (l : Launch) (x : Exec) : Bool := x.splices.isEmpty || dIsReplay l.desc

/-- The OUTCOME write of a launch; splices of a primary must all have been sequenced, and a rejecting verdict seizes none. No
such write is staged once a power-fail warning has come (R446). -/
def stageOutcome (s : State) (launch : Nat) : State :=
  match findL s launch with
  | none => s
  | some l => match sealedExec l with
    | none => s
    | some (e, x) =>
      if noOutcome l x then modL s launch (fun l => { l with stage := .outcome e })
      else if s.jrn.powerFail then s
      else if rejects x then stageOwn s [{ kind := 0x0A, body := outcomeBody l }]
      else if x.role = .primary ∧ x.splices.any (fun q => q.id.isNone) then s
      else
        let s1 := if x.role = .primary then s else numberSplices s launch e
        match (findL s1 launch).bind (fun l => getX l e) with
        | none => s1
        | some x => stageOwn s1 (outcomeRecords l x)

/-- An OUTCOME record of this launch already waits for the journal. -/
def outcomeWaiting (s : State) (launch : Nat) : Bool :=
  (s.jrn.waiting.flatMap (·.recs)).any (fun r => r.kind == 0x0A && fld r.body 16 8 == launch)

/-- OUTCOME_STAGE. -/
def execOutcomeStage (launch : Nat) (s : State) : Result :=
  .next (if outcomeWaiting s launch then s else stageOutcome s launch)

/-! ### Completion records (R342 to R344, R25) -/

/-- Bytes 0 to 7 of a record. -/
def recordHead (s : State) (seq : BitVec 32) (status bits : Nat) : Bytes :=
  leBytes 4 seq.toNat ++ leBytes 2 status ++ leBytes 2 (bits + 16 * s.clk.quality.toNat)

/-- Bytes 8 to 255 of a record with a seal, written at the present device time, signed as the accord says that the launch was
bound to (R25, R32). -/
def sealedBody (s : State) (l : Launch) (x : Exec) : Bytes × Bool :=
  let n := sealNames l
  let a := l.accord
  let time := leBytes 8 s.clk.time.toNat
  let signed_ := bit (fld (section_ a 0x20) 64 4) 0
  let sig := if signed_ then ecSign (beNat (slice (section_ a 0x20) 72 48)) (l.digestSeal ++ leBytes 8 l.id ++ time) else zeros 96
  (leBytes 8 l.id ++ leBytes 8 (dTag l.desc) ++ leBytes 1 l.ring ++ zeros 1 ++ zeros 2 ++ leBytes 4 l.seq.toNat
   ++ leBytes 8 n.2.1 ++ leBytes 4 n.1 ++ leBytes 4 x.flags.toNat ++ leBytes 4 x.verdict ++ zeros 4 ++ time ++ l.digestSeal
   ++ fit 32 n.2.2 ++ sig ++ zeros 32, signed_)

/-- Write one record at the completion ring's next entry, or lose it (R356), without relaxed ordering (R344): the launch's in-flight
entry is freed (R54). A message that reports it follows it (R377). -/
def putRecord (s : State) (t status bits launch : Nat) (body : Bytes) (irq alert written : Bool) : State :=
  let c := getT s t
  let addr := c.cqBase + 256 * (c.cqNext.toNat % c.cqSize)
  let s0 := translate s t addr 256 true
  let s1 := if written then countEvent (emit s0 (.record (hostReq s t addr false) body (recordHead s c.cqNext status bits))) 3 1
            else logErr s0 Err.completionLost t launch status
  let s2 := modT s1 t (fun c => { c with cqNext := if written then c.cqNext + 1 else c.cqNext, reserved := sdel c.reserved launch,
                                         owed := c.owed || (irq && written) })
  let s3 := { s2 with launches := s2.launches.filter (fun l => launch == 0 || l.id != launch) }
  if alert then msix s3 t 1 else s3

/-- A SPLICE or STATE record of some splice IDs waits for the journal: the splice is not yet durable, or its seizing or recall
is not (R272). -/
def recordsWait (s : State) (ids : List Nat) : Bool :=
  (s.jrn.waiting.flatMap (·.recs)).any (fun r =>
    r.kind == 0x01 && ids.contains (fld r.body 0 8)
    || r.kind == 0x02 && (chunksOf 16 r.body).any (fun e => ids.contains (fld e 0 8)))

/-- The launch of a tenant whose sealed record is due first; its splices are all settled (R272, R345). -/
def sealedDue (s : State) (t : Nat) : Option (Launch × Exec) :=
  s.launches.findSome? (fun l => if l.tenant ≠ t ∨ recordsWait s l.ids then none else match l.stage with
    | .outcome e => (getX l e).map (fun x => (l, x))
    | _ => none)

/-- Write the tenant's next record: a sealed one into the entry it reserved, or the first unsealed one whose splices are settled
(R272) into a free entry. -/
def writeNext (s : State) (t : Nat) (written : Bool) : State :=
  match sealedDue s t with
  | some (l, x) =>
    let b := sealedBody s l x
    let bits := (if l.reexecuted then 1 else 0) + (if b.2 then 2 else 0) + (if l.audited then 4 else 0)
    putRecord (releaseLedger s l.id) t (if rejects x then Status.rejected else Status.success) bits l.id b.1 (dIrq l.desc) false written
  | none => match (getT s t).finished.find? (fun r => !recordsWait s r.ids) with
    | none => s
    | some r =>
      if !cqFree s t then s
      else
        let body := r.body.take 48 ++ leBytes 8 s.clk.time.toNat ++ r.body.drop 56
        putRecord (modT s t (fun c => { c with finished := c.finished.erase r })) t r.status r.bits r.launch body r.irq r.alert written

/-- Fields of a tenant's page that a tenant reset returns to their reset values: all but the RWL ones. -/
def resetPage (s : State) (t : Nat) : State :=
  (Reg.all.filter (fun f => decide (f.stride = 0x1000) && f.acc != .rwl)).foldl (fun s f => rset s f f.reset t) s

/-- Steps 4 and 5 of a tenant reset (R380): page responses will be discarded, the rings are disabled, the page and the MSI-X table
are reset. -/
def dropTenant (s : State) (t : Nat) : State :=
  let c := getT s t
  let s2 := modT s t (fun _ => { TenantSt.reset with lost := c.lost, d3hot := c.d3hot })
  resetPage { s2 with hst := { s2.hst with requests := s2.hst.requests.filterMap (fun p =>
                                 if p.fn ≠ t then some p else if p.sent then some { p with dead := true } else none) },
                      launches := s2.launches.filter (fun l => l.tenant != t) } t

/-- A tenant reset goes on once the launches that hold reserved entries have completed (R380 step 2). -/
def settleReset (s : State) (t : Nat) : State :=
  if (getT s t).resetting ∧ (getT s t).reserved.isEmpty then dropTenant s t else s

/-- COMPLETION_WRITE. -/
def execCompletionWrite (t : Tenant) (written : Bool) (s : State) : Result := .next (settleReset (writeNext s t.val written) t.val)

/-! ### Interrupts (R346, R376) -/

/-- MSIX_SEND: the completion ring's message leaves once the holdoff has passed. -/
def execMsixSend (t : Tenant) (s : State) : Result :=
  .next (let c := getT s t.val
    if !c.owed ∨ s.clk.elapsed < c.nextMsg then s
    else
      let due := s.clk.elapsed + 1000 * rget s Reg.irqHoldoff t.val
      msix (modT s t.val (fun c => { c with owed := false, nextMsg := due })) t.val 0)

/-- MSIX_UNMASK: an entry whose pending bit is set sends one message. -/
def execMsixUnmask (t : Tenant) (entry : Fin 16) (s : State) : Result :=
  .next (let c := getT s t.val
    let b := BitVec.twoPow 16 entry.val
    let s1 := modT s t.val (fun c => { c with msixMask := c.msixMask &&& ~~~b, msixPend := c.msixPend &&& ~~~b })
    if c.msixMask.getLsbD entry.val ∧ c.msixPend.getLsbD entry.val then emit s1 (.msix t.val entry.val) else s1)

/-! ### Watchdogs (R350, R351) -/

/-- WATCHDOG_EXPIRY: the launch has not entered the seal queue in time, and the hang reset starts (R160, R357). -/
def execWatchdogExpiry (launch : Nat) (s : State) : Result :=
  .next (match findL s launch with
    | none => s
    | some l =>
      if l.stage ≠ .running ∨ s.clk.elapsed < l.admitted + 1000 * l.watchdog ∨ s.fe.hang.isSome then s
      else startRetaining (logHang s l) launch 5)

/-- A tenant's launches that hold reserved entries complete as far as the journal lets them, and every record that finds a free
entry is written (R357 steps 2 and 4, R380 step 2); `write` is false where the tenant receives no records (R553). -/
def drainTenant (write : Bool) (s : State) (t : Nat) : State :=
  let s1 := s.launches.foldl (fun s l => if l.tenant ≠ t ∨ outcomeWaiting s l.id then s else stageOutcome s l.id) s
  if write then
    (List.range ((getT s1 t).reserved.length + (getT s1 t).finished.length)).foldl (fun s _ => writeNext s t true) s1
  else s1

end Sys2Proof.Machine
end

