-- ==== Sys2Proof/Machine/MemEvents.lean ====
section
/-! DEFINITION. Events of the stack controllers: idle flush, scrub, rebuilds, retraining (07_memory.md Faults,
17_bringup.md Retraining while serving). -/

namespace Sys2Proof.Machine

/-- WC_IDLE_FLUSH: an entry not written for 2 µs (R207). -/
def execWcIdleFlush (st : Stack) (line : Nat) (s : State) : Result :=
  .next (match (getS s st.val).wc.find? (fun w => w.line == line) with
    | some w => if w.since + 2000 ≤ s.clk.elapsed ∧ line % 8 = st.val then flushLine s line else s
    | none => s)

/-- A striped address lies in a range of whole GiB. -/
def inGib (a base size : Nat) : Bool := decide (base * 2 ^ 30 ≤ a ∧ a < (base + size) * 2 ^ 30)

/-- An uncorrectable burst of launch-owned memory: in an input-hold area it ends the launch, elsewhere the launch runs
again (R225); which launch owns it is a free value (log 27). -/
def poolLoss (s : State) (burst : Nat) : State :=
  let h := Config.poolHolder burst s.free
  let s1 := { s with free := s.free + 1 }
  match s.launches[h / 2]? with
  | none => s1
  | some l =>
    if l.stage = .finished then s1
    else if inGib (32 * burst) (rget s Reg.emdBase) (rget s Reg.emdSize) then reexecLaunch s1 l.id
    else if h % 2 = 0 then endLaunch s1 l.id Status.memoryLost 0 0 [] 0
    else reexecLaunch s1 l.id

/-- A burst proves uncorrectable: it is lost, a memory event counts, and a launch that owns it is settled (R222 to R225). -/
def burstLost (s : State) (burst : Nat) : State :=
  let p := stripedLoc (32 * burst)
  let s1 := memoryEvent (loseBurst s burst) p.stack p.lpc
  if inGib (32 * burst) (rget s Reg.holdPoolBase) (rget s Reg.holdPoolSize)
     ∨ inGib (32 * burst) (rget s Reg.emdBase) (rget s Reg.emdSize) then poolLoss s1 burst
  else s1

/-- PATROL_SCRUB of a burst of this stack, in a bank that is free (R213, R221, R222, R229). -/
def execPatrolScrub (st : Stack) (burst : Nat) (check : BurstCheck) (s : State) : Result :=
  .next (let p := stripedLoc (32 * burst)
    if 32 * burst ≥ dpaLimit ∨ p.stack ≠ st.val ∨ lineBusy s (burst / 8) then s
    else match check with
      | .clean => s
      | .corrected => correctedError s p.stack p.lpc burst
      | .uncorrectable => burstLost s burst)

/-- A table whose line cannot be rebuilt: TABLE-LOST, and its tenant is not admitted (R224). -/
def tableLost (s : State) (t : Table) (line : Nat) : State :=
  let h := tHandle t.desc
  let tenant := tOwner t.desc
  let s1 := { s with tables := s.tables.map (fun x => if x.desc = t.desc ∧ x.since = t.since then { x with lost := true } else x) }
  let s2 := logErr (raiseCond (modT s1 tenant (fun c => { c with lost := true })) condTable) Err.tableLost tenant (256 * line) h
  msix s2 tenant 1

/-! ### Rebuilding a lost line (R223, R224, R631) -/

/-- The tables of an epoch, from the base-note image and the sillage journal. -/
def tablesOf (s : State) (epoch : Nat) : Option (List ArenaTable) := (flashRecon s epoch).toOption.map (·.tables)

/-- The tables with the splices of the boundary in progress that have been applied; none where no boundary applies any. -/
def tablesNext (s : State) (cur : List ArenaTable) : Option (List ArenaTable) :=
  match s.boundary with
  | none => none
  | some b =>
    if b.step = .apply ∨ b.step = .record then
      applySet (flashRegs s) b.refused 0 ((b.ids.take b.position).filterMap (fun id => (findSplice s id).bind (·.body))) cur
    else none

/-- A launch bound to an epoch still reads. -/
def readsEpoch (s : State) (epoch : Nat) : Bool := s.launches.any (fun l => l.epoch == epoch && l.stage != .finished)

/-- The versions that live launches and the boundary in progress can still read: C, C − 1 and C + 1. -/
structure Versions where
  cur  : List ArenaTable
  prev : Option (List ArenaTable)
  next : Option (List ArenaTable)
  deriving DecidableEq, Repr

/-- They are reconstructed; none where a version that is still read cannot be. -/
def versions (s : State) : Option Versions :=
  let c := s.fe.epoch.toNat
  (tablesOf s c).bind (fun cur =>
    let prev := if c = 0 then none else tablesOf s (c - 1)
    if prev.isNone && decide (0 < c) && readsEpoch s (c - 1) then none else some { cur, prev, next := tablesNext s cur })

/-- A table of a version. -/
def inVersion (h : Nat) (l : List ArenaTable) : Option ArenaTable := l.find? (fun t => tHandle t.desc == h)

/-- The version of an element that each plane has to hold, for the plane bit p (R265, R276): first that of plane p. A table
retired at C stands in C − 1 alone. -/
def planeVersions (v : Versions) (t : Table) (r : Nat) : Option ArenaTable × Option ArenaTable :=
  let h := tHandle t.desc
  let cur := (inVersion h v.cur).or (v.prev.bind (inVersion h))
  if smem t.young r then ((v.prev.bind (inVersion h)).or cur, cur)
  else if smem t.pending r then (cur, (v.next.bind (inVersion h)).or cur)
  else (cur, cur)

/-- The bytes of an element in a plane, as runs of address and bytes. -/
def elementRuns (t : Table) (plane r : Nat) (a : ArenaTable) : List (Nat × Bytes) :=
  match tKind t.desc, nget none a.rows r with
  | 1, some b => ((rowRuns t.desc plane r).zip (List.range 4)).map (fun x => (x.1.1, slice b (256 * x.2) x.1.2))
  | 2, some b => [(cellAddr t.desc plane r, fit 64 b)]
  | _, _ => []

/-- Both planes of an element, for the plane bit p; none where a version lacks it. -/
def elementWrites (v : Versions) (t : Table) (p r : Nat) : Option (List (Nat × Bytes)) :=
  match planeVersions v t r with
  | (some a, some b) => some (elementRuns t p r a ++ elementRuns t (1 - p) r b)
  | _ => none

/-- The elements whose plane-map bits a line holds, and those whose bytes lie in it. -/
def mapElements (t : Table) (line : Nat) : List Nat := (List.range (tCount t.desc)).filter (fun r => (tMap t.desc + r / 8) / 256 == line)
/-- The elements with bytes in a line; a SEQUENCE table's layout is internal (log 83). -/
def dataElements (t : Table) (line : Nat) : List Nat :=
  (List.range (tCount t.desc)).filter (fun r => [0, 1].any (fun pl => match tKind t.desc with
    | 1 => (rowLines t.desc pl r).contains line
    | 2 => cellAddr t.desc pl r / 256 == line
    | _ => (Config.subjectLines t.desc r).contains line))

/-- All of a list of options, or none. -/
def allSome (l : List (Option α)) : Option (List α) := l.foldr (fun x acc => x.bind (fun a => acc.map (a :: ·))) (some [])

/-- The subjects of a SEQUENCE table at some elements, from the versions; an element's appends in the set stay counted. -/
def rebuildSubjects (s : State) (v : Versions) (t : Table) (bit : Nat → Nat) (rs : List Nat) : State :=
  if tKind t.desc ≠ 3 then s
  else
    let one (m : NMap Subject) (r : Nat) : NMap Subject :=
      let read (a : Option ArenaTable) : SeqVer := (a.bind (fun a => nget none a.seqs r)).getD ⟨0, []⟩
      let x := planeVersions v t r
      let old := nget Subject.empty m r
      let q := if bit r = 0 then (read x.1, read x.2) else (read x.2, read x.1)
      nput Subject.empty m r { p0 := q.1, p1 := q.2, inSet := old.inSet }
    { s with tables := s.tables.map (fun x => if x.desc = t.desc ∧ x.since = t.since then { x with subjects := rs.foldl one x.subjects } else x) }

/-- The line of a table has its content again, from the versions: bytes of a data line as they were; a plane-map line all zero, with
each version of its elements in the plane that this bit gives it (R631). -/
def reconLine (s : State) (v : Versions) (t : Table) (line : Nat) : Option State :=
  let mapped := mapElements t line
  if mapped.isEmpty then
    let rs := dataElements t line
    (allSome (rs.map (fun r => elementWrites v t (planeBit s t.desc r) r))).map (fun w =>
      let s1 := (w.flatten.filter (fun x => x.1 / 256 == line)).foldl (fun s x => memWrite s x.1 x.2) s
      rebuildSubjects s1 v t (planeBit s t.desc) rs)
  else
    (allSome (mapped.map (fun r => elementWrites v t 0 r))).map (fun w =>
      let s1 := w.flatten.foldl (fun s x => memWrite s x.1 x.2) (memWrite s (256 * line) (zeros 256))
      rebuildSubjects s1 v t (fun _ => 0) mapped)

/-- A lost line is lost no longer. -/
def lineFound (s : State) (line : Nat) : State := { s with lostBursts := s.lostBursts.filter (fun x => x / 8 != line) }

/-- The rebuild of a table's line: a member takes a replica's copy where one has come; without it the line is rebuilt from the image
and the journal (R223, R631). None where it cannot be rebuilt. -/
def rebuildLine (s : State) (t : Table) (line : Nat) (copy : Option Bytes) : Option State :=
  match inGroup s, copy with
  | true, some b => some (lineFound (memWrite s (256 * line) (fit 256 b)) line)
  | _, _ => (versions s).bind (fun v => (reconLine s v t line).map (fun s => lineFound s line))

/-- The launches that read a line, which wait no longer for it. -/
def takeReaders (s : State) (line : Nat) : State × List Nat :=
  ({ s with lostReaders := s.lostReaders.filter (fun r => r.1 != line) }, (s.lostReaders.filter (fun r => r.1 == line)).map (·.2))

/-- LINE_REBUILD_DONE: the line of a table has its bytes again and its readers run again (R223), or it cannot be rebuilt and its
readers end MEMORY-LOST (R224). The line is written in a bank that is free (R229). -/
def execLineRebuildDone (line : Nat) (copy : Option Bytes) (s : State) : Result :=
  .next (if !lineLost s line ∨ lineBusy s line then s
    else match tableHolding s (256 * line) with
      | none => s
      | some t =>
        let r := takeReaders s line
        match rebuildLine r.1 t line copy with
        | some s2 => r.2.foldl reexecLaunch s2
        | none => r.2.foldl (fun s id => endLaunch s id Status.memoryLost 0 0 [] 0) (tableLost r.1 t line))

/-! ### Rebuilding a pseudo-channel (R226) -/

/-- Lines of a pseudo-channel: 768 MiB. -/
def pcLines : Nat := 3145728
/-- Lines that a rebuild copies in one microsecond: 768 MiB in about 34 ms (R226, log 4). -/
def pcRate : Nat := 92

/-- The first line, in the pseudo-channel's own order from the cursor, that belongs to a table and waits for its own rebuild
(R223). -/
def walkStop (s : State) (i lpc from_ to_ : Nat) : Nat :=
  (s.lostBursts.map (· / 8)).foldl (fun m line =>
    let p := stripedLoc (256 * line)
    if p.stack = i ∧ p.lpc = lpc ∧ from_ ≤ line / 240 ∧ line / 240 < m ∧ (tableHolding s (256 * line)).any (fun t => !t.lost)
    then line / 240 else m) to_

/-- The copy of the running rebuild goes on behind its cursor for one microsecond. -/
def walkRebuild (s : State) (i : Nat) : State :=
  match (getS s i).rebuild with
  | [] => s
  | r :: rest =>
    if (getS s i).selfRefresh then s
    else modS s i (fun q => { q with rebuild :=
      { r with cursor := walkStop s i r.lpc r.cursor (min (r.cursor + pcRate) pcLines) } :: rest })

/-- PC_REBUILD_DONE: the cursor has reached the end, and the map entry changes to the spare (R226). -/
def execPcRebuildDone (st : Stack) (s : State) : Result :=
  .next (match (getS s st.val).rebuild with
    | [] => s
    | r :: rest =>
      if r.cursor < pcLines then s
      else persistMap (modS s st.val (fun q => { q with pcMap := updAt (fun _ => r.target) q.pcMap r.lpc, rebuild := rest })))

/-- A retrain of a pseudo-channel falls due for a cause (R544). The temperature is the sensor's own (log 29). -/
def retrainDue (s : State) (i lpc : Nat) (cause : RetrainCause) : Bool :=
  let q := getS s i
  match cause with
  | .period => decide (nget 0 q.trained lpc + (rget s Reg.retrainPeriod i * 1000000000 : Nat) ≤ s.clk.elapsed)
  | .temperature => true
  | .errors => decide (rget s Reg.retrainEcc i < (q.corrected.filter (fun e =>
      e.1 == lpc && decide (s.clk.elapsed ≤ e.2 + 1000000000))).length)

/-- PC_RETRAIN: one pseudo-channel of a stack at a time, never one that is being rebuilt; its write-combining entries are
flushed (R543, R547). -/
def execPcRetrain (st : Stack) (lpc : Fin 30) (cause : RetrainCause) (s : State) : Result :=
  .next (let q := getS s st.val
    if q.retraining.isSome ∨ q.rebuild.any (fun r => r.lpc == lpc.val) ∨ q.steps.any (fun x => x.lpc == lpc.val)
       ∨ !retrainDue s st.val lpc.val cause then s
    else modS (flushWhere s st.val (fun w => (stripedLoc (256 * w.line)).lpc == lpc.val)) st.val
           (fun q => { q with retraining := some (lpc.val, cause) }))

/-- PC_RETRAIN_END: an abandoned or failed retrain is a memory event, and is due again 1 s later (R544, Table Boot-9). -/
def execPcRetrainEnd (st : Stack) (res : RetrainEnd) (s : State) : Result :=
  .next (match (getS s st.val).retraining with
    | none => s
    | some (lpc, _) =>
      let period := rget s Reg.retrainPeriod st.val * 1000000000
      let at_ : Int := if res = .passed then s.clk.elapsed else s.clk.elapsed + 1000000000 - period
      let s1 := modS s st.val (fun q => { q with retraining := none, trained := nput 0 q.trained lpc at_ })
      if res = .passed then s1 else memoryEvent s1 st.val lpc)

/-- SELF_REFRESH_EXCURSION: the stack's clean bit is cleared (R383). -/
def execSelfRefreshExcursion (st : Stack) (s : State) : Result :=
  .next (if (getS s st.val).selfRefresh then modS s st.val (fun q => { q with clean := false }) else s)

end Sys2Proof.Machine
end

