-- ==== Sys2Proof/Machine/Rebuilding.lean ====
section
/-! DEFINITION. Staging an accord, and the local reconstruction of the live tables (09_tables_epochs.md R281, R288, R630,
14_sillage.md R456, R467, 12_host.md R387). -/

namespace Sys2Proof.Machine

/-! ### ACCORD_STAGE_START (R281) -/

/-- An accord that a past boundary named is swapped in as soon as it is staged again, where the tables stand as its schemas describe
them; the chip has passed no boundary since (R282, R630). -/
def settleOwed (s : State) (a : Accord) : State :=
  if s.group.owedSwap = some (a.id, a.digest) then
    let s1 := { s with group := { s.group with owedSwap := none } }
    catchUp (maybeBegin (rejoin (if schemasStand s1 a then rotate s1 a else refuseSwap s1 a.id)))
  else s

/-- The outcome of the checks on an image's bytes. -/
def stageImage (s : State) (b : Bytes) : State :=
  let id := fld b 8 4
  let v := imageSchema b
  let range := parsedRange s
  if stagedInUse s ∨ stagedNamed s then refuseStage s Err.accordBusy id 0 4
  else if v < range.1 ∨ range.2 < v then refuseStage s Err.accordInvalid id otherCheck 3
  else match readAccord b with
    | none => refuseStage s Err.accordInvalid id otherCheck 3
    | some a => match accordFault s a with
      | some w => refuseStage s Err.accordInvalid id w 3
      | none => if storeFits s a then settleOwed (fillStaged s a) a else refuseStage s Err.accordInvalid id otherCheck 3

/-- ACCORD_STAGE_START. -/
def execAccordStageStart (s : State) : Result :=
  .next (let r := stagedImage s
    match r.2 with
    | none => refuseStage s Err.accordInvalid 0 otherCheck 3
    | some b => stageImage r.1 b)

/-! ### TABLE_REBUILD_DONE (R387, R456) -/

/-- The descriptor of a rebuilt table with its placement: as the chip still holds it, as the newest TABLE-REGISTER splice of the
journal gives it, or the one it was given (log 30). -/
def placedDesc (s : State) (recs : List JrnRecord) (d : Bytes) : Bytes :=
  let h := tHandle d
  let fits (x : Bytes) : Bool := unplaced x == unplaced d
  match s.tables.find? (fun t => tHandle t.desc == h && fits t.desc) with
  | some t => t.desc
  | none =>
    let bodies := (recs.filter (fun r => r.kind == 0x01 && bKind (r.body.drop 16) == 0x10)).map (fun r => slice (r.body.drop 16) 24 64)
    match (bodies.filter fits).getLast? with
    | some x => x
    | none => d.take 12 ++ fit 28 (Config.tablePlacement h) ++ d.drop 40

/-- Write a reconstructed table into plane 0 with a clear plane map (R273, R456). -/
def layTable (s : State) (d : Bytes) (t : ArenaTable) (epoch : Nat) : State :=
  let s1 := zeroRange s (tMap d) (mapBytes (tCount d))
  let s2 := t.rows.foldl (fun s p => match p.2 with
    | none => s
    | some b =>
      if tKind d = 1 then ((rowRuns d 0 p.1).zip (List.range 4)).foldl (fun s x => writeClear s x.1.1 (slice b (256 * x.2) x.1.2)) s
      else writeClear s (cellAddr d 0 p.1) (fit 64 b)) s1
  let subjects := t.seqs.foldl (fun m p => match p.2 with
    | none => m
    | some v => nput Subject.empty m p.1 { p0 := v, p1 := ⟨0, []⟩, inSet := 0 }) []
  { s2 with tables := s2.tables ++ [{ desc := d, since := epoch, retired := none, young := [], pending := [], subjects, lost := false }] }

/-- The live tables, the epoch sequencer and the memory of splices take a reconstructed state. -/
def takeRecon (s : State) (q : Recon) : State :=
  let recs := flashRecs s
  let descs := q.tables.map (fun t => (placedDesc s recs t.desc, t))
  let s1 := descs.foldl (fun s p => layTable s p.1 p.2 q.epoch) { s with tables := [] }
  relearn { s1 with fe := { s1.fe with epoch := BitVec.ofNat 64 q.epoch, head := q.head }, boundary := none } q.epoch

/-- Tables have to be rebuilt: tenant 0 has written REBUILD, or the chip's head differs from its group's. -/
def rebuildDue (s : State) : Bool := smem s.glb.stopped stopRebuild || s.group.behind == 2

/-- The epoch to reconstruct: the newest one journalled, or the one before it after a CHAIN-MISMATCH (log 39). -/
def rebuildTarget (s : State) : Nat :=
  let last := ((lastBoundary s).map (fun b => fld b 0 8)).getD 0
  if s.group.behind = 2 then last - 1 else last

/-- Phase SERVICE: the active slot's failed-boot count becomes 0 (R527). -/
def enterService (s : State) : State :=
  let b := readBcb s
  let s0 := resumeAdmit s stopAttach
  let s1 := { s0 with glb := { s0.glb with phase := 6, attach := 1 } }
  if b.count s.glb.running = 0 then s1 else writeBcb s1 (b.setCount s.glb.running 0)

/-- Tenant 0's REBUILD is done; the chip serves. -/
def endRebuild (s : State) : State := if s.glb.attach = 2 then enterService s else s

/-- A confirmed manifest of the next epoch whose boundary has no BOUNDARY record: the boundary takes place now. -/
def resumeBoundary (s : State) : State :=
  let next := s.fe.epoch.toNat + 1
  let recs := flashRecs s
  match (recs.filter (fun r => r.kind == 0x03 && manEpoch r.body == next)).getLast? with
  | some r => if s.boundary.isSome ∨ recs.any (fun x => x.kind == 0x04 && fld x.body 0 8 == next) then s else startBoundary s r.body
  | none => s

/-- What held admission for the rebuild no longer does; a member then catches up with its group (R388). -/
def rebuilt (s : State) : State :=
  let s1 := clearCond (resumeAdmit (resumeAdmit (resumeAdmit (resumeAdmit s stopRebuild) stopTable) condTable) condBoundary) condTable
  let s2 := { s1 with tenants := nmap TenantSt.reset (fun t => { t with lost := false }) s1.tenants, lostReaders := [],
                      group := { s1.group with behind := 0, resync := [], lines := [] } }
  catchUp (resumeBoundary (endRebuild (clearCond s2 condBoundary)))

/-- Every line of the tables that were resynchronised has come: their tenants are admitted again, and a rebuild that waited for
them is done (R273, R387). -/
def endResync (s : State) : State :=
  let s1 := { s with group := { s.group with resync := [] },
                     tables := s.tables.map (fun t => if s.group.resync.contains (tHandle t.desc) then { t with lost := false } else t) }
  if s1.tables.any (·.lost) then s1
  else if smem s1.glb.stopped stopRebuild then rebuilt s1
  else
    clearCond { resumeAdmit s1 stopTable with
                tenants := nmap TenantSt.reset (fun t => { t with lost := false }) (resumeAdmit s1 stopTable).tenants } condTable

/-- TABLE_REBUILD_DONE: the tables are reconstructed from the newest image and the journal. Where that fails every table is lost and
nothing is admitted; a member asks a replica for their lines (R387, log 94). -/
def execTableRebuildDone (s : State) : Result :=
  .next (if !rebuildDue s then s
    else match flashRecon s (rebuildTarget s) with
      | .ok q => rebuilt (takeRecon s q)
      | .error _ =>
        let s1 := stopAdmit (s.tables.foldl (fun s t => tableLost s t 0) s) stopRebuild
        if inGroup s1 then askResync { s1 with group := { s1.group with resync := s1.tables.map (fun t => tHandle t.desc) } } else s1)

end Sys2Proof.Machine
end

