-- ==== Sys2Proof/Machine/Journal.lean ====
section
/-! DEFINITION. The journal controller's commands: acceptance, flash writes, drydown, export, the replay arena
(14_sillage.md). -/

namespace Sys2Proof.Machine

/-! ### Reclaiming (R454) -/

/-- A record of a type still waits for staging. -/
def kindWaits (s : State) (kind : Nat) : Bool := s.jrn.waiting.any (fun w => w.recs.any (fun r => r.kind == kind))

/-- The newest base-note image in effect. -/
def newestImage (s : State) : Option Image := (baseImages s).getLast?

/-- A ring segment may be reclaimed. -/
def reclaimable (s : State) (g : Segment) : Bool :=
  g.closed && (newestImage s).any (fun i => decide (g.serial < i.from_)) && (g.exported || rget s Reg.exportRequired == 0)
  && !s.jrn.exporting.any (fun e => !e.1 && e.2.1 == g.serial)

/-- Ordinary records find a segment again, beside the reserved one: the conditions end, but a journal whose numbers are used up
stays stopped (R462, R581, log 42). -/
def endFull (s : State) : State :=
  if s.jrn.full ∧ 1 < freeSegments s then
    let s1 := { s with jrn := { s.jrn with full := false, stopped := s.jrn.stopped && !journalOpen s 0 } }
    if s1.jrn.stopped then s1 else clearCond s1 condJournal
  else s

/-- The base area keeps the newest image, the one before it, and the registration images after that one (R450). -/
def keepImages (l : List Image) : List Image :=
  let notes := l.filter (fun i => !i.registration)
  let kept := notes.drop (notes.length - 2)
  let after := if notes.length < 2 then 0 else (kept.head?.map (·.epoch)).getD 0
  l.filter (fun i => if i.registration then decide (after < i.epoch) else kept.contains i)

/-- Reclaim what may be reclaimed, once no BASE-NOTE waits to be durable. -/
def reclaim (s : State) : State :=
  if kindWaits s 0x05 then s
  else endFull { s with jrn := { s.jrn with ring := s.jrn.ring.filter (fun g => !reclaimable s g), images := keepImages s.jrn.images } }

/-! ### Acceptance and flash writes (R443, R444, R461, R462) -/

/-- JOURNAL_RECORD_ACCEPT: the write that has waited longest enters staging once it fits. -/
def execJournalRecordAccept (s : State) : Result :=
  .next (match s.jrn.waiting with
    | [] => s
    | w :: rest => if acceptable s w then reclaim (acceptWrite { s with jrn := { s.jrn with waiting := rest } } w) else s)

/-- When no segment takes the oldest of the records that wait for flash, the open one ends with its trailer and JOURNAL-FULL is
raised (R442, R461); JOURNAL-STOPPED when the reserved one is full too (R462). -/
def noteFull (l : List JrnRecord) (s : State) : State :=
  match l with
  | [] => s
  | r :: _ =>
    if (writeFlash s r).isSome then s
    else
      let s1 := raiseFull (if 0 < freeSegments s ∨ reservedType r.kind then closeSegment s else s)
      if !s1.jrn.stopped ∧ l.any (fun x => reservedType x.kind && (writeFlash s1 x).isNone) then
        logErr { s1 with jrn := { s1.jrn with stopped := true } } Err.journalStopped noTenant 0 0
      else s1

/-- Write records one after another; none where one of them finds no room. -/
def writeAll : List JrnRecord → State → Option State
  | [], s => some s
  | r :: l, s => (writeFlash s r).bind (writeAll l)

/-- Write a waiting write whole to flash: it waits no longer, and is durable (R444); none where flash does not take it. -/
def writeWaiting (s : State) (w : JrnWrite) : Option State :=
  (writeAll w.recs { s with jrn := { s.jrn with waiting := s.jrn.waiting.erase w } }).map (fun s1 => reclaim (writeDurable s1 w))

/-- FLASH_WRITE_DONE: the oldest staged record that flash takes is in flash. With JRN_COVERED 0 the oldest waiting write that flash
takes is durable once it has been written (R444). -/
def execFlashWriteDone (s : State) : Result :=
  .next (match s.jrn.staged, s.jrn.waiting with
    | [], w :: rest =>
      if s.jrn.covered ≠ 0 then s
      else match writeWaiting s w with
        | some s1 => s1
        | none =>
          let s0 := noteFull (w.recs ++ rest.flatMap (·.recs)) s
          ((w :: rest).findSome? (writeWaiting s0)).getD s0
    | _, _ =>
      let s0 := noteFull s.jrn.staged s
      match s0.jrn.staged.find? (fun r => (writeFlash s0 r).isSome) with
      | none => s0
      | some r => match writeFlash s0 r with
        | none => s0
        | some s1 =>
          let left := s1.jrn.staged.erase r
          reclaim (noteFull left { s1 with jrn := { s1.jrn with staged := left } }))

/-! ### Drydown (R448 to R451, R466) -/

/-- The latest committed epoch whose record is in flash. -/
def flashEpoch (s : State) : Nat := ((((ringRecs s).filter (fun r => r.kind == 0x04)).getLast?).map (fun r => fld r.body 0 8)).getD 0

/-- The serial of the ring segment that holds the BOUNDARY record of an epoch. -/
def serialOf (s : State) (epoch : Nat) : Nat :=
  ((s.jrn.ring.find? (fun g => (scanRecs (g.data.length / 24 + 1) g.data).any (fun r => r.1.kind == 0x04 && fld r.1.body 0 8 == epoch))).map
    (·.serial)).getD (openSerial s)

/-- A flash read of a segment fails beyond the flash's own correction, or does not give the segment back (R465; whether a read fails
is a free value, log 99). -/
def unreadable (s : State) (g : Segment) : Bool :=
  (g.closed && (readSegment g.data).isNone) || Config.flashReadFails g.serial s.free

/-- Read a segment: one that cannot be read is damaged from then on, with a JOURNAL-DAMAGED entry (R465). -/
def checkSegment (s : State) (g : Segment) : State :=
  if g.damaged ∨ unreadable s g = false then s
  else
    logErr { s with jrn := { s.jrn with ring := updFirst (fun x => x.serial == g.serial) (fun x => { x with damaged := true }) s.jrn.ring } }
      Err.journalDamaged noTenant g.serial 0

/-- A segment that drydown has to read. -/
def drydownReads (s : State) (g : Segment) : Bool := decide ((newestNote s).from_ ≤ g.serial)
/-- A segment that drydown has to read is damaged. -/
def drydownDamaged (s : State) : Bool := s.jrn.ring.any (fun g => g.damaged && drydownReads s g)
/-- Read the segments of a drydown. -/
def readDrydown (s : State) : State :=
  (s.jrn.ring.filter (drydownReads s)).foldl (fun s g => checkSegment { s with free := s.free + 1 } g) s

/-- A drydown runs until its image has taken effect (R584). -/
def drydownRuns (s : State) : Bool := s.jrn.drydown.isSome || s.jrn.images.any (fun i => !i.registration && noteWaits s i.first)

/-- DRYDOWN_START: on ring occupancy or period (R449); over a damaged segment it is a snapshot of the current epoch (R466). -/
def execDrydownStart (s : State) : Result :=
  .next (let occupied := decide (rget s Reg.drydownHigh * ringSegments < 100 * s.jrn.ring.length)
    let due := decide (s.jrn.lastImage + rget s Reg.drydownPeriod * 1000000000 ≤ s.clk.elapsed)
    if drydownRuns s ∨ s.jrn.powerFail ∨ !(occupied || due) ∨ flashEpoch s = 0 then s
    else
      let s1 := readDrydown s
      { s1 with jrn := { s1.jrn with drydown := some (if drydownDamaged s1 then (s.fe.epoch.toNat, true) else (flashEpoch s, false)) } })

/-- A live table in the version of an epoch, as an image holds it. -/
def snapTable (s : State) (t : Table) (epoch : Nat) : ArenaTable :=
  let idx := List.range (tCount t.desc)
  let p (i : Nat) : Nat := planeFor s t epoch i
  match tKind t.desc with
  | 1 => { desc := t.desc, rows := nputs none [] 0 (idx.map (fun i => some (planeRow s t.desc (p i) i))), seqs := [] }
  | 2 => { desc := t.desc, rows := nputs none [] 0 (idx.map (fun i => some (leBytes 40 (planeCell s t.desc (p i) i)))), seqs := [] }
  | _ => { desc := t.desc, rows := [], seqs := nputs none [] 0 (idx.map (fun i =>
            let q := nget Subject.empty t.subjects i
            some (if p i = 0 then q.p0 else q.p1))) }

/-- A snapshot of every table of an epoch with the splices the chip holds (R466). -/
def snapshot (s : State) (epoch : Nat) : List ArenaTable × List (Nat × Nat × Bytes) :=
  (((s.tables.filter (fun t => liveAt t epoch)).map (fun t => snapTable s t epoch)).foldl (fun l t => putTable t l) [],
   s.group.known.filterMap (fun r => if r.applied then none else r.body.map (fun b => (r.id, r.state, b))))

/-- The carried section after a reconstruction (R451). -/
def carriedOf (q : Recon) : List (Nat × Nat × Bytes) := q.bodies.filterMap (fun p => p.2.map (fun b => (p.1, nget 0 q.states p.1, b)))

/-- H of an epoch, from the sequencer or the journal. -/
def headAt (s : State) (epoch : Nat) : Bytes :=
  if epoch = s.fe.epoch.toNat then s.fe.head
  else (((flashRecs s).find? (fun r => r.kind == 0x04 && fld r.body 0 8 == epoch)).map (fun r => slice r.body 8 32)).getD (zeros 32)

/-- A finished image goes into the base area with its BASE-NOTE record, in effect once that is durable; without room drydown waits
(Table Sillage-8). -/
def placeImage (s : State) (epoch : Nat) (head : Bytes) (tables : List ArenaTable) (carried : List (Nat × Nat × Bytes)) : State :=
  let from_ := serialOf s epoch
  let bytes := imageBytes epoch head from_ tables carried
  match freeBase s bytes.length with
  | none =>
    raiseFull s
  | some first =>
    let i : Image := { first, epoch, head, from_, bytes, registration := false }
    let s1 := noteWear { s with jrn := { s.jrn with images := s.jrn.images ++ [i], drydown := none } } bytes.length
    reclaim (stageOwn s1 [{ kind := 0x05, body := baseNoteBody i }])

/-- DRYDOWN_DONE: the image at the target epoch takes effect; a journal that does not check turns it into a snapshot. -/
def execDrydownDone (s : State) : Result :=
  .next (match s.jrn.drydown with
    | none => s
    | some (e, true) => let r := snapshot s e; placeImage s e (headAt s e) r.1 r.2
    | some (e, false) => match reconFrom s (ringRecs s) e with
      | .ok q => placeImage s e q.head q.tables (carriedOf q)
      | .error _ => { s with jrn := { s.jrn with drydown := some (s.fe.epoch.toNat, true) } })

/-! ### Export (R455, R465) -/

/-- Export states of Table Reg-8. -/
def setExport (s : State) (state done : Nat) : State :=
  { s with jrn := { s.jrn with exportState := state, exportDone := BitVec.ofNat 64 done, exporting := none } }

/-- The bytes an export names: none where nothing has that serial or base segment. -/
def exportBytes (s : State) (image : Bool) (sel : Nat) : Option Bytes :=
  if image then (s.jrn.images.find? (fun i => i.first == sel)).map (·.bytes)
  else (s.jrn.ring.find? (fun g => g.serial == sel)).map (·.data)

/-- Read the segment that an export names, and say whether it is damaged. -/
def damageCheck (s : State) (sel : Nat) : State × Bool :=
  match s.jrn.ring.find? (fun g => g.serial == sel) with
  | none => (s, false)
  | some g =>
    let s1 := checkSegment { s with free := s.free + 1 } g
    (s1, s1.jrn.ring.any (fun g => g.serial == sel && g.damaged))

/-- Seal the segment an export names when it is the open one. -/
def sealNamed (s : State) (image : Bool) (sel : Nat) : State :=
  if !image ∧ (openSegment s).any (fun g => g.serial == sel) then closeSegment s else s

/-- EXPORT_START. -/
def execExportStart (s : State) : Result :=
  .next (if s.jrn.exportState = 1 then s
    else
      let image := rget s Reg.exportKind == 1
      let sel := rget s Reg.exportSel
      let s1 := sealNamed s image sel
      match exportBytes s1 image sel with
      | none => setExport s1 4 0
      | some b =>
        let d := if image then (s1, false) else damageCheck s1 sel
        if d.2 then setExport d.1 3 0
        else if rget s Reg.exportLen < b.length then setExport d.1 5 0
        else { d.1 with jrn := { d.1.jrn with exportState := 1, exportDone := 0, exporting := some (image, sel, rget s Reg.exportAddr) } })

/-- EXPORT_DONE: the bytes are in host memory, or the write failed; a page that is not present keeps the export busy (log 43). -/
def execExportDone (res : HostWrite) (s : State) : Result :=
  .next (match s.jrn.exporting with
    | none => s
    | some (image, sel, addr) => match res, exportBytes s image sel with
      | .notPresent _, _ => s
      | .failed, _ => setExport s 6 0
      | .done, none => setExport s 4 0
      | .done, some b =>
        let s1 := setExport (writeHost s 0 addr b) 2 b.length
        let s2 := if image then s1
                  else { s1 with jrn := { s1.jrn with ring := updFirst (fun g => g.serial == sel) (fun g => { g with exported := true }) s1.jrn.ring } }
        reclaim s2)

/-! ### The replay arena (R458, R464) -/

/-- A launch bound through the arena is running. -/
def arenaInUse (s : State) : Bool := s.launches.any (fun l => dIsReplay l.desc && l.stage != .finished)

/-- ARENA_LOAD: refused while the arena is in use, or while another load runs (log 43). -/
def execArenaLoad (request : BitVec 64) (s : State) : Result :=
  .next (if request.toNat % 64 ≠ 0 then logErr s Err.reservedWrite noTenant (Reg.arenaCtrl.off) request.toNat
    else if arenaInUse s ∨ s.jrn.arena.state = 1 then logErr s Err.arenaBusy noTenant 0 0
    else { s with jrn := { s.jrn with arena := { s.jrn.arena with state := 1, reason := 0, request, tables := [] } } })

/-- The load ends in FAILED. -/
def failArena (s : State) (reason : Nat) : State :=
  { s with jrn := { s.jrn with arena := { s.jrn.arena with state := 3, reason, tables := [] } } }

/-- The request is in order (Table Sillage-6); a request that is not fails as a gap (log 43). -/
def requestOk (b : Bytes) : Bool :=
  b.take 8 == beBytes 8 0x54514152454E4131 && inRange 1 (2 ^ 24) (fld b 48 4) && inRange 1 65536 (fld b 52 4) && zeroAt b 72 56

/-- Entries of a touch list: handle, first index and count. -/
def touchList (n : Nat) (b : Bytes) : List (Nat × Nat × Nat) :=
  (List.range n).map (fun i => (fld b (16 * i) 2, fld b (16 * i + 8) 8, fld b (16 * i + 4) 4))

/-- The reserved bytes of a touch list are 0 (log 43). -/
def touchOk (n : Nat) (b : Bytes) : Bool := (List.range n).all (fun i => zeroAt b (16 * i + 2) 2)

/-- A table with only the wanted elements. -/
def wantedOf (l : List (Nat × Nat × Nat)) (t : ArenaTable) : ArenaTable :=
  let want (i : Nat) : Bool := l.any (fun e => e.1 == tHandle t.desc && decide (e.2.1 ≤ i ∧ i < e.2.1 + e.2.2))
  { t with rows := t.rows.filter (fun p => want p.1), seqs := t.seqs.filter (fun p => want p.1) }

/-- Bytes of the elements a table holds. -/
def arenaBytes (t : ArenaTable) : Nat :=
  t.rows.foldl (fun n p => n + (p.2.map (·.length)).getD 0) (t.seqs.foldl (fun n p => n + (p.2.map (fun v => 16 + v.events.length * tSize t.desc)).getD 0) 0)

/-- What a load leaves: READY, or FAILED with its reason. -/
def loadArena (s : State) (req touch parts : Bytes) : State :=
  let e := fld req 8 8
  let n := fld req 48 4
  let imgs := readImages (parts.length / 96 + 1) parts
  match imgs.1 with
  | img :: regs => match reconstruct img regs imgs.2 e with
    | .error r => failArena s r
    | .ok q =>
      let l := touchList n touch
      let tables := q.tables.map (wantedOf l)
      if q.head ≠ slice req 16 32 then failArena s failHead
      else if l.any (fun x => !q.tables.any (fun t => tHandle t.desc == x.1)) then failArena s 5
      else if rget s Reg.arenaSize * 2 ^ 30 < (tables.map arenaBytes).foldl (· + ·) 0 then failArena s 6
      else { s with jrn := { s.jrn with arena := { s.jrn.arena with state := 2, reason := 0, epoch := BitVec.ofNat 64 e, head := q.head,
                                                                    tables := tables } } }
  | [] => failArena s failChain

/-- ARENA_LOAD_DONE. -/
def execArenaLoadDone (request touch parts : HostRead) (s : State) : Result :=
  .next (if s.jrn.arena.state ≠ 1 then s
    else match request, touch, parts with
      | .data q, .data t, .data p => if requestOk q && touchOk (fld q 48 4) t then loadArena s q t p else failArena s failGap
      | _, _, _ => failArena s 7)

end Sys2Proof.Machine
end

