-- ==== Sys2Proof/Machine/Lanyard.lean ====
section
/-! DEFINITION. Lanyard ports and the frames they receive (13_lanyards.md). -/

namespace Sys2Proof.Machine

/-! ### Training and HELLO (R399, R400, R437 to R439) -/

/-- PORT_TRAINED: the physical layer is up at the width R439 gives, its lanyard reference is good (R563), and the random value
of this training is drawn. -/
def execPortTrained (p : Port) (lanes : Nat) (r : Bytes) (s : State) : Result :=
  .next (let q := getP s p.val
    if q.mode ≠ .training ∨ lanes ≠ usableLanes q.retired ∨ lanes = 0 ∨ s.clk.tripped.getLsbD (2 + p.val) then s
    else modP s p.val (fun q => { q with mode := .hello, lanes, used := laneMask q.retired, own := r, theirs := [], helloAt := none, accepted := false }))

/-- Ports carry replication traffic: the epoch sequencer is loaded and no pseudo-channel is failed for want of a spare (R529). -/
def replicates (s : State) : Bool := inRange 5 6 s.glb.phase.toNat && s.defects.failed.isEmpty && s.group.memberSet

/-- HK of R399. -/
def helloKey (gk : Bytes) : Bytes := hkdf gk (tag8 0x54514C4E5948454C) [] 32

/-- HELLO payload (Table Lanyard-2). -/
def helloBody (s : State) (p : Nat) (nonce : Bytes) : Bytes :=
  let q := getP s p
  leBytes 4 (groupGen s) ++ leBytes 1 (ownMember s) ++ leBytes 1 p ++ leBytes 1 q.lanes ++ zeros 1 ++ fit 16 q.own ++ fit 12 nonce ++ zeros 4

/-- The AES-256-GMAC of a HELLO's header and payload. -/
def helloTag (gk header body : Bytes) : Bytes := gcmTag (aesKeys (helloKey gk)) (slice body 24 12) (header ++ body) []

/-- HELLO_SEND: at most one every 10 µs, until the partner's is accepted; the exchange waits for the accord and LNY_MEMBER. -/
def execHelloSend (p : Port) (nonce : Bytes) (s : State) : Result :=
  .next (let q := getP s p.val
    if q.mode ≠ .hello ∨ !inGroup s ∨ s.jrn.powerFail ∨ !replicates s ∨ q.helloAt.any (fun t => decide (s.clk.elapsed < t + 10000))
    then s
    else
      let h := frameHeader 0x0E 0 (ownMember s) 0xFF 0 0 0 40
      let b := helloBody s p.val nonce
      let f := h ++ b ++ helloTag (ownKey s) h b
      emit (modP s p.val (fun q => { q with helloAt := some s.clk.elapsed })) (.frame p.val (f ++ leBytes 4 (crc32 f))))

/-- The CRC of a frame checks (R403). -/
def crcOk (f : Bytes) : Bool := decide (52 ≤ f.length) && decide (fld f (f.length - 4) 4 = crc32 (f.take (f.length - 4)))

/-- Every check of R400 on a HELLO. -/
def helloOk (s : State) (p : Nat) (f : Bytes) : Bool :=
  let b := slice f 32 40
  let m := fld b 4 1
  decide (f.length = 92) && fld f 24 2 == 40 && helloTag (ownKey s) (f.take 32) b == slice f 72 16 && fld b 0 4 == groupGen s
  && decide (m < 32) && bit (roster s) m && m != ownMember s
  && (List.range 8).all (fun i => i == p || (getP s i).mode != .up || (getP s i).partner != m)

/-- HELLO_FRAME: an accepted HELLO binds the port and brings it UP with full credit (R400, R414); one that fails a check is a
violation, whether the port is exchanging HELLO or UP. A port that is UP, or whose chip is in no group, discards a HELLO that
passes them (DEDUCED, log 38). -/
def execHelloFrame (p : Port) (frame : Bytes) (s : State) : Result :=
  .next (let q := getP s p.val
    if (q.mode ≠ .hello ∧ q.mode ≠ .up) ∨ s.jrn.powerFail ∨ !replicates s ∨ !crcOk frame ∨ fld frame 0 1 ≠ 0x0E then s
    else if !helloOk s p.val frame then violation s p.val
    else if q.mode = .up ∨ !inGroup s then s
    else
      pump (modP s p.val (fun q => { newSession q with mode := .up, accepted := true, partner := fld frame 36 1,
                                                       theirs := slice frame 40 16, progress := s.clk.elapsed })) p.val)

/-- RELEASE ends a quarantine; the port trains again (R437). -/
def execRelease (p : Port) (s : State) : Result :=
  .next (if (getP s p.val).mode = .quarantined then modP (portRetrain s p.val) p.val (fun q => { q with recent := [] }) else s)

/-- A port that is neither quarantined nor out of service goes down and trains again. -/
def retrainPort (s : State) (p : Nat) : State :=
  match (getP s p).mode with
  | .quarantined => s
  | .outOfService => s
  | _ => portRetrain s p

/-- RETRAIN. -/
def execRetrain (p : Port) (s : State) : Result := .next (retrainPort s p.val)

/-- PORT_ENABLE: 0 holds the port down, 1 lets it train; a quarantine stays. -/
def execPortEnable (p : Port) (enable : Bool) (s : State) : Result :=
  .next (let s1 := rset s Reg.portEnable (if enable then 1 else 0) p.val
    match (getP s p.val).mode, enable with
    | .down, true => portRetrain s1 p.val
    | .quarantined, _ => s1
    | .outOfService, _ => s1
    | _, false => portRetrain s1 p.val
    | _, true => s1)

/-- LANE_EVENT: the third within the window retires the lane (R438, R375); the port trains again without it, or leaves service
with the last pair (R439). A quarantine stays. -/
def execLaneEvent (p : Port) (lane : Fin 8) (s : State) : Result :=
  .next (let r := event s chLane (8 * p.val + lane.val)
    if !r.2 then r.1
    else
      let s1 := modP r.1 p.val (fun q => { q with retired := q.retired ||| BitVec.twoPow 8 lane.val })
      let s2 := msix (retrainPort (persistMap s1) p.val) 0 5
      if usableLanes (getP s p.val).retired ≠ 0 ∧ usableLanes (getP s1 p.val).retired = 0 then
        logErr (raiseCond s2 condLanyard) Err.lanyardDegraded noTenant p.val (getP s1 p.val).retired.toNat
      else s2)

/-! ### Receiving a frame (R403 to R409, R415) -/

/-- A frame that has passed R407. -/
structure Rcv where
  port    : Nat
  sender  : Nat
  flags   : Nat
  seq     : Nat
  payload : Bytes
  deriving DecidableEq, Repr

/-- A reply to FETCH. -/
def Rcv.fetched (r : Rcv) : Bool := bit r.flags 1
/-- Its credit units. -/
def Rcv.units (r : Rcv) : Nat := Machine.units r.payload.length

/-- Open a frame's payload under any slot's group key (R407). -/
def openPayload (s : State) (p : Nat) (f : Bytes) : Option Bytes :=
  let q := getP s p
  let n := fld f 24 2
  (groupKeys s).findSome? (fun gk =>
    let k := linkKey gk (fld f 16 8) q.partner (ownMember s) q.theirs q.own
    gcmOpen (k.take 32) (k.drop 32 ++ slice f 8 8) (f.take 32) (slice f 32 n) (slice f (32 + n) 16))

/-- A CRC failure is a link error: a NAK is owed. -/
def linkError (s : State) (p : Nat) : State := modP s p (fun q => { q with nak := true, linkOwed := true })

/-- Frame types of Table Lanyard-4. -/
def knownType (kind : Nat) : Bool := inRange 0x01 0x08 kind || [0x0A, 0x0E, 0x0F].contains kind

/-- The checks of R407, and what an accepted frame does. At a port that is exchanging HELLO no key exists under which a tag could
verify; a frame of a reserved type is a violation (Table Lanyard-4). -/
def receive (s : State) (p kind : Nat) (frame : Bytes) (f : State → Rcv → State) : State :=
  let q := getP s p
  let n := fld frame 24 2
  let epoch := fld frame 16 8
  let count := fld frame 8 8
  if (q.mode ≠ .up ∧ (q.mode ≠ .hello ∨ !replicates s)) ∨ s.jrn.powerFail then s
  else if !crcOk frame then (if q.mode = .up then linkError s p else s)
  else if q.mode = .hello ∨ !knownType (fld frame 0 1) then violation s p
  else if fld frame 0 1 ≠ kind then s
  else if 2048 < n ∨ frame.length ≠ 52 + n ∨ epoch < q.keyEpoch ∨ s.fe.epoch.toNat + 2 ^ 20 < epoch ∨ q.rxCount.any (fun c => decide (count ≤ c))
  then violation s p
  else match openPayload s p frame with
    | none => violation s p
    | some b =>
      f (modP s p (fun q => { q with keyEpoch := epoch, rxCount := some count }))
        { port := p, sender := fld frame 2 1, flags := fld frame 1 1, seq := fld frame 4 3, payload := b }

/-- The sequence and credit checks of a sequenced frame (R408, R415). -/
def inSequence (s : State) (kind : Nat) (r : Rcv) (f : State → Rcv → State) : State :=
  let q := getP s r.port
  let held := if isRebuild kind then q.held.2 else q.held.1
  let grant := if isRebuild kind then 512 else 1024
  if r.seq ≠ q.rxSeq then
    (if inRange 1 4096 ((q.rxSeq + 2 ^ 24 - r.seq) % 2 ^ 24) then oweLink s r.port else linkError s r.port)
  else if grant < held + r.units then violation s r.port
  else
    let now := if isRebuild kind then (q.held.1, q.held.2 + r.units) else (q.held.1 + r.units, q.held.2)
    f (modP s r.port (fun q => { q with rxSeq := (q.rxSeq + 1) % 2 ^ 24, linkOwed := true, held := now })) r

/-- A sequenced frame of a type. -/
def sequenced (s : State) (p kind : Nat) (frame : Bytes) (f : State → Rcv → State) : State :=
  receive s p kind frame (fun s r => inSequence s kind r f)

/-- A frame with nothing to stage is reported staged once what came before it is. -/
def frameDone (s : State) (r : Rcv) : State := stage s { recs := [], frame := some (r.port, r.seq, r.units), spread := false }

/-- A frame whose payload is malformed: a violation, with nothing to stage. -/
def malformed (s : State) (r : Rcv) : State := frameDone (violation s r.port) r

/-! ### SPLICE and STATE (R417 to R421) -/

/-- The splice records of a payload: IDs and bodies; none where one is malformed (Table Tables-3). -/
def readSplices : Nat → Bytes → Option (List (Nat × Bytes))
  | 0, b => if b.isEmpty then some [] else none
  | fuel + 1, b =>
    let n := fld b 12 4
    if b.isEmpty then some []
    else if b.length < 40 ∨ b.length < 16 + n ∨ !zeroAt b 8 4 ∨ n ≠ 24 + roundUp (fld b 20 4) 8 then none
    else (readSplices fuel (b.drop (16 + n))).map (fun l => (fld b 0 8, slice b 16 n) :: l)

/-- A splice's record has come before: it is staged, recalled or applied, or waits for staging (R417, R419). -/
def remembered (s : State) (id : Nat) : Bool :=
  (findSplice s id).any (fun r => r.applied || r.body.isSome || r.state == 2)
  || s.jrn.waiting.any (fun w => w.recs.any (fun r => r.kind == 0x01 && fld r.body 0 8 == id))

/-- The records of a SPLICE frame that are staged: of a flooded frame, those that come for the first time (R419). -/
def freshSplices (s : State) (fetched : Bool) : List (Nat × Bytes) → List (Nat × Bytes)
  | [] => []
  | x :: l => if !fetched && remembered s x.1 then freshSplices s fetched l
              else x :: (freshSplices s fetched l).filter (fun y => y.1 != x.1)

/-- The state of an ID as it has been received: staged, or waiting for staging; 0 where none has come (R420). -/
def stateSeen (s : State) (id : Nat) : Nat :=
  match (findSplice s id).map (·.state) with
  | some (n + 1) => n + 1
  | _ => ((s.jrn.waiting.flatMap (fun w => w.recs.flatMap (fun r => if r.kind = 0x02 then chunksOf 16 r.body else []))).find?
      (fun e => fld e 0 8 == id)).elim 0 (fun e => fld e 8 1)

/-- The entries of a STATE frame one after another: those that come first for their ID, and how many differ from what came
before. -/
def splitStates (s : State) : List Bytes → List Bytes → Nat → List Bytes × Nat
  | fresh, [], n => (fresh, n)
  | fresh, e :: l, n =>
    let seen := match fresh.find? (fun x => fld x 0 8 == fld e 0 8) with
      | some x => fld x 8 1
      | none => stateSeen s (fld e 0 8)
    if seen = 0 then splitStates s (fresh ++ [e]) l n
    else splitStates s fresh l (if seen = fld e 8 1 then n else n + 1)

/-- SPLICE_FRAME: new records are staged, and go on to the other ports. -/
def execSpliceFrame (p : Port) (frame : Bytes) (s : State) : Result :=
  .next (sequenced s p.val 0x01 frame (fun s r =>
    match readSplices (r.payload.length / 40 + 1) r.payload with
    | none => malformed s r
    | some l =>
      stage s { recs := (freshSplices s r.fetched l).map (fun x => { kind := 0x01, body := spliceRecord x.1 x.2 }),
                frame := some (p.val, r.seq, r.units), spread := !r.fetched }))

/-- STATE_FRAME: the first state change of an ID is kept; a different one is a violation (R420). -/
def execStateFrame (p : Port) (frame : Bytes) (s : State) : Result :=
  .next (sequenced s p.val 0x02 frame (fun s r =>
    let l := chunksOf 16 r.payload
    if r.payload.isEmpty ∨ r.payload.length % 16 ≠ 0 ∨ l.any (fun e => !inRange 1 2 (fld e 8 1) || !zeroAt e 9 7) then malformed s r
    else
      let x := splitStates s [] l 0
      let s1 := (List.range x.2).foldl (fun s _ => violation s p.val) s
      stage s1 { recs := if x.1.isEmpty then [] else [{ kind := 0x02, body := x.1.flatMap id }],
                 frame := some (p.val, r.seq, r.units) }))

/-! ### The other flooded types (R417) -/

/-- A record of one of these types has come before: type, sender (for a MANIFEST its chunk index), epoch and term. -/
def isHeard (s : State) (kind sender epoch term : Nat) : Bool := s.group.heard.contains (kind, sender, epoch, term)

/-- A record that comes for the first time goes on to the other ports and takes effect. -/
def firstTime (s : State) (r : Rcv) (kind sender epoch term : Nat) (f : State → State) : State :=
  if isHeard s kind sender epoch term then frameDone s r
  else
    let s1 := { s with group := { s.group with heard := (kind, sender, epoch, term) :: s.group.heard } }
    frameDone (f (flood s1 r.port kind r.sender r.payload)) r

/-- Take one chunk of a manifest: with its last chunk the manifest is whole. -/
def takeChunk (s : State) (epoch term count index : Nat) (b : Bytes) (fetched : Bool) : State :=
  let same (c : Nat × Nat × Nat × Nat × Bytes) : Bool := c.1 == epoch && c.2.1 == term
  let mine := (epoch, term, count, index, b) :: s.group.chunks.filter (fun c => same c && c.2.2.1 == count && c.2.2.2.1 != index)
  let others := s.group.chunks.filter (fun c => !same c)
  let piece (i : Nat) : Option Bytes := (mine.find? (fun c => c.2.2.2.1 == i)).map (·.2.2.2.2)
  if ((List.range count).all (fun i => (piece i).isSome)) then
    takeManifest { s with group := { s.group with chunks := others } } ((List.range count).flatMap (fun i => (piece i).getD [])) fetched
  else { s with group := { s.group with chunks := mine ++ others } }

/-- The chip has asked a port for the manifest of an epoch and awaits it. -/
def awaits (s : State) (p epoch : Nat) : Bool := s.group.asked.contains (p, epoch)

/-- A manifest of a term is discarded: its term is below the highest voted in or accepted (R434). -/
def lowTerm (s : State) (term : Nat) : Bool := decide (term < max s.group.term s.group.votedTerm)

/-- MANIFEST_FRAME. The chunk with index 0 names epoch and term; the chunks that follow it on its port belong to it (log 38). A
reply to FETCH counts where the chip has asked that port for the manifest; a chunk of a low term is discarded (R434). -/
def execManifestFrame (p : Port) (frame : Bytes) (s : State) : Result :=
  .next (sequenced s p.val 0x03 frame (fun s r =>
    let index := fld r.payload 0 4
    let count := fld r.payload 4 4
    let b := r.payload.drop 8
    let named := if index = 0 then some (fld b 8 8, fld b 16 4) else (getP s p.val).naming
    if count ≤ index ∨ 2040 < b.length ∨ b.isEmpty ∨ (index = 0 ∧ b.length < 104) then malformed s r
    else match named with
      | none => frameDone s r
      | some (e, t) =>
        let s1 := modP s p.val (fun q => { q with naming := some (e, t) })
        if r.fetched then frameDone (if awaits s1 p.val e then takeChunk s1 e t count index b true else s1) r
        else if lowTerm s1 t then frameDone s1 r
        else firstTime s1 r 0x03 index e t (fun s => takeChunk s e t count index b false)))

/-- MANIFEST_ACK_FRAME: the anchor collects acknowledgments of its manifest (R425). -/
def execManifestAckFrame (p : Port) (frame : Bytes) (s : State) : Result :=
  .next (sequenced s p.val 0x04 frame (fun s r =>
    let b := r.payload
    if b.length ≠ 48 then malformed s r
    else firstTime s r 0x04 (fld b 12 1) (fld b 0 8) (fld b 8 4) (fun s =>
      if isAnchor s ∧ !s.group.issuing.isEmpty ∧ slice b 16 32 = sha256 s.group.issuing ∧ bit (roster s) (fld b 12 1) then
        tryConfirm { s with group := { s.group with acks := sadd s.group.acks (fld b 12 1) } }
      else s)))

/-- A CONFIRM of an epoch not yet applied is held until its manifest is (R426). -/
def holdConfirm (s : State) (b : Bytes) : State :=
  if fld b 0 8 ≤ s.fe.epoch.toNat then s
  else maybeBegin { s with group := { s.group with confirm := some (fld b 0 8, slice b 16 32) } }

/-- CONFIRM_FRAME: one of a term below the highest accepted or voted in is discarded (R426, R434). A reply to FETCH confirms the
manifest the chip has asked that port for, and ends the request (log 38). -/
def execConfirmFrame (p : Port) (frame : Bytes) (s : State) : Result :=
  .next (sequenced s p.val 0x05 frame (fun s r =>
    let b := r.payload
    if b.length ≠ 48 then malformed s r
    else if r.fetched then
      frameDone (if awaits s p.val (fld b 0 8) then
        holdConfirm { s with group := { s.group with asked := s.group.asked.filter (· != (p.val, fld b 0 8)) } } b else s) r
    else if lowTerm s (fld b 8 4) then frameDone s r
    else firstTime s r 0x05 (fld b 12 1) (fld b 0 8) (fld b 8 4) (fun s => holdConfirm (acceptTerm s (fld b 8 4) (fld b 12 1)) b)))

/-- REPORT_FRAME: the member's report is kept; a head that differs from the anchor's is a CHAIN-MISMATCH, and a chip that lags
asks for what it missed (R428, R388). -/
def execReportFrame (p : Port) (frame : Bytes) (s : State) : Result :=
  .next (sequenced s p.val 0x06 frame (fun s r =>
    if r.payload.length ≠ 80 then malformed s r
    else firstTime s r 0x06 r.sender (fld r.payload 0 8) 0 (fun s =>
      catchUp (checkHead (putReport s r.sender r.payload)))))

/-- VOTE_FRAME (R433). -/
def execVoteFrame (p : Port) (frame : Bytes) (s : State) : Result :=
  .next (sequenced s p.val 0x07 frame (fun s r =>
    let b := r.payload
    if b.length ≠ 64 then malformed s r
    else firstTime s r 0x07 (fld b 5 1) (fld b 8 8) (fld b 0 4) (fun s => tryElect (putVote s b) (fld b 0 4))))

/-- ANCHOR_TIMEOUT: no CONFIRM within FE_EPOCH_PERIOD + LNY_ANCHOR_TIMEOUT of the last one, or of the last failed term: the
member votes (R432). -/
def execAnchorTimeout (s : State) : Result :=
  .next (let due := s.group.lastConfirm + s.group.epochWait + s.group.anchorWait
    if !inGroup s ∨ isAnchor s ∨ s.group.confirm.any (fun c => c.1 == nextSet s) ∨ s.clk.elapsed < due then s
    else
      let term := max s.group.term s.group.votedTerm + 1
      let b := voteBody s term (candidateOf s term)
      let s1 := { s with group := { s.group with votedTerm := term, lastConfirm := s.clk.elapsed } }
      tryElect (flood (putVote s1 b) 8 0x07 (ownMember s) b) term)

/-! ### FETCH and REBUILD (R406) -/

/-- A manifest's CONFIRM as a chip that holds it confirmed gives it: begun or applied. -/
def confirmed (s : State) (m : Bytes) : Bool :=
  decide (manEpoch m ≤ s.fe.epoch.toNat) || s.boundary.any (fun b => b.manifest == m)

/-- Serve splice bodies, one SPLICE frame to each; with no items, the manifest of the epoch, with its CONFIRM where the group has
confirmed it (log 38). -/
def serveBodies (s : State) (r : Rcv) (epoch : Nat) (ids : List Nat) : State :=
  if ids.isEmpty then
    match manifestOf s epoch with
    | none => s
    | some m =>
      let s1 := (manifestChunks m).foldl (fun s c => queueFrame s r.port 0x03 2 (ownMember s) c) s
      if confirmed s m then
        queueFrame s1 r.port 0x05 2 (ownMember s)
          (leBytes 8 (manEpoch m) ++ leBytes 4 (manTerm m) ++ leBytes 1 (manAnchor m) ++ zeros 3 ++ sha256 m)
      else s1
  else ids.foldl (fun s id => match bodyOf s id with
    | none => s
    | some b => queueFrame s r.port 0x01 2 (id / 2 ^ 59) (spliceRecord id b)) s

/-- Serve table lines, one to a REBUILD; of another epoch, or while the line is lost here too, none. -/
def serveLines (s : State) (r : Rcv) (request epoch : Nat) (lines : List Nat) : State :=
  lines.foldl (fun s a =>
    let same := decide (epoch = s.fe.epoch.toNat) && decide (a + 256 ≤ dpaLimit) && (runLost s a 256).isEmpty
    let s1 := if same then flushLine s (a / 256) else s
    queueFrame s1 r.port 0x0A 0 (ownMember s) (leBytes 8 request ++ leBytes 1 (if same then 0 else 1) ++ zeros 7 ++ leBytes 8 a
      ++ (if same then memRead s1 a 256 else []))) s

/-- FETCH_FRAME. -/
def execFetchFrame (p : Port) (frame : Bytes) (s : State) : Result :=
  .next (sequenced s p.val 0x08 frame (fun s r =>
    let b := r.payload
    let n := (b.length - 24) / 8
    let items := (List.range n).map (fun i => fld b (24 + 8 * i) 8)
    if b.length < 24 ∨ b.length % 8 ≠ 0 ∨ 252 < n ∨ !inRange 1 2 (fld b 8 1) ∨ !zeroAt b 9 7 then malformed s r
    else
      let s1 := frameDone s r
      if fld b 8 1 = 1 then serveBodies s1 r (fld b 16 8) items else serveLines s1 r (fld b 0 8) (fld b 16 8) items))

/-- A line's bytes have come: it is lost no longer, and its readers run again (R223). -/
def takeLine (s : State) (a : Nat) (b : Bytes) : State :=
  let line := a / 256
  if !s.lostBursts.any (fun x => x / 8 == line) then s
  else
    let readers := (s.lostReaders.filter (fun x => x.1 == line)).map (·.2)
    let s1 := { memWrite s (256 * line) b with lostBursts := s.lostBursts.filter (fun x => x / 8 != line),
                                               lostReaders := s.lostReaders.filter (fun x => x.1 != line) }
    readers.foldl reexecLaunch s1

/-- A line of a table that is resynchronised has come; with the last one the tables are whole (R273, R387). -/
def takeResync (s : State) (a : Nat) (b : Bytes) : State :=
  if !s.group.lines.contains a then s
  else
    let s1 := { writeClear s a b with group := { s.group with lines := s.group.lines.filter (· != a) } }
    if s1.group.lines.isEmpty then endResync s1 else s1

/-- REBUILD_FRAME: lines that this chip asked for and still lacks are written; a refusal sends the request to the next port. -/
def execRebuildFrame (p : Port) (frame : Bytes) (s : State) : Result :=
  .next (sequenced s p.val 0x0A frame (fun s r =>
    let b := r.payload
    let n := (b.length - 24) / 256
    let a := fld b 16 8
    let s1 := modP s p.val (fun q => { q with held := (q.held.1, q.held.2 - r.units), owed := (q.owed.1, q.owed.2 + r.units) })
    let s2 := stage s1 { recs := [], frame := some (p.val, r.seq, 0), spread := false }
    let lines := (List.range n).map (fun i => a + 256 * i)
    let mine := s2.group.fetches.any (fun f => f.1 == fld b 0 8 && (f.2 == a || lines.contains f.2))
    let s3 := { s2 with group := { s2.group with
      fetches := s2.group.fetches.filter (fun f => f.1 != fld b 0 8 || !(f.2 == a || lines.contains f.2)) } }
    if b.length < 24 ∨ (b.length - 24) % 256 ≠ 0 ∨ 7 < n ∨ !inRange 0 1 (fld b 8 1) ∨ !zeroAt b 9 7 then violation s2 p.val
    else if !mine then s2
    else if fld b 8 1 = 1 then sendFetch s3 2 s3.fe.epoch.toNat [a]
    else (List.range n).foldl (fun s i =>
      let line := slice b (24 + 256 * i) 256
      takeResync (takeLine s (a + 256 * i) line) (a + 256 * i) line) s3))

/-! ### LINK and retry (R408 to R411, R414, R430, R431) -/

/-- Sequence number `a` stands at or before `b` in the window. -/
def seqUpTo (a b : Nat) : Bool := decide ((b + 2 ^ 24 - a) % 2 ^ 24 < 2 ^ 23)

/-- An episode ends when every frame it covers is acknowledged (R411). -/
def endEpisode (now : Nat) (q : PortSt) : PortSt :=
  if q.episode.any (fun e => q.sent.any (fun f => e.covers.contains f.seq && !f.acked)) then q else overEpisode now q

/-- What a LINK tells the sender. -/
def takeLink (now : Nat) (b : Bytes) (q : PortSt) : PortSt :=
  let ack := fld b 0 3
  let through := fld b 8 3
  let sent := q.sent.map (fun f => { f with acked := f.acked || seqUpTo f.seq ack, staged := f.staged || seqUpTo f.seq through })
  let moved := sent.any (fun f => f.acked && q.sent.any (fun g => g.seq == f.seq && !g.acked))
  let q1 := endEpisode now { q with sent, progress := if moved then now else q.progress, goBack := q.goBack || bit (fld b 3 1) 0,
                                    credits := (q.credits.1 + fld b 12 2, q.credits.2 + fld b 14 2) }
  { q1 with sent := q1.sent.filter (fun f => !(f.acked && f.staged)) }

/-- LINK frames taken within one microsecond (Table Lanyard-7: one per 50 ns). -/
def linkLimit : Nat := 20

/-- LINK_FRAME. -/
def execLinkFrame (p : Port) (frame : Bytes) (s : State) : Result :=
  .next (receive s p.val 0x0F frame (fun s r =>
    let now := s.clk.elapsed
    let q := getP s p.val
    let n := if q.links.1 = now then q.links.2 + 1 else 1
    let s1 := modP s p.val (fun q => { q with links := (now, n) })
    let s2 := if linkLimit < n then violation s1 p.val else s1
    if r.payload.length ≠ 16 ∨ 1 < fld r.payload 3 1 ∨ !zeroAt r.payload 7 1 ∨ !zeroAt r.payload 11 1 then violation s2 p.val
    else if (getP s2 p.val).mode ≠ .up then s2
    else pump (modP s2 p.val (takeLink now r.payload)) p.val))

/-- LINK payload (Table Lanyard-5). -/
def linkBody (q : PortSt) : Bytes :=
  leBytes 3 ((q.rxSeq + 2 ^ 24 - 1) % 2 ^ 24) ++ leBytes 1 (if q.nak then 1 else 0) ++ leBytes 3 (if q.nak then q.rxSeq else 0) ++ zeros 1
  ++ leBytes 3 q.through ++ zeros 1 ++ leBytes 2 q.owed.1 ++ leBytes 2 q.owed.2

/-- LINK_SEND (R409). -/
def execLinkSend (p : Port) (s : State) : Result :=
  .next (let q := getP s p.val
    if q.mode ≠ .up ∨ !q.linkOwed then s
    else modP (putFrame s p.val 0x0F 0 (ownMember s) 0 (linkBody q)) p.val (fun q =>
      { q with linkOwed := false, nak := false, owed := (0, 0) }))

/-- A go-back is due: on a NAK, or after 2 µs with unacknowledged frames and no progress. -/
def goBackDue (s : State) (q : PortSt) : Bool :=
  q.mode == .up && q.sent.any (fun f => !f.acked) && (q.goBack || decide (q.progress + 2000 ≤ s.clk.elapsed))

/-- The episode cannot take another go-back (R411). -/
def episodeOver (s : State) (q : PortSt) : Bool :=
  q.episode.any (fun e => decide (8 ≤ e.goBacks) || decide (e.start + 20000 < s.clk.elapsed))

/-- GO_BACK: every unacknowledged frame goes out again, oldest first, sealed anew (R410); the ninth of an episode is a link
failure (R411). -/
def execGoBack (p : Port) (s : State) : Result :=
  .next (let q := getP s p.val
    if !goBackDue s q then s
    else if episodeOver s q then portRetrain s p.val
    else
      let now := s.clk.elapsed
      let unacked := q.sent.filter (fun f => !f.acked)
      let e : Episode := match q.episode with
        | some e => { e with goBacks := e.goBacks + 1 }
        | none => { goBacks := 1, start := now, covers := unacked.map (·.seq) }
      let s1 := countEvent (modP s p.val (fun q => { q with episode := some e, goBack := false, progress := now })) 6 1
      unacked.foldl (fun s f => putFrame s p.val f.kind (f.flags / 2 * 2 + 1) f.sender f.seq f.payload) s1)

/-- RETRY_EPISODE_FAILURE: the episode has lasted beyond 20 µs, or needs a ninth go-back (R411). -/
def execRetryEpisodeFailure (p : Port) (s : State) : Result :=
  .next (let q := getP s p.val
    match q.episode with
    | none => s
    | some e =>
      if e.start + 20000 < s.clk.elapsed ∨ (8 ≤ e.goBacks ∧ goBackDue s q) then portRetrain s p.val else s)

/-- A frame's replication timer has run out; the first episode that covers it pauses it (R430). -/
def timerOut (s : State) (q : PortSt) (f : SentFrame) : Bool :=
  let paused := !f.excused && q.episode.any (fun e => e.covers.contains f.seq)
  !f.staged && !paused && decide (f.due ≤ s.clk.elapsed)

/-- REPLICATION_TIMEOUT: LANYARD-SLOW, and an UP port goes down and trains again (R431). -/
def execReplicationTimeout (p : Port) (seq : Nat) (s : State) : Result :=
  .next (let q := getP s p.val
    match q.sent.find? (fun f => f.seq == seq) with
    | none => s
    | some f =>
      if !timerOut s q f then s
      else
        let s1 := logErr s Err.lanyardSlow noTenant p.val seq
        let due := s.clk.elapsed + 1000 * rget s Reg.replTimeout
        let s2 := modP s1 p.val (fun q => { q with sent := q.sent.map (fun g => if g.seq = seq then { g with due } else g) })
        if q.mode = .up then portRetrain s2 p.val else s2)

end Sys2Proof.Machine
end

