-- ==== Sys2Proof/Machine/Persist.lean ====
section
/-! DEFINITION. The persistence record (12_host.md R382 to R384, Table Host-5). -/

namespace Sys2Proof.Machine

/-- Its tag, TQPERS01. -/
def persistTag : Nat := 0x5451504552533031

/-- 128 bytes with their SHA-256. -/
def withDigest (b : Bytes) : Bytes := b ++ sha256 b

/-- The record before any retaining event: state NONE. -/
def noRecord : Bytes := withDigest (beBytes 8 persistTag ++ leBytes 2 1 ++ zeros 118)

/-- HST_PERSIST. -/
def persistRecord (s : State) : Bytes := if s.hst.persist.isEmpty then noRecord else s.hst.persist

/-- State codes VALID and VOID. -/
def persistState (valid : Bool) : Bytes := leBytes 2 (if valid then 1 else 2)

/-- First launch ID to be given after the event (R340). -/
def nextFirstId (s : State) : Nat := (lastBlock s).elim 1 (fun r => (r + 1) * 2 ^ 32)

/-- Write the record at an event, with the clean bits of the stacks. -/
def writePersist (s : State) (clean cause : Nat) : State :=
  let b := lastBoundary s
  let h := beBytes 8 persistTag ++ leBytes 2 1 ++ persistState (clean == 0xFF) ++ leBytes 4 (fld (persistRecord s) 12 4 + 1)
    ++ leBytes 8 (b.elim 0 (fld · 0 8)) ++ b.elim (zeros 32) (slice · 8 32) ++ leBytes 8 (nextFirstId s) ++ leBytes 8 s.clk.time.toNat
    ++ leBytes 1 clean ++ leBytes 1 cause ++ zeros 2 ++ leBytes 4 (s.fe.accordCur.elim 0 (·.id))
    ++ s.fe.accordCur.elim (zeros 32) (fun a => fit 32 a.digest) ++ zeros 16
  { s with hst := { s.hst with persist := withDigest h } }

/-- Clean bits of the record. -/
def persistClean (s : State) : Nat := fld (persistRecord s) 72 1

/-- Clear clean bits that an exit from self-refresh does not confirm (R383). -/
def confirmClean (clean : Nat) (s : State) : State :=
  let b := s.hst.persist
  if b.isEmpty then s
  else { s with hst := { s.hst with persist := withDigest (b.take 72 ++ leBytes 1 (persistClean s &&& clean) ++ slice b 73 55) } }

/-- VALID when every clean bit is 1 and C and H(C) as restored equal the record's, else VOID (R384). -/
def settlePersist (s : State) : State :=
  let b := s.hst.persist
  if b.isEmpty then s
  else
    let valid := persistClean s == 0xFF && fld b 16 8 == s.fe.epoch.toNat && slice b 24 32 == s.fe.head
    { s with hst := { s.hst with persist := withDigest (b.take 10 ++ persistState valid ++ slice b 12 116) } }

end Sys2Proof.Machine
end

