-- ==== Sys2Proof/Machine/Startup.lean ====
section
/-! DEFINITION. The phases of a boot, and what starting up leaves (17_bringup.md, 09_tables_epochs.md R268, R290, R291,
13_lanyards.md R422). -/

namespace Sys2Proof.Machine

/-! ### ROM and FW-LOAD (R526 to R528) -/

/-- Step 1: a pending activation makes the other slot active, and REVERTED is clear (DEDUCED, log 102). -/
def takePending (b : Bcb) : Bcb :=
  if b.pending then ({ b with active := 1 - b.active, pending := false, reverted := false } : Bcb).setCount (1 - b.active) 0 else b

/-- Step 3: an active image that fails R521 counts as three failed boots. -/
def checkActive (s : State) (b : Bcb) : Bcb :=
  if b.count b.active < 3 ∧ !fwAccepted s (slotImage s b.active) then b.setCount b.active 3 else b

/-- Step 2: after three failed boots the other slot, unless it too has failed; none is RECOVERY (R528). -/
def revertSlot (s : State) (b : Bcb) : Option Bcb :=
  let o := 1 - b.active
  if b.count b.active < 3 then some b
  else if b.count o < 3 ∧ fwAccepted s (slotImage s o) then some { b with active := o, reverted := true }
  else none

/-- The ROM chooses a slot, counts the boot and writes the boot control block; none is RECOVERY. -/
def chooseSlot (s : State) : Option State :=
  let old := readBcb s
  let b1 := takePending old
  match revertSlot s (checkActive s b1) with
  | none => none
  | some b =>
    let s1 := writeBcb s (b.setCount b.active (b.count b.active + 1))
    let s2 := if b.active = b1.active then s1 else logErr s1 Err.fwReverted noTenant b.active 0
    some (if b.active = old.active then s2 else msix s2 0 4)

/-- RECOVERY: step 2 of R526 has made the other slot active, and that one has failed too (R528). -/
def enterRecovery (s : State) : State :=
  let s1 := logErr s Err.fwReverted noTenant (1 - (takePending (readBcb s)).active) 0
  { s1 with glb := { s1.glb with phase := 9 } }

/-- FW-LOAD: the active slot's image runs, with the curve tables it holds (R117). -/
def loadFirmware (s : State) : State :=
  let slot := (readBcb s).active
  { s with glb := { s.glb with running := slot },
           curves := (Config.firmwareCurves (fwPayload (slotImage s slot))).filterMap (fun f => readCurveFile (sha256 f) f) }

/-! ### TRAIN (R193, R236, R529, R611) -/

/-- The 30 map bytes of a stack in a map body. -/
def mapEntry (b : Bytes) (i : Nat) : List Nat := (slice b (20 + 32 * i) 30).map (·.toNat)

/-- The map entry in force: the field map's, or the fuse map's, or one by one where neither is programmed (R523, log 8). -/
def stackEntry (s : State) (i : Nat) : List Nat :=
  if !(fieldBody s).isEmpty then mapEntry (fieldBody s) i
  else if !s.fuses.map.isEmpty then mapEntry s.fuses.map i else List.range 30

/-- Spares as manufactured: the physical pseudo-channels that the fuse map leaves out. -/
def madeSpares (s : State) (i : Nat) : List Nat :=
  let used := if s.fuses.map.isEmpty then List.range 30 else (mapEntry s.fuses.map i).map (· % 32)
  (List.range 32).filter (fun p => !used.contains p)

/-- Map one more logical pseudo-channel, onto a spare if its physical one fails training: map so far, spares left, and the
logical ones with no spare (R529). -/
def remap (bad : List Nat) (q : List Nat × List Nat × List Nat) (e : Nat) : List Nat × List Nat × List Nat :=
  let p := e % 32
  if 128 ≤ e then (q.1 ++ [p], q.2.1, q.2.2 ++ [q.1.length])
  else if bad.contains p then match q.2.1 with
    | t :: rest => (q.1 ++ [t], rest, q.2.2)
    | [] => (q.1 ++ [p], [], q.2.2 ++ [q.1.length])
  else (q.1 ++ [p], q.2.1, q.2.2)

/-- Fenced BCUs of a stack, from those of the maps. -/
def fencedOf (b : NSet) (i : Nat) : NSet := (List.range 512).filter (fun n => smem b (512 * i + n))

/-- The fenced BCUs of the field and fuse maps. -/
def mapFenced (s : State) : NSet :=
  let a := bytesSet (slice (fieldBody s) 276 512)
  let b := bytesSet (slice s.fuses.map 276 512)
  b.foldl sadd a

/-- Full training of one stack. -/
def trainStack (find : BootFind) (fenced : NSet) (s : State) (i : Nat) : State :=
  let bad := (find.pcs.filter (fun x => x / 32 == i)).map (· % 32)
  let e := stackEntry s i
  let left := (madeSpares s i).filter (fun p => !(e.map (· % 32)).contains p && !bad.contains p)
  let r := e.foldl (remap bad) ([], left, [])
  let s1 := modS s i (fun _ => { StackSt.reset with
    pcMap := r.1, spares := r.2.1, fenced := fencedOf fenced i, ready := find.ready.getLsbD i, revision := find.nbRev,
    buffer := find.nbKib, trained := nputs 0 [] 0 (List.replicate 30 (s.clk.elapsed : Int)) })
  { s1 with defects := { s1.defects with failed := r.2.2.foldl (fun f l => sadd f (32 * i + l)) s1.defects.failed } }

/-- Training without writes, as an activation reset trains its stacks. -/
def retrainStack (find : BootFind) (s : State) (i : Nat) : State :=
  modS s i (fun st => { st with ready := find.ready.getLsbD i, revision := find.nbRev, buffer := find.nbKib,
                                trained := nputs 0 [] 0 (List.replicate 30 (s.clk.elapsed : Int)) })

/-- The stack cap of a thermal class (Table Module-4). -/
def classCap (c : BitVec 2) : Nat := [64, 80, 96, 128].getD c.toNat 96
/-- NBC_BUDGET of every stack takes its reset value, the thermal class's. -/
def loadBudget (s : State) : State := (List.range 8).foldl (fun s i => rset s Reg.nbBudget (classCap s.mdl.thermClass) i) s
/-- Read THERM_CLASS and load NBC_BUDGET (R611). -/
def readClass (find : BootFind) (s : State) : State := loadBudget { s with mdl := { s.mdl with thermClass := find.therm } }

/-! ### MAP (R523, R530, R531) -/

/-- Units that fail self-test join the defect map in force (R530). -/
def selfTest (find : BootFind) (s : State) : State :=
  let engines := find.engines.foldl sadd s.defects.engines
  { s with defects := { s.defects with skeins := find.skeins.foldl sadd s.defects.skeins, engines },
           emd := { engines := (List.range 4).filter (fun e => !smem engines e) } }

/-- The skeins, engines, lanes and links of the field and fuse maps. -/
def loadMaps (s : State) : State :=
  let f := fieldBody s
  let u := s.fuses.map
  let both (off n : Nat) : NSet := (bytesSet (slice u off n)).foldl sadd (bytesSet (slice f off n))
  let s1 := { s with defects := { s.defects with skeins := both 0 17, engines := both 836 4 },
                     weave := { s.weave with permanent := both 796 40 } }
  (List.range 8).foldl (fun s p => modP s p (fun q =>
    { q with retired := BitVec.ofNat 8 (fld f (788 + p) 1) ||| BitVec.ofNat 8 (fld u (788 + p) 1) })) s1

/-- Two sites that are no skein's cannot reach each other (R64). -/
def weaveCut (s : State) : Bool :=
  !s.weave.permanent.isEmpty && otherSites.any (fun a => otherSites.any (cutOff s.weave.permanent a))

/-- R64 on the LSM being built: unreachable skeins are left out; a weave cut between other sites admits nothing. -/
def mapRoutes (s : State) : State :=
  if s.weave.permanent.isEmpty then s
  else
    let lost := skeinSites.filter (fun a => otherSites.any (cutOff s.weave.permanent a))
    let s1 := { s with defects := { s.defects with skeins := (lost.map (fun a => (Config.siteMap a).2)).foldl sadd s.defects.skeins },
                       weave := { s.weave with swapped := swappedPairs s.weave.permanent [], pendingSwap := [] } }
    if weaveCut s1 then msix (logErr (stopAdmit (raiseCond s1 condWeave) condWeave) Err.weaveDegraded noTenant 0 0) 0 5 else s1

/-- The good physical skeins of a section. -/
def goodSkeins (s : State) (sec : Nat) : List Nat :=
  ((List.range 17).map (17 * sec + ·)).filter (fun p => !smem s.defects.skeins p)

/-- The LSM that R531 builds. -/
def bootLsm (s : State) : List Nat := (List.range 128).map (fun n => (goodSkeins s (n / 16)).getD (n % 16) 0xFF)

/-- One number of the LSM that a retaining reset keeps: it goes to a spare skein, or is absent, where its skein is no longer good
(R498, log 48). -/
def keepNumber (s : State) (n : Nat) : State :=
  let p := s.weave.lsm.getD n 0xFF
  if p = 0xFF ∨ !smem s.defects.skeins p then s
  else { s with weave := { s.weave with lsm := updAt (fun _ => (spareSkein s (n / 16)).getD 0xFF) s.weave.lsm n } }

/-- Skeins as a loaded LSM leaves them: good where present, their queues and resident regions empty. -/
def loadSkeins (s : State) : State :=
  { s with skeins := (List.range 128).foldl (fun m n =>
             if s.weave.lsm.getD n 0xFF = 0xFF then m else nput SkeinSt.none m n { SkeinSt.none with mode := .good }) [],
           weave := { s.weave with retire := 0 } }

/-- Ports whose retired lanes leave no width are out of service; the others train, unless they are held down (R439, R440,
17_bringup.md). -/
def loadPorts (s : State) : State :=
  (List.range 8).foldl (fun s p =>
    let s1 := portRetrain s p
    if usableLanes (getP s p).retired = 0 then
      logErr (raiseCond s1 condLanyard) Err.lanyardDegraded noTenant p (getP s p).retired.toNat
    else s1) s

/-- Phase MAP of a full boot and of an activation. -/
def mapPhase (find : BootFind) (s : State) : State :=
  let s1 := mapRoutes (selfTest find (loadMaps s))
  let s2 := loadPorts (loadSkeins { s1 with weave := { s1.weave with lsm := bootLsm s1 } })
  let s3 := s2.defects.failed.foldl (fun s f => memoryDegraded s (f / 32) (f % 32)) s2
  persistMap (if s3.emd.engines.isEmpty then logErr (raiseCond s3 condEmd) Err.emdDegraded noTenant 0 0 else s3)

/-- Phase MAP of the other retaining resets: self-test and LSM only. -/
def remapPhase (find : BootFind) (s : State) : State :=
  let s1 := mapRoutes (selfTest find s)
  persistMap (loadPorts (loadSkeins ((List.range 128).foldl keepNumber s1)))

/-! ### STORE: splices and launch numbers (R268, R340, R422) -/

/-- The chip returns to its group: it resends its records of the current generation after the newest BOUNDARY record, and recalls
what can no longer be seized (R422). Without a group, or before LNY_MEMBER is set, it only resumes its counter (log 57). -/
def returnToGroup (s : State) : State :=
  let s1 := { s with fe := { s.fe with counter := ownCounter s } }
  if !inGroup s ∨ !s.group.memberSet then s1
  else
    let live := s.launches.flatMap (fun l => l.execs.flatMap (fun x => x.splices.filterMap (·.id)))
    let frame (r : JrnRecord) : Outgoing := { kind := r.kind, flags := 0, sender := ownMember s, payload := r.body }
    let mine := (afterBoundary (genRecs s)).filter (fun r => (r.kind == 1 || r.kind == 2) && isOwn s (fld r.body 0 8))
    let gone := (unsettled s).filter (fun id => !live.contains id)
    let frames := (mine ++ stateRecords gone 2).map frame
    let s2 := (List.range 8).foldl (fun s p => modP s p (fun q => { q with waiting := q.waiting ++ frames })) s1
    recallIds s2 gone

/-- LNY_MEMBER is set: the chip takes its place in its group (R394, R422). -/
def joinGroup (s : State) : State := returnToGroup (resumeGroup { s with group := { s.group with memberSet := true } })

/-- Launch numbering resumes after the highest block reserved, whose successor is reserved at once (R340, log 18). -/
def numberIds (s : State) : State :=
  let next := match lastBlock s with
    | none => 0
    | some r => r + 1
  let id := if next = 0 then 1 else next * 2 ^ 32
  stageOwn { s with fe := { s.fe with nextId := BitVec.ofNat 64 id, idBlock := lastBlock s } } [{ kind := 0x0B, body := leBytes 8 next }]

/-- H of an epoch: from its BOUNDARY record, from an image at it, or as the sequencer still holds it. -/
def headOf (s : State) (epoch : Nat) : Bytes :=
  match (flashRecs s).find? (fun r => r.kind == 4 && fld r.body 0 8 == epoch) with
  | some r => slice r.body 8 32
  | none => if epoch = 0 then zeros 32 else ((s.jrn.images.find? (fun i => !i.registration && i.epoch == epoch)).map (·.head)).getD s.fe.head

/-- The epoch sequencer takes C and H(C) from the last durable BOUNDARY record (R291). A boundary that a reset interrupted after its
record was durable is still to run steps 8 and 9, so C is the epoch before it until then (R290). -/
def loadSequencer (s : State) : State :=
  match lastBoundary s with
  | none => { s with fe := { s.fe with epoch := 0, head := zeros 32 } }
  | some b =>
    let e := fld b 0 8
    if s.boundary.any (fun x => manEpoch x.manifest == e) then
      { s with fe := { s.fe with epoch := BitVec.ofNat 64 (e - 1), head := headOf s (e - 1) } }
    else { s with fe := { s.fe with epoch := BitVec.ofNat 64 e, head := slice b 8 32 } }

/-! ### STORE: a boundary that a reset interrupted (R290) -/

/-- The BOUNDARY record of the boundary in progress is durable. -/
def recordKept (s : State) : Bool :=
  (flashRecs s).any (fun r => r.kind == 4 && fld r.body 0 8 == s.fe.epoch.toNat + 1)

/-- Step 5 has not begun: its writes and its pending sets are discarded. -/
def undoApply (s : State) : State :=
  let c := s.fe.epoch.toNat
  let keep (t : Table) : Table :=
    { t with retired := if t.retired = some (c + 1) then none else t.retired, pending := [],
             subjects := nmap Subject.empty (fun q => { q with inSet := 0 }) t.subjects }
  let s1 := modB s (fun b => { b with step := .apply, position := 0, refused := [] })
  { s1 with tables := (s1.tables.filter (fun t => decide (t.since ≤ c))).map keep,
            jrn := { s1.jrn with images := s1.jrn.images.filter (fun i => !i.registration || i.epoch != c + 1) } }

/-- Finish a boundary before the front end reports ready (R291): a durable record leaves steps 8 and 9, otherwise the set is
applied again from step 5. A line that is being rebuilt leaves it in progress. -/
def finishBoundary (s : State) : State :=
  match s.boundary with
  | none => s
  | some b =>
    if b.step = .gather ∨ b.step = .drain then s
    else if b.step = .record ∧ recordKept s then closeBoundary s
    else closeBoundary (b.ids.foldl (fun s _ => applyNext s) (commitIfDone (undoApply s)))

/-! ### STORE: the accord store (R533, R534) -/

/-- HOLD (R548). -/
def enterHold (s : State) (schema : Nat) : State :=
  msix (logErr { s with glb := { s.glb with phase := 8 } } Err.hold noTenant schema (parsedRange s).2) 0 4

/-- Conditions that stand on what a retaining reset keeps. -/
def standingConds (s : State) : State :=
  let s1 := if s.defects.failed.isEmpty then s else stopAdmit (raiseCond s condMemory) condMemory
  let s2 := if s1.group.behind = 0 then s1 else stopAdmit (raiseCond s1 condBoundary) condBoundary
  let s3 := if s2.jrn.full then raiseCond s2 condJournal else s2
  let s4 := if s3.emd.engines.isEmpty then raiseCond s3 condEmd else s3
  s4.tables.foldl (fun s t => if t.lost then raiseCond (modT s (tOwner t.desc) (fun c => { c with lost := true })) condTable else s) s4

/-- READY: waiting for HST_ATTACH (R385, R535, R538). -/
def becomeReady (s : State) : State :=
  let s1 := stopAdmit (standingConds s) stopAttach
  { s1 with glb := { s1.glb with phase := 5, attach := 0 }, fe := { s1.fe with polling := true } }

/-- A chip that has lost its memory of splice IDs learns them again from its journal (R418 to R421). -/
def recallKnown (s : State) : State := if s.group.known.isEmpty then relearn s s.fe.epoch.toNat else s

/-- The rest of phase STORE once the slots are loaded: the sequencer is loaded, a boundary that was interrupted is finished (R291),
and the chip returns to its group. -/
def finishStore (s : State) : State :=
  becomeReady (settlePersist (returnToGroup (numberIds (finishBoundary (recallKnown (resumeGroup (loadSequencer s)))))))

/-- Put three accords into the slots, and their program images into the accord area (R161). -/
def putSlots (s : State) (l : List (Option Accord)) : State :=
  let s1 := (List.range 3).foldl (fun s i => copyImage s i (l.getD i none)) s
  { s1 with fe := { s1.fe with accordCur := l.getD 0 none, accordPrev := l.getD 1 none, accordStaged := l.getD 2 none,
                               areas := (0, 1, 2) } }

/-- Re-encoding an accord in a schema version keeps its identifier and computation digest (R534). -/
def migrates (schema : Nat) (a : Option Accord) : Bool :=
  a.all (fun a => (readAccord (accordImage schema a)).any (fun x => x.id == a.id && x.digest == a.digest))

/-- Phase STORE: the store is parsed, and migrated where the firmware writes a higher version; what cannot be read is HOLD. An
erased store holds no accord (log 5). -/
def storePhase (s : State) : State :=
  let b := storeCopy s
  let v := fld b 16 2
  let range := parsedRange s
  if b.isEmpty then finishStore (putSlots s [])
  else if v < range.1 ∨ range.2 < v then enterHold s v
  else match readStore b with
    | none => enterHold s v
    | some l =>
      if v = range.2 then finishStore (putSlots s l)
      else if l.all (migrates range.2) then finishStore (writeStore (putSlots s l)) else enterHold s v

/-! ### Whole boots -/

/-- Images without a durable BASE-NOTE record are discarded (R463). -/
def dropImages (lost : List JrnRecord) (l : List Image) : List Image :=
  l.filter (fun i => !lost.any (fun r => r.kind == 5 && fld r.body 80 4 == i.first))

/-- Phase ROM without MODREF: the boot goes on at holdover rates (18_reset_clocks.md At start-up). -/
def findModref (find : BootFind) (s : State) : State :=
  if find.modref then s
  else logErr { s with clk := { s.clk with holdover := true, tripped := s.clk.tripped ||| 1 } } Err.clockFault noTenant 0 0

/-- A boot from phase ROM to READY, HOLD or RECOVERY (R524 to R535). -/
def fullBoot (find : BootFind) (s : State) : State :=
  match chooseSlot (findModref find s) with
  | none => enterRecovery (findModref find s)
  | some s1 =>
    let s2 := readClass find (loadFirmware s1)
    let s3 := (List.range 8).foldl (trainStack find (mapFenced s2)) { s2 with mem := [], lostBursts := [], lostReaders := [] }
    storePhase (closeSegment (mapPhase find s3))

end Sys2Proof.Machine
end

