-- ==== Sys2Proof/Machine/ResetOps.lean ====
section
/-! DEFINITION. What each reset level drains, keeps and loses (18_reset_clocks.md Table Reset-1, R553, R554, 12_host.md R379 to
R384, 20_registers.md Table Reg-16). -/

namespace Sys2Proof.Machine

/-! ### Draining -/

/-- Staged records go to flash in order; one that no segment takes stays staged. -/
def flushStaged (s : State) : State :=
  s.jrn.staged.foldl (fun s r => match writeFlash s r with
    | some s1 => s1
    | none => { s with jrn := { s.jrn with staged := s.jrn.staged ++ [r] } }) { s with jrn := { s.jrn with staged := [] } }

/-- OUTCOME writes that are not durable are given up. -/
def dropOutcomes (s : State) : State :=
  { s with jrn := { s.jrn with waiting := s.jrn.waiting.filter (fun w => !w.recs.any (fun r => r.kind == 0x0A)) } }

/-- Recall every launch whose OUTCOME record is not staged; no record is written (R381). -/
def recallRest (s : State) : State :=
  s.launches.foldl (fun s l => match l.stage with
    | .outcome _ => s
    | .finished => s
    | _ => discardAll s l.id) s

/-- Records of every tenant under R553; at a PF FLR tenant 0 receives none. -/
def drainAll (flr : Bool) (s : State) : State := (List.range 128).foldl (fun s t => drainTenant (!flr || t != 0) s t) s

/-- The near-bank steps run to their end, at most 640 ns (R228); what waited at their banks is gone with its sender. -/
def endSteps (s : State) : State := { s with hbmStacks := nmap StackSt.reset (fun q => { q with steps := [], held := [] }) s.hbmStacks }

/-! ### A retaining level loses its units (Table Reset-1, R598) -/

/-- A stack controller loses its queues, row cache and ledger. -/
def keepStack (q : StackSt) : StackSt := { q with cache := [], ledger := [], wc := [], steps := [], held := [], addends := [] }

/-- The journal controller keeps running; what had not entered staging, a drydown and the arena are gone (R463, R464). -/
def keepJournal (j : JournalSt) : JournalSt :=
  { j with waiting := [], drydown := none, images := dropImages (j.waiting.flatMap (·.recs)) j.images,
           arena := { ArenaSt.reset with state := if j.arena.state = 1 then 3 else 0 } }

/-- MSI-X and power state of a function belong to the PCIe controller. -/
def keepTenant (c : TenantSt) : TenantSt := { TenantSt.reset with msixMask := c.msixMask, msixPend := c.msixPend, d3hot := c.d3hot }

/-- Page requests that the host still answers hold their place; nothing waits for them any more (R373). -/
def dropTransfers (l : List PageReq) : List PageReq := (l.filter (·.sent)).map (fun p => { p with dead := true })

/-- The host interface; `pcie` resets the PCIe controller too, and an FLR its functions with their configuration (PRESUMED, log
23). -/
def keepHost (pcie flr : Bool) (h : HostSt) : HostSt :=
  if pcie then { HostSt.reset with persist := h.persist }
  else
    { h with rate := 0, width := 0, ptmFails := 0, atc := if flr then [] else h.atc, failed := if flr then [] else h.failed,
             requests := if flr then [] else dropTransfers h.requests, config := if flr then [] else h.config,
             numVfs := if flr then 0 else h.numVfs }

/-- Registers: RWS fields are kept, NBC_BUDGET takes the thermal class's value (R8, R598). -/
def keepRegs (s : State) : State :=
  let kept := [Reg.retention, Reg.timeSrc, Reg.errlogRead].foldl (fun m f => nput none m (f.key 0) (nget none s.regs (f.key 0))) []
  loadBudget { s with regs := kept }

/-- Every unit that Table Reset-1 names is reset; the cause and level are recorded in RST_LAST. What Table Reg-16 keeps stays, and
every other register, CLK_REF_STATUS and HST_LINK among them, takes its reset value (R598). -/
def resetUnits (pcie flr : Bool) (cause level : Nat) (s : State) : State :=
  let s1 := keepRegs ((List.range 8).foldl portRetrain s)
  { s1 with glb := { GlobalSt.reset with phase := 3, retained := true, bootAt := s.clk.elapsed, running := s.glb.running },
            fe := { FrontSt.reset with headLatch := s.fe.headLatch, epoch := s.fe.epoch, head := s.fe.head },
            tenants := if pcie || flr then [] else nmap TenantSt.reset keepTenant s.tenants,
            launches := [], skeins := [], lostReaders := [], hbmStacks := nmap StackSt.reset keepStack s.hbmStacks,
            group := { s.group with memberSet := false }, jrn := keepJournal s1.jrn,
            itg := { s.itg with audited := 0, silent := 0 }, hst := keepHost pcie flr s.hst,
            clk := { s.clk with cause := BitVec.ofNat 8 cause, level := BitVec.ofNat 8 level, armed := none, tripped := 0, holdover := false },
            tlm := { s1.tlm with counters := [], die := 0, stack := 0, power := 0 } }

/-! ### Retaining device reset (R553, R554, R357 steps 2 to 5) -/

/-- Steps 2 to 6 of R554. -/
def finishRetaining (find : BootFind) (cause : Nat) (s : State) : State :=
  let flr := cause == 4
  let s1 := writePersist (flushAll (endSteps (drainAll flr s))) find.clean.toNat cause
  storePhase (remapPhase find (resetUnits false flr cause 4 s1))

/-- The chip answers resets of the retaining levels: it is up, and no power-fail sequence runs (R570). -/
def canRetain (s : State) : Bool := [5, 6, 8].contains s.glb.phase.toNat && !s.hst.down && !s.jrn.powerFail

/-- A retaining device reset for a cause other than a hang; a running one covers it (R568). -/
def retainingReset (find : BootFind) (cause : Nat) (s : State) : State :=
  if !canRetain s ∨ s.fe.hang.isSome then s else finishRetaining find cause (startRetaining s 0 cause)

/-! ### Activation reset (R525, R542) -/

/-- A retaining device reset while an activation is pending: the stacks stay in self-refresh, the management core restarts with
the new firmware. It takes over a running retaining device reset (R568). -/
def activationReset (find : BootFind) (s : State) : State :=
  let s1 := flushStaged (flushAll (endSteps (drainAll false (startRetaining s 0 6))))
  let s2 := resetUnits true false 6 7 (writePersist s1 find.clean.toNat 6)
  match chooseSlot s2 with
  | none => enterRecovery s2
  | some s3 => storePhase (mapPhase find ((List.range 8).foldl (retrainStack find) (readClass find (loadFirmware s3))))

/-! ### Full device reset -/

/-- What the journal flash holds; the superblock carries the identity, the serial and the last trailer. -/
def flashJournal (j : JournalSt) : JournalSt :=
  { JournalSt.reset with nextSeq := j.nextSeq, identity := j.identity, serial := j.serial, lastTrailer := j.lastTrailer, ring := j.ring,
                         images := dropImages (j.waiting.flatMap (·.recs) ++ j.staged) j.images,
                         full := decide (ringSegments ≤ j.ring.length), superblocks := j.superblocks, lastImage := j.lastImage }

/-- Only the flashes, the fuses and the module survive. DEDUCED (log 58): records in staging are durable (R443), so they reach the
journal flash first. -/
def fullReset (cause : Nat) (s : State) : State :=
  let s1 := flushStaged s
  { State.reset with pending := s1.pending, out := s1.out, free := s1.free, flash := s1.flash, fuses := s1.fuses, mdl := s1.mdl,
                     glb := { GlobalSt.reset with bootAt := s1.clk.elapsed }, jrn := flashJournal s1.jrn,
                     clk := { ClockSt.reset with elapsed := s1.clk.elapsed, cause := BitVec.ofNat 8 cause } }

/-! ### Retention reset (R381) -/

/-- Phase code while the stacks are held in self-refresh. DESIGN CHOICE (log 47): TRAIN, the phase the exit runs. -/
def heldPhase : Phase := 2

/-- The chip goes into retention: staged records and write-combining buffers are written out, the stacks enter self-refresh, the
persistence record is written. -/
def enterRetention (cause : Nat) (s : State) : State :=
  let s1 := flushAll (endSteps (flushStaged (recallRest (dropOutcomes s))))
  let s2 := resetUnits true false cause 6 (writePersist s1 0xFF cause)
  { s2 with glb := { s2.glb with phase := heldPhase }, hst := { s2.hst with down := true },
            hbmStacks := (List.range 8).foldl (fun m i =>
              nmod StackSt.reset m i (fun q => { q with selfRefresh := true, clean := true })) s2.hbmStacks }

/-- Stacks whose clean bit stands. -/
def cleanStacks (s : State) : Nat := ((List.range 8).map (fun i => if (getS s i).clean then 2 ^ i else 0)).foldl (· + ·) 0

/-- PERST# is deasserted: the stacks leave self-refresh in a controlled exit, and the chip returns to READY (R383, R525). -/
def leaveRetention (find : BootFind) (s : State) : State :=
  let s1 := confirmClean (cleanStacks s &&& find.clean.toNat) s
  let s2 := { s1 with hst := { s1.hst with down := false },
                      hbmStacks := nmap StackSt.reset (fun q => { q with selfRefresh := false }) s1.hbmStacks }
  storePhase (remapPhase find s2)

/-! ### Tenant reset (R380) -/

/-- The tenant's launches: those that hold reserved entries complete as far as the journal lets them, the others end without
records, and no record that still waits is written. -/
def endTenant (s : State) (t : Nat) : State :=
  let rest := s.launches.filter (fun l => l.tenant == t && !entryReserved s l && l.stage != .finished)
  let s1 := rest.foldl (fun s l => releaseLedger (discardAll s l.id) l.id) s
  let s2 := modT { s1 with launches := s1.launches.filter (fun l => !rest.any (fun x => x.id == l.id)) } t (fun c => { c with finished := [] })
  let s3 := drainTenant true s2 t
  { s3 with launches := s3.launches.filter (fun l => l.tenant != t || smem (getT s3 t).reserved l.id) }

/-- R380. A launch whose OUTCOME record the journal does not take yet keeps its reserved entry; the reset goes on when it has
completed (log 96). -/
def tenantReset (s : State) (t : Nat) : State :=
  let s1 := endTenant s t
  if (getT s1 t).reserved.isEmpty then dropTenant s1 t else modT s1 t (fun c => { c with rings := [], resetting := true })

end Sys2Proof.Machine
end

