-- ==== Sys2Proof/Machine/Clocks.lean ====
section
/-! DEFINITION. Device time, its quality, the clock monitors and holdover (18_reset_clocks.md R558 to R572, 12_host.md R378). -/

namespace Sys2Proof.Machine

/-! ### Steps and slewing (R564) -/

/-- One second and one millisecond in ns. -/
def second : Nat := 1000000000
/-- One millisecond. -/
def millisecond : Nat := 1000000

/-- Device time as a number that saturates: it never decreases. -/
def timeNat (n : Nat) : BitVec 64 := if n < 2 ^ 64 then BitVec.ofNat 64 n else BitVec.allOnes 64

/-- A step by signed ns: at once when positive, absorbed by slow running when negative. The correction is measured from device
time as it reads, so it replaces what was left of an earlier one. -/
def stepBy (s : State) (ns : Int) : State :=
  let c := { s.clk with slew := 0, debt := if ns < 0 then ns.natAbs * 1000 else 0,
                        time := if 0 < ns then timeNat (s.clk.time.toNat + ns.toNat) else s.clk.time }
  logErr { s with clk := c } Err.timeStep noTenant (unsigned 64 ns) 0

/-- Apply a correction: at most 1 µs by slewing, a larger one as a step. -/
def correct (s : State) (ns : Int) : State :=
  if ns.natAbs ≤ 1000 then { s with clk := { s.clk with slew := ns * 1000, debt := 0 } } else stepBy s ns

/-! ### Quality (R567, Table Reset-4) -/

/-- Each change of quality sends MSI-X entry 7 of tenant 0. -/
def setQuality (s : State) (q : BitVec 2) : State :=
  if s.clk.quality = q then s
  else msix { s with clk := { s.clk with quality := q, qualityAt := s.clk.elapsed, lockedOnce := s.clk.lockedOnce || q == 0 } } 0 7

/-- The source is locked. -/
def lock (s : State) : State := setQuality s 0
/-- The source is lost: LOCKED becomes HOLDOVER. -/
def loseLock (s : State) : State :=
  let s1 := { s with clk := { s.clk with good := 0 } }
  if s.clk.quality = 0 then setQuality s1 1 else s1

/-- A new value of CLK_TIME_SRC. -/
def setSource (s : State) (v : Nat) : State :=
  let s1 := { rset s Reg.timeSrc v with clk := { s.clk with stepDue := true, nextSet := none, lastPps := none, good := 0 },
                                         hst := { s.hst with ptmFails := 0 } }
  if v = 0 then setQuality s1 2 else loseLock s1

/-! ### PTM (R378) -/

/-- PTM_DIALOGUE, one every HST_PTM_INTERVAL while PTM is the source. -/
def execPtmDialogue (correction : Option Int) (s : State) : Result :=
  .next (if rget s Reg.timeSrc ≠ 1 ∨ s.clk.elapsed < s.hst.ptmAt then s
    else
      let s1 := { s with hst := { s.hst with ptmAt := s.clk.elapsed + 1000 * rget s Reg.ptmInterval } }
      match correction, s.hst.linkUp with
      | some ns, true => lock (correct { s1 with hst := { s1.hst with ptmFails := 0 } } ns)
      | _, _ =>
        let s2 := { s1 with hst := { s1.hst with ptmFails := s1.hst.ptmFails + 1 } }
        if 3 ≤ s2.hst.ptmFails then loseLock s2 else s2)

/-! ### TBCLK and TBPPS (R566, R609) -/

/-- ns from a time to the nearest whole second. -/
def toSecond (t : Nat) : Int := (((t + 500000000) / second * second : Nat) : Int) - (t : Int)

/-- A TBPPS edge at device time `e`. -/
def ppsEdge (s : State) (e : Nat) : State :=
  let dev := toSecond e
  match s.clk.nextSet, s.clk.stepDue with
  | some v, _ => stepBy { s with clk := { s.clk with nextSet := none, stepDue := false, good := 0 } } ((v.toNat : Int) - e)
  | none, true => correct { s with clk := { s.clk with stepDue := false, good := 0 } } dev
  | none, false =>
    if dev.natAbs ≤ 100 then
      let s1 := correct { s with clk := { s.clk with good := s.clk.good + 1 } } dev
      if 3 ≤ s1.clk.good then lock s1 else s1
    else
      let s1 := { s with clk := { s.clk with good := 0 } }
      correct (if 1000 < dev.natAbs then loseLock s1 else s1) dev

/-- TBPPS_EDGE; used only under TB, while TBCLK is not in trip. The edge is sampled with a resolution of 2 ns (R609). -/
def execTbppsEdge (offset : Fin 1000) (s : State) : Result :=
  .next (if rget s Reg.timeSrc ≠ 2 then s
    else
      let s1 := { s with clk := { s.clk with lastPps := some s.clk.elapsed } }
      if s.clk.tripped.getLsbD 10 then s1 else ppsEdge s1 (s.clk.time.toNat + offset.val / 2 * 2))

/-- TBPPS_MISSING: no edge for 1.5 s. -/
def execTbppsMissing (s : State) : Result :=
  .next (if rget s Reg.timeSrc = 2 ∧ s.clk.lastPps.any (fun t => decide (t + 1500000000 ≤ s.clk.elapsed)) then
      loseLock { s with clk := { s.clk with lastPps := none } }
    else s)

/-- HOLDOVER_MAX_EXPIRY. -/
def execHoldoverMaxExpiry (s : State) : Result :=
  .next (if s.clk.quality = 1 ∧ s.clk.qualityAt + rget s Reg.holdoverMax * second ≤ s.clk.elapsed then setQuality s 2 else s)

/-- A write of CLK_TIME_SET. -/
def timeSet (s : State) (ns : BitVec 64) : State :=
  match rget s Reg.timeSrc with
  | 0 => stepBy s ((ns.toNat : Int) - s.clk.time.toNat)
  | 1 => logErr s Err.timeSetIgnored noTenant ns.toNat 0
  | _ => { s with clk := { s.clk with nextSet := some ns } }

/-- CLK_TIME_SET. -/
def execClkTimeSet (ns : BitVec 64) (s : State) : Result := .next (timeSet s ns)

/-! ### Clock monitors (R558 to R563) -/

/-- The bit of CLK_REF_STATUS of a reference. -/
def refBit : Ref → Nat
  | .modref => 0
  | .pcie => 1
  | .lny p => 2 + p.val
  | .tbclk => 10
  | .tbpps => 11

/-- A port without its reference is down until the reference returns (R440, R563). -/
def holdDown (s : State) (p : Nat) : State := retrainPort s p

/-- A PCIe event of the first row of Table Host-4. The link goes down, and PTM with it (R378); in phase ROM, in retention and
under a power-fail warning that is all. In RECOVERY there is no state to retain, and HST_RETENTION = 1 leaves the chip there
(log 44). -/
def pcieReset (cause : Nat) (s : State) : State :=
  let s0 := if rget s Reg.timeSrc = 1 then loseLock s else s
  let s1 := { s0 with hst := { s0.hst with linkUp := false } }
  if s.glb.phase = 0 ∨ s.hst.down ∨ s.jrn.powerFail then s1
  else if rget s Reg.retention = 0 then fullReset cause s1
  else if canRetain s then enterRetention cause s1
  else s1

/-- Recent trips of a reference. -/
def tripsOf (s : State) (n : Nat) : List Nat := (s.clk.trips.filter (fun t => t.1 == n)).map (·.2)

/-- CLOCK_MONITOR_TRIP: what the reference feeds goes into holdover or down; the third trip within 60 s is CLOCK-UNSTABLE. -/
def execClockMonitorTrip (ref : Ref) (s : State) : Result :=
  .next (let n := refBit ref
    let now := s.clk.elapsed
    let trips := (n, now) :: s.clk.trips.filter (fun t => decide (now ≤ t.2 + 60 * second))
    let s1 := logErr { s with clk := { s.clk with tripped := s.clk.tripped ||| BitVec.twoPow 12 n, trips } } Err.clockTrip noTenant n 0
    let s2 := if (tripsOf s1 n).length < 3 then s1 else logErr s1 Err.clockUnstable noTenant n 0
    match ref with
    | .modref => { s2 with clk := { s2.clk with holdover := true } }
    | .pcie => pcieReset 3 s2
    | .lny p => holdDown s2 p.val
    | .tbclk =>
      let s3 := { s2 with clk := { s2.clk with stepDue := true } }
      if rget s3 Reg.timeSrc = 2 then loseLock s3 else s3
    | .tbpps => s2)

/-- A reference has been clean for 10 ms, or for 60 s after its third trip within 60 s (R561, R562). -/
def refClean (s : State) (n : Nat) : Bool :=
  match tripsOf s n with
  | [] => true
  | last :: rest => decide (last + (if rest.length < 2 then 10 * millisecond else 60 * second) ≤ s.clk.elapsed)

/-- HOLDOVER_EXIT: the reference has settled. -/
def execHoldoverExit (ref : Ref) (ppm : Int) (s : State) : Result :=
  .next (let n := refBit ref
    if !s.clk.tripped.getLsbD n ∨ !refClean s n then s
    else if 200 < ppm.natAbs then (if ref = .tbclk then logErr s Err.tbclkRate noTenant (unsigned 64 ppm) 0 else s)
    else
      let s1 := { s with clk := { s.clk with tripped := s.clk.tripped &&& ~~~(BitVec.twoPow 12 n) } }
      match ref with
      | .modref => { s1 with clk := { s1.clk with holdover := false } }
      | .lny p => if (getP s1 p.val).mode = .down then portRetrain s1 p.val else s1
      | .tbclk => { s1 with clk := { s1.clk with stepDue := true } }
      | _ => s1)

/-! ### Clock faults (R571, R572) -/

/-- ODO_MISMATCH: the oscillator that agrees with MODREF is kept, the one in use while MODREF is in trip. -/
def execOdoMismatch (keepSecond : Bool) (s : State) : Result :=
  .next (let s1 := logErr s Err.clockFault noTenant 1 0
    if s.clk.tripped.getLsbD 0 then s1 else { s1 with clk := { s1.clk with odo := keepSecond } })

/-- Island number of a PLL in a CLOCK-FAULT entry. DESIGN CHOICE (log 59): sections, then stacks, then the front end. -/
def pllIsland : Pll → Nat
  | .skeinSection n => n.val
  | .stack i => 8 + i.val
  | .frontEnd => 16

/-- PLL_LOCK_FAILURE. -/
def execPllLockFailure (pll : Pll) (s : State) : Result :=
  .next (let s1 := logErr s Err.clockFault noTenant 2 (pllIsland pll)
    match pll with
    | .skeinSection n => resetSection s1 n.val
    | .stack i => memoryDegraded s1 i.val 0
    | .frontEnd => fullReset 7 s1)

end Sys2Proof.Machine
end

