-- ==== Sys2Proof/Machine/Ending.lean ====
section
/-! DEFINITION. CKPT and ENDL (15_integrity.md R486 to R488, 05_control_core.md R147, 10_streams.md R309). -/

namespace Sys2Proof.Machine

/-- Every OUT stream has sent all whole units below its ready mark (S = M, R636). -/
def outDrained (c : Core) : Bool := (openStreams c).all (fun st => !st.desc.isOut || decide (st.w = unitFloor st st.q))

/-- CKPT (R486 to R488): a checkpoint image of the execution takes the slot not written last; without room for a slot it
writes nothing. -/
def execCkpt (k : Skein) (w : MWord) (s : State) : Result :=
  .next (issueWord s k.val (legalCkpt w) w.hdr (fun e s c =>
    if !quiet c || !outDrained c then .wait
    else
      let s1 := settleTally s e.l.id e.ex
      match (findL s1 e.l.id).bind (fun l => getX l e.ex) with
      | none => .done (s, some c)
      | some x =>
        if x.ckpts.length < 2 ∧ !poolRoom s1 (ckptBytes e.l) then .done (s, some c)
        else
          let img : Ckpt := { core := c, tally := x.tally, evidence := x.evidence }
          .done (modX s1 e.l.id e.ex (fun x => { x with ckpts := img :: x.ckpts.take 1 }), some c)))

/-- Executions in the result queue of a section, and the queue's entries (Table Arch-4). -/
def resultQueue (s : State) (section_ : Nat) : Nat :=
  ((s.launches.flatMap (·.execs)).filter (fun x => x.phase == .result && x.ran / 16 == section_)).length
/-- Result queue entries. -/
def resultLimit : Nat := 16

/-- ENDL (R147, R309): once every word is complete and the OUT streams are drained, the execution's result enters the result
queue and the launch leaves the skein; its streams and media context end. -/
def execEndl (k : Skein) (w : SWord) (s : State) : Result :=
  .next (issueWord s k.val (legalBare w) w.hdr (fun e s c =>
    if !quiet c || !outDrained c || decide (resultLimit ≤ resultQueue s (k.val / 16)) then .wait
    else
      let s1 := dropCtx (settleTally s e.l.id e.ex) k.val e.l.id e.ex
      .done (modX s1 e.l.id e.ex (fun x => { x with flags := c.flags, phase := .result, skein := none, ckpts := [] }), none)))

end Sys2Proof.Machine
end

