-- ==== Sys2Proof/Machine/Resets.lean ====
section
/-! DEFINITION. Reset commands and boot (18_reset_clocks.md, 12_host.md Table Host-4, 11_submission.md R357, 17_bringup.md). -/

namespace Sys2Proof.Machine

/-! ### PCIe events (Table Host-4) -/

/-- PERST_ASSERT. -/
def execPerstAssert (s : State) : Result := .next (pcieReset 1 s)
/-- HOT_RESET. -/
def execHotReset (s : State) : Result := .next (pcieReset 2 s)
/-- DL_DOWN. -/
def execDlDown (s : State) : Result := .next (pcieReset 3 s)

/-- PERST_DEASSERT ends any PCIe reset that holds the chip in retention (log 44); a chip that a full device reset left in phase
ROM boots. -/
def execPerstDeassert (find : BootFind) (s : State) : Result :=
  .next (if s.jrn.powerFail then s
    else if s.hst.down then leaveRetention find s
    else if s.glb.phase = 0 ∧ s.mdl.powered ∧ !s.mdl.warning then fullBoot find s else s)

/-- PF_FLR: a retaining device reset in which tenant 0 receives no records. -/
def execPfFlr (find : BootFind) (s : State) : Result := .next (retainingReset find 4 s)

/-- VF_FLR: a tenant reset, which a running retaining device reset covers (R569). The function's PRI and configuration are reset
with it (PRESUMED, log 23). -/
def execVfFlr (t : Tenant) (s : State) : Result :=
  .next (if t.val = 0 then s
    else
      let s1 := if s.fe.hang.isSome then s else tenantReset s t.val
      modT { s1 with hst := { s1.hst with failed := sdel s1.hst.failed t.val, requests := s1.hst.requests.filter (fun p => p.fn != t.val),
                                          atc := s1.hst.atc.filter (fun e => e.fn != t.val),
                                          config := nput FnConfig.reset s1.hst.config t.val FnConfig.reset } } t.val (fun c => { c with d3hot := false }))

/-- D3HOT_TO_D0: no reset; the function's rings are polled again. -/
def execD3hotToD0 (fn : Tenant) (s : State) : Result := .next (modT s fn.val (fun c => { c with d3hot := false }))

/-! ### RST_CTRL (R555, R556) -/

/-- The offset of RST_CTRL, and the entry a reserved target makes. -/
def reservedTarget (s : State) (level : Nat) (target : BitVec 8) : State :=
  logErr s Err.reservedWrite noTenant 0xB00000 (level + 256 * target.toNat)

/-- Level 0x1: a skein reset that counts no event; a running retaining device reset covers it (R568). -/
def rstSkein (s : State) (target : BitVec 8) : State :=
  if s.fe.hang.isSome then s else if 128 ≤ target.toNat then reservedTarget s 1 target else resetSkein s target.toNat

/-- Level 0x2. -/
def rstSection (s : State) (target : BitVec 8) : State :=
  if s.fe.hang.isSome then s else if 8 ≤ target.toNat then reservedTarget s 2 target else resetSection s target.toNat

/-- Level 0x3. -/
def rstTenant (s : State) (target : BitVec 8) : State :=
  if s.fe.hang.isSome then s
  else if target.toNat = 0 ∨ 128 ≤ target.toNat then reservedTarget s 3 target else tenantReset s target.toNat

/-- Level 0x5 takes effect within 1,000 µs of a write of RST_ARM. -/
def rstFull (s : State) : State :=
  if s.clk.armed.any (fun t => decide (s.clk.elapsed ≤ t + millisecond)) then fullReset 8 s
  else logErr s Err.resetNotArmed noTenant 0 0

/-- RST_SKEIN. -/
def execRstSkein (target : BitVec 8) (s : State) : Result := .next (rstSkein s target)
/-- RST_SECTION. -/
def execRstSection (target : BitVec 8) (s : State) : Result := .next (rstSection s target)
/-- RST_TENANT. -/
def execRstTenant (target : BitVec 8) (s : State) : Result := .next (rstTenant s target)
/-- RST_RETAINING: an activation reset while an activation is pending, else a retaining device reset with cause 0x06. -/
def execRstRetaining (find : BootFind) (s : State) : Result :=
  .next (if !canRetain s then s else if (readBcb s).pending then activationReset find s else retainingReset find 6 s)
/-- RST_FULL. -/
def execRstFull (s : State) : Result := .next (rstFull s)
/-- RST_ARM. -/
def execRstArm (s : State) : Result := .next { s with clk := { s.clk with armed := some s.clk.elapsed } }

/-! ### Hang reset and overruns (R357, Table Reset-5) -/

/-- Steps 2 and 4 of R357 are done: no launch holds a reserved entry, no record waits. -/
def drained (s : State) : Bool := s.launches.all (fun l => !entryReserved s l) && (List.range 128).all (fun t => (getT s t).finished.isEmpty)

/-- HANG_RESET_PROCEED: step 5 of R357, once steps 2 and 4 are done, and whatever they have reached 2,000 µs after step 1. A
reset that RST_CTRL requested while an activation is pending is an activation reset. -/
def execHangResetProceed (find : BootFind) (s : State) : Result :=
  .next (match s.fe.hang with
    | none => s
    | some h =>
      let s1 := drainAll (h.cause == 4) s
      if !canRetain s then s
      else if !drained s1 ∧ s.clk.elapsed < h.start + 2 * millisecond then s1
      else if h.cause = 6 ∧ (readBcb s).pending then activationReset find s1 else finishRetaining find h.cause s1)

/-- RESET_LIMIT_OVERRUN: the next level takes over. -/
def execResetLimitOverrun (what : Overrun) (s : State) : Result :=
  .next (match what with
    | .skein k => if (getK s k.val).mode = .testing then resetSection s (k.val / 16) else s
    | .skeinSection n => if (sectionSkeins n.val).any (fun k => (getK s k).mode == .testing) then startRetaining s 0 0x0C else s
    | .retaining => match s.fe.hang with
      | none => s
      | some h => if s.clk.elapsed < h.start + 250 * millisecond then s else fullReset h.cause s)

/-! ### Boot (R526 to R538) -/

/-- POWER_ON: a powered die in phase ROM boots. -/
def execPowerOn (find : BootFind) (s : State) : Result :=
  .next (if s.mdl.powered ∧ !s.mdl.warning ∧ s.glb.phase = 0 then fullBoot find s else s)

/-- BOOT_LIMIT_EXPIRY: a boot that has reached neither READY nor HOLD in time counts as failed (Table Boot-9). -/
def execBootLimitExpiry (s : State) : Result :=
  .next (if 5 ≤ s.glb.phase.toNat ∨ s.hst.down ∨ !s.mdl.powered ∨ s.clk.elapsed < s.glb.bootAt + millisecond * rget s Reg.bootLimit then s
    else match chooseSlot s with
      | none => enterRecovery s
      | some s1 => fullReset 9 s1)

end Sys2Proof.Machine
end

