-- ==== Sys2Proof/Machine/Firmware.lean ====
section
/-! DEFINITION. Firmware slots, attestation, HOLD and attaching (17_bringup.md R539 to R551, 12_host.md R385 to R388). -/

namespace Sys2Proof.Machine

/-! ### Configuration requests (R535, R548, R551) -/

/-- The front end is ready, or HOLD answers configuration requests. -/
def answersConfig (s : State) : Bool := [5, 6, 8].contains s.glb.phase.toNat && !s.hst.down

/-- What configuration space tells of a feature of Table Host-1; nothing where the feature is not advertised (R363). -/
def advertised (fn : Nat) : Feature → List Nat
  | .linkRates => [64, 32, 16]
  | .linkWidths => [16, 8, 4]
  | .l0p | .l0s | .l1 | .aspm => []
  | .d3hot | .noSoftReset => [1]
  | .totalVfs => if fn = 0 then [127] else []
  | .firstVfOffset | .vfStride | .ari => if fn = 0 then [1] else []
  | .maxPayload => [512]
  | .maxReadRequest => [4096]
  | .tags => [768]
  | .relaxedOrdering | .ats | .pri => [1]
  | .pasidBits => [20]
  | .pasidExecute | .pasidPrivileged => []
  | .ptmRequester => if fn = 0 then [1] else []
  | .ptmResponder => []
  | .msixVectors => [16]
  | .msi | .intx => []
  | .flr | .aer => [1]
  | .resizableBar => if fn = 0 then [2] else []
  | .atomics | .tph | .doe => []

/-- A BAR of Table Host-2: size, 64-bit, prefetchable; nothing where a function has none, or its upper half stands (R364). -/
def barOf (s : State) (fn n : Nat) : List Nat :=
  match n with
  | 0 => [if fn = 0 then 2 ^ 25 else 2 ^ 12, 1, 0]
  | 2 => [if fn = 0 ∧ s.hst.fullView then 2 ^ 38 else 2 ^ 28, 1, 1]
  | _ => []

/-- Page request control: PRI that is turned on again fails no more faults at once (R374), and its reset frees what outstanding
requests hold (R373); transfers that still wait for one fail. -/
def priControl (s : State) (fn : Nat) (on reset : Bool) (alloc : Nat) : State :=
  let was := fnConfig s fn
  let s1 := modConfig s fn (fun c => { c with priOn := on, priAlloc := min alloc 256 })
  let s2 := if on ∧ !was.priOn ∨ reset then { s1 with hst := { s1.hst with failed := sdel s1.hst.failed fn } } else s1
  if !reset then sendRequests s2 fn
  else
    let gone := s2.hst.requests.filter (fun r => r.fn == fn && r.sent)
    let s3 := { s2 with hst := { s2.hst with requests := s2.hst.requests.filter (fun r => r.fn != fn || !r.sent) } }
    sendRequests (gone.foldl (fun s r => if wanted s r then failTransfer s r.launch r.what else s) s3) fn

/-- What a configuration request answers. -/
def configAnswer (s : State) (fn : Nat) : ConfigOp → List Nat
  | .feature f => advertised fn f
  | .bar n => barOf s fn n
  | .aerCounts => [(fnConfig s fn).uncorrectable, (fnConfig s fn).correctable]
  | _ => []

/-- What a configuration request changes. -/
def configEffect (s : State) (fn : Nat) : ConfigOp → State
  | .other | .feature _ | .bar _ | .aerCounts => s
  | .d3hot => modT s fn (fun c => { c with d3hot := true })
  | .pfBar2 full => if fn = 0 then { s with hst := { s.hst with fullView := full } } else s
  | .numVfs n => if fn = 0 ∧ n ≤ 127 then { s with hst := { s.hst with numVfs := n } } else s
  | .pageRequests on reset alloc => priControl s fn on reset alloc
  | .requestSizes payload readReq relaxed =>
    modConfig s fn (fun c => { c with payload := min payload 512, readReq := min readReq 4096, relaxed })

/-- CONFIG_REQUEST: Request Retry Status until the front end is ready. -/
def execConfigRequest (fn : Tenant) (op : ConfigOp) (s : State) : Result :=
  .next (if !answersConfig s then emit s (.requestRetry fn.val)
    else configEffect (emit s (.configured fn.val (configAnswer s fn.val op))) fn.val op)

/-! ### GLB_FW_CTRL (R541, Table Boot-8) -/

/-- The slot that is not active. -/
def inactiveSlot (s : State) : Nat := 1 - (readBcb s).active
/-- Set or clear the pending mark. -/
def setPending (s : State) (p : Bool) : State := writeBcb s { readBcb s with pending := p }

/-- ACTIVATE. -/
def fwActivate (s : State) : State :=
  if fwAccepted s (slotImage s (inactiveSlot s)) then setPending s true else logErr s Err.fwInvalid noTenant (inactiveSlot s) 0
/-- COMMIT-SVN. -/
def fwCommit (s : State) : State := { s with fuses := { s.fuses with counter := max s.fuses.counter (fwSvn (runningImage s)) } }

/-- ACTIVATE. -/
def execActivate (s : State) : Result := .next (fwActivate s)
/-- REVERT. -/
def execRevert (s : State) : Result := .next (setPending s true)
/-- COMMIT_SVN. -/
def execCommitSvn (s : State) : Result := .next (fwCommit s)
/-- CANCEL. -/
def execCancel (s : State) : Result := .next (setPending s false)

/-! ### Installing firmware (R540, R551) -/

/-- Write a slot. -/
def writeSlot (s : State) (slot : Nat) (b : Bytes) : State :=
  if slot = 0 then { s with flash := { s.flash with slotA := b } } else { s with flash := { s.flash with slotB := b } }

/-- An image can be written whole and passes R521. -/
def installable (s : State) (b : Bytes) : Bool := decide (b.length ≤ slotBytes) && fwAccepted s b

/-- GLB_FW_UPDATE.STATE. -/
def setFwState (s : State) (n : Nat) : State := { s with glb := { s.glb with fwState := n } }

/-- GLB_FW_UPDATE START; ignored while BUSY (R591). -/
def fwStart (s : State) : State := if s.glb.fwState = 1 then s else setFwState s 1
/-- FW_UPDATE_START. -/
def execFwUpdateStart (s : State) : Result := .next (fwStart s)

/-- FW_UPDATE_DONE: the inactive slot is written and checked. -/
def execFwUpdateDone (image : HostRead) (s : State) : Result :=
  .next (if s.glb.fwState ≠ 1 then s
    else match image with
      | .data b => setFwState (writeSlot s (inactiveSlot s) (b.take slotBytes)) (if installable s b then 2 else 3)
      | _ => setFwState s 3)

/-- PLDM_FW_UPDATE: the inactive slot; in RECOVERY either slot, and an accepted image resets both counts (R551). -/
def execPldmFwUpdate (slotB : Bool) (image : Bytes) (s : State) : Result :=
  .next (let slot := if slotB then 1 else 0
    if s.glb.phase = 0 ∨ (s.glb.phase ≠ 9 ∧ slot = (readBcb s).active) then s
    else
      let s1 := writeSlot s slot (image.take slotBytes)
      if s.glb.phase = 9 ∧ installable s image then writeBcb s1 { readBcb s1 with countA := 0, countB := 0 } else s1)

/-! ### Attestation (R539, Table Boot-7) -/

/-- A measurement block; none for a reserved index. The layout of block 3 is a DESIGN CHOICE (log 56). -/
def measurement (s : State) (index : Nat) : Option Bytes :=
  let b := runningImage s
  match index with
  | 1 => some Config.romDigest
  | 2 => some (sha384 (b.take 4096 ++ fwPayload b))
  | 3 => some (leBytes 8 s.fuses.counter ++ leBytes 4 (fwVersion b))
  | 4 => some (sha384 (mapBody s))
  | 5 => some ([s.fe.accordCur, s.fe.accordPrev, s.fe.accordStaged].flatMap (fun a => a.elim (zeros 32) (fun a => fit 32 a.digest)))
  | _ => none

/-- GET_MEASUREMENTS, from phase FW-LOAD onward. -/
def execGetMeasurements (index : BitVec 8) (s : State) : Result :=
  .next (match decide (s.glb.phase = 0), measurement s index.toNat with
    | false, some b => emit s (.spdm b)
    | _, _ => s)

/-! ### HOLD (R549, R550) -/

/-- Identifier and computation digest that a HOLD load must hold as its current accord. -/
def expectedAccord (s : State) : Option (Nat × Bytes) :=
  if s.glb.retained then some (fld (persistRecord s) 76 4, slice (persistRecord s) 80 32)
  else (((flashRecs s).filter (fun r => r.kind == 6 && fld r.body 4 4 == 2)).getLast?).map (fun r => (fld r.body 0 4, slice r.body 8 32))

/-- The accords of a store image in the firmware's highest schema version that passes every staging check. -/
def holdAccords (s : State) (b : Bytes) : Option (List (Option Accord)) :=
  if (storeGen b).isNone ∨ fld b 16 2 ≠ (parsedRange s).2 then none
  else (readStore b).bind (fun l => if l.all (fun a => a.all (fun a => (accordFault s a).isNone)) then some l else none)

/-- A HOLD load is refused. -/
def refuseHold (s : State) (id : Nat) : State :=
  logErr { s with glb := { s.glb with holdState := 3 } } Err.holdLoadMismatch noTenant id ((expectedAccord s).elim 0 (·.1))

/-- The chip leaves HOLD and continues at phase STORE. -/
def acceptHold (s : State) (l : List (Option Accord)) : State :=
  finishStore (writeStore (putSlots { s with glb := { s.glb with holdState := 2 } } l))

/-- HOLD_LOAD_START; ignored outside HOLD. -/
def execHoldLoadStart (image : HostRead) (s : State) : Result :=
  .next (if s.glb.phase ≠ 8 then s
    else match image with
      | .data b => match holdAccords s b with
        | some l =>
          let cur := l.getD 0 none
          if cur.any (fun a => (expectedAccord s).any (fun e => e.1 == a.id && e.2 == a.digest)) then acceptHold s l
          else refuseHold s (cur.elim 0 (·.id))
        | none => refuseHold s 0
      | _ => refuseHold s 0)

/-! ### HST_ATTACH (R385 to R388, R538) -/

/-- CONFIRM in phase READY, after a retaining event; a chip that is behind its group catches up first. -/
def confirm (s : State) : State :=
  if s.glb.phase ≠ 5 ∨ s.glb.attach ≠ 0 ∨ !s.glb.retained then s else catchUp (enterService s)

/-- REBUILD in phase READY: nothing is admitted until the tables have been rebuilt. -/
def rebuild (s : State) : State :=
  if s.glb.phase ≠ 5 ∨ s.glb.attach ≠ 0 then s else stopAdmit { s with glb := { s.glb with attach := 2 } } stopRebuild

/-- CONFIRM. -/
def execConfirm (s : State) : Result := .next (confirm s)
/-- REBUILD. -/
def execRebuild (s : State) : Result := .next (rebuild s)

end Sys2Proof.Machine
end

