-- ==== Sys2Proof/Machine/Matrix.lean ====
section
/-! DEFINITION. Form T words and the events of the arrays, the MVP and the tile tokens (05_control_core.md,
06_matrix_vector.md). -/

namespace Sys2Proof.Machine

/-- MMUL: D = A · B in lay order. -/
def execMmul (k : Skein) (w : TWord) (s : State) : Result :=
  .next (issueCore s k.val (legalMmul w) w.hdr (issueTile .mmul w))
/-- MMAC: D = A · B + C in lay order. -/
def execMmac (k : Skein) (w : TWord) (s : State) : Result :=
  .next (issueCore s k.val (legalMmac w) w.hdr (issueTile .mmac w))
/-- TLD: tiles D from scratch A, converted. -/
def execTld (k : Skein) (w : TWord) (s : State) : Result :=
  .next (issueCore s k.val (legalTld w) w.hdr (issueTile .tld w))
/-- TST: scratch D from tiles A, converted. -/
def execTst (k : Skein) (w : TWord) (s : State) : Result :=
  .next (issueCore s k.val (legalTst w) w.hdr (issueTile .tst w))
/-- TZERO: tiles D = +0. -/
def execTzero (k : Skein) (w : TWord) (s : State) : Result :=
  .next (issueCore s k.val (legalTzero w) w.hdr (issueTile .tzero w))
/-- TCVT: D = convert(A) with RND, SAT and SCALE. -/
def execTcvt (k : Skein) (w : TWord) (s : State) : Result :=
  .next (issueCore s k.val (legalTcvt w) w.hdr (issueTile .tcvt w))
/-- TCOPY: D = A, bit for bit (R163). -/
def execTcopy (k : Skein) (w : TWord) (s : State) : Result :=
  .next (issueCore s k.val (legalTcopy w) w.hdr (issueTile .tcopy w))

/-- TILE_TOKEN_GRANT: grants follow issue order (R170), and a job all of whose tokens are granted may finish (R173). -/
def execTileTokenGrant (k : Skein) (tile : Fin 64) (s : State) : Result :=
  .next (unitStep s k.val (grantTile tile.val))
/-- ARRAY_PASS_DONE: a pass delivers its exact sums to the chunk holder (R164, R166). -/
def execArrayPassDone (k : Skein) (job pass : Nat) (s : State) : Result :=
  .next (unitStep s k.val (passDone job pass))
/-- MVP_CHUNK_DONE: a chunk unit delivers a leaf (R168). -/
def execMvpChunkDone (k : Skein) (job m n chunk : Nat) (s : State) : Result :=
  .next (unitStep s k.val (chunkDone job m n chunk))

end Sys2Proof.Machine
end

