-- ==== Sys2Proof/Machine/Media.lean ====
section
/-! DEFINITION. The evidence media decoder and the FRAME words (16_media.md). -/

namespace Sys2Proof.Machine

/-- MEDIA-INVALID: NV and an entry, and the launch goes on (R506, R510). -/
def mediaInvalid (s : State) (e : Env) (c : Core) (mask : Flags := BitVec.allOnes 6) : Issued :=
  .done (logWord s e Err.mediaInvalid e.l.id 0 c, some (addFlags c (flNV &&& mask)))

/-- Bytes a context reserves (R503). -/
def mediaBytes (wMax hMax dpb : Nat) (deep : Bool) : Nat := (dpb + 2) * (wMax * hMax * 3 / 2 * (if deep then 2 else 1))
/-- Largest reservation (R504). -/
def mediaCap : Nat := 512 * 2 ^ 20

/-! ### Concealment (R513, R514) -/

/-- A coded frame is erroneous for a context (R513). -/
def erroneous (m : Media) (u : MediaUnit) : Bool :=
  u.broken || decide (m.wMax < u.width ∨ m.hMax < u.height ∨ m.dpb < u.buffers) || (u.depth == 10 && !m.deep)

/-- Where a context stands in its bitstream: frames output, frames that await output, the last output that was not concealed, and
whether it conceals. -/
structure Decoding where
  out     : List MediaFrame
  pending : List MediaFrame
  last    : Option MediaFrame
  conceals : Bool
  deriving DecidableEq, Repr

/-- Frames are output as decoded. -/
def Decoding.give (d : Decoding) (l : List MediaFrame) : Decoding :=
  let l' := l.map (fun f => { f with concealed := false })
  { d with out := d.out ++ l', last := l'.getLast?.or d.last }

/-- A concealed frame: the last good one's samples and size, or Wmax × Hmax of the middle value (R514, step 3). -/
def concealFrame (m : Media) (last : Option MediaFrame) : MediaFrame :=
  match last with
  | some f => { f with concealed := true }
  | none =>
    let depth := if m.deep then 10 else 8
    let mid := 2 ^ (depth - 1)
    let chroma := List.replicate ((m.wMax / 2) * (m.hMax / 2)) mid
    { width := m.wMax, height := m.hMax, depth, mono := false, concealed := true, luma := List.replicate (m.wMax * m.hMax) mid,
      cb := chroma, cr := chroma }

/-- One coded frame: decoded (R502), or concealed from an erroneous frame to the next random access point (R514). -/
def decodeUnit (m : Media) (d : Decoding) (u : MediaUnit) : Decoding :=
  if !erroneous m u && (!d.conceals || u.access) then { (d.give u.output) with pending := u.pending, conceals := false }
  else
    let d1 := { (d.give d.pending) with pending := [], conceals := true }
    if u.starts then { d1 with out := d1.out ++ [concealFrame m d1.last] } else d1

/-- The frames of a bitstream in output order; its end outputs those that await it (R508). -/
def decodeUnits (m : Media) (us : List MediaUnit) : List MediaFrame :=
  let d := us.foldl (decodeUnit m) { out := [], pending := [], last := none, conceals := false }
  (d.give d.pending).out

/-- The bitstream's output frames in output order (R502, R508, R514; log 11), once its bytes are held (R500). -/
def mediaFrames (s : State) (launch : Nat) (m : Media) : Option (List MediaFrame) :=
  match findL s launch with
  | none => none
  | some l =>
    let b := l.held.getD m.buf []
    if m.off + m.len ≤ b.length then some (decodeUnits m (Config.mediaUnits m.codec m.wMax m.hMax m.dpb m.deep (slice b m.off m.len))) else none

/-- FRAME OPEN (R503 to R506): the context is granted by the decoder. -/
def execFrameOpen (k : Skein) (w : MWord) (s : State) : Result :=
  .next (issueWord s k.val (legalFrameOpen w) w.hdr (fun e s c =>
    let off := (getX64 c w.sb).toNat
    let len := (getX64 c w.sc).toNat
    let d := e.l.desc
    let m : Media := { codec := frameCodec w, buf := frameBuf w, off, len, wMax := frameWMax w, hMax := frameHMax w,
                       dpb := frameDpb w, deep := frameDeep w, granted := false, decoded := 0, taken := 0, cur := none }
    if c.media.isSome ∨ dInputs d ≤ m.buf ∨ (dInput d m.buf).2 < off + len ∨ mediaCap < mediaBytes m.wMax m.hMax m.dpb m.deep
    then mediaInvalid s e c
    else .done (s, some { c with media := some m })))

/-- Contexts in use and the frame-pool bytes they reserve. -/
def mediaUse (s : State) : Nat × Nat :=
  ((s.skeins.flatMap (fun p => p.2.queue.filterMap (fun x => x.core.media))).filter (·.granted)).foldl
    (fun n m => (n.1 + 1, n.2 + mediaBytes m.wMax m.hMax m.dpb m.deep)) (0, 0)

/-- Change the running launch's context. -/
def modMedia (s : State) (k : Nat) (f : Media → Media) : State := modCore s k (fun c => { c with media := c.media.map f })

/-- MEDIA_CONTEXT_GRANT: a context and its frame buffers are free (R504). -/
def execMediaContextGrant (k : Skein) (s : State) : Result :=
  .next (match (running s k.val).bind (fun x => x.core.media) with
    | none => s
    | some m =>
      let u := mediaUse s
      if !m.granted ∧ u.1 < 256 ∧ u.2 + mediaBytes m.wMax m.hMax m.dpb m.deep ≤ rget s Reg.emdSize * 2 ^ 30 then
        modMedia s k.val (fun m => { m with granted := true })
      else s)

/-- An engine decodes: in service, and under PWRBRK# the first one in service alone (R603). -/
def engineRuns (s : State) (e : Nat) : Bool := smem s.emd.engines e && (!s.mdl.pwrbrk || s.emd.engines.head? == some e)

/-- FRAME_DECODE_DONE: an engine in service finishes the context's next frame, within its reservation (R503, R511). -/
def execFrameDecodeDone (k : Skein) (engine : Fin 4) (s : State) : Result :=
  .next (match running s k.val with
    | none => s
    | some x => match x.core.media with
      | none => s
      | some m => match mediaFrames s x.launch m with
        | none => s
        | some fs =>
          if m.granted ∧ engineRuns s engine.val ∧ m.decoded < fs.length
             ∧ m.decoded + (if m.cur.isSome then 1 else 0) < m.taken + m.dpb + 2 then
            modMedia s k.val (fun m => { m with decoded := m.decoded + 1 })
          else s)

/-- The samples of a frame's planes in the order of the digest, one or two bytes each (R512). -/
def frameSamples (f : MediaFrame) : Bytes :=
  (if f.mono then f.luma else f.luma ++ f.cb ++ f.cr).flatMap (leBytes (if f.depth = 10 then 2 else 1))

/-- The frame digest (R512, Table Media-4). -/
def frameDigest (codec index : Nat) (f : MediaFrame) : Bytes :=
  sha256 (beBytes 8 0x54514652414D4531 ++ leBytes 1 codec ++ leBytes 1 f.depth
          ++ leBytes 1 ((if f.mono then 1 else 0) + (if f.concealed then 2 else 0)) ++ zeros 1 ++ leBytes 4 f.width
          ++ leBytes 4 f.height ++ leBytes 4 index ++ zeros 8 ++ frameSamples f)

/-- The frame information word (Table Media-3). -/
def frameInfo (f : MediaFrame) : Nat :=
  f.width + 2 ^ 16 * f.height + 2 ^ 32 * f.depth + (if f.mono then 2 ^ 36 else 0) + (if f.concealed then 2 ^ 37 else 0)
/-- END alone. -/
def frameEnd : Nat := 2 ^ 38

/-- FRAME NEXT (R507). A frame taken before a restart is decoded again, silently (R516). -/
def execFrameNext (k : Skein) (w : MWord) (s : State) : Result :=
  .next (issueWord s k.val (legalFrameNext w) w.hdr (fun e s c =>
    match c.media with
    | none => mediaInvalid s e c
    | some m => match mediaFrames s e.l.id m with
      | none => .wait
      | some fs =>
        if !m.granted then .wait
        else match (if m.taken < 2 ^ 32 then fs[m.taken]? else none) with
          | none => .done (s, some { setX64 c w.sd (BitVec.ofNat 64 frameEnd) with media := some { m with cur := none } })
          | some f =>
            if m.decoded ≤ m.taken then .wait
            else
              let s1 := modX s e.l.id e.ex (fun x => { x with evidence := x.evidence ++ [frameDigest m.codec m.taken f] })
              .done (s1, some { setX64 c w.sd (BitVec.ofNat 64 (frameInfo f)) with
                                media := some { m with cur := some m.taken, taken := m.taken + 1 } })))

/-- Width and height of a plane: 4:2:0 halves chroma, an odd size upwards. -/
def planeSize (f : MediaFrame) (plane : Nat) : Nat × Nat :=
  if plane = 0 then (f.width, f.height) else if f.mono then (0, 0) else ((f.width + 1) / 2, (f.height + 1) / 2)

/-- A sample of a plane; outside it the middle value (R509). -/
def sampleAt (f : MediaFrame) (plane x y : Nat) : Nat :=
  let z := planeSize f plane
  let l := if plane = 0 then f.luma else if plane = 1 then f.cb else f.cr
  if x < z.1 ∧ y < z.2 then l.getD (y * z.1 + x) 0 else 2 ^ (f.depth - 1)

/-- A sample in the output format (R509). -/
def sampleOut (depth code : Nat) (m : Rnd) (v : Nat) : Nat × Flags :=
  if code = 10 then
    (unsigned 8 (((v / 2 ^ (depth - 8) : Nat) : Int) - 128), flagIf (v % 2 ^ (depth - 8) != 0) flNX)
  else convert .int16 (codeFmt code) m false 0 v

/-- FRAME READ (R509, R510). -/
def execFrameRead (k : Skein) (w : MWord) (s : State) : Result :=
  .next (issueWord s k.val (legalFrameRead w) w.hdr (fun e s c =>
    let a := (getX64 c w.sa).toNat
    let b := (getX64 c w.sb).toNat
    let wd := (getX64 c w.sc).toNat % 2 ^ 16
    let ht := (getX64 c w.sc).toNat / 2 ^ 16 % 2 ^ 16
    match c.media, c.media.bind (·.cur) with
    | some m, some i =>
      if wd = 0 ∨ ht = 0 then mediaInvalid s e c w.hdr.fmask
      else
        let size := codeWidth (frameFmt w) / 8
        let rows : List Extent := (List.range ht).map (fun r => (a + r * frameStride w, wd * size))
        match firstCause [(rows.any (fun x => outside e x.1 x.2), pfRange), (rows.any (fun x => intoResident e x.1 x.2), pfResident),
                          (a % size != 0, pfAlign)] with
        | some n => .fault n
        | none =>
          if hazard e c [] rows || !rows.all (fun x => extentReady c x.1 x.2) || decide (m.decoded ≤ i) then .wait
          else match (mediaFrames s e.l.id m).bind (fun fs => fs[i]?) with
            | none => .wait
            | some f =>
              let out := (List.range ht).map (fun r => (List.range wd).map (fun j =>
                sampleOut f.depth (frameFmt w) (codeRnd w.hdr.rnd.toNat)
                  (sampleAt f (framePlane w) (b % 2 ^ 16 + j) (b / 2 ^ 16 % 2 ^ 16 + r))))
              let c1 := (out.zip rows).foldl (fun c p => scratchWrite e c p.2.1 (p.1.flatMap (fun v => leBytes size v.1))) c
              .done (s, some (addFlags c1 (flagUnion (out.map (fun r => flagUnion (r.map (·.2)))) &&& w.hdr.fmask)))
    | _, _ => mediaInvalid s e c w.hdr.fmask))

/-- FRAME CLOSE (R510). -/
def execFrameClose (k : Skein) (w : MWord) (s : State) : Result :=
  .next (issueWord s k.val (legalFrameClose w) w.hdr (fun e s c =>
    match c.media with
    | none => mediaInvalid s e c
    | some _ => .done (s, some { c with media := none })))

/-- The event channel of a decode engine (R517). -/
def chEngine : Nat := 4

/-- ENGINE_FAILURE: the frame is decoded again on another engine; a permanent engine is retired (Table Host-3, entry 5), and with
none left EMD-DEGRADED is raised (R517, R518). -/
def execEngineFailure (engine : Fin 4) (s : State) : Result :=
  .next (if !smem s.emd.engines engine.val then s
         else
           let r := event s chEngine engine.val
           if !r.2 then r.1
           else
             let left := sdel s.emd.engines engine.val
             let s1 := msix (persistMap { r.1 with emd := { engines := left },
                                                   defects := { s.defects with engines := sadd s.defects.engines engine.val } }) 0 5
             if left.isEmpty then logErr (raiseCond s1 condEmd) Err.emdDegraded noTenant 0 0 else s1)

end Sys2Proof.Machine
end

