-- ==== Sys2Proof/Machine/Power.lean ====
section
/-! DEFINITION. Power, hold-up and heat (14_sillage.md R446 Table Sillage-4, 21_module.md R601 to R617). -/

namespace Sys2Proof.Machine

/-! ### Pins the module drives (Tables Module-1 and Module-2) -/

/-- PFW_OUT#. -/
def pinWarning : Nat := 0
/-- HOLDUP_OK, released when true. -/
def pinHoldup : Nat := 1
/-- Thermal alert, asserted when true (log 60). -/
def pinThermal : Nat := 2

/-! ### Power-fail sequence -/

/-- A launch that has finished its checks without staging its OUTCOME record is recalled (Table Sillage-4 step 1). -/
def recallUnstaged (s : State) : State :=
  s.launches.foldl (fun s l => match l.stage with
    | .decided _ => discardAll s l.id
    | .sealed _ => discardAll s l.id
    | _ => s) s

/-- The module takes a power-fail warning (R604), and the chip runs step 1. A stack that is held in self-refresh counts as clean no
longer (R383). -/
def takeWarning (s : State) : State :=
  if !s.mdl.powered ∨ s.mdl.warning then s
  else
    let s1 := emit { s with mdl := { s.mdl with warning := true }, jrn := { s.jrn with powerFail := true },
                            fe := { s.fe with polling := false },
                            hbmStacks := nmap StackSt.reset (fun q => { q with clean := false }) s.hbmStacks } (.pin pinWarning false)
    recallUnstaged (dropOutcomes (stopAdmit s1 stopPower))

/-- Step 2: the records of a tenant's launches whose OUTCOME records are staged. -/
def writeStagedRecords (s : State) (t : Nat) : State :=
  (List.range s.launches.length).foldl (fun s _ => if (sealedDue s t).isSome then writeNext s t true else s) s

/-- Steps 4 to 6. -/
def flushSequence (s : State) : State :=
  let n := stagedBytes s
  let s1 := flushStaged s
  let r : JrnRecord := { kind := 0x09, body := leBytes 8 s.clk.time.toNat ++ leBytes 8 n }
  let s2 := closeSegment ((writeFlash s1 r).getD s1)
  { s2 with jrn := { s2.jrn with superblocks := s2.jrn.superblocks + 1 } }

/-- Power is removed from the die: what is left is what a full device reset leaves. -/
def removePower (s : State) : State :=
  let s1 := fullReset 7 s
  { s1 with mdl := { s1.mdl with powered := false } }

/-- POWER_FAIL_WARNING. -/
def execPowerFailWarning (s : State) : Result := .next (takeWarning s)

/-- POWER_FAIL_FLUSH_DONE: steps 2 to 6, then the die loses its power. -/
def execPowerFailFlushDone (linkUp : Bool) (s : State) : Result :=
  .next (if !s.jrn.powerFail then s
    else
      let s1 := if linkUp then (List.range 128).foldl writeStagedRecords s else s
      removePower (flushSequence s1))

/-- INPUT_POWER_RESTORE: the input has been stable for 100 ms, and the die is powered on (R615); a running sequence ends first. -/
def execInputPowerRestore (s : State) : Result :=
  .next (if s.mdl.powered then s
    else emit { s with mdl := { s.mdl with powered := true, warning := false } } (.pin pinWarning true))

/-! ### Connector and sideband (R600, R610) -/

/-- The OAM interconnect link and its lane that lane l of lanyard port p uses (R600, Table Module-3). -/
def oamLane (p l : Nat) : Nat × Nat := (p / 2 + 1, 8 * (p % 2) + l)

/-- The 7-bit SMBus address for the value of the OAM module-identifier pins (R610). -/
def smbusAddress (identifier : Fin 8) : Nat := 0x60 + identifier.val

/-- The PLDM sensors (R610): hottest die and stack and the journal flash in °C, input voltage in mV, input power in W, usable
hold-up energy in mJ, and wear in percent of the rating. The input voltage is a free value (log 100). -/
def pldmSensors (s : State) : List Int :=
  [s.tlm.die, s.tlm.stack, s.mdl.flashTemp, Config.inputMillivolt s.clk.elapsed, s.tlm.power, s.mdl.energy,
   (100 * s.mdl.wear / ratedWear : Nat)]

/-! ### Hold-up (R606, R607, R617) -/

/-- Covered staging for a usable energy in mJ. -/
def coveredBytes (mj : Nat) : Nat := min (2 ^ 26) (3600 * mj - 12000000) / 65536 * 65536

/-- A report of the usable energy. -/
def report (s : State) (mj : Nat) : State :=
  let old := s.mdl.energy
  let s1 := { s with mdl := { s.mdl with energy := mj, reportAt := s.clk.elapsed },
                     jrn := { s.jrn with covered := BitVec.ofNat 27 (coveredBytes mj) } }
  let low := decide (mj < 20000 ∧ 20000 ≤ old)
  let s2 := if low then emit s1 (.pin pinHoldup false) else if 20000 ≤ mj ∧ old < 20000 then emit s1 (.pin pinHoldup true) else s1
  if low ∨ (mj = 0 ∧ old ≠ 0) then msix s2 0 6 else s2

/-- HOLDUP_REPORT. -/
def execHoldupReport (milliJoule : Nat) (s : State) : Result := .next (if s.mdl.powered then report s milliJoule else s)

/-- CAPACITANCE_TEST gives the energy reported from then on (log 45). -/
def execCapacitanceTest (milliJoule : Nat) (s : State) : Result := .next (if s.mdl.powered then report s milliJoule else s)

/-- HOLDUP_MONITOR_SILENT: no report for 1 s; journal records are durable only once written. -/
def execHoldupMonitorSilent (s : State) : Result :=
  .next (if !s.mdl.powered ∨ s.clk.elapsed < s.mdl.reportAt + second ∨ (s.mdl.energy = 0 ∧ s.jrn.covered = 0) then s
    else
      let s1 := { s with mdl := { s.mdl with energy := 0 }, jrn := { s.jrn with covered := 0 } }
      msix (if 20000 ≤ s.mdl.energy then emit s1 (.pin pinHoldup false) else s1) 0 6)

/-! ### Power limits (R602, R603) -/

/-- POWER_LIMIT_EXCEEDED. -/
def execPowerLimitExceeded (watt : Nat) (s : State) : Result :=
  .next { s with tlm := { s.tlm with power := watt }, mdl := { s.mdl with overPower := s.mdl.overPower || decide (760 < watt) } }

/-- POWER_LIMIT_RECOVERY. -/
def execPowerLimitRecovery (watt : Nat) (s : State) : Result :=
  .next { s with tlm := { s.tlm with power := watt }, mdl := { s.mdl with overPower := s.mdl.overPower && !decide (watt < 700) } }

/-- PWRBRK_ASSERT. -/
def execPwrbrkAssert (s : State) : Result := .next { s with mdl := { s.mdl with pwrbrk := true } }
/-- PWRBRK_RELEASE. -/
def execPwrbrkRelease (s : State) : Result := .next { s with mdl := { s.mdl with pwrbrk := false } }

/-! ### Heat (R612, R613, Table Module-5) -/

/-- Rows of Table Module-5 with their derating thresholds. -/
def derateRows : Sensor → List (Nat × Int)
  | .die => [(0, 100)]
  | .stack => [(1, 85), (2, 90)]
  | .flash => [(3, 75)]
  | .bank => [(4, 65)]

/-- Trip thresholds. -/
def tripAt : Sensor → Int
  | .die => 110
  | .stack => 100
  | .flash => 90
  | .bank => 80

/-- The sensor's reading, as TLM_TEMP and the PLDM sensors show it. -/
def readSensor (s : State) (sensor : Sensor) (c : Int) : State :=
  match sensor with
  | .die => { s with tlm := { s.tlm with die := c } }
  | .stack => { s with tlm := { s.tlm with stack := c } }
  | .flash => { s with mdl := { s.mdl with flashTemp := c } }
  | .bank => s

/-- Set the derating actions in force; the thermal alert is asserted while there is one. -/
def setDerates (s : State) (d : NSet) : State :=
  let s1 := { s with mdl := { s.mdl with derates := d } }
  if d.isEmpty = s.mdl.derates.isEmpty then s1 else emit s1 (.pin pinThermal (!d.isEmpty))

/-- Derating actions that a reading starts; each sends MSI-X entry 6. -/
def startDerates (s : State) (sensor : Sensor) (c : Int) : State :=
  let rows := (derateRows sensor).filter (fun r => decide (r.2 ≤ c) && !smem s.mdl.derates r.1)
  rows.foldl (fun s r => msix (setDerates s (sadd s.mdl.derates r.1)) 0 6) (readSensor s sensor c)

/-- THERMAL_DERATE. -/
def execThermalDerate (sensor : Sensor) (celsius : Int) (s : State) : Result :=
  .next (if s.mdl.powered then startDerates s sensor celsius else s)

/-- THERMAL_DERATE_END: the sensor is 5 °C below a threshold. -/
def execThermalDerateEnd (sensor : Sensor) (celsius : Int) (s : State) : Result :=
  .next (if !s.mdl.powered then s
    else ((derateRows sensor).filter (fun r => decide (celsius + 5 ≤ r.2))).foldl
      (fun s r => setDerates s (sdel s.mdl.derates r.1)) (readSensor s sensor celsius))

/-- THERMAL_TRIP: a power-fail warning, whose sequence ends with power removed; a running sequence absorbs it. -/
def execThermalTrip (sensor : Sensor) (celsius : Int) (s : State) : Result :=
  .next (if !s.mdl.powered ∨ celsius < tripAt sensor then s
    else
      let s1 := startDerates s sensor celsius
      if s1.mdl.warning then s1 else takeWarning (msix s1 0 6))

end Sys2Proof.Machine
end

