-- ==== Sys2Proof/Machine/RegRead.lean ====
section
/-! DEFINITION. Reading BAR0 (20_registers.md R585 to R591, Tables Reg-1 to Reg-15, 12_host.md R390). -/

namespace Sys2Proof.Machine

/-! ### Helpers -/

/-- Word j of 8 bytes of a byte string. -/
def wordAt (b : Bytes) (j : Nat) : Nat := fld b (8 * j) 8

/-- A mask of `n` low bits. -/
def ones (n : Nat) : Nat := 2 ^ n - 1

/-- The read-only part of one 8-byte register: the bits it has, and what they read. -/
abbrev RoWord := Option (Nat × Nat)

/-- The first of some byte ranges (start, bytes) that holds an offset: a word of it, all of whose bits are listed. -/
def inRanges (o : Nat) (l : List (Nat × Bytes)) : RoWord :=
  (l.find? (fun r => decide (r.1 ≤ o ∧ o < r.1 + r.2.length))).map (fun r => (ones 64, wordAt r.2 ((o - r.1) / 8)))

/-- A bit as a number. -/
def bitNat (b : Bool) : Nat := if b then 1 else 0

/-! ### Global and front end (Tables Reg-2 and Reg-3) -/

/-- GLB_STATUS. -/
def glbStatus (s : State) : Nat :=
  let b := readBcb s
  let p := s.glb.phase.toNat
  p + 2 ^ 4 * bitNat (inRange 5 6 p && s.fe.hang.isNone) + 2 ^ 5 * bitNat s.glb.retained + 2 ^ 6 * bitNat (admitting s && p == 6)
  + 2 ^ 7 * bitNat s.glb.locked + 2 ^ 8 * s.glb.conds.toNat + 2 ^ 16 * b.active + 2 ^ 17 * bitNat b.pending + 2 ^ 18 * bitNat b.reverted

/-- The curve file that GLB_CURVE_SEL shows. -/
def shownCurve (s : State) : Bytes := ((s.curves.find? (fun c => c.version == rget s Reg.curveVersion)).map (·.file)).getD []

/-- GLB_CURVE_HELD. -/
def curvesHeld (s : State) : Bytes := fit 32 ((s.curves.foldl (fun l c => sadd l c.version) []).flatMap (leBytes 2))

/-- Read-only parts of the GLB_ block. -/
def roGlb (s : State) (o : Nat) : RoWord :=
  match o with
  | 0x0000 => some (ones 32, 0x40 + 2 ^ 16 * Config.stepping.toNat + 2 ^ 24)
  | 0x0008 => some (ones 19, glbStatus s)
  | 0x0028 => some (7 * 2 ^ 33, s.glb.fwState * 2 ^ 33)
  | 0x0038 => some (7 * 2 ^ 33, s.glb.holdState * 2 ^ 33)
  | 0x0080 => some (ones 32 * 2 ^ 32, (shownCurve s).length % 2 ^ 32 * 2 ^ 32)
  | _ =>
    if 0x10000 ≤ o ∧ o < 0x20000 then some (ones 64, wordAt (fit 8 (slice (shownCurve s) (rget s Reg.curvePage * 65536 + (o - 0x10000)) 8)) 0)
    else inRanges o [(0x60, curvesHeld s)]

/-- The identifier in an accord slot, 0 when empty. -/
def slotId (a : Option Accord) : Nat := a.elim 0 (·.id)

/-- Read-only parts of the FE_ block. -/
def roFe (s : State) (o : Nat) : RoWord :=
  match o with
  | 0x0000 => some (ones 64, s.fe.epoch.toNat)
  | 0x0008 => some (ones 13, s.launches.length)
  | 0x0050 => some (ones 64, slotId s.fe.accordCur + 2 ^ 32 * slotId s.fe.accordPrev)
  | 0x0058 => some (ones 32, slotId s.fe.accordStaged)
  | 0x0068 => some (7 * 2 ^ 33, s.fe.stageState * 2 ^ 33)
  | 0x0078 => some (7 * 2 ^ 32, s.fe.tableState * 2 ^ 32)
  | _ => inRanges o [(0x20, fit 32 s.fe.headLatch)]

/-! ### Host interface, stacks, weave, lanyards (Tables Reg-4 to Reg-7) -/

/-- HST_RESERVED_MAP. -/
def mapWords (s : State) : Bytes := (reservedMap s).flatMap (fun r => leBytes 8 r.1 ++ leBytes 8 r.2)

/-- Read-only parts of the HST_ block. -/
def roHst (s : State) (o : Nat) : RoWord :=
  match o with
  | 0x0020 => some (3 * 2 ^ 2, s.glb.attach * 2 ^ 2)
  | 0x0028 => some (ones 9, s.hst.rate.toNat + 2 ^ 4 * s.hst.width.toNat)
  | _ => inRanges o [(0x40, mapWords s), (0x100, fit 160 (persistRecord s))]

/-- MEM_PC_MAP: the map with its failure marks, then the unused spares, 0xFF where one is consumed. -/
def pcMapBytes (s : State) (i : Nat) : Bytes :=
  let left := (getS s i).spares
  (stackMapBytes s i).take 30 ++ ((List.replicate (2 - left.length) 0xFF ++ left).take 2).flatMap (leBytes 1)

/-- MEM_REBUILD. -/
def rebuildWord (q : StackSt) : Nat := q.rebuild.head?.elim 0 (fun r => 1 + 2 * r.lpc + 2 ^ 8 * r.cursor)

/-- NBC_FENCED: the fenced BCUs by logical pseudo-channel. -/
def fencedBits (q : StackSt) : Bytes :=
  setBytes 64 ((List.range 480).filter (fun n => smem q.fenced (16 * q.pcMap.getD (n / 16) 0 + n % 16)))

/-- Read-only parts of the page of stack i. -/
def roStack (s : State) (i o : Nat) : RoWord :=
  let q := getS s i
  match o with
  | 0x0020 => some (ones 56 * 2 ^ 8 + 63, rebuildWord q)
  | 0x0108 => some (ones 16 - 14, bitNat q.ready + 2 ^ 4 * q.revision.toNat + 2 ^ 8 * q.buffer.toNat)
  | 0x0148 => some (ones 32, fld (fencedBits q) 56 4)
  | _ => inRanges o [(0x00, pcMapBytes s i), (0x110, (fencedBits q).take 56)]

/-- WV_SITE_MAP. -/
def siteBytes : Bytes := (List.range 160).flatMap (fun i => leBytes 1 (Config.siteMap i).1 ++ leBytes 1 (Config.siteMap i).2)

/-- Read-only parts of the WV_ block. -/
def roWeave (s : State) (o : Nat) : RoWord :=
  if 0x100 ≤ o ∧ o < 0x240 then some (ones 64, wordAt siteBytes ((o - 0x100) / 8))
  else if o = 0x420 then some (ones 38, fld (setBytes 40 s.weave.permanent) 32 8)
  else inRanges o [(0x300, s.weave.lsm.flatMap (leBytes 1)), (0x380, leBytes 16 s.weave.retire.toNat),
                   (0x400, (setBytes 40 s.weave.permanent).take 32)]

/-- LNY_PORT_STATUS.STATE. -/
def portCode : PortMode → Nat
  | .down => 0
  | .training => 1
  | .hello => 2
  | .up => 3
  | .quarantined => 4
  | .outOfService => 5

/-- Read-only parts of the page of port p; the device-wide registers lie in that of port 0. -/
def roPort (s : State) (p o : Nat) : RoWord :=
  let q := getP s p
  match o with
  | 0x0008 => some (0xFF0F1F07, portCode q.mode + 2 ^ 8 * q.partner + 2 ^ 16 * q.lanes + 2 ^ 24 * q.retired.toNat)
  | 0x0010 => some (ones 64, q.violations.toNat)
  | 0x8020 => if p = 0 then some (ones 37, groupGen s + 2 ^ 32 * s.group.anchor) else none
  | 0x8028 => if p = 0 then some (ones 32, s.group.term) else none
  | _ => none

/-! ### Journal, integrity, media, clocks, resets (Tables Reg-8 to Reg-10) -/

/-- Read-only parts of the JRN_ block. -/
def roJournal (s : State) (o : Nat) : RoWord :=
  let j := s.jrn
  match o with
  | 0x0000 => some (ones 27, j.covered.toNat)
  | 0x0040 => some (ones 56 * 2 ^ 8 + 15, j.exportState + 2 ^ 8 * (j.exportDone.toNat % 2 ^ 56))
  | 0x0048 => some (ones 11, j.ring.length)
  | 0x0050 => some (ones 64, (j.ring.head?.map (·.serial)).getD 0)
  | 0x0058 => some (ones 64, (((j.ring.filter (·.closed)).getLast?).map (·.serial)).getD 0)
  | 0x0060 => some (ones 64, ((newestImage s).map (·.epoch)).getD 0)
  | 0x0068 => some (ones 32, ((newestImage s).map (·.first)).getD 0)
  | 0x0118 => some (0xFF07, j.arena.state + 2 ^ 8 * j.arena.reason)
  | 0x0120 => some (ones 64, j.arena.epoch.toNat)
  | _ => inRanges o [(0x128, fit 32 j.arena.headLatch)]

/-- Read-only parts of the ITG_ and EMD_ blocks. -/
def roItg (s : State) (o : Nat) : RoWord :=
  match o with
  | 0x0010 => some (ones 64, s.itg.audited.toNat)
  | 0x0018 => some (ones 64, s.itg.silent.toNat)
  | _ => none

/-- EMD_STATUS. -/
def roEmd (s : State) (o : Nat) : RoWord :=
  match o with
  | 0x0010 => some (ones 13, leNat (setBytes 1 s.emd.engines) + 2 ^ 4 * (mediaUse s).1)
  | _ => none

/-- Read-only parts of the CLK_ and RST_ blocks. -/
def roClk (s : State) (o : Nat) : RoWord :=
  match o with
  | 0x0000 => some (ones 64, s.clk.time.toNat)
  | 0x0008 => some (3, s.clk.qualityLatch.toNat)
  | 0x0028 => some (0x10FFF, s.clk.tripped.toNat + 2 ^ 16 * bitNat s.clk.holdover)
  | _ => none

/-- RST_LAST. -/
def roRst (s : State) (o : Nat) : RoWord :=
  match o with
  | 0x0010 => some (0xFFFF, s.clk.cause.toNat + 2 ^ 8 * s.clk.level.toNat)
  | _ => none

/-! ### Telemetry and error log (Tables Reg-11, Reg-14) -/

/-- An error-log entry. -/
def entryBytes (n : Nat) (e : LogEntry) : Bytes :=
  leBytes 8 n ++ leBytes 8 e.time.toNat ++ leBytes 2 e.code ++ leBytes 1 e.quality.toNat ++ leBytes 1 e.tenant ++ leBytes 8 e.detailA.toNat
  ++ leBytes 4 e.detailB.toNat

/-- One slot of the log window. -/
def slotBytesOf (s : State) (i : Nat) : Bytes := (nget none s.tlm.log i).elim (zeros 32) (fun e => entryBytes e.1 e.2)

/-- TLM_TEMP. -/
def tempWord (s : State) : Nat := unsigned 8 s.tlm.die + 2 ^ 8 * unsigned 8 s.tlm.stack + 2 ^ 16 * (s.tlm.power % 2 ^ 16)

/-- Read-only parts of the TLM_ block. -/
def roTlm (s : State) (o : Nat) : RoWord :=
  if o = 0x200 then some (ones 32, tempWord s)
  else if 0x100 ≤ o ∧ o < 0x140 then some (ones 48, nget 0 s.tlm.counters ((o - 0x100) / 8))
  else if o = 0x10000 then some (ones 64, s.tlm.next)
  else if o = 0x10008 then some (ones 64, s.tlm.drop)
  else if 0x10100 ≤ o ∧ o < 0x30100 then some (ones 64, wordAt (slotBytesOf s ((o - 0x10100) / 32)) ((o - 0x10100) % 32 / 8))
  else none

/-! ### Tenant pages (Table Reg-12) -/

/-- Read-only parts of tenant t's page. TNT_STATUS[4] reads 0: nothing disables a completion ring by fault (log 63). -/
def roTenant (s : State) (t o : Nat) : RoWord :=
  let c := getT s t
  match o with
  | 0x090 =>
    let halted := ((List.range 4).map (fun r => bitNat (getR c r).halted * 2 ^ r)).foldl (· + ·) 0
    some (63, halted + 2 ^ 5 * bitNat c.lost)
  | 0x098 => some (ones 13, (s.launches.filter (fun l => l.tenant == t)).length)
  | _ => if 0x0A0 ≤ o ∧ o < 0x0C0 then some (ones 32, (getR c ((o - 0x0A0) / 8)).consumed.toNat) else none

/-! ### The whole map (Table Reg-1) -/

/-- The read-only part of the register at an 8-byte offset. -/
def roWord (s : State) (off : Nat) : RoWord :=
  if off < 0x100000 then roGlb s off
  else if off < 0x200000 then roFe s (off - 0x100000)
  else if off < 0x400000 then roHst s (off - 0x200000)
  else if off < 0x480000 then roStack s ((off - 0x400000) / 0x10000) (off % 0x10000)
  else if off < 0x500000 then none
  else if off < 0x600000 then roWeave s (off - 0x500000)
  else if off < 0x680000 then roPort s ((off - 0x600000) / 0x10000) (off % 0x10000)
  else if off < 0x700000 then none
  else if off < 0x800000 then roJournal s (off - 0x700000)
  else if off < 0x900000 then roItg s (off - 0x800000)
  else if off < 0xA00000 then roEmd s (off - 0x900000)
  else if off < 0xB00000 then roClk s (off - 0xA00000)
  else if off < 0xC00000 then roRst s (off - 0xB00000)
  else if off < 0xD00000 then roTlm s (off - 0xC00000)
  else if 0x1000000 ≤ off ∧ off < 0x1080000 then roTenant s ((off - 0x1000000) / 0x1000) (off % 0x1000)
  else none

/-- The copy of a field that lies in the register at an offset. -/
def RegField.copyAt (f : RegField) (off : Nat) : Option Nat :=
  if f.stride = 0 then (if f.off = off then some 0 else none)
  else if f.off ≤ off ∧ (off - f.off) % f.stride = 0 ∧ (off - f.off) / f.stride < f.count then some ((off - f.off) / f.stride)
  else none

/-- The fields of a register that a write changes or that act, with their copies. -/
def fieldsAt (off : Nat) : List (RegField × Nat) := Reg.all.filterMap (fun f => (f.copyAt off).map (fun i => (f, i)))

/-- What a field reads: W1S and ENABLE bits report the state they set, WO reads 0. -/
def fieldVal (s : State) (f : RegField) (i : Nat) : Nat :=
  match f.acc, f.act with
  | .wo, _ => 0
  | _, .setupLock => bitNat s.glb.locked
  | _, .sqEnable r => bitNat (getR (getT s i) r).enabled
  | _, .cqEnable => bitNat (getT s i).cqOn
  | _, _ => rget s f i

/-- All 64 bits of the register at an offset; an unlisted offset reads 0 (R588, R589). -/
def readWord (s : State) (off : Nat) : Nat :=
  ((fieldsAt off).map (fun p => fieldVal s p.1 p.2 * 2 ^ p.1.lo)).foldl (· + ·) ((roWord s off).elim 0 (·.2))

/-- A table lists the register. -/
def listed (s : State) (off : Nat) : Bool := (roWord s off).isSome || !(fieldsAt off).isEmpty

/-! ### Accesses -/

/-- Tenant recorded for an access of a function: none for the PF. -/
def fnTenant (fn : Nat) : Nat := if fn = 0 then noTenant else fn

/-- The PF offset of an access of a function's BAR0 (R585, Table Host-2); none outside a VF's 4 KiB. -/
def pfOffset (fn off : Nat) : Option Nat :=
  if fn = 0 then some off else if off < 0x1000 then some (0x1000000 + 0x1000 * fn + off) else none

/-- BAR0 of a function is served: from phase READY on, and tenant 0's in HOLD (R535, R548). -/
def bar0Served (s : State) (fn : Nat) : Bool :=
  !s.hst.down && (inRange 5 6 s.glb.phase.toNat || (s.glb.phase == 8 && fn == 0))

/-- A size and alignment that R586 allows. -/
def aligned (off size : Nat) : Bool := (size == 4 || size == 8) && off % size == 0

/-- Reads that latch (R590). -/
def latch (s : State) (off : Nat) : State :=
  match off with
  | 0x100000 => { s with fe := { s.fe with headLatch := s.fe.head } }
  | 0x700120 => { s with jrn := { s.jrn with arena := { s.jrn.arena with headLatch := s.jrn.arena.head } } }
  | 0xA00000 => { s with clk := { s.clk with qualityLatch := s.clk.quality } }
  | _ => s

/-- One BAR0 read. -/
def bar0Read (s : State) (fn off size : Nat) : State :=
  match pfOffset fn off with
  | none => s
  | some o =>
    if !bar0Served s fn then emit s (.completion fn none)
    else if s.fe.hang.isSome then emit s (.completerAbort fn)
    else if !aligned off size then emit (logErr s Err.regAccess (fnTenant fn) o size) (.completion fn none)
    else
      let base := o / 8 * 8
      let s1 := latch s base
      emit s1 (.completion fn (some (leBytes size (readWord s1 base / 2 ^ (8 * (o % 8)) % 2 ^ (8 * size)))))

/-- REG_ACCESS: a BAR0 read. -/
def execRegAccess (fn : Tenant) (off : BitVec 25) (size : Nat) (s : State) : Result := .next (bar0Read s fn.val off.toNat size)
/-- FE_EPOCH_READ: tenant 0 reads FE_EPOCH, which latches FE_CHAIN_HEAD. -/
def execFeEpochRead (s : State) : Result := .next (bar0Read s 0 0x100000 8)
/-- JRN_ARENA_EPOCH_READ latches JRN_ARENA_HEAD. -/
def execJrnArenaEpochRead (s : State) : Result := .next (bar0Read s 0 0x700120 8)
/-- CLK_TIME_READ latches CLK_TIME_QUALITY. -/
def execClkTimeRead (s : State) : Result := .next (bar0Read s 0 0xA00000 8)

end Sys2Proof.Machine
end

