-- ==== Sys2Proof/Machine/RegWrite.lean ====
section
/-! DEFINITION. Writing BAR0 (00_scope.md R6 to R14, 20_registers.md R586 to R596, 11_submission.md R323, R324). -/

namespace Sys2Proof.Machine

/-! ### Rings (R323, R324, R355) -/

/-- Enable a submission ring: its base and size take effect, and C, T and the cancel mark start at TNT_SQ_CTRL.START. Rings cannot
be enabled in HOLD, nor while a tenant reset is under way. -/
def enableRing (s : State) (t r : Nat) : State :=
  if (getR (getT s t) r).enabled ∨ !inRange 5 6 s.glb.phase.toNat ∨ (getT s t).resetting then s
  else
    let start := BitVec.ofNat 32 (rget s (Reg.sqStart r) t)
    let base := rget s (Reg.sqBase r) t
    let size := 2 ^ rget s (Reg.sqLog r) t
    modR s t r (fun _ => { RingSt.off with enabled := true, consumed := start, tail := start, cancel := start, base, size })

/-- Disable a submission ring; what it has not admitted is forgotten. -/
def disableRing (s : State) (t r : Nat) : State := modR s t r (fun q => { RingSt.off with consumed := q.consumed })

/-- Enable the completion ring: its base and size take effect, and the next record takes the starting sequence number. DESIGN CHOICE
(log 98): the completion consumed mark takes it too. -/
def enableCq (s : State) (t : Nat) : State :=
  if (getT s t).cqOn ∨ !inRange 5 6 s.glb.phase.toNat ∨ (getT s t).resetting then s
  else
    let start := BitVec.ofNat 32 (rget s Reg.cqStart t)
    modT s t (fun c => { c with cqOn := true, cqNext := start, cqSeen := start, cqBase := rget s Reg.cqBase t,
                                cqSize := 2 ^ rget s Reg.cqLog t })

/-- Disable the completion ring. -/
def disableCq (s : State) (t : Nat) : State := modT s t (fun c => { c with cqOn := false })

/-- SQ_ENABLE. -/
def execSqEnable (t : Tenant) (r : Ring) (s : State) : Result := .next (enableRing s t.val r.val)
/-- CQ_ENABLE. -/
def execCqEnable (t : Tenant) (s : State) : Result := .next (enableCq s t.val)

/-! ### Set-up lock (R593) -/

/-- The first overlap among the ranges of HST_RESERVED_MAP and the tables: the details of a SETUP-OVERLAP entry. -/
def setupOverlap (s : State) : Option (Nat × Nat) :=
  let m := ((reservedMap s).zip (List.range 4)).map (fun p => (Region.bytes p.1.1 (p.1.1 + p.1.2), p.2))
  let pairs := m.flatMap (fun x => m.filterMap (fun y => if x.2 < y.2 ∧ x.1.meets y.1 then some (x.2 + 256 * y.2, 0) else none))
  let tables := m.flatMap (fun x => s.tables.filterMap (fun t =>
    if (tableExtent t.desc).any (·.meets x.1) then some (x.2 + 256 * 0xFF, tHandle t.desc) else none))
  (pairs ++ tables).head?

/-- Set the lock, unless something overlaps. -/
def setLock (s : State) : State :=
  match setupOverlap s with
  | some d => logErr s Err.setupOverlap noTenant d.1 d.2
  | none => { s with glb := { s.glb with locked := true } }

/-- SETUP_LOCK. -/
def execSetupLock (s : State) : Result := .next (if s.glb.locked then s else setLock s)

/-! ### One field of a write -/

/-- A write as it reaches an 8-byte register: its offset, the bits it covers and its data in place, the tenant of its entries. -/
structure RegWrite where
  off    : Nat
  first  : Nat
  bits   : Nat
  data   : Nat
  tenant : Nat

/-- What a write met: a locked field, reserved bits or values, a ring that is enabled. -/
structure WriteNote where
  locked   : Bool
  reserved : Bool
  busy     : Option Nat

/-- The write carries bits of a field. -/
def RegWrite.covers (w : RegWrite) (f : RegField) : Bool := decide (max f.lo w.first < min (f.lo + f.width) (w.first + w.bits))

/-- The value a field would have: the bits the write does not carry stay (R589). -/
def RegWrite.value (w : RegWrite) (f : RegField) (old : Nat) : Nat :=
  let a := max f.lo w.first
  let n := min (f.lo + f.width) (w.first + w.bits) - a
  old - old / 2 ^ (a - f.lo) % 2 ^ n * 2 ^ (a - f.lo) + w.data / 2 ^ a % 2 ^ n * 2 ^ (a - f.lo)

/-- A value is legal for copy i of a field (R14): its own legal values, and the window inside the grant (R366). -/
def legalValue (s : State) (f : RegField) (i v : Nat) : Bool :=
  f.ok v && (match f.act with
    | .winBase => decide (rget s Reg.grantBase i ≤ v ∧ v < rget s Reg.grantBase i + rget s Reg.grantLen i)
    | .grantBase => decide (v + rget s Reg.grantLen i ≤ 720)
    | .grantLen => decide (rget s Reg.grantBase i + v ≤ 720)
    | _ => true)

/-- The enabled ring that a field shapes, by its number in a RING-BUSY entry. -/
def busyRing (s : State) (f : RegField) (i : Nat) : Option Nat :=
  match f.act with
  | .sqShape r => if (getR (getT s i) r).enabled then some r else none
  | .cqShape => if (getT s i).cqOn then some 4 else none
  | _ => none

/-- Fields whose value lives elsewhere in the state, or that act when written. -/
def acts (f : RegField) : Bool :=
  f.acc == .wo || (match f.act with
    | .setupLock => true
    | .portEnable => true
    | .member => true
    | .timeSrc => true
    | .sqEnable _ => true
    | .cqEnable => true
    | _ => false)

/-- Store one plain field, or note why not. -/
def storeField (w : RegWrite) (p : State × WriteNote) (x : RegField × Nat) : State × WriteNote :=
  let f := x.1
  let i := x.2
  let old := fieldVal p.1 f i
  let v := w.value f old
  if !w.covers f then p
  else if f.acc = .rwl ∧ p.1.glb.locked then (p.1, { p.2 with locked := true })
  else if v ≠ old ∧ (busyRing p.1 f i).isSome then (p.1, { p.2 with busy := busyRing p.1 f i })
  else if !legalValue p.1 f i v then (if f.acc = .wo ∧ v = 0 then p else (p.1, { p.2 with reserved := true }))
  else if acts f ∨ v = old then p
  else (rset p.1 f v i, p.2)

/-! ### Fields that act (R589, R591) -/

/-- A write that enables a ring carries no reserved value for the ring's size or start: with one, the ring does not enable (R14,
Table Submit-10). -/
def shapeLegal (w : RegWrite) (s : State) (i : Nat) : Bool :=
  (fieldsAt w.off).all (fun x => match x.1.act with
    | .sqShape _ | .cqShape => !w.covers x.1 || legalValue s x.1 i (w.value x.1 (fieldVal s x.1 i))
    | _ => true)

/-- The state after a command that always goes on. -/
def after (s : State) (r : Result) : State :=
  match r with
  | .next s1 => s1
  | _ => s

/-- RST_CTRL. A level 0x4 starts the reset here; HANG_RESET_PROCEED finishes it (log 50). -/
def rstCtrl (s : State) (level target : Nat) : State :=
  match level with
  | 1 => rstSkein s (BitVec.ofNat 8 target)
  | 2 => rstSection s (BitVec.ofNat 8 target)
  | 3 => rstTenant s (BitVec.ofNat 8 target)
  | 4 => startRetaining s 0 6
  | 5 => rstFull s
  | _ => s

/-- What a field does on a value written to it. A TABLE-REGISTER and a HOLD load act through their own commands, which carry what
they read from host memory (log 50). -/
def actOn (w : RegWrite) (s : State) (f : RegField) (i v : Nat) : State :=
  let port (h : i < 8) : Port := ⟨i, h⟩
  match f.act with
  | .setupLock => if v = 0 ∨ s.glb.locked then s else setLock s
  | .fwCmd => match v with
    | 1 => fwActivate s
    | 2 => setPending s true
    | 3 => fwCommit s
    | 4 => setPending s false
    | _ => s
  | .fwStart => fwStart s
  | .stageStart => after s (execAccordStageStart s)
  | .tableCmd => if v = 2 then after s (execTableCtrlRetire s) else s
  | .attach => if v = 1 then confirm s else rebuild s
  | .portCmd => if h : i < 8 then after s (if v = 1 then execRelease (port h) s else execRetrain (port h) s) else s
  | .portEnable => if h : i < 8 then (if v = fieldVal s f i then s else after s (execPortEnable (port h) (v == 1) s)) else s
  | .member =>
    if v = fieldVal s f i ∧ s.group.memberSet then s
    else
      let s1 := rset s f v i
      if inRange 5 6 s.glb.phase.toNat then joinGroup s1 else { s1 with group := { s1.group with memberSet := true } }
  | .exportStart => after s (execExportStart s)
  | .arenaLoad => after s (execArenaLoad (BitVec.ofNat 64 v) s)
  | .timeSrc => if v = fieldVal s f i then s else setSource s v
  | .timeSet => timeSet s (BitVec.ofNat 64 v)
  | .rst => rstCtrl s v (w.data / 256 % 256)
  | .rstArm => { s with clk := { s.clk with armed := some s.clk.elapsed } }
  | .sqEnable r => if v = 1 ∧ shapeLegal w s i then enableRing s i r else s
  | .cqEnable => if v = 1 ∧ shapeLegal w s i then enableCq s i else s
  | _ => s

/-- A field acts when the write carries it with a legal value, not locked; a WO field only on a non-zero value. -/
def actField (w : RegWrite) (s : State) (x : RegField × Nat) : State :=
  let f := x.1
  let i := x.2
  let v := w.value f (fieldVal s f i)
  if !acts f ∨ !w.covers f ∨ (f.acc = .wo ∧ v = 0) ∨ (f.acc = .rwl ∧ s.glb.locked) ∨ !legalValue s f i v then s else actOn w s f i v

/-- ENABLE written 0 takes effect before the rest of its write. -/
def disableField (w : RegWrite) (s : State) (x : RegField × Nat) : State :=
  if w.covers x.1 ∧ w.value x.1 (fieldVal s x.1 x.2) = 0 then match x.1.act with
    | .sqEnable r => disableRing s x.2 r
    | .cqEnable => disableCq s x.2
    | _ => s
  else s

/-! ### A whole write -/

/-- Bits that no table row names are set in the write (R11). -/
def reservedBits (s : State) (w : RegWrite) : Bool :=
  let own := (fieldsAt w.off).map (fun p => ones p.1.width * 2 ^ p.1.lo)
  decide (own.foldl (· ||| ·) ((roWord s w.off).elim 0 (·.1)) ||| w.data ≠ own.foldl (· ||| ·) ((roWord s w.off).elim 0 (·.1)))

/-- The value written, as its entry shows it. -/
def shownValue (w : RegWrite) : Nat := w.data / 2 ^ w.first

/-- PF offset of the write itself. -/
def RegWrite.at_ (w : RegWrite) : Nat := w.off + w.first / 8

/-- The entries a write makes. DESIGN CHOICE (log 98): one LOCKED-WRITE, one RESERVED-WRITE and one RING-BUSY at most, however many
fields or bits of the write give cause. -/
def noteWrite (w : RegWrite) (s : State) (n : WriteNote) : State :=
  let s1 := if n.locked then logErr s Err.lockedWrite w.tenant w.at_ (shownValue w) else s
  let s2 := if n.reserved then logErr s1 Err.reservedWrite w.tenant w.at_ (shownValue w) else s1
  match n.busy with
  | some r => logErr s2 Err.ringBusy (if w.tenant = noTenant then (w.off - 0x1000000) / 0x1000 else w.tenant) r 0
  | none => s2

/-- One write to an 8-byte register. -/
def writeWord (w : RegWrite) (s : State) : State :=
  let fields := fieldsAt w.off
  if !listed s w.off then (if w.data = 0 then s else logErr s Err.reservedWrite w.tenant w.at_ (shownValue w))
  else
    let s1 := fields.foldl (disableField w) s
    let r := fields.foldl (storeField w) (s1, { locked := false, reserved := reservedBits s w, busy := none })
    fields.foldl (actField w) (noteWrite w r.1 r.2)

/-- Registers that only tenant 0 writes: a VF's write to them is discarded without an entry (R592). -/
def operatorOnly (fn off : Nat) : Bool := fn != 0 && [0x78, 0x80, 0x88].contains (off / 8 * 8)

/-- One BAR0 write. -/
def bar0Write (s : State) (fn off size value : Nat) : State :=
  match pfOffset fn off with
  | none => s
  | some o =>
    if !bar0Served s fn ∨ s.fe.hang.isSome then s
    else if !aligned off size then logErr s Err.regAccess (fnTenant fn) o size
    else if operatorOnly fn off then s
    else
      let first := 8 * (o % 8)
      writeWord { off := o / 8 * 8, first, bits := 8 * size, data := value % 2 ^ (8 * size) * 2 ^ first, tenant := fnTenant fn } s

/-- REGISTER_WRITE. -/
def execRegisterWrite (fn : Tenant) (off : BitVec 25) (size : Nat) (value : BitVec 64) (s : State) : Result :=
  .next (bar0Write s fn.val off.toNat size value.toNat)

end Sys2Proof.Machine
end

