-- ==== Sys2Proof/Machine/Windows.lean ====
section
/-! DEFINITION. BAR2, poisoned writes and the PCIe link (12_host.md R365 to R369, R389, R393, 07_memory.md R210). -/

namespace Sys2Proof.Machine

/-! ### Where an access goes (R365, R366, R368) -/

/-- The PF's BAR2 has its full-view size (log 53). -/
def usesFullView (s : State) (fn : Nat) : Bool := fn == 0 && s.hst.fullView

/-- The DPA of an offset in a function's BAR2. -/
def bar2Dpa (s : State) (fn off : Nat) : Nat :=
  if usesFullView s fn then (if rget s Reg.bar2View = 0 then off else 2 ^ 47 + off) else rget s Reg.winBase fn * 2 ^ 28 + off

/-- The offset lies inside the BAR. -/
def inBar2 (s : State) (fn off len : Nat) : Bool := decide (off + len ≤ if usesFullView s fn then 2 ^ 38 else 2 ^ 28)

/-- The window lies inside the grant. -/
def windowGranted (s : State) (fn : Nat) : Bool :=
  usesFullView s fn
  || decide (rget s Reg.grantBase fn ≤ rget s Reg.winBase fn ∧ rget s Reg.winBase fn < rget s Reg.grantBase fn + rget s Reg.grantLen fn)

/-- A byte is within reach: its address is allowed, its pseudo-channel works, and no reserved range holds it where one matters. -/
def byteInReach (s : State) (checkMap : Bool) (dpa : Nat) : Bool :=
  match dpaStriped dpa with
  | none => false
  | some a =>
    let p := stripedLoc a
    !smem s.defects.failed (32 * p.stack + p.lpc) && !(checkMap && (reservedMap s).any (fun r => decide (r.1 ≤ a ∧ a < r.1 + r.2)))

/-- The access is in range. -/
def bar2InRange (s : State) (fn off len : Nat) (write : Bool) : Bool :=
  windowGranted s fn && (List.range len).all (fun i => byteInReach s (write || !usesFullView s fn) (bar2Dpa s fn off + i))

/-- A WINDOW-RANGE entry. -/
def windowRange (s : State) (fn off : Nat) : State := logErr s Err.windowRange (fnTenant fn) (bar2Dpa s fn off) fn

/-- BAR2 of a function is served: from phase READY on. -/
def bar2Served (s : State) : Bool := !s.hst.down && inRange 5 6 s.glb.phase.toNat

/-! ### Reads and writes -/

/-- Striped addresses of the bytes of an access. -/
def bar2Addrs (s : State) (fn off len : Nat) : List Nat := (List.range len).filterMap (fun i => dpaStriped (bar2Dpa s fn off + i))

/-- BAR2_READ. -/
def execBar2Read (fn : Tenant) (off : BitVec 38) (len : Nat) (s : State) : Result :=
  .next (if !inBar2 s fn.val off.toNat len then s
    else if !bar2Served s then emit s (.completion fn.val none)
    else if s.fe.hang.isSome then emit s (.completerAbort fn.val)
    else if !bar2InRange s fn.val off.toNat len false then emit (windowRange s fn.val off.toNat) (.completion fn.val none)
    else hostRead s fn.val (bar2Addrs s fn.val off.toNat len))

/-- Write the bytes of an access, line by line, through the combining buffers. -/
def bar2Store (s : State) (fn : Nat) (addrs : List Nat) (data : Bytes) : State :=
  let pairs := addrs.zip data
  ((addrs.map (· / 256)).eraseDups).foldl (fun s line =>
    let mine := pairs.filter (fun p => p.1 / 256 == line)
    wcWrite s fn line ((mine.map (·.1)).headD 0 % 256) (mine.map (·.2))) s

/-- BAR2_WRITE: discarded whole when any byte lies out of range or in a table's extent (R210, log 55). -/
def execBar2Write (fn : Tenant) (off : BitVec 38) (data : Bytes) (s : State) : Result :=
  .next (if !inBar2 s fn.val off.toNat data.length ∨ !bar2Served s ∨ s.fe.hang.isSome then s
    else if !bar2InRange s fn.val off.toNat data.length true then windowRange s fn.val off.toNat
    else
      let addrs := bar2Addrs s fn.val off.toNat data.length
      match addrs.findSome? (tableHolding s) with
      | some t => logErr s Err.tableWrite (fnTenant fn.val) (bar2Dpa s fn.val off.toNat) (tHandle t.desc)
      | none => bar2Store s fn.val addrs data)

/-- POISONED_WRITE: discarded, and reported through the AER of its function (R393). -/
def execPoisonedWrite (fn : Tenant) (s : State) : Result :=
  .next (modConfig s fn.val (fun c => { c with uncorrectable := c.uncorrectable + 1 }))

/-! ### The link (Table Host-6) -/

/-- 16 GT/s and ×4 or better. -/
def linkGood (rate : BitVec 4) (width : BitVec 5) : Bool := inRange 1 3 rate.toNat && decide (4 ≤ width.toNat)

/-- PCIE_LINK_UP: HST_LINK reports the link, LINK-DEGRADED follows it. A rate below 16 GT/s has no code and reads 0. -/
def execPcieLinkUp (rate : BitVec 4) (width : BitVec 5) (s : State) : Result :=
  .next (let r := if inRange 1 3 rate.toNat then rate else 0
    let s1 := { s with hst := { s.hst with rate := r, width, linkUp := true } }
    if linkGood rate width then clearCond s1 condLink else raiseCond s1 condLink)

end Sys2Proof.Machine
end

