-- ==== Sys2Proof/Machine/Dispatch.lean ====
section
/-! DEFINITION. One arm per command of the table. -/

namespace Sys2Proof.Machine

open Sys2Proof

/-- The effect of a command on everything but the queue. -/
def exec (i : Instr) (s : State) : Host.Outcome State Fault Refusal :=
  match i with
  | .nop k w => Sys2Proof.Machine.execNop k w s
  | .add k w => Sys2Proof.Machine.execAdd k w s
  | .sub k w => Sys2Proof.Machine.execSub k w s
  | .mul k w => Sys2Proof.Machine.execMul k w s
  | .mulhs k w => Sys2Proof.Machine.execMulhs k w s
  | .mulhu k w => Sys2Proof.Machine.execMulhu k w s
  | .and k w => Sys2Proof.Machine.execAnd k w s
  | .or k w => Sys2Proof.Machine.execOr k w s
  | .xor k w => Sys2Proof.Machine.execXor k w s
  | .shl k w => Sys2Proof.Machine.execShl k w s
  | .shr k w => Sys2Proof.Machine.execShr k w s
  | .sar k w => Sys2Proof.Machine.execSar k w s
  | .min k w => Sys2Proof.Machine.execMin k w s
  | .max k w => Sys2Proof.Machine.execMax k w s
  | .minu k w => Sys2Proof.Machine.execMinu k w s
  | .maxu k w => Sys2Proof.Machine.execMaxu k w s
  | .cmpeq k w => Sys2Proof.Machine.execCmpeq k w s
  | .cmplt k w => Sys2Proof.Machine.execCmplt k w s
  | .cmpltu k w => Sys2Proof.Machine.execCmpltu k w s
  | .pand k w => Sys2Proof.Machine.execPand k w s
  | .por k w => Sys2Proof.Machine.execPor k w s
  | .pnot k w => Sys2Proof.Machine.execPnot k w s
  | .lds k w => Sys2Proof.Machine.execLds k w s
  | .sts k w => Sys2Proof.Machine.execSts k w s
  | .ldc k w => Sys2Proof.Machine.execLdc k w s
  | .br k w => Sys2Proof.Machine.execBr k w s
  | .bri k w => Sys2Proof.Machine.execBri k w s
  | .call k w => Sys2Proof.Machine.execCall k w s
  | .loop k w => Sys2Proof.Machine.execLoop k w s
  | .fence k w => Sys2Proof.Machine.execFence k w s
  | .rdflags k w => Sys2Proof.Machine.execRdflags k w s
  | .ckpt k w => Sys2Proof.Machine.execCkpt k w s
  | .endl k w => Sys2Proof.Machine.execEndl k w s
  | .mmul k w => Sys2Proof.Machine.execMmul k w s
  | .mmac k w => Sys2Proof.Machine.execMmac k w s
  | .asplit k w => Sys2Proof.Machine.execAsplit k w s
  | .tld k w => Sys2Proof.Machine.execTld k w s
  | .tst k w => Sys2Proof.Machine.execTst k w s
  | .tzero k w => Sys2Proof.Machine.execTzero k w s
  | .tcvt k w => Sys2Proof.Machine.execTcvt k w s
  | .tcopy k w => Sys2Proof.Machine.execTcopy k w s
  | .strgo k w => Sys2Proof.Machine.execStrgo k w s
  | .strwait k w => Sys2Proof.Machine.execStrwait k w s
  | .stmopen k w => Sys2Proof.Machine.execStmopen k w s
  | .stmrearm k w => Sys2Proof.Machine.execStmrearm k w s
  | .stmclose k w => Sys2Proof.Machine.execStmclose k w s
  | .stmcancel k w => Sys2Proof.Machine.execStmcancel k w s
  | .stmwait k w => Sys2Proof.Machine.execStmwait k w s
  | .nbgp k w => Sys2Proof.Machine.execNbgp k w s
  | .nbdot k w => Sys2Proof.Machine.execNbdot k w s
  | .nbsa k w => Sys2Proof.Machine.execNbsa k w s
  | .nbcopy k w => Sys2Proof.Machine.execNbcopy k w s
  | .tally k w => Sys2Proof.Machine.execTally k w s
  | .talrd k w => Sys2Proof.Machine.execTalrd k w s
  | .rowrd k w => Sys2Proof.Machine.execRowrd k w s
  | .splice k w => Sys2Proof.Machine.execSplice k w s
  | .seqf k w => Sys2Proof.Machine.execSeqf k w s
  | .frameOpen k w => Sys2Proof.Machine.execFrameOpen k w s
  | .frameNext k w => Sys2Proof.Machine.execFrameNext k w s
  | .frameRead k w => Sys2Proof.Machine.execFrameRead k w s
  | .frameClose k w => Sys2Proof.Machine.execFrameClose k w s
  | .tileTokenGrant k tile => Sys2Proof.Machine.execTileTokenGrant k tile s
  | .arrayPassDone k job pass => Sys2Proof.Machine.execArrayPassDone k job pass s
  | .mvpChunkDone k job m n chunk => Sys2Proof.Machine.execMvpChunkDone k job m n chunk s
  | .strandGroupStart k group => Sys2Proof.Machine.execStrandGroupStart k group s
  | .sAdd k j w => Sys2Proof.Machine.execSAdd k j w s
  | .sSub k j w => Sys2Proof.Machine.execSSub k j w s
  | .sMul k j w => Sys2Proof.Machine.execSMul k j w s
  | .sMulhs k j w => Sys2Proof.Machine.execSMulhs k j w s
  | .sMulhu k j w => Sys2Proof.Machine.execSMulhu k j w s
  | .sAnd k j w => Sys2Proof.Machine.execSAnd k j w s
  | .sOr k j w => Sys2Proof.Machine.execSOr k j w s
  | .sXor k j w => Sys2Proof.Machine.execSXor k j w s
  | .sShl k j w => Sys2Proof.Machine.execSShl k j w s
  | .sShr k j w => Sys2Proof.Machine.execSShr k j w s
  | .sSar k j w => Sys2Proof.Machine.execSSar k j w s
  | .sMin k j w => Sys2Proof.Machine.execSMin k j w s
  | .sMax k j w => Sys2Proof.Machine.execSMax k j w s
  | .sMinu k j w => Sys2Proof.Machine.execSMinu k j w s
  | .sMaxu k j w => Sys2Proof.Machine.execSMaxu k j w s
  | .branch k j w => Sys2Proof.Machine.execBranch k j w s
  | .vadd k j w => Sys2Proof.Machine.execVadd k j w s
  | .vsub k j w => Sys2Proof.Machine.execVsub k j w s
  | .vmul k j w => Sys2Proof.Machine.execVmul k j w s
  | .vfma k j w => Sys2Proof.Machine.execVfma k j w s
  | .vdiv k j w => Sys2Proof.Machine.execVdiv k j w s
  | .vsqrt k j w => Sys2Proof.Machine.execVsqrt k j w s
  | .vmin k j w => Sys2Proof.Machine.execVmin k j w s
  | .vmax k j w => Sys2Proof.Machine.execVmax k j w s
  | .vabs k j w => Sys2Proof.Machine.execVabs k j w s
  | .vneg k j w => Sys2Proof.Machine.execVneg k j w s
  | .vcmpeq k j w => Sys2Proof.Machine.execVcmpeq k j w s
  | .vcmplt k j w => Sys2Proof.Machine.execVcmplt k j w s
  | .vcmple k j w => Sys2Proof.Machine.execVcmple k j w s
  | .vcmpun k j w => Sys2Proof.Machine.execVcmpun k j w s
  | .vsel k j w => Sys2Proof.Machine.execVsel k j w s
  | .vdot k j w => Sys2Proof.Machine.execVdot k j w s
  | .vsum k j w => Sys2Proof.Machine.execVsum k j w s
  | .vrmin k j w => Sys2Proof.Machine.execVrmin k j w s
  | .vrmax k j w => Sys2Proof.Machine.execVrmax k j w s
  | .vcurve k j w => Sys2Proof.Machine.execVcurve k j w s
  | .vcvt k j w => Sys2Proof.Machine.execVcvt k j w s
  | .perm k j w => Sys2Proof.Machine.execPerm k j w s
  | .rot k j w => Sys2Proof.Machine.execRot k j w s
  | .bcast k j w => Sys2Proof.Machine.execBcast k j w s
  | .ziplo k j w => Sys2Proof.Machine.execZiplo k j w s
  | .ziphi k j w => Sys2Proof.Machine.execZiphi k j w s
  | .unzipe k j w => Sys2Proof.Machine.execUnzipe k j w s
  | .unzipo k j w => Sys2Proof.Machine.execUnzipo k j w s
  | .pack k j w => Sys2Proof.Machine.execPack k j w s
  | .unpack k j w => Sys2Proof.Machine.execUnpack k j w s
  | .sort k j w => Sys2Proof.Machine.execSort k j w s
  | .movx k j w => Sys2Proof.Machine.execMovx k j w s
  | .lane k j w => Sys2Proof.Machine.execLane k j w s
  | .trd k j w => Sys2Proof.Machine.execTrd k j w s
  | .twr k j w => Sys2Proof.Machine.execTwr k j w s
  | .trdx k j w => Sys2Proof.Machine.execTrdx k j w s
  | .ldw k j w => Sys2Proof.Machine.execLdw k j w s
  | .stw k j w => Sys2Proof.Machine.execStw k j w s
  | .vld k j w => Sys2Proof.Machine.execVld k j w s
  | .vst k j w => Sys2Proof.Machine.execVst k j w s
  | .strandEnd k j w => Sys2Proof.Machine.execStrandEnd k j w s
  | .strandRdflags k j w => Sys2Proof.Machine.execStrandRdflags k j w s
  | .strandLdc k j w => Sys2Proof.Machine.execStrandLdc k j w s
  | .doorbellPoll reads => Sys2Proof.Machine.execDoorbellPoll reads s
  | .descriptorFetch t r seq slot => Sys2Proof.Machine.execDescriptorFetch t r seq slot s
  | .admission t r lcb replay => Sys2Proof.Machine.execAdmission t r lcb replay s
  | .admissionBind t r => Sys2Proof.Machine.execAdmissionBind t r s
  | .dispatch launch ex k => Sys2Proof.Machine.execDispatch launch ex k s
  | .holdCopyUnit launch buf unit => Sys2Proof.Machine.execHoldCopyUnit launch buf unit s
  | .residentRegionLoaded k launch => Sys2Proof.Machine.execResidentRegionLoaded k launch s
  | .preloadOpen k launch ex => Sys2Proof.Machine.execPreloadOpen k launch ex s
  | .launchEntry k => Sys2Proof.Machine.execLaunchEntry k s
  | .streamDataArrival k stream first count => Sys2Proof.Machine.execStreamDataArrival k stream first count s
  | .outUnitSend k stream res => Sys2Proof.Machine.execOutUnitSend k stream res s
  | .pageResponse fn group ans => Sys2Proof.Machine.execPageResponse fn group ans s
  | .priTimeout fn page => Sys2Proof.Machine.execPriTimeout fn page s
  | .hostAccessError launch buf => Sys2Proof.Machine.execHostAccessError launch buf s
  | .atsInvalidation fn page count => Sys2Proof.Machine.execAtsInvalidation fn page count s
  | .nbStepIssue st k word entry => Sys2Proof.Machine.execNbStepIssue st k word entry s
  | .nbReadyFrame st lpc bank res => Sys2Proof.Machine.execNbReadyFrame st lpc bank res s
  | .nbStatusPoll st lpc bank ended res => Sys2Proof.Machine.execNbStatusPoll st lpc bank ended res s
  | .nbStepTimeout st lpc bank => Sys2Proof.Machine.execNbStepTimeout st lpc bank s
  | .nbAbortTimeout st lpc bank => Sys2Proof.Machine.execNbAbortTimeout st lpc bank s
  | .poolRingPartial src k word bag => Sys2Proof.Machine.execPoolRingPartial src k word bag s
  | .nbResultDelivery k word => Sys2Proof.Machine.execNbResultDelivery k word s
  | .tallyApply st => Sys2Proof.Machine.execTallyApply st s
  | .wcIdleFlush st line => Sys2Proof.Machine.execWcIdleFlush st line s
  | .patrolScrub st burst check => Sys2Proof.Machine.execPatrolScrub st burst check s
  | .lineRebuildDone line data => Sys2Proof.Machine.execLineRebuildDone line data s
  | .pcRebuildDone st => Sys2Proof.Machine.execPcRebuildDone st s
  | .pcRetrain st lpc cause => Sys2Proof.Machine.execPcRetrain st lpc cause s
  | .skeinFault k ev => Sys2Proof.Machine.execSkeinFault k ev s
  | .skeinSelfTestDone k passed => Sys2Proof.Machine.execSkeinSelfTestDone k passed s
  | .flitDoubleError link errors => Sys2Proof.Machine.execFlitDoubleError link errors s
  | .waitBound site number cls => Sys2Proof.Machine.execWaitBound site number cls s
  | .integrityCheck launch ex => Sys2Proof.Machine.execIntegrityCheck launch ex s
  | .sealForm work => Sys2Proof.Machine.execSealForm work s
  | .outcomeStage launch => Sys2Proof.Machine.execOutcomeStage launch s
  | .completionWrite t written => Sys2Proof.Machine.execCompletionWrite t written s
  | .msixSend t => Sys2Proof.Machine.execMsixSend t s
  | .msixUnmask t entry => Sys2Proof.Machine.execMsixUnmask t entry s
  | .watchdogExpiry launch => Sys2Proof.Machine.execWatchdogExpiry launch s
  | .hangResetProceed find => Sys2Proof.Machine.execHangResetProceed find s
  | .spliceSequence => Sys2Proof.Machine.execSpliceSequence s
  | .anchorClose => Sys2Proof.Machine.execAnchorClose s
  | .boundaryGatherDone => Sys2Proof.Machine.execBoundaryGatherDone s
  | .boundaryDrainDone => Sys2Proof.Machine.execBoundaryDrainDone s
  | .spliceApply => Sys2Proof.Machine.execSpliceApply s
  | .boundaryRecordDurable => Sys2Proof.Machine.execBoundaryRecordDurable s
  | .boundaryLimitExpiry => Sys2Proof.Machine.execBoundaryLimitExpiry s
  | .portTrained p lanes r => Sys2Proof.Machine.execPortTrained p lanes r s
  | .helloSend p nonce => Sys2Proof.Machine.execHelloSend p nonce s
  | .helloFrame p frame => Sys2Proof.Machine.execHelloFrame p frame s
  | .spliceFrame p frame => Sys2Proof.Machine.execSpliceFrame p frame s
  | .stateFrame p frame => Sys2Proof.Machine.execStateFrame p frame s
  | .manifestFrame p frame => Sys2Proof.Machine.execManifestFrame p frame s
  | .manifestAckFrame p frame => Sys2Proof.Machine.execManifestAckFrame p frame s
  | .confirmFrame p frame => Sys2Proof.Machine.execConfirmFrame p frame s
  | .reportFrame p frame => Sys2Proof.Machine.execReportFrame p frame s
  | .voteFrame p frame => Sys2Proof.Machine.execVoteFrame p frame s
  | .fetchFrame p frame => Sys2Proof.Machine.execFetchFrame p frame s
  | .rebuildFrame p frame => Sys2Proof.Machine.execRebuildFrame p frame s
  | .linkFrame p frame => Sys2Proof.Machine.execLinkFrame p frame s
  | .linkSend p => Sys2Proof.Machine.execLinkSend p s
  | .goBack p => Sys2Proof.Machine.execGoBack p s
  | .retryEpisodeFailure p => Sys2Proof.Machine.execRetryEpisodeFailure p s
  | .replicationTimeout p seq => Sys2Proof.Machine.execReplicationTimeout p seq s
  | .anchorTimeout => Sys2Proof.Machine.execAnchorTimeout s
  | .laneEvent p lane => Sys2Proof.Machine.execLaneEvent p lane s
  | .release p => Sys2Proof.Machine.execRelease p s
  | .retrain p => Sys2Proof.Machine.execRetrain p s
  | .journalRecordAccept => Sys2Proof.Machine.execJournalRecordAccept s
  | .flashWriteDone => Sys2Proof.Machine.execFlashWriteDone s
  | .drydownStart => Sys2Proof.Machine.execDrydownStart s
  | .drydownDone => Sys2Proof.Machine.execDrydownDone s
  | .exportStart => Sys2Proof.Machine.execExportStart s
  | .exportDone res => Sys2Proof.Machine.execExportDone res s
  | .arenaLoad request => Sys2Proof.Machine.execArenaLoad request s
  | .arenaLoadDone request touch parts => Sys2Proof.Machine.execArenaLoadDone request touch parts s
  | .powerFailWarning => Sys2Proof.Machine.execPowerFailWarning s
  | .powerFailFlushDone linkUp => Sys2Proof.Machine.execPowerFailFlushDone linkUp s
  | .inputPowerRestore => Sys2Proof.Machine.execInputPowerRestore s
  | .holdupReport milliJoule => Sys2Proof.Machine.execHoldupReport milliJoule s
  | .capacitanceTest milliJoule => Sys2Proof.Machine.execCapacitanceTest milliJoule s
  | .holdupMonitorSilent => Sys2Proof.Machine.execHoldupMonitorSilent s
  | .powerLimitExceeded watt => Sys2Proof.Machine.execPowerLimitExceeded watt s
  | .powerLimitRecovery watt => Sys2Proof.Machine.execPowerLimitRecovery watt s
  | .pwrbrkAssert => Sys2Proof.Machine.execPwrbrkAssert s
  | .pwrbrkRelease => Sys2Proof.Machine.execPwrbrkRelease s
  | .thermalDerate sensor celsius => Sys2Proof.Machine.execThermalDerate sensor celsius s
  | .thermalDerateEnd sensor celsius => Sys2Proof.Machine.execThermalDerateEnd sensor celsius s
  | .thermalTrip sensor celsius => Sys2Proof.Machine.execThermalTrip sensor celsius s
  | .clockMonitorTrip ref => Sys2Proof.Machine.execClockMonitorTrip ref s
  | .holdoverExit ref ppm => Sys2Proof.Machine.execHoldoverExit ref ppm s
  | .odoMismatch keepSecond => Sys2Proof.Machine.execOdoMismatch keepSecond s
  | .pllLockFailure pll => Sys2Proof.Machine.execPllLockFailure pll s
  | .ptmDialogue correction => Sys2Proof.Machine.execPtmDialogue correction s
  | .tbppsEdge offset => Sys2Proof.Machine.execTbppsEdge offset s
  | .tbppsMissing => Sys2Proof.Machine.execTbppsMissing s
  | .holdoverMaxExpiry => Sys2Proof.Machine.execHoldoverMaxExpiry s
  | .clkTimeSet ns => Sys2Proof.Machine.execClkTimeSet ns s
  | .perstAssert => Sys2Proof.Machine.execPerstAssert s
  | .hotReset => Sys2Proof.Machine.execHotReset s
  | .dlDown => Sys2Proof.Machine.execDlDown s
  | .perstDeassert find => Sys2Proof.Machine.execPerstDeassert find s
  | .pfFlr find => Sys2Proof.Machine.execPfFlr find s
  | .vfFlr t => Sys2Proof.Machine.execVfFlr t s
  | .d3hotToD0 fn => Sys2Proof.Machine.execD3hotToD0 fn s
  | .rstSkein target => Sys2Proof.Machine.execRstSkein target s
  | .rstSection target => Sys2Proof.Machine.execRstSection target s
  | .rstTenant target => Sys2Proof.Machine.execRstTenant target s
  | .rstRetaining find => Sys2Proof.Machine.execRstRetaining find s
  | .rstFull => Sys2Proof.Machine.execRstFull s
  | .rstArm => Sys2Proof.Machine.execRstArm s
  | .resetLimitOverrun what => Sys2Proof.Machine.execResetLimitOverrun what s
  | .powerOn find => Sys2Proof.Machine.execPowerOn find s
  | .bootLimitExpiry => Sys2Proof.Machine.execBootLimitExpiry s
  | .configRequest fn op => Sys2Proof.Machine.execConfigRequest fn op s
  | .activate => Sys2Proof.Machine.execActivate s
  | .revert => Sys2Proof.Machine.execRevert s
  | .commitSvn => Sys2Proof.Machine.execCommitSvn s
  | .cancel => Sys2Proof.Machine.execCancel s
  | .fwUpdateStart => Sys2Proof.Machine.execFwUpdateStart s
  | .fwUpdateDone image => Sys2Proof.Machine.execFwUpdateDone image s
  | .pldmFwUpdate slotB image => Sys2Proof.Machine.execPldmFwUpdate slotB image s
  | .getMeasurements index => Sys2Proof.Machine.execGetMeasurements index s
  | .holdLoadStart image => Sys2Proof.Machine.execHoldLoadStart image s
  | .confirm => Sys2Proof.Machine.execConfirm s
  | .rebuild => Sys2Proof.Machine.execRebuild s
  | .accordStageStart => Sys2Proof.Machine.execAccordStageStart s
  | .tableCtrlRegister block => Sys2Proof.Machine.execTableCtrlRegister block s
  | .tableCtrlRetire => Sys2Proof.Machine.execTableCtrlRetire s
  | .sqEnable t r => Sys2Proof.Machine.execSqEnable t r s
  | .cqEnable t => Sys2Proof.Machine.execCqEnable t s
  | .setupLock => Sys2Proof.Machine.execSetupLock s
  | .feEpochRead => Sys2Proof.Machine.execFeEpochRead s
  | .jrnArenaEpochRead => Sys2Proof.Machine.execJrnArenaEpochRead s
  | .clkTimeRead => Sys2Proof.Machine.execClkTimeRead s
  | .registerWrite fn off size value => Sys2Proof.Machine.execRegisterWrite fn off size value s
  | .bar2Read fn off len => Sys2Proof.Machine.execBar2Read fn off len s
  | .bar2Write fn off data => Sys2Proof.Machine.execBar2Write fn off data s
  | .poisonedWrite fn => Sys2Proof.Machine.execPoisonedWrite fn s
  | .mediaContextGrant k => Sys2Proof.Machine.execMediaContextGrant k s
  | .frameDecodeDone k engine => Sys2Proof.Machine.execFrameDecodeDone k engine s
  | .engineFailure engine => Sys2Proof.Machine.execEngineFailure engine s
  | .pcRetrainEnd st res => Sys2Proof.Machine.execPcRetrainEnd st res s
  | .sectionFault n => Sys2Proof.Machine.execSectionFault n s
  | .selfRefreshExcursion st => Sys2Proof.Machine.execSelfRefreshExcursion st s
  | .atsTranslationCompletion fn page present => Sys2Proof.Machine.execAtsTranslationCompletion fn page present s
  | .pcieLinkUp rate width => Sys2Proof.Machine.execPcieLinkUp rate width s
  | .regAccess fn off size => Sys2Proof.Machine.execRegAccess fn off size s
  | .portEnable p enable => Sys2Proof.Machine.execPortEnable p enable s
  | .tableRebuildDone => Sys2Proof.Machine.execTableRebuildDone s

end Sys2Proof.Machine
end

