-- ==== Sys2Proof/Machine/Tick.lean ====
section
/-! DEFINITION. One idle microsecond of the block: time and the cycle counters run on (18_reset_clocks.md Device time,
20_registers.md Table Reg-11, 19_long_run.md R573, R581). -/

namespace Sys2Proof.Machine

/-- Picoseconds by which one microsecond of slewing corrects device time: at most 100 ppm (R564). -/
def slewPart (slew : Int) : Int := max (-100) (min 100 slew)

/-- Picoseconds of a negative step absorbed in one microsecond: 500 ppm (R564). -/
def debtPart (debt : Nat) : Nat := min 500 debt

/-- Device time goes on by one microsecond, less what it absorbs, plus what it slews. At 2^64 − 1 it holds (R581). -/
def runTime (c : ClockSt) : ClockSt :=
  let ps : Nat := (c.frac + 1000000 - debtPart c.debt + slewPart c.slew : Int).toNat
  { c with time := timeNat (c.time.toNat + ps / 1000), frac := ps % 1000, debt := c.debt - debtPart c.debt,
           slew := c.slew - slewPart c.slew }

/-- Skein sections run at their holdover rate (R559, R602, R603, R612). -/
def skeinsSlow (s : State) : Bool := s.clk.holdover || s.mdl.overPower || s.mdl.pwrbrk || smem s.mdl.derates 0
/-- Stack controllers do (R559, R602, R603). -/
def stacksSlow (s : State) : Bool := s.clk.holdover || s.mdl.overPower || s.mdl.pwrbrk

/-- Cycle counters of one microsecond (Table Reset-3). -/
def runCounters (s : State) : State :=
  countEvent (countEvent (countEvent s 0 (if skeinsSlow s then 1050 else 1750)) 1 (if s.clk.holdover then 1350 else 1500)) 2
    (if stacksSlow s then 720 else 1200)

/-- Nothing is commanded for one microsecond (log 4): time runs, and so do the pseudo-channel rebuilds (R226); an unpowered die does
nothing. -/
def tick (s : State) : State :=
  let s1 := { s with clk := { s.clk with elapsed := s.clk.elapsed + 1000 } }
  if !s.mdl.powered then s1
  else
    let s2 := (List.range 8).foldl walkRebuild (runCounters { s1 with clk := runTime s1.clk })
    if s2.clk.time = BitVec.allOnes 64 then setQuality s2 2 else s2

end Sys2Proof.Machine
end

