-- ==== Sys2Proof/Safety.lean ====
section
/-! DEFINITION. The terms that statements use: a safe step, when a control core may issue, what a word leaves when it only
counts, and the invariants. -/

namespace Sys2Proof

open Sys2Proof.Machine

/-- A step answers a next state. -/
def SafeStep (s : State) : Prop := ∃ t, step s = .next t

/-! ### Issue of a control-core word -/

/-- Skein `k` runs execution `x`, whose accord and launch give the scratch layout `e`, and its control core may issue: no
power fail or hang holds it, and no OUT STMWAIT waits (R160, R301, R446). -/
def Issuing (s : State) (k : Skein) (x : SkeinCtx) (e : Env) : Prop :=
  running s k.val = some x ∧ envOf s x = some e ∧ mayIssue s x.launch = true ∧ held x.core = false

/-- The next word is inside the program image and inside the word budget (Table Core-9, R150). -/
def WordLeft (x : SkeinCtx) (e : Env) : Prop :=
  x.core.pc < imageLen e.acc ∧
  (wordBudget e.acc (dProg e.l.desc) = 0 ∨ x.core.words < wordBudget e.acc (dProg e.l.desc))

/-- Skein `k` is ready to issue the next word of execution `x`. -/
def Ready (s : State) (k : Skein) (x : SkeinCtx) (e : Env) : Prop := Issuing s k x e ∧ WordLeft x e

/-- The core once its word has issued, before the word's own effect: the next word, counted. -/
def past (c : Core) : Core := { c with hold := none, pc := c.pc + 1, words := c.words + 1 }

/-- The state in which the core of the launch that skein `k` runs is `c`, and nothing else has changed. -/
def withCore (s : State) (k : Skein) (c : Core) : State := modCore s k.val (fun _ => c)

/-- The skein and the header of a control-core word; none for any other command. -/
def coreWord : Instr → Option (Skein × Hdr)
  | .nop k w | .add k w | .sub k w | .mul k w | .mulhs k w | .mulhu k w | .and k w | .or k w | .xor k w | .shl k w
  | .shr k w | .sar k w | .min k w | .max k w | .minu k w | .maxu k w | .cmpeq k w | .cmplt k w | .cmpltu k w
  | .pand k w | .por k w | .pnot k w | .lds k w | .sts k w | .ldc k w | .br k w | .bri k w | .call k w | .loop k w
  | .fence k w | .rdflags k w | .endl k w | .asplit k w => some (k, w.hdr)
  | .mmul k w | .mmac k w | .tld k w | .tst k w | .tzero k w | .tcvt k w | .tcopy k w => some (k, w.hdr)
  | .ckpt k w | .strgo k w | .strwait k w | .stmopen k w | .stmrearm k w | .stmclose k w | .stmcancel k w
  | .stmwait k w | .nbgp k w | .nbdot k w | .nbsa k w | .nbcopy k w | .tally k w | .talrd k w | .rowrd k w
  | .splice k w | .seqf k w | .frameOpen k w | .frameNext k w | .frameRead k w | .frameClose k w => some (k, w.hdr)
  | _ => none

/-- What a word names in the accord of its launch is there: branch targets, table handles, descriptors, strand programs
(Table Core-10). True of every word that names nothing. -/
def wordFits (s : State) : Instr → Bool
  | .br k w | .call k w | .loop k w => targetOk s k.val w
  | .strgo k w => fitsAccord s k.val (fun e _ => decide (strgoEntry w < strTable e.acc))
  | .stmopen k w => fitsAccord s k.val (fun e _ => (streamAt e.acc (stmDesc w)).isSome)
  | .nbgp k w | .nbdot k w | .nbsa k w | .nbcopy k w | .rowrd k w => nbHandleOk s k.val w
  | .talrd k w => !tallyTable w || fitsAccord s k.val (fun e _ => schemaKind e.acc (parHandle w) 2)
  | .seqf k w => fitsAccord s k.val (fun e _ => schemaKind e.acc (parHandle w) 3)
  | _ => true

/-! ### Units and strands -/

/-- Skein `k` runs execution `x` with scratch layout `e`: its units may report events. -/
def Running (s : State) (k : Skein) (x : SkeinCtx) (e : Env) : Prop :=
  running s k.val = some x ∧ envOf s x = some e

/-- Nothing asynchronous of a launch holds tiles: no job, no strand group, no token request, and no pass on an array. -/
def TilesFree (c : Core) : Prop := c.jobs = [] ∧ c.groups = [] ∧ c.tokens = [] ∧ c.arrays = []

/-- Strand `i` of the launch on skein `k` runs in group `g`, may issue, and has a word left in the strand image. -/
def StrandReady (s : State) (k : Skein) (i : Strand) (x : SkeinCtx) (e : Env) (g : Group) : Prop :=
  Running s k x e ∧ mayIssue s x.launch = true ∧
  x.core.groups.find? (fun g => g.id == (getStr x.core i.val).group && g.started && smem g.live i.val) = some g ∧
  (getStr x.core i.val).pc < strImage e.acc

/-- The strand past the word that issues. -/
def strandPast (t : StrandSt) : StrandSt := { t with pc := t.pc + 1 }

/-- The state in which strand `i` of core `c` is `t`, on skein `k`, and nothing else has changed. -/
def withStrand (s : State) (k : Skein) (c : Core) (i : Strand) (t : StrandSt) : State := withCore s k (setStr c i.val t)

/-- Strand `t'` is strand `t` past its word with lane register `vd` holding what `g` gives for each lane: pattern and flags. -/
def LaneResult (t t' : StrandSt) (vd : BitVec 3) (g : Nat → Nat × Flags) : Prop :=
  (∀ j, j < 32 → lane t' vd j = BitVec.ofNat 32 (g j).1) ∧
  t'.flags = t.flags ||| flagUnion ((List.range 32).map (fun j => (g j).2)) ∧
  (∀ r j, r ≠ vd → j < 32 → lane t' r j = lane t r j) ∧
  t'.x = t.x ∧ t'.pc = t.pc + 1 ∧ t'.group = t.group

/-- Element `j` of a lane register as a pattern of a format: bits above its width are ignored (R162). -/
def laneElem (t : StrandSt) (r : BitVec 3) (f : Fmt) (j : Nat) : Nat := (lane t r j).toNat % 2 ^ f.width

/-- A tally cell of an execution; none where there is no such execution. -/
def tallyCell (s : State) (launch ex cell : Nat) : Option Cell320 :=
  ((findL s launch).bind (fun l => getX l ex)).map (fun x => nget 0 x.tally cell)

/-! ### Lanyard frames -/

/-- A frame of a type that port `p` accepts, with its opened payload `b`: the port is UP, no power-fail sequence runs, and every
check of R403 and R407 passes. -/
def FrameAccepted (s : State) (p kind : Nat) (frame b : Bytes) : Prop :=
  let q := getP s p
  q.mode = .up ∧ s.jrn.powerFail = false ∧ crcOk frame = true ∧ fld frame 0 1 = kind ∧ fld frame 24 2 ≤ 2048 ∧
  frame.length = 52 + fld frame 24 2 ∧ q.keyEpoch ≤ fld frame 16 8 ∧ fld frame 16 8 ≤ s.fe.epoch.toNat + 2 ^ 20 ∧
  (∀ c, q.rxCount = some c → c < fld frame 8 8) ∧ openPayload s p frame = some b

/-- The state once a frame has been accepted, before its own effect: its key epoch and its transmission counter are kept. -/
def acceptedAt (s : State) (p : Nat) (frame : Bytes) : State :=
  modP s p (fun q => { q with keyEpoch := fld frame 16 8, rxCount := some (fld frame 8 8) })

/-- An accepted sequenced frame that is the next one of its port and within the credit granted (R408, R415). -/
def FrameInTurn (s : State) (p kind : Nat) (frame b : Bytes) : Prop :=
  let q := getP s p
  FrameAccepted s p kind frame b ∧ fld frame 4 3 = q.rxSeq ∧
  (if isRebuild kind then q.held.2 + units b.length ≤ 512 else q.held.1 + units b.length ≤ 1024)

/-- The state once a sequenced frame has been taken in, before its own effect: it is counted, its units are held, a LINK is owed. -/
def takenIn (s : State) (p kind : Nat) (frame b : Bytes) : State :=
  let u := units b.length
  modP (acceptedAt s p frame) p (fun q =>
    { q with rxSeq := (q.rxSeq + 1) % 2 ^ 24, linkOwed := true,
             held := if isRebuild kind then (q.held.1, q.held.2 + u) else (q.held.1 + u, q.held.2) })

/-- The frame that was taken in, as a receiver sees it. -/
def rcvOf (p : Nat) (frame b : Bytes) : Rcv :=
  { port := p, sender := fld frame 2 1, flags := fld frame 1 1, seq := fld frame 4 3, payload := b }

/-- The state in which a record that a frame brought for the first time is remembered and goes on to the other ports. -/
def spreadOn (s : State) (r : Rcv) (kind sender epoch term : Nat) : State :=
  flood { s with group := { s.group with heard := (kind, sender, epoch, term) :: s.group.heard } } r.port kind r.sender r.payload

end Sys2Proof
end

