-- ==== Sys2Proof/Certificates/Slice0/Obligations.lean ====
section
/-! DEFINITION. The statements for the provers. -/

open Sys2Proof Sys2Proof.Machine

/-- For every command c and state s, a step of s with c at the front of its queue is exec c on s with the queue's rest.
It is what ties every statement about exec to a run. (Derived from the queue of commands of the row's cut.) -/
def Obligations.StepRunsFrontCommand : Prop :=
  ∀ (c : Instr) (rest : List Instr) (s : State),
    step { s with pending := c :: rest } = exec c { s with pending := rest }

/-- Every command answers a next state in every state: a command that meets a fault of the spec has the effect the spec
gives the fault (log 2 names what a command that cannot occur does). (Derived from Table Arch-1, R158, R157.) -/
def Obligations.EveryCommandCompletes : Prop :=
  ∀ (c : Instr) (s : State), ∃ t, exec c s = .next t

/-- s0 reads 0 in every core, and a write to it changes nothing of the core. Any other scalar register reads back the
value written, every other register and every other part of the core is unchanged. Predicate p0 reads 1 in every
core, and a write to a predicate pi, 0 < i < 16, is read back and leaves the other fifteen as they were. (Derived
from R126, Table Core-1.) -/
def Obligations.RegisterZeroAndPredicateZeroAreHardWired : Prop :=
  ∀ (c : Core) (r : BitVec 6) (v : W64),
    getX64 c 0 = 0 ∧ setX64 c 0 v = c ∧
    (r ≠ 0 → getX64 (setX64 c r v) r = v ∧ ∃ regs, setX64 c r v = { c with sregs := regs }) ∧
    (∀ q : BitVec 6, q ≠ r → getX64 (setX64 c r v) q = getX64 c q) ∧
    getPred c 0 = true ∧
    (∀ (i : Nat) (b : Bool), 0 < i → i < 16 → getPred (setPred c i b) i = b ∧
      (∃ preds, setPred c i b = { c with preds }) ∧
      ∀ j, j < 16 → j ≠ i → getPred (setPred c i b) j = getPred c j)

/-- When skein k is ready and the word is legal and its guard holds, ADD to MAXU answer the state in which only the core
of the running launch has changed: it has moved past the word and counted it, and SD holds the result of SA and b =
SB + IMM, wrapped modulo 2^64 (high halves for MULHS and MULHU, shifts by the low six bits of b, signed and unsigned
minima and maxima). No flag is raised: the flags of the core are those it had. Integer arithmetic on the right says
each result independently of the bit operations the meaning uses. (R127.) -/
def Obligations.ScalarArithmeticWords : Prop :=
  ∀ (s : State) (k : Skein) (x : SkeinCtx) (e : Env) (w : SWord),
    Ready s k x e → legalAlu w = true → guardOn x.core w.hdr = true →
    let a := getX64 x.core w.sa
    let b := getX64 x.core w.sb + w.imm
    let n := b.toNat % 64
    let writes (v : W64) : Result := .next (withCore s k (setX64 (past x.core) w.sd v))
    exec (.add k w) s = writes (BitVec.ofInt 64 (a.toInt + b.toInt)) ∧
    exec (.sub k w) s = writes (BitVec.ofInt 64 (a.toInt - b.toInt)) ∧
    exec (.mul k w) s = writes (BitVec.ofInt 64 (a.toInt * b.toInt)) ∧
    exec (.mulhs k w) s = writes (BitVec.ofInt 64 (a.toInt * b.toInt / 2 ^ 64)) ∧
    exec (.mulhu k w) s = writes (BitVec.ofNat 64 (a.toNat * b.toNat / 2 ^ 64)) ∧
    exec (.and k w) s = writes (a &&& b) ∧
    exec (.or k w) s = writes (a ||| b) ∧
    exec (.xor k w) s = writes (a ^^^ b) ∧
    exec (.shl k w) s = writes (BitVec.ofNat 64 (a.toNat * 2 ^ n)) ∧
    exec (.shr k w) s = writes (BitVec.ofNat 64 (a.toNat / 2 ^ n)) ∧
    exec (.sar k w) s = writes (BitVec.ofInt 64 (a.toInt / 2 ^ n)) ∧
    exec (.min k w) s = writes (BitVec.ofInt 64 (min a.toInt b.toInt)) ∧
    exec (.max k w) s = writes (BitVec.ofInt 64 (max a.toInt b.toInt)) ∧
    exec (.minu k w) s = writes (BitVec.ofNat 64 (min a.toNat b.toNat)) ∧
    exec (.maxu k w) s = writes (BitVec.ofNat 64 (max a.toNat b.toNat)) ∧
    ∀ v, (setX64 (past x.core) w.sd v).flags = x.core.flags

/-- When skein k is ready, the word is legal and its guard holds, the comparisons write pSD with the comparison of SA
and b = SB + IMM (equal, signed less, unsigned less), and PAND, POR and PNOT write it with the conjunction,
disjunction and negation of the predicates SA and SB name. Nothing else of the state changes but the core's program
counter and word count. (Derived from Table Core-7, R137, R129.) -/
def Obligations.PredicateWords : Prop :=
  ∀ (s : State) (k : Skein) (x : SkeinCtx) (e : Env) (w : SWord),
    Ready s k x e → guardOn x.core w.hdr = true →
    let a := getX64 x.core w.sa
    let b := getX64 x.core w.sb + w.imm
    let p := getPred x.core w.sa.toNat
    let q := getPred x.core w.sb.toNat
    let writes (v : Bool) : Result := .next (withCore s k (setPred (past x.core) w.sd.toNat v))
    (legalCmp w = true →
      exec (.cmpeq k w) s = writes (decide (a.toNat = b.toNat)) ∧
      exec (.cmplt k w) s = writes (decide (a.toInt < b.toInt)) ∧
      exec (.cmpltu k w) s = writes (decide (a.toNat < b.toNat))) ∧
    (legalPred2 w = true →
      exec (.pand k w) s = writes (p && q) ∧ exec (.por k w) s = writes (p || q)) ∧
    (legalPnot w = true → exec (.pnot k w) s = writes (!p))

/-- With a = SA + IMM a multiple of 8 whose eight bytes lie in program-visible scratch, no word in flight touching them
and every open stream's window letting them be accessed: LDS writes SD with the eight bytes at a, low address first.
STS, with a in the launch bank, stores the eight bytes of the register SD names at a: byte i of the bank extent
reads byte i of that register afterwards, every byte of scratch outside the eight reads as before, and no other part
of the core changes. LDC writes SD with bytes IMM to IMM + 7 of the launch constant block. Nothing outside the core
changes. (Derived from Table Core-7, Table Core-9, R130, R131, R149.) -/
def Obligations.ScratchAndConstantWords : Prop :=
  ∀ (s : State) (k : Skein) (x : SkeinCtx) (e : Env) (w : SWord),
    Ready s k x e → guardOn x.core w.hdr = true →
    let c := past x.core
    let a := (getX64 x.core w.sa + w.imm).toNat
    let byte (v : W64) (i : Nat) : Byte := BitVec.ofNat 8 (v.toNat / 256 ^ i)
    (legalLds w = true → a % 8 = 0 → a + 8 ≤ e.top → hazard e x.core [(a, 8)] [] = false → extentReady x.core a 8 = true →
      exec (.lds k w) s = .next (withCore s k (setX64 c w.sd (BitVec.ofNat 64 (leNat (scratchRead e x.core a 8)))))) ∧
    (legalLds w = true → a % 8 = 0 → e.res ≤ a → a + 8 ≤ e.top → hazard e x.core [] [(a, 8)] = false →
      extentReady x.core a 8 = true →
      ∃ bank, exec (.sts k w) s = .next (withCore s k { c with bank }) ∧
        (∀ i, i < 8 → scratchByte e { c with bank } (a + i) = byte (getX64 x.core w.sd) i) ∧
        ∀ b, b < a ∨ a + 8 ≤ b → scratchByte e { c with bank } b = scratchByte e c b) ∧
    (legalLdc w = true →
      exec (.ldc k w) s = .next (withCore s k (setX64 c w.sd (BitVec.ofNat 64 (fld e.l.lcb w.imm.toNat 8)))))

/-- When skein k is ready, the word is legal and its guard holds, nothing outside the running core changes, and in the
core: NOP changes nothing but moving on; BR goes to PC + IMM (signed); BRI to the word SA holds; CALL writes SD with
PC + 1 and goes to PC + IMM; LOOP writes SD with SD - 1 and goes to PC + IMM unless the register then reads 0, when
it moves on (SD = s0 stays 0, so LOOP on s0 moves on); FENCE and RDFLAGS, once nothing of the launch is in flight,
move on, RDFLAGS writing SD with the six sticky flags zero-extended; ASPLIT sets the four split bits. PC is the
index of the word itself. (Derived from Table Core-7, R137, R138, R97, R128.) -/
def Obligations.ControlFlowWords : Prop :=
  ∀ (s : State) (k : Skein) (x : SkeinCtx) (e : Env) (w : SWord),
    Ready s k x e → guardOn x.core w.hdr = true →
    let c := past x.core
    let target : Int := (x.core.pc : Int) + w.imm.toInt
    let onward (c' : Core) : Result := .next (withCore s k c')
    (legalBare w = true → exec (.nop k w) s = onward c) ∧
    (legalBr w = true → 0 ≤ target → target < imageLen e.acc →
      exec (.br k w) s = onward { c with pc := target.toNat }) ∧
    (legalBri w = true → (getX64 x.core w.sa).toNat < imageLen e.acc →
      exec (.bri k w) s = onward { c with pc := (getX64 x.core w.sa).toNat }) ∧
    (legalCall w = true → 0 ≤ target → target < imageLen e.acc →
      exec (.call k w) s = onward { setX64 c w.sd (BitVec.ofNat 64 (x.core.pc + 1)) with pc := target.toNat }) ∧
    (legalCall w = true → 0 ≤ target → target < imageLen e.acc →
      exec (.loop k w) s = onward (
        if w.sd = 0 then c
        else if getX64 x.core w.sd = 1 then setX64 c w.sd 0
        else { setX64 c w.sd (getX64 x.core w.sd - 1) with pc := target.toNat })) ∧
    (legalBare w = true → quiet x.core = true → exec (.fence k w) s = onward c) ∧
    (legalRdflags w = true → quiet x.core = true →
      exec (.rdflags k w) s = onward (setX64 c w.sd (x.core.flags.zeroExtend 64))) ∧
    (legalAsplit w = true → exec (.asplit k w) s = onward { c with asplit := w.imm.truncate 4 })

/-- For every control-core word of the table, well formed and fitting the accord of the launch, on a ready skein with
its guard false: the next state is the state before with the running core's program counter and word count each one
higher, and nothing else changed (no register, predicate, flag, tile, scratch byte or device memory). (R129.) -/
def Obligations.PredicatedOffWordOnlyCounts : Prop :=
  ∀ (i : Instr) (k : Skein) (h : Hdr) (s : State) (x : SkeinCtx) (e : Env),
    coreWord i = some (k, h) → i.wf = true → wordFits s i = true → Ready s k x e → guardOn x.core h = false →
    exec i s = .next (withCore s k { x.core with hold := none, pc := x.core.pc + 1, words := x.core.words + 1 })

/-- For every control-core word, ill formed or not fitting the accord of the launch, at a skein whose control core may
issue: the skein fails. Every execution in its queue is dispatched again and the event is counted against it.
(Derived from R157, R58, Table Core-10.) -/
def Obligations.IllegalWordFailsTheSkein : Prop :=
  ∀ (i : Instr) (k : Skein) (h : Hdr) (s : State) (x : SkeinCtx) (e : Env),
    coreWord i = some (k, h) → (i.wf = false ∨ wordFits s i = false) → Issuing s k x e →
    exec i s = .next (failSkein s k.val)

/-- For every legal control-core word at a skein whose control core may issue, while no strand group of an earlier word
runs: when the program counter is not inside the program image the execution ends with cause 4 (PC-RANGE) at that
index; inside it, when the entry's word budget is not 0 and has been used up, with cause 5 (WORD-BUDGET). While such
a group runs, a word past the image waits (log 76). The guard of the word does not matter: a predicated-off word
meets both. (Derived from R150, R158, R149, Table Core-9, Table Core-11.) -/
def Obligations.WordPastImageOrBudgetFaults : Prop :=
  ∀ (i : Instr) (k : Skein) (h : Hdr) (s : State) (x : SkeinCtx) (e : Env),
    coreWord i = some (k, h) → i.wf = true → wordFits s i = true → Issuing s k x e →
    (x.core.groups = [] → imageLen e.acc ≤ x.core.pc →
      exec i s = .next (programFault s k.val x.launch x.ex 4 x.core.pc)) ∧
    (x.core.groups ≠ [] → imageLen e.acc ≤ x.core.pc → exec i s = .next s) ∧
    (x.core.groups = [] → x.core.pc < imageLen e.acc → wordBudget e.acc (dProg e.l.desc) ≠ 0 →
      wordBudget e.acc (dProg e.l.desc) ≤ x.core.words →
      exec i s = .next (programFault s k.val x.launch x.ex 5 x.core.pc))

/-- On a ready skein with no job, strand group or token request in flight, for a legal word that meets no program fault,
whose scratch lines no near-bank word or stream holds back: the five tile movers complete at once. The rows of D are
stored in ascending order, element (i, j) being A's element converted from FA to FD under RND (TLD, TST; under SAT
and SCALE for TCVT), +0 (TZERO), or A's whole cell (TCOPY between tiles; the packed element where a side is
scratch). The flags the elements raise, masked by FMASK, join the sticky flags; the next free job number moves on;
nothing else of the state changes. (Derived from Table Core-7, R142, R163, R169, R172, R96.) -/
def Obligations.TileMoversWriteTheirResult : Prop :=
  ∀ (s : State) (k : Skein) (x : SkeinCtx) (e : Env) (w : TWord) (kind : JobKind),
    Ready s k x e → guardOn x.core w.hdr = true → TilesFree x.core →
    firstCause (tileFaults e kind w) = none →
    let h := w.hdr
    let fa := codeFmt h.fa.toNat
    let fd := codeFmt h.fd.toNat
    let rnd := codeRnd h.rnd.toNat
    let job := Job.fresh x.core.nextId kind w x.core.asplit
    ((jobExtents job).1 ++ (jobExtents job).2).all (fun p => extentReady x.core p.1 p.2) = true →
    let a (i j : Nat) : Nat := opdElem e x.core w.a h.fa.toNat (dimM w) (dimN w) i j
    let stores (v : Nat → Nat → Nat × Flags) : Result :=
      let rows := (List.range (dimM w)).map (fun i => (List.range (dimN w)).map (v i))
      let c := ((List.range (dimM w)).zip rows).foldl (fun c p =>
        putRow e c w.d h.fd.toNat (dimN w) p.1 (p.2.map (·.1))) (past x.core)
      .next (withCore s k { c with
        nextId := x.core.nextId + 1
        flags := x.core.flags ||| (flagUnion (rows.map (fun r => flagUnion (r.map (·.2)))) &&& h.fmask) })
    (kind = .tld → legalTld w = true → exec (.tld k w) s = stores (fun i j => convert fa fd rnd false 0 (a i j))) ∧
    (kind = .tst → legalTst w = true → exec (.tst k w) s = stores (fun i j => convert fa fd rnd false 0 (a i j))) ∧
    (kind = .tzero → legalTzero w = true → exec (.tzero k w) s = stores (fun _ _ => (0, noFlags))) ∧
    (kind = .tcvt → legalTcvt w = true →
      exec (.tcvt k w) s = stores (fun i j => convert fa fd rnd h.sat (scaleInt h) (a i j))) ∧
    (kind = .tcopy → legalTcopy w = true →
      exec (.tcopy k w) s = stores (fun i j =>
        (if w.a.kind || w.d.kind then a i j else (opdCell x.core w.a (dimM w) (dimN w) i j).toNat, noFlags)))

/-- For a destination in tile registers of M by N elements from 1 to 256 each: after its rows have been written, element
(i, j) reads the pattern written, reduced to the width of the format; a cell of the tile file that holds no element
of the operand reads as before; scratch, registers and every other part of the core are unchanged. (Derived from
R162, Table Core-5, R134.) -/
def Obligations.TileRowsReadBack : Prop :=
  ∀ (e : Env) (c : Core) (o : Opd) (code m n : Nat) (v : Nat → Nat → Nat),
    o.kind = false → o.trans = false → 0 < m → m ≤ 256 → 0 < n → n ≤ 256 →
    let c' := (List.range m).foldl (fun c i => putRow e c o code n i ((List.range n).map (v i))) c
    (∀ i j, i < m → j < n → opdElem e c' o code m n i j = v i j % 2 ^ 32 % 2 ^ codeWidth code) ∧
    (∀ key, (∀ i j, i < m → j < n → key ≠ elemKey (tileOf o) n i j) → getCell c' key = getCell c key) ∧
    ∃ tiles, c' = { c with tiles }

/-- On a ready skein with no job, group or token request in flight, a legal MMUL or MMAC that meets no program fault and
whose scratch operands may be accessed becomes the only job: it has delivered no pass, and every tile of D is
requested for writing and every other tile of A, B and C for reading, each once and each granted. Given to the MVP it
takes no array. Given to the arrays with none split, its first units, chunks of K within blocks of N, stand as whole
passes on the lowest-numbered arrays, four at most; with arrays split, the passes dealt are quadrant passes where R182
says so. The core moves past the word; no tile, scratch byte or flag changes before the passes have delivered. (Derived
from R169, R170, R171, Table Core-7, R143, R146, R182.) -/
def Obligations.MatrixWordsQueueTheirProduct : Prop :=
  ∀ (s : State) (k : Skein) (x : SkeinCtx) (e : Env) (w : TWord) (kind : JobKind),
    Ready s k x e → guardOn x.core w.hdr = true → TilesFree x.core → firstCause (tileFaults e kind w) = none →
    let job := Job.fresh x.core.nextId kind w x.core.asplit
    ((jobExtents job).1 ++ (jobExtents job).2).all (fun p => extentReady x.core p.1 p.2) = true →
    let m := dimM w
    let n := dimN w
    let q := dimK w
    let token (t : Nat) (write : Bool) : TokenReq := { tile := t, write, owner := job.id, granted := true }
    let queued (reads : List Nat) (dealt : Nat) (arrays : List PassRun) : Result :=
      .next (withCore s k { past x.core with
        nextId := x.core.nextId + 1
        jobs := [{ job with dealt }]
        arrays
        tokens := (tileSpan w.d m n).eraseDups.map (token · true) ++
          ((reads.filter (fun t => !(tileSpan w.d m n).contains t)).eraseDups).map (token · false) })
    let first := min 4 (((q + 31) / 32) * ((n + 31) / 32))
    let starts (i : Instr) (reads : List Nat) : Prop :=
      (usesMvp w x.core.asplit = true → exec i s = queued reads 0 []) ∧
      (usesMvp w x.core.asplit = false → x.core.asplit = 0 → exec i s = queued reads first
        ((List.range first).map (fun u => { array := u, job := job.id, pass := 5 * u }))) ∧
      (usesMvp w x.core.asplit = false → ∃ dealt arrays, exec i s = queued reads dealt arrays ∧
        ∀ r ∈ arrays, r.job = job.id ∧ r.array < 4 ∧
          (x.core.asplit.getLsbD r.array = true → r.pass % 5 ≠ 0 ∧
            quadrantUsed w (r.pass / 5) ((r.pass % 5 - 1) / 2) ((r.pass % 5 - 1) % 2) = true) ∧
          (x.core.asplit.getLsbD r.array = false → r.pass % 5 = 0 ∧ r.pass / 5 < ((q + 31) / 32) * ((n + 31) / 32)))
    (kind = .mmul → legalMmul w = true → starts (.mmul k w) (tileSpan w.a m q ++ tileSpan w.b q n)) ∧
    (kind = .mmac → legalMmac w = true →
      starts (.mmac k w) (tileSpan w.a m q ++ tileSpan w.b q n ++ tileSpan w.c m n))

/-- With one matrix job in flight whose A and B tokens are granted: a pass that stands on an array (its place goes to the
next pass of the word), or a leaf of the MVP on a word the folder gave to the MVP, joins what the chunk holder has.
While leaves are missing nothing else changes. With the last leaf the read tokens of A and B are released, whether or
not C and D are granted; with C granted every element is formed, the lay-order product of its row of A and column of B
with C's element added for MMAC, rounded to FD under RND, and C's read tokens are released; with D granted D takes the
rows, the masked flags join the sticky flags, and the job is gone with all its tokens. (Derived from R144, R145, R146,
R168, R142, R96, R172, R173, Table Matrix-2.) -/
def Obligations.MatrixUnitsDeliver : Prop :=
  ∀ (s : State) (k : Skein) (x : SkeinCtx) (e : Env) (j : Job) (pass m n chunk : Nat),
    Running s k x e → x.core.jobs = [j] → x.core.groups = [] → (j.kind = .mmul ∨ j.kind = .mmac) →
    j.stage = .passes → operandsGranted x.core j = true →
    let w := j.word
    let h := w.hdr
    let a (r q : Nat) : Nat := opdElem e x.core w.a h.fa.toNat (dimM w) (dimK w) r q
    let b (q y : Nat) : Nat := opdElem e x.core w.b h.fb.toNat (dimK w) (dimN w) q y
    let acc (r y : Nat) : Option (Fmt × Nat) :=
      if j.kind = .mmac then some (codeFmt h.fc.toNat, opdElem e x.core w.c h.fc.toNat (dimM w) (dimN w) r y) else none
    let d (r y : Nat) : Nat × Flags :=
      dot (codeFmt h.fa.toNat) (codeFmt h.fb.toNat) ((List.range (dimK w)).map (fun q => (a r q, b q y))) (acc r y)
        (codeFmt h.fd.toNat) (codeRnd h.rnd.toNat)
    let rows := (List.range (dimM w)).map (fun r => (List.range (dimN w)).map (d r))
    let stored := ((List.range (dimM w)).zip rows).foldl (fun c p =>
      putRow e c w.d h.fd.toNat (dimN w) p.1 (p.2.map (·.1))) x.core
    let ofC : List Nat := if j.kind = .mmac then tileSpan w.c (dimM w) (dimN w) else []
    let held (p : TokenReq → Bool) : Bool := x.core.tokens.all (fun r => r.owner != j.id || !p r || r.granted)
    let delivered (leaf : Nat) (arrays : List PassRun) : Core :=
      let j' := { j with done := sadd j.done leaf }
      if leavesDone j' = false then { x.core with arrays, jobs := [j'] }
      else if held (fun r => ofC.contains r.tile) = false then
        { x.core with
          arrays
          tokens := x.core.tokens.filter (fun r => r.owner != j.id || r.write || ofC.contains r.tile)
          jobs := [{ j' with stage := .summed ((List.range (dimM w)).map (fun r => (List.range (dimN w)).map (fun y =>
            dotSum (codeFmt h.fa.toNat) (codeFmt h.fb.toNat) ((List.range (dimK w)).map (fun q => (a r q, b q y)))))) }] }
      else if held (fun r => r.write) = false then
        { x.core with
          arrays
          tokens := x.core.tokens.filter (fun r => r.owner != j.id || r.write)
          jobs := [{ j' with stage := .formed rows }] }
      else
        { stored with
          arrays
          flags := x.core.flags ||| (flagUnion (rows.map (fun r => flagUnion (r.map (·.2)))) &&& h.fmask)
          tokens := x.core.tokens.filter (fun r => r.owner != j.id)
          jobs := [] }
    (passRuns x.core j.id pass = true → exec (.arrayPassDone k j.id pass) s = .next (withCore s k
      (deal quadrants (delivered pass (x.core.arrays.filter (fun r => r.job != j.id || r.pass != pass)))))) ∧
    (usesMvp w j.asplit = true → m < dimM w → n < dimN w → chunk < chunks w →
      exec (.mvpChunkDone k j.id m n chunk) s = .next (withCore s k (delivered (leafNo w m n chunk) x.core.arrays)))

/-- With one matrix job in flight, two different passes of it on the arrays, neither of which completes the word alone:
delivering the first and then the second leaves the same tiles, scratch, registers, flags and tokens as delivering the
second and then the first, and, once the folder has no pass of the word left to issue, the same state. No value
depends on the order in which passes finish. (Derived from R145, R146, R108, R15.) -/
def Obligations.PassOrderDoesNotMatter : Prop :=
  ∀ (s s1 s2 : State) (k : Skein) (x : SkeinCtx) (e : Env) (j : Job) (p q : Nat),
    Running s k x e → x.core.jobs = [j] → (j.kind = .mmul ∨ j.kind = .mmac) → j.stage = .passes →
    passRuns x.core j.id p = true → passRuns x.core j.id q = true → p ≠ q →
    leavesDone { j with done := sadd j.done p } = false → leavesDone { j with done := sadd j.done q } = false →
    exec (.arrayPassDone k j.id p) s = .next s1 → exec (.arrayPassDone k j.id q) s = .next s2 →
    ∃ c1 c2, exec (.arrayPassDone k j.id q) s1 = .next (withCore s k c1) ∧
      exec (.arrayPassDone k j.id p) s2 = .next (withCore s k c2) ∧
      { c1 with arrays := [], jobs := [] } = { c2 with arrays := [], jobs := [] } ∧
      c1.jobs.length = c2.jobs.length ∧ (dealing j = false → c1 = c2)

/-- Requests are held in issue order and leave the list when they are released. A grant on tile t with no job waiting: a
request on t is granted when it was before, or when every earlier unreleased request on that tile is a read and it
is one itself, or no earlier one is left; every other request, and everything else of the state, is as before.
(R170.) -/
def Obligations.TileTokensAreGrantedInIssueOrder : Prop :=
  ∀ (s : State) (k : Skein) (x : SkeinCtx) (e : Env) (t : Fin 64),
    Running s k x e → x.core.jobs = [] →
    ∃ tokens : List TokenReq, exec (.tileTokenGrant k t) s = .next (withCore s k { x.core with tokens }) ∧
      tokens.length = x.core.tokens.length ∧
      ∀ (n : Nat) (r : TokenReq), x.core.tokens[n]? = some r →
        tokens[n]? = some { r with granted := r.granted || (decide (r.tile = t.val) &&
          (x.core.tokens.take n).all (fun b => decide (b.tile = r.tile → r.write = false ∧ b.write = false))) }

/-- On a ready skein with a legal word whose guard holds. STRGO with enable mask 0 only moves on. STRGO with a window of
no bytes, or one in the launch bank aligned to 128 bytes with a length that is a multiple of 4,096, with none of its
strands busy and no hazard: a group not yet started joins the queue, with its mask, its entry from the strand
program table, its window, its masks and the flags known so far, and it requests write tokens of its write mask and
read tokens of its read mask. STRWAIT moves on once no strand of its mask is running. (Derived from R174, R178,
R179, R180, R169, R189, Table Matrix-3.) -/
def Obligations.StrandGroupWords : Prop :=
  ∀ (s : State) (k : Skein) (x : SkeinCtx) (e : Env) (w : MWord),
    Ready s k x e → guardOn x.core w.hdr = true →
    let c := past x.core
    let mask : BitVec 32 := (getX64 x.core w.sa).truncate 32
    let base := (getX64 x.core w.sb).toNat
    let len := (getX64 x.core w.sc).toNat
    (legalStrgo w = true → wordFits s (.strgo k w) = true → mask = 0 → exec (.strgo k w) s = .next (withCore s k c)) ∧
    (legalStrgo w = true → wordFits s (.strgo k w) = true → mask ≠ 0 →
      (len = 0 ∨ (e.res ≤ base ∧ base + len ≤ e.top ∧ base % 128 = 0 ∧ len % 4096 = 0)) →
      strandsBusy x.core (maskStrands mask) = false → hazard e x.core [(0, e.top)] [(base, len)] = false →
      ∃ tokens,
        exec (.strgo k w) s = .next (withCore s k { c with
          nextId := x.core.nextId + 1
          tokens := x.core.tokens ++ tokens
          groups := x.core.groups ++ [
            { id := x.core.nextId, pc := x.core.pc, mask, entry := fld (section_ e.acc 5) (8 * strgoEntry w) 4,
              window := base, winLen := len, rmask := strgoRead w, wmask := strgoWrite w, started := false,
              seen := x.core.flags, flags := noFlags, live := maskStrands mask }] }) ∧
        tokens.map (fun t => (t.tile, t.write, t.owner)) =
          (maskTiles (strgoWrite w)).map (fun t => (t, true, x.core.nextId)) ++
          (maskTiles (strgoRead w)).map (fun t => (t, false, x.core.nextId))) ∧
    (legalStrwait w = true → strandsBusy x.core (maskStrands mask) = false →
      exec (.strwait k w) s = .next (withCore s k c))

/-- STRAND_GROUP_START of a group that has not started and all of whose tokens are granted: the group has started, and
each live strand runs in it from the entry, with x1 = i, x2 = the window base plus i slices, x3 = the slice length,
and every other register and every lane reading 0. Strands outside the group are as before. (R175.) -/
def Obligations.StrandsStartWithTheirSlice : Prop :=
  ∀ (s : State) (k : Skein) (x : SkeinCtx) (e : Env) (id : Nat) (g : Group),
    Running s k x e → x.core.groups.find? (fun g => g.id == id) = some g → g.started = false →
    allGranted x.core id = true →
    ∃ c, exec (.strandGroupStart k id) s = .next (withCore s k c) ∧
      (∃ strands, c = { x.core with
        strands := strands
        groups := updFirst (fun g => g.id == id) (fun g => { g with started := true }) x.core.groups }) ∧
      (∀ i, i ∈ g.live →
        (getStr c i).group = id ∧ (getStr c i).pc = g.entry ∧
        (∀ r : BitVec 5, strX (getStr c i) r =
          if r = 1 then BitVec.ofNat 32 i
          else if r = 2 then BitVec.ofNat 32 (g.window + i * (g.winLen / 32))
          else if r = 3 then BitVec.ofNat 32 (g.winLen / 32)
          else 0) ∧
        ∀ r j, lane (getStr c i) r j = 0) ∧
      ∀ i, i ∉ g.live → getStr c i = getStr x.core i

/-- A strand that is ready to issue runs S_ADD to S_MAXU: XD takes the result of XA and of register XB or the sign-
extended 12-bit immediate, wrapped modulo 2^32 (high halves for S_MULHS and S_MULHU, shifts by the low five bits,
signed and unsigned minima and maxima). A write to x0 is discarded. Only that register and the strand's own program
counter change: no lane, no flag, no other strand, nothing of the core or the device. Integer arithmetic on the
right is independent of the bit operations the meaning uses; the five-bit shift amount is the model's reading (log
21). (Derived from R183, Table Matrix-6, R175.) -/
def Obligations.StrandScalarWords : Prop :=
  ∀ (s : State) (k : Skein) (i : Strand) (x : SkeinCtx) (e : Env) (g : Group) (w : SaluW),
    StrandReady s k i x e g →
    let t := getStr x.core i.val
    let a := strX t w.xa
    let b : W32 := match w.src with | .reg r => strX t r | .imm v => BitVec.ofInt 32 v.toInt
    let n := b.toNat % 32
    let writes (v : W32) : Result := .next (withStrand s k x.core i (
      if w.xd = 0 then { t with pc := t.pc + 1 } else { t with pc := t.pc + 1, x := nput 0 t.x w.xd.toNat v }))
    exec (.sAdd k i w) s = writes (BitVec.ofInt 32 (a.toInt + b.toInt)) ∧
    exec (.sSub k i w) s = writes (BitVec.ofInt 32 (a.toInt - b.toInt)) ∧
    exec (.sMul k i w) s = writes (BitVec.ofInt 32 (a.toInt * b.toInt)) ∧
    exec (.sMulhs k i w) s = writes (BitVec.ofInt 32 (a.toInt * b.toInt / 2 ^ 32)) ∧
    exec (.sMulhu k i w) s = writes (BitVec.ofNat 32 (a.toNat * b.toNat / 2 ^ 32)) ∧
    exec (.sAnd k i w) s = writes (a &&& b) ∧
    exec (.sOr k i w) s = writes (a ||| b) ∧
    exec (.sXor k i w) s = writes (a ^^^ b) ∧
    exec (.sShl k i w) s = writes (BitVec.ofNat 32 (a.toNat * 2 ^ n)) ∧
    exec (.sShr k i w) s = writes (BitVec.ofNat 32 (a.toNat / 2 ^ n)) ∧
    exec (.sSar k i w) s = writes (BitVec.ofInt 32 (a.toInt / 2 ^ n)) ∧
    exec (.sMin k i w) s = writes (BitVec.ofInt 32 (min a.toInt b.toInt)) ∧
    exec (.sMax k i w) s = writes (BitVec.ofInt 32 (max a.toInt b.toInt)) ∧
    exec (.sMinu k i w) s = writes (BitVec.ofNat 32 (min a.toNat b.toNat)) ∧
    exec (.sMaxu k i w) s = writes (BitVec.ofNat 32 (max a.toNat b.toNat))

/-- For a strand that is ready to issue. BRANCH inside the strand image goes to its own index plus the signed offset
when its condition (=, not =, signed less, signed not less, unsigned less, unsigned not less, always) holds of XA
and XB, and to the next word otherwise. END leaves the strand idle; while other strands of the group live it only
joins the strand's flags to the group's and leaves its live strands; for the last one the group is gone, its flags
are in the launch's sticky flags (and known to the groups started after it) and its tokens are released. RDFLAGS,
once nothing the launch issued before the STRGO is in flight, writes XD with the flags known at the STRGO and those
of the strand's own words. LDC writes XD with four bytes of the launch constant block. (Derived from R179, R180,
R172, R97, Table Matrix-6, Table Matrix-7, R627.) -/
def Obligations.StrandControlWords : Prop :=
  ∀ (s : State) (k : Skein) (i : Strand) (x : SkeinCtx) (e : Env) (g : Group) (b : BranchW) (w : CtrlW),
    StrandReady s k i x e g →
    let c := x.core
    let t := getStr c i.val
    let p := strX t b.xa
    let q := strX t b.xb
    let target : Int := (t.pc : Int) + b.off.toInt
    let taken : Bool := match b.cond.toNat with
      | 0 => decide (p.toNat = q.toNat)
      | 1 => decide (p.toNat ≠ q.toNat)
      | 2 => decide (p.toInt < q.toInt)
      | 3 => decide (q.toInt ≤ p.toInt)
      | 4 => decide (p.toNat < q.toNat)
      | 5 => decide (q.toNat ≤ p.toNat)
      | _ => true
    let g' := { g with flags := g.flags ||| t.flags, live := sdel g.live i.val }
    (legalBranch b = true → 0 ≤ target → target < strImage e.acc →
      exec (.branch k i b) s =
        .next (withStrand s k c i { t with pc := if taken then target.toNat else t.pc + 1 })) ∧
    (g'.live ≠ [] → exec (.strandEnd k i w) s = .next (withStrand s k
      { c with groups := updFirst (fun h => h.id == g.id) (fun _ => g') c.groups } i StrandSt.idle)) ∧
    (g'.live = [] → exec (.strandEnd k i w) s = .next (withStrand s k
      { c with
        groups := (c.groups.filter (fun h => h.id != g.id)).map (fun h =>
          if g.id < h.id then { h with seen := h.seen ||| g'.flags } else h)
        flags := c.flags ||| g'.flags
        tokens := c.tokens.filter (fun r => r.owner != g.id) } i StrandSt.idle)) ∧
    ((∀ j ∈ c.jobs, g.id ≤ j.id) → (∀ h ∈ c.groups, g.id ≤ h.id) → (∀ n ∈ c.nb, g.id ≤ n.id) →
      c.media.all (·.granted) = true →
      exec (.strandRdflags k i w) s =
        .next (withStrand s k c i (strSetX { t with pc := t.pc + 1 } w.xd ((g.seen ||| t.flags).zeroExtend 32)))) ∧
    (legalSldc w = true → exec (.strandLdc k i w) s =
      .next (withStrand s k c i (strSetX { t with pc := t.pc + 1 } w.xd (BitVec.ofNat 32 (fld e.l.lcb w.imm.toNat 4)))))

/-- For a strand that is ready to issue, each lane-wise VARITH word leaves in every lane j of VD the operation of its
format and rounding mode on elements j of its sources (a compare leaves 1 or 0, VSEL the whole cell of VA where VC's
cell is not 0 and of VB where it is), and joins to the strand's flags the union of what the 32 lanes raised; minima,
maxima, compares and selects raise none. Every other lane register and every scalar register is as before, and
nothing outside the strand changes. (Derived from Table Matrix-7, R90, R100, R101, R102, R162, R180.) -/
def Obligations.LaneArithmeticWords : Prop :=
  ∀ (s : State) (k : Skein) (i : Strand) (x : SkeinCtx) (e : Env) (g : Group) (w : VarithW),
    StrandReady s k i x e g → legalVarith w = true →
    let t := getStr x.core i.val
    let f := vFmt w
    let r := vRnd w
    let a := laneElem t w.va f
    let b := laneElem t w.vb f
    let c := laneElem t w.vc f
    let writes (i' : Instr) (v : Nat → Nat × Flags) : Prop :=
      ∃ t', exec i' s = .next (withStrand s k x.core i t') ∧ LaneResult t t' w.vd v
    let truth (v : Nat → Bool) (j : Nat) : Nat × Flags := (if v j then 1 else 0, noFlags)
    writes (.vadd k i w) (fun j => eAdd f r (a j) (b j)) ∧
    writes (.vsub k i w) (fun j => eSub f r (a j) (b j)) ∧
    writes (.vmul k i w) (fun j => eMul f r (a j) (b j)) ∧
    writes (.vdiv k i w) (fun j => eDiv f r (a j) (b j)) ∧
    writes (.vmin k i w) (fun j => (eMin f (a j) (b j), noFlags)) ∧
    writes (.vmax k i w) (fun j => (eMax f (a j) (b j), noFlags)) ∧
    writes (.vabs k i w) (fun j => eAbs f (a j)) ∧
    writes (.vneg k i w) (fun j => eNeg f (a j)) ∧
    writes (.vcmpeq k i w) (truth (fun j => eEq f (a j) (b j))) ∧
    writes (.vcmplt k i w) (truth (fun j => eLt f (a j) (b j))) ∧
    writes (.vcmple k i w) (truth (fun j => eLe f (a j) (b j))) ∧
    writes (.vsel k i w) (fun j =>
      ((if lane t w.vc j = 0 then lane t w.vb j else lane t w.va j).toNat, noFlags)) ∧
    (legalVfloat w = true →
      writes (.vfma k i w) (fun j => eFma f r (a j) (b j) (c j)) ∧
      writes (.vsqrt k i w) (fun j => eSqrt f r (a j)) ∧
      writes (.vcmpun k i w) (truth (fun j => eUn f (a j) (b j))))

/-- For a strand that is ready to issue. VDOT leaves in lane 0 of VD the lay-order product of VA and VB as one chunk,
VSUM the reduction of VA in lay order, VRMIN and VRMAX its least and greatest element, and +0 in the 31 other lanes.
VCURVE, with a curve of the accord's curve-table version for its function ID, leaves that curve's value in every
lane. VCVT leaves in every lane the element converted from FA to FD under its rounding mode, SAT and scale. The
union of the flags raised joins the strand's; nothing else changes. (Derived from Table Matrix-7, R105, R110, R115,
R117, R77, R186.) -/
def Obligations.LaneReductionWords : Prop :=
  ∀ (s : State) (k : Skein) (i : Strand) (x : SkeinCtx) (e : Env) (g : Group) (w : VarithW) (u : VcvtW),
    StrandReady s k i x e g →
    let t := getStr x.core i.val
    let f := vFmt w
    let r := vRnd w
    let a := laneElem t w.va f
    let b := laneElem t w.vb f
    let writes (i' : Instr) (vd : BitVec 3) (v : Nat → Nat × Flags) : Prop :=
      ∃ t', exec i' s = .next (withStrand s k x.core i t') ∧ LaneResult t t' vd v
    let first (v : Nat × Flags) (j : Nat) : Nat × Flags := if j = 0 then v else (0, noFlags)
    (legalVarith w = true →
      writes (.vdot k i w) w.vd (first (dot f f ((List.range 32).map (fun j => (a j, b j))) none f r)) ∧
      writes (.vsum k i w) w.vd (first (sumReduce f ((List.range 32).map a) f r)) ∧
      writes (.vrmin k i w) w.vd (first (minReduce f ((List.range 32).map a), noFlags)) ∧
      writes (.vrmax k i w) w.vd (first (maxReduce f ((List.range 32).map a), noFlags))) ∧
    (∀ curve, legalVcurve w = true → accordCurve s e.acc (curveId w) = some curve →
      writes (.vcurve k i w) w.vd (fun j => curveEval curve f r (a j))) ∧
    (legalVcvt u = true → writes (.vcvt k i u) u.vd (fun j =>
      convert (codeFmt u.fa.toNat) (codeFmt u.fd.toNat) (codeRnd u.rnd.toNat) u.sat u.scale.toInt
        (laneElem t u.va (codeFmt u.fa.toNat) j)))

/-- For a strand that is ready to issue, with a legal word, each VPERM word moves cells as its row of Table Matrix-7
says: by VB's low five bits (PERM), rotated by XS (ROT), cell IMM5 everywhere (BCAST), interleaved low or high
halves (ZIPLO, ZIPHI), even or odd cells (UNZIPE, UNZIPO), XS into cell IMM5 (MOVX), cell IMM5 into XS (LANE), the
sorted lane indices (SORT). PACK: bit b of the packed string, in cells IMM5 + b/32, is bit b mod w of element b/w of
VA, and the other cells of VD stay. UNPACK: bit d of element j is bit w j + d of the string, and the bits above the
element are 0. No flag is raised and nothing else changes. That whole cells move is the model's reading (log 20).
(Derived from Table Matrix-7, R163, R184, R185.) -/
def Obligations.LanePermutationWords : Prop :=
  ∀ (s : State) (k : Skein) (i : Strand) (x : SkeinCtx) (e : Env) (g : Group) (w : VpermW),
    StrandReady s k i x e g → legalVperm w = true →
    let t := getStr x.core i.val
    let f := codeFmt w.fmt.toNat
    let va := lane t w.va
    let vb := lane t w.vb
    let n := w.imm5.toNat
    let xs := strX t w.xs
    let moves (i' : Instr) (v : Nat → W32) : Prop :=
      ∃ t', exec i' s = .next (withStrand s k x.core i t') ∧ LaneResult t t' w.vd (fun j => ((v j).toNat, noFlags))
    moves (.perm k i w) (fun j => va ((vb j).toNat % 32)) ∧
    moves (.rot k i w) (fun j => va ((j + xs.toNat) % 32)) ∧
    moves (.bcast k i w) (fun _ => va n) ∧
    moves (.ziplo k i w) (fun j => if j % 2 = 0 then va (j / 2) else vb (j / 2)) ∧
    moves (.ziphi k i w) (fun j => if j % 2 = 0 then va (16 + j / 2) else vb (16 + j / 2)) ∧
    moves (.unzipe k i w) (fun j => if j < 16 then va (2 * j) else vb (2 * (j - 16))) ∧
    moves (.unzipo k i w) (fun j => if j < 16 then va (2 * j + 1) else vb (2 * (j - 16) + 1)) ∧
    moves (.movx k i w) (fun j => if j = n then xs else lane t w.vd j) ∧
    moves (.sort k i w) (fun j => BitVec.ofNat 32 ((sortLanes f ((List.range 32).map (laneElem t w.va f))).getD j 0)) ∧
    exec (.lane k i w) s = .next (withStrand s k x.core i (strSetX { t with pc := t.pc + 1 } w.xs (va n))) ∧
    (legalPack w = true →
      (∃ v, moves (.pack k i w) v ∧
        (∀ b, b < 32 * f.width → (v (n + b / 32)).getLsbD (b % 32) = (laneElem t w.va f (b / f.width)).testBit (b % f.width)) ∧
        ∀ j, j < 32 → (j < n ∨ n + f.width ≤ j) → v j = lane t w.vd j) ∧
      ∃ v, moves (.unpack k i w) v ∧
        (∀ j d, j < 32 → d < f.width →
          (v j).getLsbD d = (va (n + (f.width * j + d) / 32)).getLsbD ((f.width * j + d) % 32)) ∧
        ∀ j d, j < 32 → f.width ≤ d → (v j).getLsbD d = false)

/-- The list SORT leaves for 32 keys names each lane 0 to 31 exactly once; of two lanes in it, the later one's key never
sorts before the earlier one's, and where neither key sorts before the other the lower lane comes first. One key
sorts before another by its class (+infinity, positive finite, +0, -0, negative finite, -infinity, NaN; one class
for integers) and within a class when its value is the greater one. (R185.) -/
def Obligations.SortedLanesAreOrdered : Prop :=
  ∀ (f : Fmt) (keys : List Nat), keys.length = 32 →
    let l := sortLanes f keys
    let key (n : Nat) : Nat := keys.getD n 0
    l.Perm (List.range 32) ∧
    (∀ m n i j : Nat, m < n → l[m]? = some i → l[n]? = some j →
      sortsBefore f (key j) (key i) = false ∧ (sortsBefore f (key i) (key j) = false → i < j)) ∧
    ∀ a b, sortsBefore f a b = true ↔
      (sortRank f a < sortRank f b ∨ (sortRank f a = sortRank f b ∧ (f.val b).cmp (f.val a) = some .lt))

/-- For a strand i that is ready to issue. TRD and TRDX leave in lane j of V the element of cell j of row i, or of the
row XS names (any row to 31 of a read-mask tile, its own of a write-mask tile), bits above the format's width
cleared. TWR writes row i of a write-mask tile with V's elements and leaves every other cell of every tile. LDW and
VLD read 4 or 128 bytes at an aligned address inside program-visible scratch, of the window only the strand's own
slice; STW and VST write the strand's own slice: each byte reads back there and every other byte of scratch is as
before. A stream whose bytes are touched must have delivered them. Nothing else changes. (Derived from R176, R177,
R190, R628, R162, Table Matrix-8, Table Matrix-7.) -/
def Obligations.StrandTileAndMemoryWords : Prop :=
  ∀ (s : State) (k : Skein) (i : Strand) (x : SkeinCtx) (e : Env) (g : Group) (w : TileW) (u : MemW),
    StrandReady s k i x e g →
    let c := x.core
    let t := getStr c i.val
    let f := codeFmt w.fmt.toNat
    let row := (strX t w.xs).toNat
    let cell (r j : Nat) : Nat × Flags := ((getCell c (cellKey w.tile.toNat r j)).toNat % 2 ^ f.width, noFlags)
    let a := (strX t u.xa + BitVec.ofInt 32 u.off.toInt).toNat
    let mayRead (n : Nat) : Prop := a % n = 0 ∧ a + n ≤ e.top ∧ extentReady c a n = true ∧
      ∀ b, b < n → inWindow g (a + b) = true → inSlice g i.val (a + b) = true
    let mayWrite (n : Nat) : Prop := a % n = 0 ∧ e.res ≤ a ∧ extentReady c a n = true ∧
      ∀ b, b < n → inSlice g i.val (a + b) = true
    let stores (i' : Instr) (n : Nat) (v : Nat → Byte) : Prop :=
      ∃ bank, exec i' s = .next (withStrand s k { c with bank } i { t with pc := t.pc + 1 }) ∧
        (∀ b, b < n → scratchByte e { c with bank } (a + b) = v b) ∧
        ∀ y, y < a ∨ a + n ≤ y → scratchByte e { c with bank } y = scratchByte e c y
    (legalTile w = true →
      ((inMask g.rmask w.tile || inMask g.wmask w.tile) = true →
        ∃ t', exec (.trd k i w) s = .next (withStrand s k c i t') ∧ LaneResult t t' w.v (cell i.val)) ∧
      ((inMask g.rmask w.tile || inMask g.wmask w.tile) = true → row ≤ 31 → (inMask g.wmask w.tile = true → row = i.val) →
        ∃ t', exec (.trdx k i w) s = .next (withStrand s k c i t') ∧ LaneResult t t' w.v (cell row)) ∧
      (inMask g.wmask w.tile = true → ∃ tiles,
        exec (.twr k i w) s = .next (withStrand s k { c with tiles } i { t with pc := t.pc + 1 }) ∧
        (∀ j, j < 32 → nget 0 tiles (cellKey w.tile.toNat i.val j) = BitVec.ofNat 32 (laneElem t w.v f j)) ∧
        ∀ key, (∀ j, j < 32 → key ≠ cellKey w.tile.toNat i.val j) → nget 0 tiles key = getCell c key)) ∧
    (mayRead 4 → exec (.ldw k i u) s = .next (withStrand s k c i
      (strSetX { t with pc := t.pc + 1 } u.xd (BitVec.ofNat 32 (leNat (scratchRead e c a 4)))))) ∧
    (mayWrite 4 → stores (.stw k i u) 4 (fun b => BitVec.ofNat 8 ((strX t u.xd).toNat / 256 ^ b))) ∧
    (legalVld u = true →
      (mayRead 128 → ∃ t', exec (.vld k i u) s = .next (withStrand s k c i t') ∧
        LaneResult t t' (u.xd.truncate 3) (fun j => (leNat (scratchRead e c (a + 4 * j) 4), noFlags))) ∧
      (mayWrite 128 → stores (.vst k i u) 128 (fun b =>
        BitVec.ofNat 8 ((lane t (u.xd.truncate 3) (b / 4)).toNat / 256 ^ (b % 4)))))

/-- On a ready skein with a legal word whose guard holds. STMOPEN of a descriptor that passes the checks opens the
stream with both marks 0, SA added to the host offset and SB to the ring base. On an open stream: STMREARM adds its
count to the armings of a persistent IN or OUT stream whose added armings fit; STMCLOSE, once the stream has what it
waits for, ends it and leaves scratch; STMCANCEL ends it, an IN or NB ring reading 0 in every byte afterwards;
STMWAIT on an IN or NB stream whose watermark is far enough sets Q to max(Q, min(SB, T)), the flags of the units it
passes joining the sticky flags, and on an OUT stream sets M to max(M, min(SB, T, M + ring)) and makes the words
after it wait for min(SA, M) rounded down to a unit. (Derived from R298, R299, R300, R301, R306, R307, R308, R302.) -/
def Obligations.StreamWords : Prop :=
  ∀ (s : State) (k : Skein) (x : SkeinCtx) (e : Env) (w : MWord),
    Ready s k x e → guardOn x.core w.hdr = true →
    let c := past x.core
    let n := stmNumber w
    let a := (getX64 x.core w.sa).toNat
    let b := (getX64 x.core w.sb).toNat
    let sets (c' : Core) (v : Option Stream) : Result := .next (withCore s k (setStream c' n v))
    (∀ d, legalStmopen w = true → streamAt e.acc (stmDesc w) = some d → openOk e x.core n (freshStream d a b) = true →
      ringBusy e x.core (freshStream d a b) = false →
      exec (.stmopen k w) s = sets c (some
        { desc := d, base := d.off + a, ring := d.ring + b, armings := d.armings, w := 0, q := 0, present := [],
          flags := [], ranges := [] })) ∧
    ∀ st, getStream x.core n = some st → ringBusy e x.core st = false →
      let m := st.armings + stmArmings w
      let total := totalBytes st
      let len := st.desc.ringLen
      (legalStmrearm w = true → st.desc.dir ≠ 3 → st.desc.persistent = true → m < 2 ^ 32 →
        extentOk e st st.armings m = true → (st.desc.isOut = false ∨ outClear x.core n st st.armings m = true) →
        exec (.stmrearm k w) s = sets c (some { st with armings := m })) ∧
      (legalStmclose w = true → closeReady st = true → exec (.stmclose k w) s = sets c none) ∧
      (legalStmclose w = true → (st.desc.dir = 1 ∨ closeReady st = true) →
        ∃ c', exec (.stmcancel k w) s = sets c' none ∧
          (st.desc.isOut = true → c' = c) ∧
          (st.desc.isOut = false → (∃ bank, c' = { c with bank }) ∧
            (e.res ≤ st.ring → ∀ y, scratchByte e c' y =
              if st.ring ≤ y ∧ y < st.ring + len then 0 else scratchByte e x.core y))) ∧
      (legalStmwait w = true → st.desc.isOut = true →
        let m := max st.q (min (min b total) (st.q + len))
        exec (.stmwait k w) s = .next (withCore s k
          { setStream c n (some { st with q := m }) with hold := some (n, unitFloor st (min a m)) })) ∧
      (legalStmwait w = true → st.desc.isOut = false →
        let q := max st.q (if st.desc.dir = 3 then b else min b total)
        max (min (if st.desc.dir = 3 then a else min a total) (q + len)) q ≤ st.w →
        let u := unitRing st.desc
        let passed := st.flags.filter (fun p => decide ((p.1 + 1) * u ≤ q))
        exec (.stmwait k w) s = sets { c with flags := x.core.flags ||| flagUnion (passed.map (·.2)) }
          (some { st with q := q, flags := st.flags.filter (fun p => !decide ((p.1 + 1) * u ≤ q)) }))

/-- STMREARM, STMCLOSE, STMCANCEL and STMWAIT that name a stream which is not open: the word completes at once, the
core's flags gain NV and nothing else of it changes but moving past the word, and one STREAM-INVALID entry (0x0109)
with the launch and the word's index and stream joins the error log. SEQF, ROWRD and the four near-bank words whose
table the launch may read and which meet no program fault do the same, whatever their operands in scratch wait for; a
near-bank word raises NV only where its FMASK lets it. (R310.) -/
def Obligations.WordOnClosedStreamRaisesNv : Prop :=
  ∀ (s : State) (k : Skein) (x : SkeinCtx) (e : Env) (w : MWord),
    Ready s k x e → guardOn x.core w.hdr = true →
    let raises (n : Nat) (f : Flags) : Result := .next (withCore
      (logErr s 0x0109 e.l.tenant e.l.id (x.core.pc % 2 ^ 24 + n * 2 ^ 24)) k
      { past x.core with flags := x.core.flags ||| f })
    let invalid (n : Nat) : Result := raises n flNV
    let masked (n : Nat) : Result := raises n (flNV &&& w.hdr.fmask)
    (getStream x.core (stmNumber w) = none →
      (legalStmrearm w = true → exec (.stmrearm k w) s = invalid (stmNumber w)) ∧
      (legalStmclose w = true → exec (.stmclose k w) s = invalid (stmNumber w)) ∧
      (legalStmclose w = true → exec (.stmcancel k w) s = invalid (stmNumber w)) ∧
      (legalStmwait w = true → exec (.stmwait k w) s = invalid (stmNumber w))) ∧
    (getStream x.core (parStream w) = none → (sourceOf s e (parHandle w)).isSome = true →
      (legalSeqf w = true → wordFits s (.seqf k w) = true → exec (.seqf k w) s = invalid (parStream w)) ∧
      ∀ kind, let elems := if kind = .copy then 0 else ((schemaOf e.acc (parHandle w)).map tElems).getD 0
        firstCause (nbFaults kind w e x.core elems true) = none →
        (kind = .gp → legalNbgp w = true → wordFits s (.nbgp k w) = true → exec (.nbgp k w) s = masked (parStream w)) ∧
        (kind = .dot → legalNbdot w = true → wordFits s (.nbdot k w) = true → exec (.nbdot k w) s = masked (parStream w)) ∧
        (kind = .sa → legalNbsa w = true → wordFits s (.nbsa k w) = true → exec (.nbsa k w) s = masked (parStream w)) ∧
        (kind = .copy → legalNbcopy w = true → wordFits s (.nbcopy k w) = true → exec (.nbcopy k w) s = masked (parStream w)) ∧
        (kind = .copy → legalRowrd w = true → wordFits s (.rowrd k w) = true →
          exec (.rowrd k w) s = invalid (parStream w)))

/-- The unit at an IN stream's watermark, inside its armings and its credit, whose host bytes are held and whose
successors have not arrived, arrives: its lines are read through the row cache under the descriptor's hint, its
converted bytes stand in the ring, the watermark passes it, and its flags wait for Q. A whole unit of an OUT stream
below the ready mark, with the transfer not waiting for a page and the host write done: its converted bytes stand in
the execution's shadow, the sent mark passes it, its flags join the sticky flags, and a primary execution's bytes also
leave for the host's buffer under the tenant's PASID. Nothing else changes. (Derived from R294, R296, R297, R634, R302,
R476, R636, R200, R320.) -/
def Obligations.StreamUnitsMove : Prop :=
  ∀ (s : State) (k : Skein) (x : SkeinCtx) (e : Env) (n : Fin 32) (st : Stream),
    Running s k x e → getStream x.core n.val = some st →
    let u := unitRing st.desc
    let i := st.w / u
    (∀ data, (getK s k.val).queue.find? (fun y => y.preloaded && (getStream y.core n.val).isSome) = some x →
      st.desc.dir = 1 → 0 < u → st.w % u = 0 → st.present = [] → (i + 1) * u ≤ st.q + st.desc.ringLen →
      unitsOf st (i * unitElems st.desc) (unitElems st.desc) = [i] → unitSource e s st i = some data →
      let r := convertUnit st.desc st.desc.srcFmt st.desc.dstFmt data
      let s1 := (sourceLines e.l st [i]).foldl (fun s line => cacheRead s e.l.id st.desc.hint 0 line) s
      exec (.streamDataArrival k n (i * unitElems st.desc) (unitElems st.desc)) s = .next
        (modK s1 k.val (fun q => { q with
          queue := updFirst (fun y => y.launch == x.launch && y.ex == x.ex)
            (fun y => { y with
              core := setStream (ringWrite e x.core st st.w (fit u r.1)) n.val
                (some { st with w := st.w + u, flags := nput noFlags st.flags i r.2 }) }) q.queue }))) ∧
    ∀ ex, (findL s x.launch).bind (fun l => getX l x.ex) = some ex → st.desc.isOut = true → st.w + u ≤ st.q →
      isParked s x.launch (.outStream x.ex n.val) = false →
      let off := (hostOffset st (i * unitElems st.desc)).toNat
      let r := convertUnit st.desc st.desc.dstFmt st.desc.srcFmt (ringRead e x.core st st.w u)
      let sent := modX (withCore s k (setStream { x.core with flags := x.core.flags ||| r.2 } n.val
          (some { st with w := st.w + u }))) x.launch x.ex
        (fun ex => { ex with shadow := nputs 0 ex.shadow (2 ^ 32 * st.desc.buf + off) r.1 })
      exec (.outUnitSend k n .done) s = .next (
        if ex.role = .primary ∧ e.l.discarded = false then
          writeHost sent e.l.tenant ((dOutput e.l.desc st.desc.buf).1 + off) r.1
        else sent)

/-- On a ready skein, a legal NBGP, NBDOT, NBSA or NBCOPY whose table the launch may read and has not lost, that meets
no program fault, no hazard and no full queue, whose plane-map lines are not lost and whose results fit its open NB
stream: every index of its list is resolved in order (a row past the count reads as zeros and raises NV, a row the
controller path serves at once is done, one whose bank is in the middle of a step waits for its end, the others wait for
a step of their own), its operand vectors are read, and the word joins the near-bank words in flight with the next range
of its stream, rounded up to 256 bytes: one entry per index, with its row and its bag. No result is delivered yet and no
register or scratch byte changes. (Derived from R239, R240, R241, R242, R303, R264, R230, R250, R631.) -/
def Obligations.NearBankWordsResolveTheirRows : Prop :=
  ∀ (s : State) (k : Skein) (x : SkeinCtx) (e : Env) (w : MWord) (kind : NbKind) (src : Source) (st : Stream),
    Ready s k x e → guardOn x.core w.hdr = true →
    let elems := ((schemaOf e.acc (parHandle w)).map tElems).getD 0
    let ext := nbExtents kind w x.core elems
    let idx := nbBags kind 0 (nbIndexes (scratchRead e x.core (getX64 x.core w.sa).toNat (8 * nbCount w)) (nbCount w))
    let bags := (idx.getLast?.map (·.2 + 1)).getD 0
    let start := rangesEnd st
    let len := roundUp (elemSide w.hdr.fd.toNat (nbResults kind bags idx.length elems)) 256
    let vec (r : BitVec 6) (n : Nat) : List Nat :=
      unpackElems (codeFmt w.hdr.fb.toNat) n (scratchRead e x.core (getX64 x.core r).toNat (elemSide w.hdr.fb.toNat n))
    let g := idx.foldl (nbResolve w e x.core.nextId src)
      { s := dropAccess s (.word e.l.id e.ex), list := [], beyond := false, absent := none }
    sourceOf s e (parHandle w) = some src → firstCause (nbFaults kind w e x.core elems true) = none →
    hazard e x.core ext [] = false → ext.all (fun y => extentReady x.core y.1 y.2) = true →
    getStream x.core (parStream w) = some st → st.desc.dir = 3 → start + len ≤ st.q + st.desc.ringLen →
    sourceDead src = false → (∀ i, i < 8 → nbQueueFull x.core i = false) → g.absent = none →
    (∀ line ∈ src.maps (idx.map (·.1)), lineLost s line = false ∧ lineBusy s line = false) →
    let word : NbWord :=
      { id := x.core.nextId, kind, word := w, fmt := tFmt src.desc, entries := g.list, bags,
        vec := vec w.sb (nbVecLen kind w elems), bias := vec w.sc (nbBiasLen kind w elems), stream := parStream w, start,
        len, home := [], flags := if g.beyond then flNV else noFlags }
    let joins : Result := .next (withCore g.s k (setStream
      { past x.core with nextId := x.core.nextId + 1, nb := x.core.nb ++ [word] } (parStream w)
      (some { st with ranges := st.ranges ++ [{ start, len, done := false }] })))
    (word.entries.map (fun n => (n.row, n.bag)) = idx) ∧
    (kind = .gp → legalNbgp w = true → wordFits s (.nbgp k w) = true → exec (.nbgp k w) s = joins) ∧
    (kind = .dot → legalNbdot w = true → wordFits s (.nbdot k w) = true → exec (.nbdot k w) s = joins) ∧
    (kind = .sa → legalNbsa w = true → wordFits s (.nbsa k w) = true → exec (.nbsa k w) s = joins) ∧
    (kind = .copy → legalNbcopy w = true → wordFits s (.nbcopy k w) = true → exec (.nbcopy k w) s = joins)

/-- A waiting entry of the running launch's word, whose bank group and pseudo-channel are free, whose stack is under its
cap, whose BCU is not fenced and at whose bank no normal access waits, starts a step: the row's write-combining
entries are flushed and the row is read, on the spare's BCU below a rebuild's cursor. A step that a ready frame or a
poll reports ended leaves its bank, and what waited there is done; its entry is served, by the controller where the BCU
failed, unless the step was aborted. A corrected error is counted at its burst, an uncorrectable one that persists loses
its burst. A frame for a bank without a step switches the stack to polled mode with an NB-SIDEBAND entry, and so does an
end that no frame announced for 1,280 ns. A step that lasts 1,280 ns is aborted, its entry goes to the controller and the
BCU takes the event; an abort not cleared for 640 ns is a memory event. Before those times nothing happens. The partial of
a bag whose entries on a stack are done reaches its home stack, and a complete word delivers its results to its range of
the ring, flags masked. (Derived from R231, R237, R238, R250, R252, R254, R255, R256, R257, R258, R259, R260.) -/
def Obligations.NearBankStepsServeTheirEntries : Prop :=
  ∀ (s : State) (st : Stack) (lpc : Fin 30) (bank : Fin 16) (y : NbStep),
    stepAt s st.val lpc.val bank.val = some y →
    let now := s.clk.elapsed
    let free (s : State) : State := freeBank s st.val y.lpc y.bank
    let served (s : State) : State := y.owner.elim s (fun o => modEntry s o (fun n => { n with phase := .done }))
    let byController (s : State) : State := y.owner.elim s (takeEntry s)
    let failed : State := free (bcuEvent (byController s) st.val y.lpc y.phys y.bank)
    let ends (ended : StepEnd → Instr) : Prop :=
      exec (ended .done) s = .next (free (served s)) ∧
      exec (ended .residue) s = .next failed ∧
      ∀ n, 32 * n < y.size →
        exec (ended (.corrected n)) s = .next (free (correctedError (served s) st.val y.lpc (stepBurst st.val y n))) ∧
        exec (ended (.uncorrectable n true)) s = .next failed ∧
        exec (ended (.uncorrectable n false)) s =
          .next (free (byController (memoryEvent (loseBurst s (stepBurst st.val y n)) st.val y.lpc)))
    (y.aborted = none → (getS s st.val).ready = true → ends (.nbReadyFrame st lpc bank)) ∧
    (y.aborted = none → (getS s st.val).ready = false → ends (.nbStatusPoll st lpc bank true)) ∧
    (y.aborted ≠ none → ∀ res, exec (.nbStatusPoll st lpc bank true res) s = .next (free s) ∧
      ((getS s st.val).ready = true → exec (.nbReadyFrame st lpc bank res) s = .next (free s))) ∧
    (y.aborted = none → (getS s st.val).ready = true → ∀ res,
      (y.ended = none → exec (.nbStatusPoll st lpc bank true res) s =
        .next (modStep s st.val lpc.val bank.val (fun y => { y with ended := some now }))) ∧
      (∀ t, y.ended = some t → t + 1280 ≤ now → exec (.nbStatusPoll st lpc bank true res) s =
        .next (stepEnd (toPolled s st.val lpc.val) st.val y res)) ∧
      (∀ t, y.ended = some t → now < t + 1280 → exec (.nbStatusPoll st lpc bank true res) s = .next s)) ∧
    (y.aborted = none →
      (y.since + 1280 ≤ now → exec (.nbStepTimeout st lpc bank) s = .next (bcuEvent
        (modStep (byController s) st.val lpc.val bank.val (fun y => { y with aborted := some now, owner := none }))
        st.val lpc.val y.phys bank.val)) ∧
      (now < y.since + 1280 → exec (.nbStepTimeout st lpc bank) s = .next s)) ∧
    (∀ t, y.aborted = some t →
      (t + 640 ≤ now → exec (.nbAbortTimeout st lpc bank) s =
        .next (freeBank (memoryEvent s st.val lpc.val) st.val lpc.val bank.val)) ∧
      (now < t + 640 → exec (.nbAbortTimeout st lpc bank) s = .next s)) ∧
    (∀ (t : Stack) (p : Fin 30) (b : Fin 16) (res : StepEnd), (getS s t.val).ready = true →
      stepAt s t.val p.val b.val = none →
      exec (.nbReadyFrame t p b res) s =
        .next (logErr (modS s t.val (fun q => { q with ready := false })) 0x0304 noTenant p.val t.val)) ∧
    ∀ (k : Skein) (x : SkeinCtx) (e : Env) (n : NbWord) (i : Nat) (en : NbEntry) (t : Stack),
      Running s k x e →
      (entryOf s { launch := x.launch, ex := x.ex, word := n.id, entry := i } = some en → en.stack = t.val →
        en.phase = .waiting → stepFits s t.val en.lpc en.bank true = true → rowFenced s (entryLoc en) = false →
        (∀ a ∈ (getS s t.val).held, a.bank ≠ 16 * en.lpc + en.bank) → (getS s t.val).retraining = none →
        let o : StepOwner := { launch := x.launch, ex := x.ex, word := n.id, entry := i }
        let flushed := flushWhere s t.val (fun w => decide ((stripedLoc (256 * w.line)).lpc = en.lpc) &&
          decide ((stripedLoc (256 * w.line)).bank = en.bank) && decide ((stripedLoc (256 * w.line)).row = en.dramRow))
        let step : NbStep :=
          { lpc := en.lpc, bank := en.bank, phys := rowPhys s (entryLoc en), row := en.dramRow, byte := en.byte, size := en.size,
            owner := some o, since := now, aborted := none, ended := none }
        exec (.nbStepIssue t k n.id i) s = .next (
          modEntry (modS (noteReader flushed x.launch (locLost flushed (entryLoc en) en.size)) t.val
              (fun q => { q with steps := q.steps ++ [step] }))
            o (fun n => { n with phase := .computing, bytes := rowRead flushed (entryLoc en) en.size }))) ∧
      (x.core.nb.find? (fun m => m.id == n.id) = some n → ∀ bag,
        (n.kind = .gp → (∃ z ∈ n.entries, z.bag = bag ∧ z.stack = t.val) →
          (∀ z ∈ n.entries, z.bag = bag → z.stack = t.val → z.phase = .done) → t.val ≠ homeStack n bag →
          exec (.poolRingPartial t k n.id bag) s = .next (withCore s k
            (modNb x.core n.id (fun n => { n with home := sadd n.home (8 * bag + t.val) })))) ∧
        ∀ q, getStream x.core n.stream = some q → nbComplete n = true →
          (∃ r ∈ q.ranges, r.start = n.start ∧ r.done = false) → x.core.groups = [] →
          let vals := nbValues n
          let q' := advanceRanges { q with ranges := q.ranges.map (fun r => if r.start = n.start then { r with done := true } else r) }
          exec (.nbResultDelivery k n.id) s = .next (withCore s k (setStream
            { ringWrite e x.core q n.start (fit n.len (packElems (codeFmt n.word.hdr.fd.toNat) (vals.map (·.1)))) with
              flags := x.core.flags ||| ((n.flags ||| flagUnion (vals.map (·.2))) &&& n.word.hdr.fmask)
              nb := x.core.nb.filter (fun z => z.stream != n.stream || decide (q'.w < z.start + z.len)) } n.stream (some q'))))

/-- On a ready skein with a legal word whose guard holds, extents inside scratch, aligned and free. TALLY: for each element in
order, the stack its cell lies on takes one addend (launch, execution, cell, type and value) at the end of what it has accepted,
and the core only moves on. TALLY_APPLY: a stack's oldest addend leaves it and is added to its cell of the execution's area;
where the cell's burst is lost, its launch runs again instead. TALRD of the launch's own area writes, at SB, each cell with
every addend accepted before it added, read out under the code and rounding mode, and joins the flags masked by FMASK. (Derived
from R214, R216, R217, R218, R112, R113, R114, R225.) -/
def Obligations.TallyWords : Prop :=
  ∀ (s : State) (k : Skein) (x : SkeinCtx) (e : Env) (w : MWord),
    (Ready s k x e → guardOn x.core w.hdr = true →
      let c := past x.core
      let cells := tallyCells w e x.core
      let b := (getX64 x.core w.sb).toNat
      let ix := tallyIndexExtent w x.core
      (∀ kind, legalTally w = true → addKind (tallyCode w) = some kind →
        let len := tallyCount w * kind.size
        b % kind.size = 0 → b + len ≤ e.top → firstCause (tallyFaults w e x.core) = none → (∀ i ∈ cells, i < dTally e.l.desc) →
        hazard e x.core [(b, len), ix] [] = false → extentReady x.core b len = true → extentReady x.core ix.1 ix.2 = true →
        exec (.tally k w) s = .next (withCore
          ((cells.zip ((List.range (tallyCount w)).map (fun i => leNat (scratchRead e x.core (b + i * kind.size) kind.size)))).foldl
            (fun s p => modS s (p.1 / 4 % 8) (fun st =>
              { st with addends := st.addends ++ [{ launch := e.l.id, ex := e.ex, cell := p.1, kind, value := p.2 }] })) s)
          k c)) ∧
      (∀ code, legalTalrd w = true → tallyTable w = false → ReadCode.ofCode (tallyCode w) = some code →
        let size := if code = .int64 then 8 else 4
        let len := tallyCount w * size
        b % size = 0 → e.res ≤ b → b + len ≤ e.top → firstCause (tallyFaults w e x.core) = none →
        (∀ i ∈ cells, i < dTally e.l.desc) →
        hazard e x.core [ix] [(b, len)] = false → extentReady x.core b len = true → extentReady x.core ix.1 ix.2 = true →
        let r := cells.map (fun i => cellRead (ownCell s e i) code (codeRnd w.hdr.rnd.toNat))
        exec (.talrd k w) s = .next (withCore (dropAccess s (.word e.l.id e.ex)) k
          { scratchWrite e c b (r.flatMap (fun v => leBytes size v.1)) with
            flags := x.core.flags ||| (flagUnion (r.map (·.2)) &&& w.hdr.fmask) }))) ∧
    ∀ (st : Stack) (a : Addend) (rest : List Addend), (getS s st.val).addends = a :: rest →
      let s1 := modS s st.val (fun q => { q with addends := rest })
      (smem s.lostBursts (Config.tallyBurst a.launch a.ex a.cell) = false →
        exec (.tallyApply st) s = .next (modX s1 a.launch a.ex
          (fun x => { x with tally := nmod 0 x.tally a.cell (fun c => cellAdd c (a.kind.val a.value)) }))) ∧
      (smem s.lostBursts (Config.tallyBurst a.launch a.ex a.cell) = true →
        exec (.tallyApply st) s = .next (reexecLaunch s1 a.launch))

/-- For two stacks with accepted addends, of any executions, cells, types and values (NaN and infinities included), while no
tally line is lost: applying the first stack's oldest addend and then the second's leaves every cell of every execution, and
every stack, reading what the other order leaves. A cell is an exact sum with three sticky indications, so no value depends on
which tally unit works first. (Derived from R111, R112, R113, R216, R217, R15.) -/
def Obligations.TallyOrderDoesNotMatter : Prop :=
  ∀ (s s1 s2 : State) (p q : Stack), p ≠ q →
    (∀ launch ex cell, smem s.lostBursts (Config.tallyBurst launch ex cell) = false) →
    exec (.tallyApply p) s = .next s1 → exec (.tallyApply q) s = .next s2 →
    ∃ t1 t2, exec (.tallyApply q) s1 = .next t1 ∧ exec (.tallyApply p) s2 = .next t2 ∧
      (∀ i, getS t1 i = getS t2 i) ∧
      ∀ launch ex cell, tallyCell t1 launch ex cell = tallyCell t2 launch ex cell

/-- On a ready skein with a legal word whose guard holds, a table the launch may read and has not lost, an open NB stream whose
next range takes the result, and no lost plane-map line or busy bank among the lines it reads. ROWRD, with its index list
readable and free and no row missing from an arena: the rows' bytes in the launch's version, zeros and NV for an index past the
count, fill the range; each live row's lines are read through the row cache under the word's hint. SEQF of subject SA: the event
bytes from window position SB on, zeros past the window, fill the range and SD takes the number of visible events; a subject
past the count reads as empty and raises NV (log 25). Lost lines read are noted for the launch. (Derived from R283, R284, R242,
R303, R202, R223.) -/
def Obligations.RowAndSequenceReads : Prop :=
  ∀ (s : State) (k : Skein) (x : SkeinCtx) (e : Env) (w : MWord) (src : Source) (st : Stream),
    Ready s k x e → guardOn x.core w.hdr = true → sourceOf s e (parHandle w) = some src → sourceDead src = false →
    getStream x.core (parStream w) = some st → rangeFits st (nbCount w * tSize src.desc) = true →
    let c := past x.core
    let ix : Extent := ((getX64 x.core w.sa).toNat, 8 * nbCount w)
    let s0 := dropAccess s (.word e.l.id e.ex)
    let mayRead (maps lines : List Nat) : Prop :=
      (∀ line ∈ maps, lineLost s line = false ∧ lineBusy s line = false) ∧ ∀ line ∈ lines, lineBusy s line = false
    let rows := (nbIndexes (scratchRead e x.core ix.1 ix.2) (nbCount w)).map (·.1)
    let got := rows.map (fun r => (r, gotRow s e src r))
    let absent (p : Nat × Got Bytes) : Bool := match p.2 with | .absent => true | _ => false
    (legalRowrd w = true → wordFits s (.rowrd k w) = true →
      ix.1 % 8 = 0 → ix.1 + ix.2 ≤ e.top → hazard e x.core [ix] [] = false → extentReady x.core ix.1 ix.2 = true →
      got.any absent = false → mayRead (src.maps rows) (rowsLines s e rows src) →
      let bytes := got.flatMap (fun p => match p.2 with | .value b _ => b | _ => zeros (tSize src.desc))
      let beyond := rows.any (fun r => decide (tCount src.desc ≤ r))
      let s1 := (rowsLines s e rows src).foldl (fun s l => cacheRead s e.l.id (parHint w) (parUse w) l)
        (got.foldl (fun s p => match p.2 with | .value _ lost => noteLost s e lost | _ => s) s0)
      exec (.rowrd k w) s = .next (withCore s1 k
        (addFlags (deliverRange e c (parStream w) st bytes) (if beyond then flNV else noFlags)))) ∧
    (legalSeqf w = true → wordFits s (.seqf k w) = true →
      let r := (getX64 x.core w.sa).toNat
      let gives (s1 : State) (v : SeqVer) (f : Flags) : Prop :=
        exec (.seqf k w) s = .next (withCore s1 k (addFlags
          (setX64 (deliverRange e c (parStream w) st
            (windowEvents v (tSize src.desc) (getX64 x.core w.sb).toNat (nbCount w))) w.sd
            (BitVec.ofNat 64 v.events.length)) f))
      let lines := match src with | .live t => Config.subjectLines t.desc r | .arena _ => []
      mayRead (src.maps [r]) lines →
      (tCount src.desc ≤ r → gives s0 ⟨0, []⟩ flNV) ∧
      ∀ v lost, gotSubject s e src r = .value v lost →
        gives (lines.foldl (fun s l => cacheRead s e.l.id 0 0 l) (noteLost s0 e lost)) v noFlags)

/-- On a ready skein with a legal SPLICE whose guard holds, whose body lies in scratch at a multiple of 8 and is free: a
body that fits a table the launch may name becomes the execution's next splice and the emission count goes up by
one; it also joins the end of the splice queue when the execution is a primary one of a launch that is no replay and
the queue has room. A body with a defect emits nothing: NV joins the flags and SPLICE-INVALID (0x0108) is logged
with the launch and the word's index. (Derived from R266, R270, R271, R26, R476.) -/
def Obligations.SpliceWordEmits : Prop :=
  ∀ (s : State) (k : Skein) (x : SkeinCtx) (e : Env) (w : MWord),
    Ready s k x e → guardOn x.core w.hdr = true → legalSplice w = true →
    let c := past x.core
    let a := (getX64 x.core w.sa).toNat
    let p := leNat (scratchRead e x.core (a + 4) 4)
    let n := if p ≤ 1032 then 24 + roundUp p 8 else 24
    let b := scratchRead e x.core a n
    let good := ((sourceOf s e (fld b 0 2)).any (fun src => spliceFits src.desc b))
    let primary := ((findL s e.l.id).bind (fun l => getX l e.ex)).any (fun x => x.role == .primary) && !dIsReplay e.l.desc
    a % 8 = 0 → a + n ≤ e.top → hazard e x.core [(a, n)] [] = false → extentReady x.core a n = true →
    (good = true → (primary = true → s.fe.queue.length < 4096) →
      let kept := modX s e.l.id e.ex (fun x => { x with splices := x.splices ++ [{ body := b, id := none }] })
      exec (.splice k w) s = .next (withCore
        (if primary then
          let q : Queued := { launch := e.l.id, ex := e.ex, index := x.core.emission, body := b }
          { kept with fe := { kept.fe with queue := s.fe.queue ++ [q] } }
        else kept) k { c with emission := x.core.emission + 1 })) ∧
    (good = false → exec (.splice k w) s = .next (withCore
      (logErr s 0x0108 e.l.tenant e.l.id (x.core.pc % 2 ^ 24)) k { c with flags := x.core.flags ||| flNV }))

/-- On a ready skein with a legal word whose guard holds. OPEN with no context open, of a bitstream inside an input
buffer of the launch and within the cap: a context that waits for its grant. NEXT of a granted context: END (2^38)
in SD once every frame has been taken, else, once it is decoded, the next frame's information word in SD, its digest
in the evidence, that frame current. READ of the current frame writes each sample of the rectangle, converted, row
by row to scratch, flags masked. CLOSE ends the context. A context is granted while fewer than 256 are and the frame
pool has room, and an engine in service decodes its next frame within the reservation. The frames themselves are
free (log 11). (Derived from R503, R504, R506, R507, R509, R510, R511, R512, R517.) -/
def Obligations.FrameWords : Prop :=
  ∀ (s : State) (k : Skein) (x : SkeinCtx) (e : Env) (w : MWord),
    (Ready s k x e → guardOn x.core w.hdr = true →
      let c := past x.core
      let off := (getX64 x.core w.sb).toNat
      let len := (getX64 x.core w.sc).toNat
      (legalFrameOpen w = true → x.core.media = none → frameBuf w < dInputs e.l.desc →
        off + len ≤ (dInput e.l.desc (frameBuf w)).2 →
        mediaBytes (frameWMax w) (frameHMax w) (frameDpb w) (frameDeep w) ≤ 512 * 2 ^ 20 →
        let opened : Media :=
          { codec := frameCodec w, buf := frameBuf w, off, len, wMax := frameWMax w, hMax := frameHMax w, dpb := frameDpb w,
            deep := frameDeep w, granted := false, decoded := 0, taken := 0, cur := none }
        exec (.frameOpen k w) s = .next (withCore s k { c with media := some opened })) ∧
      ∀ m, x.core.media = some m →
        (legalFrameClose w = true → exec (.frameClose k w) s = .next (withCore s k { c with media := none })) ∧
        ∀ fs, mediaFrames s e.l.id m = some fs →
          (legalFrameNext w = true → m.granted = true → fs[m.taken]? = none →
            exec (.frameNext k w) s = .next (withCore s k
              { setX64 c w.sd (BitVec.ofNat 64 (2 ^ 38)) with media := some { m with cur := none } })) ∧
          (∀ f, legalFrameNext w = true → m.granted = true → fs[m.taken]? = some f → m.taken < m.decoded → m.taken < 2 ^ 32 →
            exec (.frameNext k w) s = .next (withCore
              (modX s e.l.id e.ex (fun x => { x with evidence := x.evidence ++ [frameDigest m.codec m.taken f] })) k
              { setX64 c w.sd (BitVec.ofNat 64 (frameInfo f)) with
                media := some { m with cur := some m.taken, taken := m.taken + 1 } })) ∧
          ∀ f i, legalFrameRead w = true → m.cur = some i → fs[i]? = some f → i < m.decoded →
            let a := (getX64 x.core w.sa).toNat
            let size := codeWidth (frameFmt w) / 8
            let wd := len % 2 ^ 16
            let ht := len / 2 ^ 16 % 2 ^ 16
            let rows : List Extent := (List.range ht).map (fun r => (a + r * frameStride w, wd * size))
            wd ≠ 0 → ht ≠ 0 → a % size = 0 → rows.all (fun y => decide (e.res ≤ y.1 ∧ y.1 + y.2 ≤ e.top)) = true →
            hazard e x.core [] rows = false → rows.all (fun y => extentReady x.core y.1 y.2) = true →
            let out := (List.range ht).map (fun r => (List.range wd).map (fun j =>
              sampleOut f.depth (frameFmt w) (codeRnd w.hdr.rnd.toNat)
                (sampleAt f (framePlane w) (off % 2 ^ 16 + j) (off / 2 ^ 16 % 2 ^ 16 + r))))
            exec (.frameRead k w) s = .next (withCore s k (addFlags
              ((out.zip rows).foldl (fun c p => scratchWrite e c p.2.1 (p.1.flatMap (fun v => leBytes size v.1))) c)
              (flagUnion (out.map (fun r => flagUnion (r.map (·.2)))) &&& w.hdr.fmask)))) ∧
    ∀ m, running s k.val = some x → x.core.media = some m →
      (m.granted = false → (mediaUse s).1 < 256 →
        (mediaUse s).2 + mediaBytes m.wMax m.hMax m.dpb m.deep ≤ rget s Reg.emdSize * 2 ^ 30 →
        exec (.mediaContextGrant k) s = .next (withCore s k { x.core with media := some { m with granted := true } })) ∧
      ∀ fs (n : Fin 4), mediaFrames s x.launch m = some fs → m.granted = true → engineRuns s n.val = true →
        m.decoded < fs.length → m.decoded + (if m.cur.isSome then 1 else 0) < m.taken + m.dpb + 2 →
        exec (.frameDecodeDone k n) s =
          .next (withCore s k { x.core with media := some { m with decoded := m.decoded + 1 } })

/-- On a ready skein with a legal word whose guard holds, nothing of the launch in flight and its OUT streams drained:
the addends the execution's tally words sent are applied. CKPT, with two images held already or pool room for one
more, puts an image of the core, tally area and evidence before the newest one and keeps two; the core moves past
the word. ENDL, with room in the section's result queue, takes the execution off the skein, keeps its flags, drops
its checkpoint images and puts its result in the result queue. (Derived from R147, R309, R486, R487, R488, R217.) -/
def Obligations.CheckpointAndEnd : Prop :=
  ∀ (s : State) (k : Skein) (x : SkeinCtx) (e : Env),
    Ready s k x e → quiet x.core = true → outDrained x.core = true →
    let c := past x.core
    let s1 := settleTally s e.l.id e.ex
    (∀ (w : MWord) ex, legalCkpt w = true → guardOn x.core w.hdr = true →
      (findL s1 e.l.id).bind (fun l => getX l e.ex) = some ex →
      (2 ≤ ex.ckpts.length ∨ poolRoom s1 (ckptBytes e.l) = true) →
      exec (.ckpt k w) s = .next (withCore (modX s1 e.l.id e.ex (fun y =>
        { y with ckpts := { core := c, tally := ex.tally, evidence := ex.evidence } :: y.ckpts.take 1 })) k c)) ∧
    ∀ (w : SWord), legalBare w = true → guardOn x.core w.hdr = true → resultQueue s (k.val / 16) < 16 →
      exec (.endl k w) s = .next (modX (dropCtx s1 k.val e.l.id e.ex) e.l.id e.ex
        (fun y => { y with flags := x.core.flags, phase := .result, skein := none, ckpts := [] }))

/-- While the front end polls. DOORBELL_POLL with one enabled ring, once it is due, reads the tenant's entry under its
PASID: a tail word after the held one and within the ring becomes the tail, and the entry is marked changed; an entry
that cannot be read leaves a DOORBELL-FAULT; a poll that is not due does nothing. DESCRIPTOR_FETCH of a sequence number
q from C up to, not including, T, fewer than 64 ahead and not cancelled, reads 256 bytes at base + 256 (q mod size) and
keeps them; a failed read halts the ring, logs RING-FAULT and sends message 1. At a ring's turn, ADMISSION: the slot at
C that passes steps 1 to 7 waits at step 8 with its blocks; the first failing step consumes it with that status.
ADMISSION_BIND with step 8 met: a launch of the epoch, head and accord in force joins the in-flight table and takes the
next ID; an expected accord other than the one in force finishes it with ACCORD-MISMATCH, and a replay whose arena has
changed with REPLAY-MISMATCH. The turn then passes on: it is one ring's at a time. DISPATCH of a waiting primary to a
good skein with room and an allowed place queues it there at its entry word. (Derived from R329, R330, R331, R322, R320,
R337, R339, R340, R348, R26, R57, R51.) -/
def Obligations.SlotsAreReadAheadAndAdmitted : Prop :=
  (∀ (s : State) (t : Tenant) (r : Ring) (b : Bytes),
    let q := getR (getT s t.val) r.val
    let v := BitVec.ofNat 32 (fld b (4 * r.val) 4)
    let polled := readHost { s with fe := { s.fe with lastPoll := some s.clk.elapsed } } t.val (rget s Reg.doorbell t.val) 64
    s.fe.polling = true → (∀ u, u < 128 → polledTenant s u = decide (u = t.val)) →
    (∀ r', r' < 4 → (getR (getT s t.val) r').enabled = decide (r' = r.val)) →
    (pollDue s = false → ∀ reads, exec (.doorbellPoll reads) s = .next s) ∧
    (pollDue s = true → exec (.doorbellPoll []) s = .next (logErr polled Err.doorbellFault t.val 0 0)) ∧
    (pollDue s = true → b.length = 64 → q.halted = false → seqAfter v q.tail = true →
      (seqAfter v q.consumed = true → (v - q.consumed).toNat ≤ q.size) →
      seqAfter (BitVec.ofNat 32 (fld b (20 + 4 * r.val) 4)) q.cancel = false → (getT s t.val).cqOn = false →
      exec (.doorbellPoll [(t.val, b)]) s = .next (modT (modR polled t.val r.val (fun q => { q with tail := v })) t.val
        (fun c => { c with changed := some s.clk.elapsed })))) ∧
  (∀ (s : State) (t : Tenant) (r : Ring) (seq : BitVec 32),
    let q := getR (getT s t.val) r.val
    s.fe.polling = true → q.enabled = true → q.halted = false →
    (seq - q.consumed).toNat < (q.tail - q.consumed).toNat → (seq - q.consumed).toNat < 64 →
    nget none q.slots seq.toNat = none → smem q.dropped seq.toNat = false →
    let asked := readHost s t.val (q.base + 256 * (seq.toNat % q.size)) 256
    (∀ b : Bytes, b.length = 256 → exec (.descriptorFetch t r seq (some b)) s = .next
      (modR asked t.val r.val (fun q => { q with slots := nput none q.slots seq.toNat (some b) }))) ∧
    exec (.descriptorFetch t r seq none) s = .next
      (msix (logErr (modR asked t.val r.val (fun q => { q with halted := true })) Err.ringFault t.val r.val seq.toNat) t.val 1)) ∧
  (∀ (s : State) (t : Tenant) (r : Ring) (d : Bytes),
    let q := getR (getT s t.val) r.val
    nget none q.slots q.consumed.toNat = some d → isTurn s t.val r.val = true → q.dropped = [] →
    let turned (s : State) : State := { s with fe := { s.fe with turn := 4 * t.val + r.val } }
    let rejected (s : State) (status detail : Nat) : State :=
      turned (consume (rejectRecord s t.val r.val status detail q.consumed.toNat (dTag d) (dIrq d)) t.val r.val)
    let asked := if dIsReplay d then readHost (readHost s t.val (dLcb d) 512) t.val (dReplay d) 128
      else readHost s t.val (dLcb d) 512
    (∀ lcb replay : Bytes, lcb.length = 512 → replay.length = 128 → q.decided = none →
      (admissionCheck s t.val q.consumed d (some lcb) (some replay) = none →
        exec (.admission t r (some lcb) (some replay)) s = .next (modR asked t.val r.val (fun q =>
          { q with decided := some (lcb, if dIsReplay d then replay else []) }))) ∧
      ∀ status detail, admissionCheck s t.val q.consumed d (some lcb) (some replay) = some (status, detail) →
        exec (.admission t r (some lcb) (some replay)) s = .next (rejected asked status detail)) ∧
    ∀ lcb replay, q.decided = some (lcb, replay) →
      (dIsReplay d = true → replayMatches s replay = false →
        exec (.admissionBind t r) s = .next (rejected s Status.replayMismatch 0)) ∧
      ∀ a, boundAccord s d replay = some a → (dIsReplay d = true → replayMatches s replay = true) →
        (badForAccord s t.val d replay a = none → (dAccord d = 0 ∨ dAccord d = a.id) →
          ∃ l : Launch, l.id = s.fe.nextId.toNat ∧ l.epoch = s.fe.epoch.toNat ∧ l.head = s.fe.head ∧ l.accord = a ∧
            l.tenant = t.val ∧ l.ring = r.val ∧ l.seq = q.consumed ∧ l.desc = d ∧ l.lcb = fit 512 lcb ∧ l.replay = replay ∧
            l.stage = .running ∧ l.execs = [Exec.fresh .primary Place.any] ∧ l.admitted = s.clk.elapsed ∧
            exec (.admissionBind t r) s =
              .next (turned (consume (takeId { s with launches := s.launches ++ [l] }) t.val r.val))) ∧
        (dAccord d ≠ 0 → dAccord d ≠ a.id → exec (.admissionBind t r) s = .next (rejected s Status.accordMismatch 0))) ∧
  (∀ (s : State) (t t' : Tenant) (r r' : Ring), s.fe.turn < 512 →
    isTurn s t.val r.val = true → isTurn s t'.val r'.val = true → t = t' ∧ r = r') ∧
  ∀ (s : State) (k : Skein) (l : Launch) (x : Exec),
    findL s l.id = some l → l.stage = .running → l.execs[0]? = some x → x.phase = .waiting → x.resume = false →
    x.role = .primary → l.audit = false → s.fe.hang = none → s.jrn.powerFail = false →
    (getK s k.val).mode = .good → (getK s k.val).queue.length < 8 → k.val ∉ x.place.skeins → sectionTaken l 0 x k.val = false →
    exec (.dispatch l.id 0 k) s = .next (modX
      (modK s k.val (fun q => { q with queue := (getK s k.val).queue ++
        [⟨l.id, 0, Core.entry (fld (progEntry l.accord (dProg l.desc)) 0 4), false, false⟩] }))
      l.id 0 (fun x => { x with phase := .placed, skein := some k.val, ran := k.val, resume := false }))

/-- HOLD_COPY_UNIT of an open hold copy adds the unit's bytes to the buffer; on a page not present it parks and sends one page
request, due after HST_PRI_TIMEOUT; on a failure, as on HOST_ACCESS_ERROR, the launch ends PARTIAL. The front launch of a skein:
its accord's region becomes resident, its preload streams open in order, and it starts once both are done. PAGE_RESPONSE takes
the request of its group out and, unless it is Success, ends the launch that still wants it PARTIAL; PRI_TIMEOUT does the same
and leaves a sent request dead in its place until its response. ATS_INVALIDATION removes exactly the entries of the function and
PASID that touch the pages; a writable translation of 4 KiB to 1 GiB becomes the newest entry and no other size is accepted.
(Derived from R313, R316, R317, R318, R320, R140, R153, R370, R371, R372, R373, R374.) -/
def Obligations.LaunchesStartAndTransfersPark : Prop :=
  (∀ (s : State) (l : Launch) (i : Fin 8), findL s l.id = some l → holdOpen s l i.val = true →
    let u := holdNext l i.val
    let asked := readHost s l.tenant u.1 u.2
    let c := cursorOf s l.id (.hold i.val)
    let fails (s : State) : State := endLaunch s l.id Status.partial_ 0 0 c.1 c.2
    (∀ b : Bytes, b.length = u.2 → exec (.holdCopyUnit l.id i (.data b)) s =
      .next (modL asked l.id (fun l => { l with held := updAt (fun h => h ++ b) l.held i.val }))) ∧
    exec (.holdCopyUnit l.id i .failed) s = .next (fails asked) ∧
    exec (.hostAccessError l.id i) s = .next (fails s) ∧
    (smem s.hst.failed l.tenant = true ∨ (fnConfig s l.tenant).priOn = false →
      exec (.holdCopyUnit l.id i .notPresent) s = .next (fails asked)) ∧
    (smem s.hst.failed l.tenant = false → (fnConfig s l.tenant).priOn = true →
      (∀ r, r ∈ s.hst.requests → r.fn = l.tenant → r.sent = true ∨ r.dead = true) →
      (s.hst.requests.filter (fun r => r.fn == l.tenant && r.sent)).length < (fnConfig s l.tenant).priAlloc →
      let g := freeGroup s l.tenant
      exec (.holdCopyUnit l.id i .notPresent) s = .next (emit
        { asked with hst := { s.hst with requests := s.hst.requests ++
          [{ fn := l.tenant, page := u.1 / 4096, group := g, launch := l.id, what := .hold i.val,
             due := s.clk.elapsed + rget s Reg.priTimeout * 1000, sent := true, dead := false }] } }
        (.pageRequest l.tenant (rget s Reg.pasid l.tenant) (u.1 / 4096) g true)))) ∧
  (∀ (s : State) (k : Skein) (c : SkeinCtx) (rest : List SkeinCtx) (l : Launch),
    (getK s k.val).queue = c :: rest → c.started = false → c.launch = l.id → findL s l.id = some l →
    exec (.residentRegionLoaded k l.id) s = .next (modK s k.val (fun q => { q with resident := some l.accord.digest })) ∧
    ((getK s k.val).resident = some l.accord.digest →
      (∀ core, c.preloaded = false → openPreloads (launchEnv l c.ex) 0 (preloads l.accord (dProg l.desc)) c.core = some core →
        exec (.preloadOpen k l.id c.ex) s =
          .next (modK s k.val (fun q => { q with queue := { c with core := core, preloaded := true } :: rest }))) ∧
      (c.preloaded = true → mayIssue s l.id = true → exec (.launchEntry k) s =
        .next (modK s k.val (fun q => { q with queue := { c with started := true } :: rest }))))) ∧
  (∀ (s : State) (fn : Tenant) (page group : Nat) (r : PageReq),
    let gone : State := { s with hst := { s.hst with requests := s.hst.requests.erase r } }
    let failed : State := { gone with hst := { gone.hst with failed := sadd s.hst.failed fn.val } }
    (s.hst.requests.find? (fun r => r.fn == fn.val && r.group == group && r.sent) = some r →
      exec (.pageResponse fn group .success) s = .next (sendRequests gone fn.val) ∧
      (wanted s r = true →
        exec (.pageResponse fn group .invalidRequest) s = .next (sendRequests (failTransfer gone r.launch r.what) fn.val) ∧
        exec (.pageResponse fn group .responseFailure) s = .next (sendRequests (failTransfer failed r.launch r.what) fn.val)) ∧
      (wanted s r = false →
        exec (.pageResponse fn group .invalidRequest) s = .next (sendRequests gone fn.val) ∧
        exec (.pageResponse fn group .responseFailure) s = .next (sendRequests failed fn.val))) ∧
    (s.hst.requests.find? (fun r => r.fn == fn.val && r.page == page && !r.dead && decide (r.due ≤ s.clk.elapsed)) = some r →
      wanted s r = true →
      (r.sent = false → exec (.priTimeout fn page) s = .next (failTransfer gone r.launch r.what)) ∧
      (r.sent = true → exec (.priTimeout fn page) s = .next (failTransfer { s with hst := { s.hst with
        requests := updFirst (· == r) (fun r => { r with dead := true }) s.hst.requests } } r.launch r.what)))) ∧
  ∀ (s : State) (fn : Tenant) (pasid : BitVec 20) (page : Nat),
    let apart (n : Nat) (e : Translation) : Prop :=
      e.fn ≠ fn.val ∨ e.pasid ≠ pasid.toNat ∨ page + n ≤ e.page ∨ e.page + e.pages ≤ page
    (∀ count, ∃ atc, exec (.atsInvalidation fn ⟨pasid, page⟩ count) s =
        .next (emit { s with hst := { s.hst with atc := atc } } (.invalidationDone fn.val page)) ∧
      ∀ e, e ∈ atc ↔ e ∈ s.hst.atc ∧ apart count e) ∧
    (∀ i, i < 19 → ∃ rest, exec (.atsTranslationCompletion fn ⟨pasid, page⟩ (some (2 ^ (12 + i), true))) s =
        .next { s with hst := { s.hst with
          atc := { fn := fn.val, pasid := pasid.toNat, page, pages := 2 ^ i, writable := true } :: rest } } ∧
      rest.length < 16384 ∧ (∀ e, e ∈ rest → e ∈ s.hst.atc ∧ apart (2 ^ i) e) ∧
      (s.hst.atc.length < 16384 → ∀ e, e ∈ s.hst.atc → apart (2 ^ i) e → e ∈ rest)) ∧
    (∀ size w, (∀ i, i < 19 → size ≠ 2 ^ (12 + i)) → exec (.atsTranslationCompletion fn ⟨pasid, page⟩ (some (size, w))) s = .next s) ∧
    (rget s Reg.pasid fn.val ≠ pasid.toNat → exec (.atsTranslationCompletion fn ⟨pasid, page⟩ none) s = .next s)

/-- In a bank that is in the middle of no near-bank step: WC_IDLE_FLUSH of an entry idle for 2 µs: every masked byte of
its line reaches memory unless its burst is lost and only partly masked, every other byte of memory is as before, and
the entry is gone; of a busy bank the entry waits. PATROL_SCRUB: clean changes nothing, a corrected burst is counted
(again after its rewrite: a memory event), an uncorrectable one outside launch memory is lost and a memory event.
LINE_REBUILD_DONE of a table's lost line: a member that has a replica's copy takes it; otherwise the line is rebuilt
from the image and the journal; none of its bursts is lost then and its readers run again; where neither is possible
its table is lost and its readers end MEMORY-LOST. PC_REBUILD_DONE of a rebuild whose cursor has reached the end maps
the logical number to the spare. A retrain that is due flushes and holds its pseudo-channel, never one being rebuilt or
in a step; its end frees it, a failed one as a memory event. A self-refresh excursion clears the clean bit.
TABLE_REBUILD_DONE that is due rebuilds the tables of the newest epoch. (Derived from R207, R229, R252, R625, R221,
R222, R223, R224, R226, R543, R544, R631.) -/
def Obligations.StackControllersKeepTheirBytes : Prop :=
  (∀ (s : State) (st : Stack) (w : WcEntry) (l1 l2 : List WcEntry),
    (getS s st.val).wc = l1 ++ w :: l2 → (∀ v, v ∈ l1 ++ l2 → v.line ≠ w.line) → w.line % 8 = st.val →
    w.since + 2000 ≤ s.clk.elapsed →
    (lineBusy s w.line = true → ∃ t, exec (.wcIdleFlush st w.line) s = .next t ∧ t.mem = s.mem ∧
      (getS t st.val).wc = l1 ++ { w with due := true } :: l2) ∧
    (lineBusy s w.line = false → ∃ t, exec (.wcIdleFlush st w.line) s = .next t ∧ (getS t st.val).wc = l1 ++ l2 ∧
      ∀ a, nget 0 t.mem a =
        let full := (List.range 32).all (fun i => (nget none w.data (32 * (a % 256 / 32) + i)).isSome)
        if a / 256 = w.line ∧ (full = true ∨ smem s.lostBursts (a / 32) = false) then (nget none w.data (a % 256)).getD (nget 0 s.mem a)
        else nget 0 s.mem a)) ∧
  (∀ (s : State) (st : Stack) (burst : Nat), 32 * burst < dpaLimit → (stripedLoc (32 * burst)).stack = st.val →
    lineBusy s (burst / 8) = false →
    let lpc := (stripedLoc (32 * burst)).lpc
    let counted : State := countEvent (modS s st.val (fun q =>
      { q with corrected := (lpc, s.clk.elapsed) :: q.corrected.filter (fun e => decide (s.clk.elapsed ≤ e.2 + 1000000000)),
               rewritten := sadd q.rewritten burst })) 5 1
    exec (.patrolScrub st burst .clean) s = .next s ∧
    exec (.patrolScrub st burst .corrected) s =
      .next (if smem (getS s st.val).rewritten burst then memoryEvent counted st.val lpc else counted) ∧
    (inGroup s = false → inGib (32 * burst) (rget s Reg.holdPoolBase) (rget s Reg.holdPoolSize) = false →
      inGib (32 * burst) (rget s Reg.emdBase) (rget s Reg.emdSize) = false →
      exec (.patrolScrub st burst .uncorrectable) s =
        .next (memoryEvent { s with lostBursts := sadd s.lostBursts burst } st.val lpc))) ∧
  (∀ (s : State) (line : Nat) (t : Table), lineLost s line = true → lineBusy s line = false → tableHolding s (256 * line) = some t →
    let readers := (s.lostReaders.filter (fun r => r.1 == line)).map (·.2)
    let s1 : State := { s with lostReaders := s.lostReaders.filter (fun r => r.1 != line) }
    let found (u : State) : Prop := (∀ x, x ∈ u.lostBursts ↔ x ∈ s.lostBursts ∧ x / 8 ≠ line) ∧ u.launches = s.launches
    (inGroup s = true → ∀ b : Bytes, b.length = 256 → ∃ u : State, (∀ a, nget 0 u.mem a =
          if a / 256 = line then b.getD (a % 256) 0 else nget 0 s.mem a) ∧ found u ∧ u.tables = s.tables ∧
        exec (.lineRebuildDone line (some b)) s = .next (readers.foldl reexecLaunch u)) ∧
    (∀ copy, (inGroup s = false ∨ copy = none) → ∀ v u, versions s1 = some v → reconLine s1 v t line = some u →
      (mapElements t line = [] → tData t.desc % 64 = 0 → ∀ a, a / 256 ≠ line → nget 0 u.mem a = nget 0 s.mem a) ∧
      found { u with lostBursts := u.lostBursts.filter (fun x => x / 8 != line) } ∧
      exec (.lineRebuildDone line copy) s =
        .next (readers.foldl reexecLaunch { u with lostBursts := u.lostBursts.filter (fun x => x / 8 != line) })) ∧
    (∀ copy, (inGroup s = false ∨ copy = none) → (versions s1).bind (fun v => reconLine s1 v t line) = none →
      exec (.lineRebuildDone line copy) s =
        .next (readers.foldl (fun s id => endLaunch s id Status.memoryLost 0 0 [] 0) (tableLost s1 t line)))) ∧
  (∀ (s : State) (st : Stack), let q := getS s st.val
    (∀ r rest, q.rebuild = r :: rest →
      (3145728 ≤ r.cursor → ∃ t, exec (.pcRebuildDone st) s = .next t ∧
        (getS t st.val).pcMap = updAt (fun _ => r.target) q.pcMap r.lpc ∧ (getS t st.val).rebuild = rest) ∧
      (r.cursor < 3145728 → exec (.pcRebuildDone st) s = .next s)) ∧
    (∀ (lpc : Fin 30) cause, q.retraining = none → q.rebuild.any (fun r => r.lpc == lpc.val) = false →
      q.steps.any (fun y => y.lpc == lpc.val) = false → retrainDue s st.val lpc.val cause = true → exec (.pcRetrain st lpc cause) s =
        .next (modS (flushWhere s st.val (fun w => (stripedLoc (256 * w.line)).lpc == lpc.val)) st.val
          (fun q => { q with retraining := some (lpc.val, cause) }))) ∧
    (∀ lpc cause, q.retraining = some (lpc, cause) →
      exec (.pcRetrainEnd st .passed) s = .next (modS s st.val (fun q =>
        { q with retraining := none, trained := nput 0 q.trained lpc s.clk.elapsed })) ∧
      let again : Int := s.clk.elapsed + 1000000000 - (rget s Reg.retrainPeriod st.val * 1000000000 : Nat)
      ∀ res, res ≠ .passed → exec (.pcRetrainEnd st res) s = .next (memoryEvent (modS s st.val (fun q =>
        { q with retraining := none, trained := nput 0 q.trained lpc again })) st.val lpc)) ∧
    (q.selfRefresh = true → exec (.selfRefreshExcursion st) s = .next (modS s st.val (fun q => { q with clean := false })))) ∧
  ∀ (s : State) q, rebuildDue s = true → flashRecon s (rebuildTarget s) = .ok q →
    exec .tableRebuildDone s = .next (rebuilt (takeRecon s q)) ∧
    (takeRecon s q).fe.epoch = BitVec.ofNat 64 q.epoch ∧ (takeRecon s q).fe.head = q.head

/-- SKEIN_FAULT of a skein a map names: its queue and resident region are gone, it is in test with one event more; a primary
without checkpoint images that ran there is dropped and a new execution waits, kept off that skein, with RE-EXECUTED. A passed
self-test without a permanent event returns the skein to service, a failed one retires it: no dispatch, its mark set, only
started executions left. SECTION_FAULT empties all 16 skeins and leaves none of them good. The single-bit errors of flits are
counted. The third uncorrectable flit of a link in a second makes it permanent, and a transaction's execution runs again
elsewhere: from its newest checkpoint image while it still runs, as a new execution otherwise. WAIT-BOUND is logged; at a skein
it fails, elsewhere the hang reset starts. An engine's third event takes it out of service for good; without engines
EMD-DEGRADED stands. (Derived from R58, R154, R489, R496, R497, R61, R62, R63, R65, R66, R518, R494.) -/
def Obligations.FailedUnitsGiveTheirWorkAway : Prop :=
  (∀ (s : State) (k : Skein) (ev : SkeinEvent), let q := getK s k.val
    q.mode = .good →
    (q.queue = [] → ∃ t, exec (.skeinFault k ev) s = .next t ∧ (getK t k.val).queue = [] ∧ (getK t k.val).resident = none ∧
      (getK t k.val).mode = .testing ∧ (getK t k.val).events = q.events + 1 ∧ (∀ j, j ≠ k.val → getK t j = getK s j) ∧
      t.launches = s.launches) ∧
    ∀ c l x, q.queue = [c] → findL s c.launch = some l → l.execs[c.ex]? = some x → x.role = .primary → x.ckpts = [] →
      x.splices = [] → ∃ t l', exec (.skeinFault k ev) s = .next t ∧ (getK t k.val).queue = [] ∧ (getK t k.val).mode = .testing ∧
        findL t c.launch = some l' ∧ l'.reexecuted = true ∧ l'.execs.length = l.execs.length + 1 ∧
        l'.execs[l.execs.length]? = some (Exec.fresh .reexec ⟨k.val :: x.place.skeins, x.place.sections⟩) ∧
        (l'.execs[c.ex]?).map (·.phase) = some .dropped) ∧
  (∀ (s : State) (k : Skein), (getK s k.val).mode = .testing →
    (∃ t, exec (.skeinSelfTestDone k false) s = .next t ∧ (getK t k.val).mode = .retiring ∧ t.weave.retire.getLsbD k.val = true ∧
      ∀ c, c ∈ (getK t k.val).queue → c.started = true) ∧
    ((getK s k.val).events = 0 →
      exec (.skeinSelfTestDone k true) s = .next (modK s k.val (fun q => { q with mode := .good, events := 0 })))) ∧
  (∀ (s : State) (n : Section), ∃ t, exec (.sectionFault n) s = .next t ∧
    ∀ j, j < 16 → (getK t (16 * n.val + j)).queue = [] ∧ (getK t (16 * n.val + j)).mode ≠ .good) ∧
  (∀ (s : State) (link : Fin 294) (n : Nat), smem s.weave.permanent link.val = false →
    let counted := countEvent s 7 n
    let events := (link.val, s.clk.elapsed) :: s.weave.events.filter (fun e => decide (s.clk.elapsed ≤ e.2 + 1000000000))
    ((events.filter (fun e => e.1 == link.val)).length < 3 →
      exec (.flitDoubleError link ⟨n, none⟩) s = .next { counted with weave := { s.weave with events := events } } ∧
      ∀ l x lx ex, findL s l = some lx → lx.execs[x]? = some ex → lx.stage = .running →
        (((ex.phase = .placed ∧ ex.ckpts = []) ∨ ex.phase = .result ∨ ex.phase = .checked) →
          ∃ t, exec (.flitDoubleError link ⟨n, some (l, x)⟩) s = .next t ∧
            (findL t l).map (fun l => (l.reexecuted, l.execs.length)) = some (true, lx.execs.length + 1)) ∧
        (ex.phase = .placed → ex.ckpts ≠ [] → ∃ t, exec (.flitDoubleError link ⟨n, some (l, x)⟩) s = .next t ∧
          (findL t l).map (fun l => (l.reexecuted, l.execs.length, (l.execs[x]?).map (fun y => (y.phase, y.resume)))) =
            some (true, lx.execs.length, some (.waiting, true)))) ∧
    (3 ≤ (events.filter (fun e => e.1 == link.val)).length → ∃ t, exec (.flitDoubleError link ⟨n, none⟩) s = .next t ∧
      smem t.weave.permanent link.val = true ∧ smem t.weave.pendingSwap link.val = true)) ∧
  (∀ (s : State) (number : Fin 160) (cls : Fin 5),
    let logged := logErr s Err.waitBound 0xFF number.val cls.val
    (∀ k, (getK s k.val).mode ≠ .absent → exec (.waitBound (.skein k) number cls) s = .next (failSkein logged k.val)) ∧
    (s.fe.hang = none → s.launches = [] → (s.glb.phase = 5 ∨ s.glb.phase = 6 ∨ s.glb.phase = 8) →
      let fe : FrontSt := { logged.fe with polling := false, hang := some ⟨0, s.clk.elapsed, 0x0A⟩ }
      exec (.waitBound .other number cls) s = .next { logged with fe := fe })) ∧
  ∀ (s : State) (n : Fin 4), smem s.emd.engines n.val = true →
    ((event s chEngine n.val).2 = false → ∃ t, exec (.engineFailure n) s = .next t ∧ t.emd = s.emd ∧ t.defects = s.defects ∧
      ((channel s chEngine n.val).permanent = false → ∃ c, c ∈ t.itg.channels ∧ c.kind = chEngine ∧ c.index = n.val ∧
        c.times.head? = some s.clk.time.toNat)) ∧
    ((event s chEngine n.val).2 = true → ∃ t, exec (.engineFailure n) s = .next t ∧ t.emd.engines = sdel s.emd.engines n.val ∧
      smem t.defects.engines n.val = true ∧ (t.emd.engines = [] → t.glb.conds.getLsbD 3 = true))

/-- INTEGRITY_CHECK with the inputs held, room in the seal queue and no lost line read evaluates the verdict. A lone execution
without audit and fault that passes is chosen; one that rejects runs again in another section when there is one; of a primary
and a second execution with the same sealed message the primary is chosen. SEAL_FORM with a free completion entry: once every
output buffer of nonzero length has gone to the host in order, it reserves the entry and keeps the SHA-256 of the sealed
message; on a page not present the copy parks where it stands, with no seal formed. OUTCOME_STAGE passes on a launch that
emitted no splice and stages the OUTCOME write of one whose splices are numbered. COMPLETION_WRITE puts the tenant's next record
whose splices are settled at its ring's next entry, the sealed one first, bytes 8 to 255 before bytes 0 to 7, without relaxed
ordering, and frees the launch's entry; a message that reports it follows it. MSIX_SEND sends message 0 once the holdoff has
passed; MSIX_UNMASK sends a pending one. (Derived from R476, R480, R53, R224, R18, R40, R345, R445, R478,
R272, R344, R377.) -/
def Obligations.ResultsAreCheckedSealedAndRecorded : Prop :=
  (∀ (s : State) (l : Launch), findL s l.id = some l → l.stage = .running → (∀ i, i < dInputs l.desc → holdDone l i = true) →
    readsLost s l.id = false → (sealQueue s).length < 64 →
    (∀ x, l.execs = [x] → x.phase = .result → x.fault = none → l.audit = false →
      let v := verdictOf l x
      let s1 := modX s l.id 0 (fun x => { x with verdict := v, phase := .checked })
      (bit v 0 = false → exec (.integrityCheck l.id 0) s =
        .next (modL s1 l.id (fun l => { l with stage := .decided 0, audited := false }))) ∧
      (bit v 0 = true → hasOtherSection s (x.ran / 16) = true → exec (.integrityCheck l.id 0) s =
        .next (addExec s1 l.id .reexec ⟨[], [x.ran / 16]⟩))) ∧
    (∀ p q, l.execs = [p, q] → p.role = .primary → p.phase = .checked → q.phase = .result → q.role ≠ .primary →
      sealedMessage l p = sealedMessage l { q with verdict := verdictOf l q } →
      ∃ t, exec (.integrityCheck l.id 1) s = .next t ∧
        (findL t l.id).map (fun l => (l.stage, l.audited)) = some (.decided 0, q.role == .audit))) ∧
  (∀ (s : State) (l : Launch) (e : Nat) (x : Exec), findL s l.id = some l → l.execs[e]? = some x →
    (l.stage = .decided e → cqFree s l.tenant = true → s.fe.hang = none → copyParked s l.id = false →
      (l.copied = (0, 0) →
        let wrote := (List.range (dOutputs l.desc)).foldl (fun s i => if (dOutput l.desc i).2 = 0 then s else
          writeHost s l.tenant (dOutput l.desc i).1 (outputOf l x i)) s
        exec (.sealForm ⟨l.id, .done⟩) s = .next (modL
          (modT wrote l.tenant (fun c => { c with reserved := sadd c.reserved l.id })) l.id
          (fun l => { l with stage := .sealed e, digestSeal := sha256 (sealedMessage l x) }))) ∧
      ∀ buf off, copyStops l buf off = true →
        let wrote := writeOutputs s l x l.copied (buf, off)
        let c := cursorOf wrote l.id (.copy buf off)
        exec (.sealForm ⟨l.id, .failed buf off⟩) s = .next (endLaunch wrote l.id Status.partial_ 0 0 c.1 c.2) ∧
        (smem s.hst.failed l.tenant = false → (fnConfig s l.tenant).priOn = true →
          ∃ t, exec (.sealForm ⟨l.id, .notPresent buf off⟩) s = .next t ∧ isParked t l.id (.copy buf off) = true ∧
            findL t l.id = some { l with copied := (buf, off) })) ∧
    (l.stage = .sealed e → outcomeWaiting s l.id = false →
      (x.splices = [] → exec (.outcomeStage l.id) s = .next (modL s l.id (fun l => { l with stage := .outcome e }))) ∧
      (x.splices ≠ [] → dIsReplay l.desc = false → s.jrn.powerFail = false → rejects x = false → x.role = .primary →
        (∀ q, q ∈ x.splices → q.id.isSome = true) → exec (.outcomeStage l.id) s = .next (stageOwn s
          (stateRecords (x.splices.filterMap (·.id)) 1 ++ [{ kind := 0x0A, body := outcomeBody l }]))))) ∧
  (∀ (s : State) (t : Tenant),
    let c := getT s t.val
    let addr := c.cqBase + 256 * (c.cqNext.toNat % c.cqSize)
    let before := (translate s t.val addr 256 true).out
    (∀ r, c.resetting = false → sealedDue s t.val = none → c.finished.find? (fun r => !recordsWait s r.ids) = some r →
      cqFree s t.val = true →
      ∃ u, exec (.completionWrite t true) s = .next (if r.alert then msix u t.val 1 else u) ∧
        u.out = .record (hostReq s t.val addr false) (r.body.take 48 ++ leBytes 8 s.clk.time.toNat ++ r.body.drop 56)
          (recordHead s c.cqNext r.status r.bits) :: before ∧
        (getT u t.val).finished = c.finished.erase r ∧ (getT u t.val).cqNext = c.cqNext + 1 ∧
        (getT u t.val).owed = (c.owed || r.irq) ∧
        u.launches = s.launches.filter (fun l => r.launch == 0 || l.id != r.launch)) ∧
    (∀ l x, c.resetting = false → sealedDue s t.val = some (l, x) →
      ∃ u bits, exec (.completionWrite t true) s = .next u ∧
        u.out = .record (hostReq s t.val addr false) (sealedBody s l x).1
          (recordHead s c.cqNext (if rejects x then Status.rejected else Status.success) bits) :: before ∧
        (getT u t.val).cqNext = c.cqNext + 1 ∧ ∀ m, m ∈ u.launches → l.id = 0 ∨ m.id ≠ l.id) ∧
    (c.owed = true → c.nextMsg ≤ s.clk.elapsed → exec (.msixSend t) s = .next (msix (modT s t.val (fun c =>
      { c with owed := false, nextMsg := s.clk.elapsed + 1000 * rget s Reg.irqHoldoff t.val })) t.val 0)) ∧
    ∀ e : Fin 16, ∃ u, exec (.msixUnmask t e) s = .next u ∧ (getT u t.val).msixMask.getLsbD e.val = false ∧
      (getT u t.val).msixPend.getLsbD e.val = false ∧
      (∀ i, i ≠ e.val → (getT u t.val).msixMask.getLsbD i = c.msixMask.getLsbD i ∧
        (getT u t.val).msixPend.getLsbD i = c.msixPend.getLsbD i) ∧
      u.out = if c.msixMask.getLsbD e.val = true ∧ c.msixPend.getLsbD e.val = true then .msix t.val e.val :: s.out else s.out)

/-- A running launch past its watchdog on a chip that is up, no reset running: polling stops, the hang is recorded with
its launch, time and cause 5, and every launch in flight that holds no reserved completion entry is finished.
HANG_RESET_PROCEED of a chip that is up, with no activation requested by it, drains the records; until every reserved
launch and record has drained, or 2,000 µs have passed, that is all. Then steps in progress end, combining buffers are
flushed, the persistence record is written, the units reset, the LSM built again and the stores brought back, with
the hang's cause in RST_LAST. (Derived from R350, R357, R553, R554, R160, R568.) -/
def Obligations.HungLaunchesStartAndEndTheReset : Prop :=
  (∀ (s : State) (l : Launch), findL s l.id = some l → l.stage = .running → l.admitted + 1000 * l.watchdog ≤ s.clk.elapsed →
    s.fe.hang = none → (s.glb.phase = 5 ∨ s.glb.phase = 6 ∨ s.glb.phase = 8) →
    ∃ t, exec (.watchdogExpiry l.id) s = .next t ∧ t.fe.polling = false ∧ t.fe.hang = some ⟨l.id, s.clk.elapsed, 5⟩ ∧
      ∀ m, findL s m.id = some m → entryReserved s m = false → (findL t m.id).map (·.stage) = some .finished) ∧
  ∀ (s : State) (find : BootFind) (h : Hang), s.fe.hang = some h → canRetain s = true → h.cause ≠ 6 →
    let flr := h.cause == 4
    let s1 := drainAll flr s
    let kept := writePersist (flushAll (endSteps (drainAll flr s1))) find.clean.toNat h.cause
    (drained s1 = false → s.clk.elapsed < h.start + 2000000 → exec (.hangResetProceed find) s = .next s1) ∧
    ((drained s1 = true ∨ h.start + 2000000 ≤ s.clk.elapsed) →
      exec (.hangResetProceed find) s = .next (storePhase (remapPhase find (resetUnits false flr h.cause 4 kept))))

/-- SPLICE_SEQUENCE gives the front splice of a launch the next own ID and hands its SPLICE record to the journal. ANCHOR_CLOSE
of an anchor issues the manifest of the closable splices; of a chip without a group, its boundary begins. With every listed body
there, a matching M goes on to the drain, another drops the bodies and asks the next port for them; a round that left some out
goes on with the next port. Once no launch of C - 1 remains, the tables retired at C are gone, no young or pending set is left,
and a young element's plane has flipped. SPLICE_APPLY takes the next listed body and moves on, noting a refused one. With the
BOUNDARY record durable the epoch is C + 1, its head the chain of the manifest, and the pending sets are young. A step 2 that
outlasts FE_BOUNDARY_LIMIT with bodies missing or wrong puts the chip behind its group and stops admission. (Derived from R267,
R285, R423, R424, R426, R427, R276, R277, R278, R57, R288, R632.) -/
def Obligations.BoundariesCloseApplyAndCutOver : Prop :=
  (∀ (s : State) (q : Queued) (rest : List Queued), s.fe.queue = q :: rest → q.launch ≠ 0 → s.jrn.waiting = [] →
    let id := ownMember s * 2 ^ 59 + s.fe.counter
    let r : JrnRecord := { kind := 0x01, body := spliceRecord id q.body }
    (s.jrn.covered = 0 ∨ acceptable s { recs := [r], frame := none } = true) →
    let left : State := { s with fe := { s.fe with queue := rest, counter := s.fe.counter + 1 } }
    exec .spliceSequence s = .next (stageOwn (modL (modX left q.launch q.ex (fun x =>
      { x with splices := updAt (fun e => { e with id := some id }) x.splices q.index })) q.launch (fun l =>
        { l with ids := l.ids ++ [id] })) [r])) ∧
  (∀ (s : State), mayClose s = true → s.group.closeDue ≤ s.clk.elapsed →
    s.fe.epoch.toNat ≠ lastEpoch →
    let closing : State := { s with group := { s.group with closeDue := s.clk.elapsed + 1000 * rget s Reg.epochPeriod } }
    (isAnchor s = true → exec .anchorClose s = .next (issueManifest closing (closeManifest closing))) ∧
    (inGroup s = false → ∃ t b, exec .anchorClose s = .next t ∧ t.boundary = some b ∧ b.step = .gather ∧
      b.manifest = closeManifest closing ∧ b.ids = manIds b.manifest ∧ b.due = s.clk.elapsed + 1000 * rget s Reg.boundaryLimit ∧ t.fe.epoch = s.fe.epoch)) ∧
  (∀ (s : State) (b : Boundary), s.boundary = some b →
    (b.step = .gather → (bodiesOf s b.ids).length = b.ids.length →
      (bodiesDigest (bodiesOf s b.ids) = manM b.manifest →
        exec .boundaryGatherDone s = .next { s with boundary := some { b with step := .drain } }) ∧
      (bodiesDigest (bodiesOf s b.ids) ≠ manM b.manifest →
        let dropped := b.ids.foldl (fun s id => modSplice s id (fun r => { r with body := none })) s
        exec .boundaryGatherDone s = .next (fetchBodies { dropped with boundary := some { b with asked := b.asked + 1 } }
          (lacking dropped b.ids)))) ∧
    (b.step = .gather → (bodiesOf s b.ids).length ≠ b.ids.length → exec .boundaryGatherDone s = .next
      (if b.asked = 0 then s else fetchBodies { s with boundary := some { b with asked := b.asked + 1 } } (lacking s b.ids))) ∧
    (b.step = .drain → b.ids ≠ [] → (s.fe.epoch = 0 ∨ ∀ l, l ∈ s.launches → l.epoch = s.fe.epoch.toNat - 1 → l.stage = .finished) →
      s.jrn.drydown = none → foldLost s = false → foldBusy s = false →
      ∃ t, exec .boundaryDrainDone s = .next t ∧ t.boundary = some { b with step := .apply, position := 0, refused := [] } ∧
        (∀ x, x ∈ t.tables → x.young = [] ∧ x.pending = []) ∧
        (∀ x r, s.tables = [x] → x.young = [r] → x.retired = none → planeBit t x.desc r = 1 - planeBit s x.desc r) ∧
        t.tables.map (·.desc) = (s.tables.filter (fun x => x.retired.all (fun e => decide (s.fe.epoch.toNat < e)))).map (·.desc)) ∧
    (∀ id body, b.step = .apply → b.ids[b.position]? = some id → (findSplice s id).bind (·.body) = some body →
      (∀ u, applyOne (flushTouched s body) b body = .done u →
        exec .spliceApply s = .next (commitIfDone (nextPosition u id false))) ∧
      (∀ u, applyOne (flushTouched s body) b body = .refused u → bKind body ≠ 5 → exec .spliceApply s =
        .next (commitIfDone (nextPosition (logErr u Err.spliceRefused 0xFF id b.position) id true)))) ∧
    (b.step = .record → recordDone s = true → ∃ t, exec .boundaryRecordDurable s = .next t ∧ t.fe.epoch = s.fe.epoch + 1 ∧
      t.fe.head = chainHead (s.fe.epoch.toNat + 1) s.fe.head (manM b.manifest) ∧
      t.tables = s.tables.map (fun x => { x with young := x.pending, pending := [] })) ∧
    (b.step = .gather → gathered s b = false → b.due ≤ s.clk.elapsed → s.group.behind = 0 →
      ∃ t, exec .boundaryLimitExpiry s = .next t ∧ t.group.behind = 1 ∧ t.glb.conds.getLsbD condBoundary = true ∧
        smem t.glb.stopped condBoundary = true))

/-- PORT_TRAINED at the width the lanes allow enters HELLO with the fresh random value. HELLO_SEND sends a 92-byte HELLO not
before 10 µs after the last. An accepted HELLO of a port with nothing to send brings it UP with its partner and 1024 and 512
units of credit; one that fails a check is a violation, at an UP port too. PORT_ENABLE 0 holds a port down, 1 lets a down one
train where a width is left and its reference is good; RETRAIN trains, RELEASE ends a quarantine. The third event of a lane
retires it, and a port with no width left leaves service. LINK_SEND pays what is owed. GO_BACK sends every unacknowledged frame
again, oldest first; an episode beyond 20 µs retrains the port, as does an UP port's replication timer, with LANYARD-SLOW. A
LINK within its rate is taken and what it lets go is sent. (Derived from R399, R400, R409, R410, R411, R414, R430, R431, R437,
R438, R439, R563.) -/
def Obligations.LanyardPortsTrainAndRetry : Prop :=
  (∀ (s : State) (p : Port), let q := getP s p.val
    (∀ r : Bytes, q.mode = .training → usableLanes q.retired ≠ 0 → s.clk.tripped.getLsbD (2 + p.val) = false →
      exec (.portTrained p (usableLanes q.retired) r) s = .next (modP s p.val (fun q =>
        { q with mode := .hello, lanes := usableLanes q.retired, used := laneMask q.retired, own := r, theirs := [], helloAt := none,
                 accepted := false }))) ∧
    (q.mode = .hello → inGroup s = true → s.jrn.powerFail = false → replicates s = true →
      (∀ nonce : Bytes, (∀ t, q.helloAt = some t → t + 10000 ≤ s.clk.elapsed) →
        ∃ f : Bytes, f.length = 92 ∧ fld f 0 1 = 0x0E ∧ crcOk f = true ∧ exec (.helloSend p nonce) s =
          .next (emit (modP s p.val (fun q => { q with helloAt := some s.clk.elapsed })) (.frame p.val f))) ∧
      ∀ f : Bytes, crcOk f = true → fld f 0 1 = 0x0E →
        (helloOk s p.val f = false → exec (.helloFrame p f) s = .next (violation s p.val)) ∧
        (helloOk s p.val f = true → q.waiting = [] → q.sent = [] → ∃ t, exec (.helloFrame p f) s = .next t ∧
          (getP t p.val).mode = .up ∧ (getP t p.val).partner = fld f 36 1 ∧ (getP t p.val).theirs = slice f 40 16 ∧
          (getP t p.val).credits = (1024, 512) ∧ (getP t p.val).txSeq = 0 ∧ (getP t p.val).rxCount = none ∧
          ∀ j, j ≠ p.val → getP t j = getP s j)) ∧
    (∀ f : Bytes, q.mode = .up → s.jrn.powerFail = false → replicates s = true → crcOk f = true → fld f 0 1 = 0x0E →
      exec (.helloFrame p f) s = .next (if helloOk s p.val f = true then s else violation s p.val)) ∧
    (q.mode = .down → ∃ t, exec (.portEnable p true) s = .next t ∧ (getP t p.val).mode =
      if usableLanes q.retired = 0 then .outOfService else if s.clk.tripped.getLsbD (2 + p.val) = true then .down else .training) ∧
    (q.mode ≠ .quarantined → q.mode ≠ .outOfService →
      (usableLanes q.retired ≠ 0 → ∃ t, exec (.portEnable p false) s = .next t ∧ (getP t p.val).mode = .down) ∧
      exec (.retrain p) s = .next (portRetrain s p.val)) ∧
    (q.mode = .quarantined → exec (.release p) s = .next (modP (portRetrain s p.val) p.val (fun q => { q with recent := [] }))) ∧
    (∀ lane : Fin 8, let r := event s chLane (8 * p.val + lane.val)
      (r.2 = false → exec (.laneEvent p lane) s = .next r.1) ∧
      (r.2 = true → ∃ t, exec (.laneEvent p lane) s = .next t ∧ (getP t p.val).retired = q.retired ||| BitVec.twoPow 8 lane.val ∧
        (q.mode = .quarantined → (getP t p.val).mode = .quarantined) ∧
        (usableLanes (q.retired ||| BitVec.twoPow 8 lane.val) = 0 → q.mode ≠ .quarantined → (getP t p.val).mode = .outOfService))) ∧
    (q.mode = .up → q.linkOwed = true → exec (.linkSend p) s =
      .next (modP (putFrame s p.val 0x0F 0 (ownMember s) 0 (linkBody q)) p.val (fun q =>
        { q with linkOwed := false, nak := false, owed := (0, 0) }))) ∧
    (goBackDue s q = true → q.episode = none →
      let unacked := q.sent.filter (fun f => !f.acked)
      let e : Episode := { goBacks := 1, start := s.clk.elapsed, covers := unacked.map (·.seq) }
      exec (.goBack p) s = .next (unacked.foldl
        (fun s f => putFrame s p.val f.kind (f.flags / 2 * 2 + 1) f.sender f.seq f.payload)
        (countEvent (modP s p.val (fun q => { q with episode := some e, goBack := false, progress := s.clk.elapsed })) 6 1))) ∧
    (∀ e, q.episode = some e → e.start + 20000 < s.clk.elapsed →
      exec (.retryEpisodeFailure p) s = .next (portRetrain s p.val)) ∧
    (∀ f, q.sent.find? (fun g => g.seq == f.seq) = some f → timerOut s q f = true → q.mode = .up →
      exec (.replicationTimeout p f.seq) s = .next (portRetrain (modP (logErr s Err.lanyardSlow 0xFF p.val f.seq) p.val (fun q =>
        { q with sent := q.sent.map (fun g => if g.seq = f.seq then { g with due := s.clk.elapsed + 1000 * rget s Reg.replTimeout } else g) })) p.val))) ∧
  ∀ (s : State) (p : Port) (frame b : Bytes), FrameAccepted s p.val 0x0F frame b → b.length = 16 → fld b 3 1 ≤ 1 →
    zeroAt b 7 1 = true → zeroAt b 11 1 = true → (getP s p.val).links.1 ≠ s.clk.elapsed →
    exec (.linkFrame p frame) s = .next (pump (modP (modP (acceptedAt s p.val frame) p.val (fun q =>
      { q with links := (s.clk.elapsed, 1) })) p.val (takeLink s.clk.elapsed b)) p.val)

/-- For a frame that is accepted, in turn and within the credit granted. SPLICE stages the records that are no
duplicates, STATE the first state change of each ID, one that differs being a violation. A MANIFEST chunk or CONFIRM
of no lower term, MANIFEST-ACK, REPORT or VOTE that comes for the first time goes on to the other ports and then
takes effect: the chunk joins its manifest, the anchor counts the acknowledgment of the manifest it issues, a later
epoch's confirmation is held, the report is stored and compared, the vote is counted; a chunk of a low term or one
that has come before has no effect but its report as staged. A reply to FETCH counts where the port was asked. FETCH is
answered with the bodies or lines asked for. A REBUILD that this chip asked for gives its lost line its bytes. A
member without CONFIRM for FE_EPOCH_PERIOD and LNY_ANCHOR_TIMEOUT votes in the next term. (Derived from R417, R419,
R420, R425, R426, R428, R432, R433, R434, R406, R408, R415.) -/
def Obligations.GroupFramesTakeEffect : Prop :=
  (∀ (s : State) (p : Port) (frame b : Bytes),
    let turn (kind : Nat) : Prop := FrameInTurn s p.val kind frame b
    let at_ (kind : Nat) : State := takenIn s p.val kind frame b
    let r := rcvOf p.val frame b
    let on (kind sender epoch term : Nat) : State := spreadOn (at_ kind) r kind sender epoch term
    (∀ l, turn 0x01 → readSplices (b.length / 40 + 1) b = some l → exec (.spliceFrame p frame) s = .next (stage (at_ 0x01)
      { recs := (freshSplices s r.fetched l).map (fun x => { kind := 0x01, body := spliceRecord x.1 x.2 }),
        frame := some (p.val, r.seq, units b.length), spread := !r.fetched })) ∧
    (turn 0x02 → b ≠ [] → b.length % 16 = 0 →
      (∀ e, e ∈ chunksOf 16 b → (fld e 8 1 = 1 ∨ fld e 8 1 = 2) ∧ zeroAt e 9 7 = true) →
      let x := splitStates s [] (chunksOf 16 b) 0
      exec (.stateFrame p frame) s = .next (stage ((List.range x.2).foldl (fun s _ => violation s p.val) (at_ 0x02))
        { recs := if x.1.isEmpty then [] else [{ kind := 0x02, body := x.1.flatMap id }],
          frame := some (p.val, r.seq, units b.length) }) ∧
      ((∀ e, e ∈ chunksOf 16 b → stateSeen s (fld e 0 8) = 0) → ((chunksOf 16 b).map (fun e => fld e 0 8)).Nodup →
        exec (.stateFrame p frame) s = .next (stage (at_ 0x02)
          { recs := [{ kind := 0x02, body := b }], frame := some (p.val, r.seq, units b.length) }))) ∧
    (∀ e t, turn 0x03 → 8 < b.length → b.length ≤ 2048 → fld b 0 4 < fld b 4 4 → (fld b 0 4 = 0 → 112 ≤ b.length) →
      (if fld b 0 4 = 0 then some (fld b 16 8, fld b 24 4) else (getP s p.val).naming) = some (e, t) →
      let named := modP (at_ 0x03) p.val (fun q => { q with naming := some (e, t) })
      let i := fld b 0 4
      (r.fetched = true → exec (.manifestFrame p frame) s = .next (frameDone
        (if awaits s p.val e = true then takeChunk named e t (fld b 4 4) i (b.drop 8) true else named) r)) ∧
      (r.fetched = false → (lowTerm s t = true ∨ isHeard s 0x03 i e t = true) →
        exec (.manifestFrame p frame) s = .next (frameDone named r)) ∧
      (r.fetched = false → lowTerm s t = false → isHeard s 0x03 i e t = false → exec (.manifestFrame p frame) s =
        .next (frameDone (takeChunk (spreadOn named r 0x03 i e t) e t (fld b 4 4) i (b.drop 8) false) r))) ∧
    (turn 0x04 → b.length = 48 → isHeard s 0x04 (fld b 12 1) (fld b 0 8) (fld b 8 4) = false →
      let u := on 0x04 (fld b 12 1) (fld b 0 8) (fld b 8 4)
      isAnchor u = true → u.group.issuing ≠ [] → slice b 16 32 = sha256 u.group.issuing → bit (roster u) (fld b 12 1) = true →
      exec (.manifestAckFrame p frame) s =
        .next (frameDone (tryConfirm { u with group := { u.group with acks := sadd u.group.acks (fld b 12 1) } }) r)) ∧
    (turn 0x05 → b.length = 48 → s.fe.epoch.toNat < fld b 0 8 →
      let holding (u : State) : State := maybeBegin { u with group := { u.group with confirm := some (fld b 0 8, slice b 16 32) } }
      (r.fetched = false → lowTerm s (fld b 8 4) = true → exec (.confirmFrame p frame) s = .next (frameDone (at_ 0x05) r)) ∧
      (r.fetched = false → lowTerm s (fld b 8 4) = false → isHeard s 0x05 (fld b 12 1) (fld b 0 8) (fld b 8 4) = false →
        exec (.confirmFrame p frame) s = .next (frameDone (holding (acceptTerm
          (on 0x05 (fld b 12 1) (fld b 0 8) (fld b 8 4)) (fld b 8 4) (fld b 12 1))) r)) ∧
      (r.fetched = true → awaits s p.val (fld b 0 8) = true → exec (.confirmFrame p frame) s =
        .next (frameDone (holding { at_ 0x05 with group := { (at_ 0x05).group with
          asked := s.group.asked.filter (· != (p.val, fld b 0 8)) } }) r))) ∧
    (turn 0x06 → b.length = 80 → isHeard s 0x06 r.sender (fld b 0 8) 0 = false → exec (.reportFrame p frame) s =
      .next (frameDone (catchUp (checkHead (putReport (on 0x06 r.sender (fld b 0 8) 0) r.sender b))) r)) ∧
    (turn 0x07 → b.length = 64 → isHeard s 0x07 (fld b 5 1) (fld b 8 8) (fld b 0 4) = false → exec (.voteFrame p frame) s =
      .next (frameDone (tryElect (putVote (on 0x07 (fld b 5 1) (fld b 8 8) (fld b 0 4)) b) (fld b 0 4)) r)) ∧
    (turn 0x08 → 24 ≤ b.length → b.length % 8 = 0 → (b.length - 24) / 8 ≤ 252 → zeroAt b 9 7 = true →
      let items := (List.range ((b.length - 24) / 8)).map (fun i => fld b (24 + 8 * i) 8)
      (fld b 8 1 = 1 → exec (.fetchFrame p frame) s = .next (serveBodies (frameDone (at_ 0x08) r) r (fld b 16 8) items)) ∧
      (fld b 8 1 = 2 → exec (.fetchFrame p frame) s =
        .next (serveLines (frameDone (at_ 0x08) r) r (fld b 0 8) (fld b 16 8) items))) ∧
    (turn 0x0A → b.length = 24 + 256 → fld b 8 1 = 0 → zeroAt b 9 7 = true →
      s.group.fetches.contains (fld b 0 8, fld b 16 8) = true → fld b 16 8 % 256 = 0 → s.group.lines = [] →
      s.lostBursts.any (fun x => x / 8 == fld b 16 8 / 256) = true → s.lostReaders = [] → s.jrn.waiting = [] →
      ∃ t, exec (.rebuildFrame p frame) s = .next t ∧ (∀ a, nget 0 t.mem a =
          if a / 256 = fld b 16 8 / 256 then b.getD (24 + a % 256) 0 else nget 0 s.mem a) ∧
        (∀ x, x ∈ t.lostBursts ↔ x ∈ s.lostBursts ∧ x / 8 ≠ fld b 16 8 / 256) ∧
        t.group.fetches = s.group.fetches.filter (· != (fld b 0 8, fld b 16 8)))) ∧
  ∀ (s : State), inGroup s = true → isAnchor s = false → s.group.confirm.any (fun c => c.1 == nextSet s) = false →
    s.group.lastConfirm + s.group.epochWait + s.group.anchorWait ≤ s.clk.elapsed →
    let term := max s.group.term s.group.votedTerm + 1
    let body := voteBody s term (candidateOf s term)
    exec .anchorTimeout s = .next (tryElect (flood (putVote { s with group := { s.group with
      votedTerm := term, lastConfirm := s.clk.elapsed } } body) 8 0x07 (ownMember s) body) term)

/-- JOURNAL_RECORD_ACCEPT of a write that fits stages it whole. FLASH_WRITE_DONE: the oldest record that the open
segment takes is at its end with the next sequence number, and staged no longer; one that no segment takes stays, and
JOURNAL-FULL is raised; with no covered staging the write
that waits longest goes to flash and is durable then. DRYDOWN_START, when due, reads its segments and targets the
newest epoch in flash, or the current epoch where a segment is damaged. DRYDOWN_DONE with base-area room adds an image
of the target epoch, and frees the images before the one that it follows once its BASE-NOTE is durable; a
journal that does not check turns it into a snapshot. EXPORT_START of an image that fits begins its export, a short
buffer ends it in 5, no image in 4; EXPORT_DONE writes it to host memory. ARENA_LOAD empties the arena and goes BUSY
unless it is in use; ARENA_LOAD_DONE ends READY, with the head and epoch asked for, or FAILED. (Derived from R443,
R444, R445, R449, R448, R450, R466, R455, R458, R465.) -/
def Obligations.JournalKeepsItsRecords : Prop :=
  (∀ (s : State) (w : JrnWrite) (rest : List JrnWrite), s.jrn.waiting = w :: rest →
    (acceptable s w = true → ∃ t, exec .journalRecordAccept s = .next t ∧ t.jrn.staged = s.jrn.staged ++ w.recs ∧
      t.jrn.waiting.length = rest.length) ∧
    (∀ u, s.jrn.staged = [] → s.jrn.covered = 0 →
      writeAll w.recs { s with jrn := { s.jrn with waiting := rest } } = some u →
      exec .flashWriteDone s = .next (reclaim (writeDurable u w)))) ∧
  (∀ (s : State) (r : JrnRecord) (g : Segment), s.jrn.staged = [r] → openSegment s = some g → fitsOpen s r = true →
    (0 < freeSegments s ∨ reservedType r.kind = true) → s.jrn.full = false → ∃ t h, exec .flashWriteDone s = .next t ∧ t.jrn.staged = [] ∧ openSegment t = some h ∧
      h.data = g.data ++ recBytes s.jrn.nextSeq r ∧ h.serial = g.serial ∧ t.jrn.nextSeq = s.jrn.nextSeq + 1) ∧
  (∀ (s : State) (r : JrnRecord), s.jrn.staged = [r] → freeSegments s = 0 → reservedType r.kind = false →
    exec .flashWriteDone s = .next (raiseFull s)) ∧
  (∀ (s : State), drydownRuns s = false → s.jrn.powerFail = false → flashEpoch s ≠ 0 →
    (rget s Reg.drydownHigh * 1726 < 100 * s.jrn.ring.length ∨
      s.jrn.lastImage + rget s Reg.drydownPeriod * 1000000000 ≤ s.clk.elapsed) →
    let u := readDrydown s
    let target := if drydownDamaged u then (s.fe.epoch.toNat, true) else (flashEpoch s, false)
    exec .drydownStart s = .next { u with jrn := { u.jrn with drydown := some target } }) ∧
  (∀ (s : State) (e : Nat), s.jrn.drydown = some (e, false) →
    (∀ q, reconFrom s (ringRecs s) e = .ok q →
      let bytes := imageBytes e q.head (serialOf s e) q.tables (carriedOf q)
      ∀ first, freeBase s bytes.length = some first → ∃ t, exec .drydownDone s = .next t ∧ t.jrn.drydown = none ∧
        let images := s.jrn.images ++ [⟨first, e, q.head, serialOf s e, bytes, false⟩]
        t.jrn.images = if kindWaits t 0x05 then images else keepImages images) ∧
    (∀ x, reconFrom s (ringRecs s) e = .error x → exec .drydownDone s =
      .next { s with jrn := { s.jrn with drydown := some (s.fe.epoch.toNat, true) } })) ∧
  (∀ (s : State), s.jrn.exportState ≠ 1 → rget s Reg.exportKind = 1 →
    let sel := rget s Reg.exportSel
    (exportBytes s true sel = none → exec .exportStart s = .next (setExport s 4 0)) ∧
    ∀ b, exportBytes s true sel = some b →
      (rget s Reg.exportLen < b.length → exec .exportStart s = .next (setExport s 5 0)) ∧
      (b.length ≤ rget s Reg.exportLen → exec .exportStart s = .next { s with jrn := { s.jrn with
        exportState := 1, exportDone := 0, exporting := some (true, sel, rget s Reg.exportAddr) } })) ∧
  (∀ (s : State) image sel addr, s.jrn.exporting = some (image, sel, addr) →
    exec (.exportDone .failed) s = .next (setExport s 6 0) ∧ (∀ last, exec (.exportDone (.notPresent last)) s = .next s) ∧
    ∀ b, exportBytes s image sel = some b → ∃ t, exec (.exportDone .done) s = .next t ∧ t.jrn.exportState = 2 ∧
      t.jrn.exportDone = BitVec.ofNat 64 b.length ∧ Out.dma (hostReq s 0 addr true) b ∈ t.out) ∧
  (∀ (s : State) (request : BitVec 64), request.toNat % 64 = 0 →
    ((arenaInUse s = true ∨ s.jrn.arena.state = 1) → exec (.arenaLoad request) s = .next (logErr s Err.arenaBusy 0xFF 0 0)) ∧
    (arenaInUse s = false → s.jrn.arena.state ≠ 1 →
      let a : ArenaSt := { s.jrn.arena with state := 1, reason := 0, request := request, tables := [] }
      exec (.arenaLoad request) s = .next { s with jrn := { s.jrn with arena := a } })) ∧
  ∀ (s : State), s.jrn.arena.state = 1 →
    (∀ t p, exec (.arenaLoadDone .failed t p) s = .next (failArena s 7)) ∧
    ∀ q t p : Bytes, ∃ u, exec (.arenaLoadDone (.data q) (.data t) (.data p)) s = .next u ∧
      (u.jrn.arena.state = 3 ∨ (u.jrn.arena.state = 2 ∧ requestOk q = true ∧ u.jrn.arena.head = slice q 16 32 ∧
        u.jrn.arena.epoch = BitVec.ofNat 64 (fld q 8 8)))

/-- A power-fail warning of a powered module stops polling and admission, starts the sequence and drops OUTCOME writes
that wait; without launches it also drives PFW_OUT# low. The end of the sequence writes staged records out, counts a
superblock and leaves the die unpowered as a full reset leaves it. Restored input powers it on. A hold-up report,
from the monitor or the test, sets JRN_COVERED by R606, and a fall below 20 J lowers HOLDUP_OK with message 6; a
monitor silent for 1 s takes energy and covered staging away. Power beyond 760 W slows the chip until it is below
700 W; PWRBRK# holds while asserted. A reading at a threshold starts its derating action, 5 below ends it, and a
trip runs the power-fail warning. (Derived from R446, R604, R606, R607, R615, R617, R602, R603, R612, R613.) -/
def Obligations.PowerAndHeatEvents : Prop :=
  (∀ (s : State), s.mdl.powered = true → s.mdl.warning = false →
    (∃ t, exec .powerFailWarning s = .next t ∧ t.mdl.warning = true ∧ t.jrn.powerFail = true ∧ t.fe.polling = false ∧
      smem t.glb.stopped stopPower = true ∧ (s.launches = [] → t.out = .pin 0 false :: s.out)) ∧
    ∀ sensor c, tripAt sensor ≤ c → ∃ t, exec (.thermalTrip sensor c) s = .next t ∧ t.mdl.warning = true ∧ t.jrn.powerFail = true) ∧
  (∀ (s : State) (linkUp : Bool), s.jrn.powerFail = true → ∃ t, exec (.powerFailFlushDone linkUp) s = .next t ∧
    t.mdl.powered = false ∧ t.glb.phase = 0 ∧ t.launches = [] ∧ t.mem = [] ∧ t.clk.cause = 7 ∧ t.jrn.powerFail = false ∧
    t.jrn.staged = [] ∧ t.jrn.superblocks = s.jrn.superblocks + 1 ∧ t.fuses = s.fuses) ∧
  (∀ (s : State), s.mdl.powered = false → exec .inputPowerRestore s =
    .next (emit { s with mdl := { s.mdl with powered := true, warning := false } } (.pin 0 true))) ∧
  (∀ (s : State) (mj : Nat), s.mdl.powered = true →
    let kept : State := { s with mdl := { s.mdl with energy := mj, reportAt := s.clk.elapsed },
                                 jrn := { s.jrn with covered := BitVec.ofNat 27 (coveredBytes mj) } }
    (20000 ≤ mj → 20000 ≤ s.mdl.energy →
      exec (.holdupReport mj) s = .next kept ∧ exec (.capacitanceTest mj) s = .next kept) ∧
    (mj < 20000 → 20000 ≤ s.mdl.energy → exec (.holdupReport mj) s = .next (msix (emit kept (.pin 1 false)) 0 6)) ∧
    (20000 ≤ mj → s.mdl.energy < 20000 → exec (.holdupReport mj) s = .next (emit kept (.pin 1 true))) ∧
    (s.mdl.reportAt + 1000000000 ≤ s.clk.elapsed → 20000 ≤ s.mdl.energy → exec .holdupMonitorSilent s = .next (msix
      (emit { s with mdl := { s.mdl with energy := 0 }, jrn := { s.jrn with covered := 0 } } (.pin 1 false)) 0 6))) ∧
  (∀ (s : State) (w : Nat),
    (760 < w → exec (.powerLimitExceeded w) s =
      .next { s with tlm := { s.tlm with power := w }, mdl := { s.mdl with overPower := true } }) ∧
    (w < 700 → exec (.powerLimitRecovery w) s =
      .next { s with tlm := { s.tlm with power := w }, mdl := { s.mdl with overPower := false } }) ∧
    exec .pwrbrkAssert s = .next { s with mdl := { s.mdl with pwrbrk := true } } ∧
    exec .pwrbrkRelease s = .next { s with mdl := { s.mdl with pwrbrk := false } }) ∧
  ∀ (s : State) (sensor : Sensor) (c : Int), s.mdl.powered = true →
    (∃ t, exec (.thermalDerate sensor c) s = .next t ∧
      ∀ n, smem t.mdl.derates n = (smem s.mdl.derates n || (derateRows sensor).any (fun r => r.1 == n && decide (r.2 ≤ c)))) ∧
    ∃ t, exec (.thermalDerateEnd sensor c) s = .next t ∧ t.launches = s.launches ∧
      ∀ n, smem t.mdl.derates n = (smem s.mdl.derates n && !(derateRows sensor).any (fun r => r.1 == n && decide (c + 5 ≤ r.2)))

/-- A reference that trips joins the tripped ones, with its entry: MODREF puts the chip in holdover, a lanyard reference
takes its port down, TBCLK costs the lock of TB and makes the next edge a step, the PCIe reference is a PCIe reset.
A clean reference within 200 ppm is in trip no longer, and a down port trains again. ODO_MISMATCH keeps the
oscillator that agrees with MODREF; a PLL failure resets its section, degrades its memory or resets the chip. Under
PTM a correction of at most 1 µs is slewed and the quality is LOCKED; the third failed dialogue loses the lock. A
TBPPS edge within 100 ns counts as good, the third locks. 1.5 s without an edge lose the lock, and holdover that
lasts too long ends in FREE-RUNNING. CLK_TIME_SET steps a free-running clock forward at once and never back.
(Derived from R558, R561, R562, R563, R564, R565, R566, R567, R378, R571, R572.) -/
def Obligations.ClocksKeepDeviceTime : Prop :=
  (∀ (s : State) (ref : Ref),
    let bits := s.clk.tripped ||| BitVec.twoPow 12 (refBit ref)
    (ref ≠ .pcie → ∃ t, exec (.clockMonitorTrip ref) s = .next t ∧ t.clk.tripped = bits ∧
      (refBit ref, s.clk.elapsed) ∈ t.clk.trips ∧ (ref = .modref → t.clk.holdover = true) ∧
      (ref = .tbclk → t.clk.stepDue = true ∧ (rget s Reg.timeSrc = 2 → s.clk.quality = 0 → t.clk.quality = 1)) ∧
      ∀ p, ref = .lny p → (getP s p.val).mode ≠ .quarantined → (getP s p.val).mode ≠ .outOfService →
        usableLanes (getP s p.val).retired ≠ 0 → (getP t p.val).mode = .down) ∧
    ((canRetain s = true ∨ (rget s Reg.retention = 0 ∧ s.glb.phase ≠ 0 ∧ s.hst.down = false ∧ s.jrn.powerFail = false)) →
      ∃ t, exec (.clockMonitorTrip .pcie) s = .next t ∧ t.clk.cause = 3) ∧
    ((s.glb.phase = 0 ∨ s.hst.down = true ∨ s.jrn.powerFail = true) → ∃ t, exec (.clockMonitorTrip .pcie) s = .next t ∧
      t.hst.linkUp = false ∧ t.clk.tripped = s.clk.tripped ||| BitVec.twoPow 12 1) ∧
    ∀ ppm : Int, s.clk.tripped.getLsbD (refBit ref) = true → refClean s (refBit ref) = true → ppm.natAbs ≤ 200 →
      ∃ t, exec (.holdoverExit ref ppm) s = .next t ∧ t.clk.tripped = s.clk.tripped &&& ~~~(BitVec.twoPow 12 (refBit ref)) ∧
        (ref = .modref → t.clk.holdover = false) ∧
        ∀ p, ref = .lny p → (getP s p.val).mode = .down → rget s Reg.portEnable p.val ≠ 0 →
          usableLanes (getP s p.val).retired ≠ 0 → (getP t p.val).mode = .training) ∧
  (∀ (s : State), let logged := logErr s Err.clockFault 0xFF 1 0
    (s.clk.tripped.getLsbD 0 = true → ∀ b, exec (.odoMismatch b) s = .next logged) ∧
    (s.clk.tripped.getLsbD 0 = false → ∀ b, exec (.odoMismatch b) s = .next { logged with clk := { s.clk with odo := b } }) ∧
    (∀ n, exec (.pllLockFailure (.skeinSection n)) s = .next (resetSection (logErr s Err.clockFault 0xFF 2 n.val) n.val)) ∧
    (∀ i, exec (.pllLockFailure (.stack i)) s = .next (memoryDegraded (logErr s Err.clockFault 0xFF 2 (8 + i.val)) i.val 0)) ∧
    exec (.pllLockFailure .frontEnd) s = .next (fullReset 7 (logErr s Err.clockFault 0xFF 2 16))) ∧
  (∀ (s : State), rget s Reg.timeSrc = 1 → s.hst.ptmAt ≤ s.clk.elapsed →
    (∀ ns : Int, ns.natAbs ≤ 1000 → s.hst.linkUp = true → ∃ t, exec (.ptmDialogue (some ns)) s = .next t ∧ t.clk.quality = 0 ∧
      t.clk.slew = ns * 1000 ∧ t.clk.debt = 0 ∧ t.clk.time = s.clk.time ∧ t.hst.ptmFails = 0) ∧
    (s.hst.ptmFails = 2 → s.clk.quality = 0 → ∃ t, exec (.ptmDialogue none) s = .next t ∧ t.clk.quality = 1)) ∧
  (∀ (s : State), rget s Reg.timeSrc = 2 →
    (∀ offset : Fin 1000, let dev := toSecond (s.clk.time.toNat + offset.val / 2 * 2)
      s.clk.tripped.getLsbD 10 = false → s.clk.nextSet = none → s.clk.stepDue = false → dev.natAbs ≤ 100 →
      ∃ t, exec (.tbppsEdge offset) s = .next t ∧ t.clk.good = s.clk.good + 1 ∧ t.clk.slew = dev * 1000 ∧ t.clk.debt = 0 ∧
        t.clk.lastPps = some s.clk.elapsed ∧ (2 ≤ s.clk.good → t.clk.quality = 0)) ∧
    ((∃ t0, s.clk.lastPps = some t0 ∧ t0 + 1500000000 ≤ s.clk.elapsed) → s.clk.quality = 0 →
      ∃ t, exec .tbppsMissing s = .next t ∧ t.clk.quality = 1 ∧ t.clk.lastPps = none)) ∧
  ∀ (s : State) (ns : BitVec 64),
    (s.clk.quality = 1 → s.clk.qualityAt + rget s Reg.holdoverMax * 1000000000 ≤ s.clk.elapsed →
      ∃ t, exec .holdoverMaxExpiry s = .next t ∧ t.clk.quality = 2) ∧
    (rget s Reg.timeSrc = 0 → ∃ t, exec (.clkTimeSet ns) s = .next t ∧
      (s.clk.time.toNat < ns.toNat → t.clk.time = ns ∧ t.clk.debt = 0) ∧
      (ns.toNat ≤ s.clk.time.toNat → t.clk.time = s.clk.time ∧ t.clk.debt = (s.clk.time.toNat - ns.toNat) * 1000)) ∧
    (rget s Reg.timeSrc = 1 → exec (.clkTimeSet ns) s = .next (logErr s Err.timeSetIgnored 0xFF ns.toNat 0)) ∧
    (rget s Reg.timeSrc = 2 → exec (.clkTimeSet ns) s = .next { s with clk := { s.clk with nextSet := some ns } })

/-- A PCIe reset of a chip that is up enters retention where HST_RETENTION is 1, its stacks in self-refresh and clean,
cause and level 6 recorded, and is a full reset otherwise; PERST# high ends the retention or boots a chip in phase
ROM, and does nothing while a power-fail sequence runs. An FLR of the PF is a retaining reset with cause 4; one of a
VF leaves that tenant no ring, request or translation, and no launch but those whose reserved entries it still has to
write. D3hot ends with D0. Levels 1, 2 and 3 of RST_CTRL reset a skein, a section or a tenant, and a target
out of range is a RESERVED-WRITE entry; level 4 is a retaining reset; level 5 within 1 ms of RST_ARM a full reset,
which keeps nothing of memory, launches or registers, and otherwise a RESET-NOT-ARMED entry. A retaining reset that
overruns becomes a full one, a skein reset one of its section. (Derived from R379, R380, R381, R382, R553, R554,
R555, R556, R557, R568, R569, R572.) -/
def Obligations.ResetLevels : Prop :=
  let Left (s u : State) (t : Nat) : Prop :=
    (∀ l, l ∈ u.launches → l.tenant = t → smem (getT u t).reserved l.id = true ∧ (getT u t).resetting = true) ∧
    ((getT s t).reserved = [] → (getT u t).finished = [] ∧ (getT u t).cqOn = false ∧ (getT u t).reserved = [] ∧
      ∀ l, l ∈ u.launches → l.tenant ≠ t)
  (∀ (s : State), canRetain s = true →
    let kept (n : BitVec 8) (t : State) : Prop := t.hst.down = true ∧ t.clk.cause = n ∧ t.clk.level = 6 ∧ t.launches = [] ∧
      ∀ i, i < 8 → (getS t i).selfRefresh = true ∧ (getS t i).clean = true
    let gone (n : BitVec 8) (t : State) : Prop := t.glb.phase = 0 ∧ t.clk.cause = n ∧ t.clk.level = 5 ∧ t.mem = [] ∧
      t.launches = [] ∧ t.tables = [] ∧ t.regs = [] ∧ t.fuses = s.fuses ∧ t.flash = s.flash
    (rget s Reg.retention = 1 →
      (∃ t, exec .perstAssert s = .next t ∧ kept 1 t) ∧ (∃ t, exec .hotReset s = .next t ∧ kept 2 t) ∧
      (∃ t, exec .dlDown s = .next t ∧ kept 3 t)) ∧
    (rget s Reg.retention = 0 → rget s Reg.timeSrc ≠ 1 → s.jrn.staged = [] →
      (∃ t, exec .perstAssert s = .next t ∧ gone 1 t) ∧ (∃ t, exec .hotReset s = .next t ∧ gone 2 t) ∧
      (∃ t, exec .dlDown s = .next t ∧ gone 3 t))) ∧
  (∀ (s : State) (find : BootFind),
    (s.jrn.powerFail = true → exec (.perstDeassert find) s = .next s) ∧
    (s.jrn.powerFail = false → s.hst.down = true → exec (.perstDeassert find) s = .next (leaveRetention find s)) ∧
    (s.jrn.powerFail = false → s.hst.down = false → s.glb.phase = 0 → s.mdl.powered = true → s.mdl.warning = false →
      exec (.perstDeassert find) s = .next (fullBoot find s)) ∧
    (canRetain s = true → s.fe.hang = none →
      exec (.pfFlr find) s = .next (finishRetaining find 4 (startRetaining s 0 4)) ∧
      ((readBcb s).pending = false →
        exec (.rstRetaining find) s = .next (finishRetaining find 6 (startRetaining s 0 6))) ∧
      ((readBcb s).pending = true → exec (.rstRetaining find) s = .next (activationReset find s)))) ∧
  (∀ (s : State) (t : Tenant), t.val ≠ 0 → s.fe.hang = none → ∃ u, exec (.vfFlr t) s = .next u ∧
    (getT u t.val).rings = [] ∧ (getT u t.val).d3hot = false ∧ Left s u t.val ∧
    (∀ r, r ∈ u.hst.requests → r.fn ≠ t.val) ∧ (∀ e, e ∈ u.hst.atc → e.fn ≠ t.val) ∧ smem u.hst.failed t.val = false) ∧
  (∀ (s : State) (t : Tenant),
    exec (.d3hotToD0 t) s = .next (modT s t.val (fun c => { c with d3hot := false })) ∧
    exec .rstArm s = .next { s with clk := { s.clk with armed := some s.clk.elapsed } }) ∧
  (∀ (s : State) (target : BitVec 8), s.fe.hang = none →
    let reserved (level : Nat) : State := logErr s Err.reservedWrite 0xFF 0xB00000 (level + 256 * target.toNat)
    (target.toNat < 128 → ∃ t, exec (.rstSkein target) s = .next t ∧ (getK t target.toNat).queue = [] ∧
      (getK t target.toNat).resident = none ∧ (getK t target.toNat).mode ≠ .good) ∧
    (128 ≤ target.toNat → exec (.rstSkein target) s = .next (reserved 1)) ∧
    (target.toNat < 8 → exec (.rstSection target) s = .next (resetSection s target.toNat)) ∧
    (8 ≤ target.toNat → exec (.rstSection target) s = .next (reserved 2)) ∧
    (0 < target.toNat → target.toNat < 128 → ∃ t, exec (.rstTenant target) s = .next t ∧ (getT t target.toNat).rings = [] ∧
      Left s t target.toNat) ∧
    ((target.toNat = 0 ∨ 128 ≤ target.toNat) → exec (.rstTenant target) s = .next (reserved 3))) ∧
  ∀ (s : State),
    ((∃ t, s.clk.armed = some t ∧ s.clk.elapsed ≤ t + 1000000) → s.jrn.staged = [] → ∃ t, exec .rstFull s = .next t ∧
      t.glb = { GlobalSt.reset with bootAt := s.clk.elapsed } ∧ t.fe = FrontSt.reset ∧ t.tenants = [] ∧ t.launches = [] ∧
      t.skeins = [] ∧ t.mem = [] ∧ t.tables = [] ∧ t.regs = [] ∧ t.tlm = TelemetrySt.reset ∧ t.clk.time = 0 ∧
      t.clk.cause = 8 ∧ t.flash = s.flash ∧ t.fuses = s.fuses ∧ t.jrn.ring = s.jrn.ring) ∧
    ((∀ t, s.clk.armed = some t → t + 1000000 < s.clk.elapsed) → exec .rstFull s = .next (logErr s Err.resetNotArmed 0xFF 0 0)) ∧
    (∀ h, s.fe.hang = some h → h.start + 250000000 ≤ s.clk.elapsed →
      exec (.resetLimitOverrun .retaining) s = .next (fullReset h.cause s)) ∧
    ∀ k, (getK s k.val).mode = .testing → exec (.resetLimitOverrun (.skein k)) s = .next (resetSection s (k.val / 16))

/-- POWER_ON of a powered die in phase ROM boots it: no acceptable slot is RECOVERY, otherwise firmware is loaded, the stacks
train, the units are mapped and the store is brought up. A boot past its limit counts as failed and starts over with a full
reset, cause 9. A configuration request is answered from READY on and in HOLD, with Request Retry Status before; it reads what
Tables Host-1 and Host-2 advertise, and sets up VFs, page requests and D3hot. ACTIVATE of an acceptable inactive image, REVERT
and CANCEL set or clear the pending mark; COMMIT-SVN raises the fuse counter to the running image's version and never lowers it.
A firmware update writes the inactive slot and ends ACCEPTED or REJECTED. GET_MEASUREMENTS answers its block. A HOLD load that
names the expected accord leaves HOLD, another is refused. CONFIRM after a retaining event enters service, REBUILD holds
admission until the tables are rebuilt. (Derived from R526, R527, R528, R535, R539, R540, R541, R548, R549, R551, R386, R387.)
-/
def Obligations.BootAndFirmwareCommands : Prop :=
  (∀ (s : State) (find : BootFind), s.glb.phase = 0 → s.mdl.powered = true → s.mdl.warning = false →
    (chooseSlot (findModref find s) = none → exec (.powerOn find) s = .next (enterRecovery (findModref find s))) ∧
    ∀ u, chooseSlot (findModref find s) = some u →
      let loaded := readClass find (loadFirmware u)
      let trained := (List.range 8).foldl (trainStack find (mapFenced loaded))
        { loaded with mem := [], lostBursts := [], lostReaders := [] }
      exec (.powerOn find) s = .next (storePhase (closeSegment (mapPhase find trained)))) ∧
  (∀ (s : State), s.glb.phase.toNat < 5 → s.hst.down = false → s.mdl.powered = true →
    s.glb.bootAt + 1000000 * rget s Reg.bootLimit ≤ s.clk.elapsed →
    (chooseSlot s = none → exec .bootLimitExpiry s = .next (enterRecovery s)) ∧
    ∀ u, chooseSlot s = some u → exec .bootLimitExpiry s = .next (fullReset 9 u)) ∧
  (∀ (s : State) (fn : Tenant) (op : ConfigOp),
    (answersConfig s = false → exec (.configRequest fn op) s = .next (emit s (.requestRetry fn.val))) ∧
    (answersConfig s = true →
      exec (.configRequest fn op) s = .next (configEffect (emit s (.configured fn.val (configAnswer s fn.val op))) fn.val op) ∧
      exec (.configRequest fn .other) s = .next (emit s (.configured fn.val [])) ∧
      (∀ f, exec (.configRequest fn (.feature f)) s = .next (emit s (.configured fn.val (advertised fn.val f)))) ∧
      (∀ n, exec (.configRequest fn (.bar n)) s = .next (emit s (.configured fn.val (barOf s fn.val n)))) ∧
      (∀ n, fn.val = 0 → n ≤ 127 → ∃ t, exec (.configRequest fn (.numVfs n)) s = .next t ∧ t.hst.numVfs = n) ∧
      (∀ n, (fnConfig s fn.val).priOn = false → ∃ t, exec (.configRequest fn (.pageRequests true false n)) s = .next t ∧
        (fnConfig t fn.val).priOn = true ∧ (fnConfig t fn.val).priAlloc = min n 256 ∧ smem t.hst.failed fn.val = false) ∧
      ∃ t, exec (.configRequest fn .d3hot) s = .next t ∧ (getT t fn.val).d3hot = true ∧ t.out = .configured fn.val [] :: s.out)) ∧
  (∀ (s : State),
    let mark (p : Bool) : State := writeBcb s { readBcb s with pending := p }
    let slot := 1 - (readBcb s).active
    (fwAccepted s (slotImage s slot) = true → exec .activate s = .next (mark true)) ∧
    (fwAccepted s (slotImage s slot) = false → exec .activate s = .next (logErr s Err.fwInvalid 0xFF slot 0)) ∧
    exec .revert s = .next (mark true) ∧ exec .cancel s = .next (mark false) ∧
    (∃ t, exec .commitSvn s = .next t ∧ s.fuses.counter ≤ t.fuses.counter ∧ fwSvn (runningImage s) ≤ t.fuses.counter ∧
      t = { s with fuses := { s.fuses with counter := t.fuses.counter } }) ∧
    (s.glb.fwState ≠ 1 → exec .fwUpdateStart s = .next { s with glb := { s.glb with fwState := 1 } }) ∧
    (s.glb.fwState = 1 → exec (.fwUpdateDone .failed) s = .next { s with glb := { s.glb with fwState := 3 } } ∧
      ∀ b : Bytes, b.length ≤ 2 ^ 25 → ∃ t, exec (.fwUpdateDone (.data b)) s = .next t ∧ slotImage t slot = b ∧
        slotImage t (1 - slot) = slotImage s (1 - slot) ∧ t.glb.fwState = if fwAccepted s b = true then 2 else 3) ∧
    (∀ slotB (b : Bytes), s.glb.phase ≠ 0 → s.glb.phase ≠ 9 → (if slotB then 1 else 0) ≠ (readBcb s).active → b.length ≤ 2 ^ 25 →
      ∃ t, exec (.pldmFwUpdate slotB b) s = .next t ∧ slotImage t (if slotB then 1 else 0) = b ∧ t.glb = s.glb) ∧
    ∀ (index : BitVec 8) b, s.glb.phase ≠ 0 → measurement s index.toNat = some b →
      exec (.getMeasurements index) s = .next (emit s (.spdm b))) ∧
  ∀ (s : State),
    (s.glb.phase = 8 → (∀ b l a, holdAccords s b = some l → l.head? = some (some a) →
        (expectedAccord s = some (a.id, a.digest) → exec (.holdLoadStart (.data b)) s = .next (acceptHold s l)) ∧
        (expectedAccord s = none → exec (.holdLoadStart (.data b)) s = .next (refuseHold s a.id))) ∧
      exec (.holdLoadStart .failed) s = .next (refuseHold s 0)) ∧
    (s.glb.phase = 5 → s.glb.attach = 0 →
      (s.glb.retained = true → ∃ t, exec .confirm s = .next t ∧ t.glb.phase = 6 ∧ t.glb.attach = 1) ∧
      exec .rebuild s = .next { s with glb := { s.glb with attach := 2, stopped := sadd s.glb.stopped stopRebuild } })

/-- ACCORD_STAGE_START runs the checks on the image that device memory holds. A table command queues its splice and reads
QUEUED; a block that cannot be read is INVALID. SQ_ENABLE and CQ_ENABLE start a disabled ring at its START field, its base and
size, while no tenant reset is under way. The set-up lock is set unless ranges overlap. Reading FE_EPOCH, JRN_ARENA_EPOCH or
CLK_TIME completes with the value and latches its partner; any served, aligned read completes with the register's bytes, one
outside is Unsupported Request. A write of a plain field with a legal value changes that field alone; of a locked one, nothing
but its LOCKED-WRITE entry. BAR2 reads give the bytes stored; a write to a table's extent is a TABLE-WRITE entry. A poisoned
write counts in the AER of its function, a trained link is reported. (Derived from R281, R629, R323, R324, R593, R590, R589,
R366, R368, R389, R210, R11.) -/
def Obligations.RegistersAndWindows : Prop :=
  (∀ (s : State),
    (∀ b, (stagedImage s).2 = some b → exec .accordStageStart s = .next (stageImage (stagedImage s).1 b)) ∧
    ((stagedImage s).2 = none → exec .accordStageStart s = .next (refuseStage s Err.accordInvalid 0 otherCheck 3)) ∧
    (s.fe.queue.length < 4096 → s.fe.tableState ≠ 1 →
      let asks (body : Bytes) : State := { s with fe := { s.fe with
        queue := s.fe.queue ++ [{ launch := 0, ex := 0, index := 0, body := body }], tableState := 1 } }
      (∀ b, exec (.tableCtrlRegister (.data b)) s = .next (asks (controlBody (fld b 0 2) 0x10 (fit 96 b)))) ∧
      exec .tableCtrlRetire s = .next (asks (controlBody (rget s Reg.tableHandle) 0x11 [])) ∧
      exec (.tableCtrlRegister .failed) s = .next { s with fe := { s.fe with tableState := 3 } })) ∧
  (∀ (s : State) (t : Tenant) (r : Ring), (s.glb.phase = 5 ∨ s.glb.phase = 6) → (getT s t.val).resetting = false →
    ((getR (getT s t.val) r.val).enabled = false →
      let start := BitVec.ofNat 32 (rget s (Reg.sqStart r.val) t.val)
      exec (.sqEnable t r) s = .next (modR s t.val r.val (fun _ => { RingSt.off with
        enabled := true, consumed := start, tail := start, cancel := start, base := rget s (Reg.sqBase r.val) t.val,
        size := 2 ^ rget s (Reg.sqLog r.val) t.val }))) ∧
    ((getT s t.val).cqOn = false →
      let start := BitVec.ofNat 32 (rget s Reg.cqStart t.val)
      exec (.cqEnable t) s = .next (modT s t.val (fun c => { c with
        cqOn := true, cqNext := start, cqSeen := start, cqBase := rget s Reg.cqBase t.val,
        cqSize := 2 ^ rget s Reg.cqLog t.val })))) ∧
  (∀ (s : State), s.glb.locked = false →
    (setupOverlap s = none → exec .setupLock s = .next { s with glb := { s.glb with locked := true } }) ∧
    ∀ d, setupOverlap s = some d → exec .setupLock s = .next (logErr s Err.setupOverlap 0xFF d.1 d.2)) ∧
  (∀ (s : State), bar0Served s 0 = true → s.fe.hang = none →
    (∃ t, exec .feEpochRead s = .next t ∧ t.out = .completion 0 (some (leBytes 8 s.fe.epoch.toNat)) :: s.out ∧
      t.fe = { s.fe with headLatch := s.fe.head }) ∧
    (∃ t, exec .jrnArenaEpochRead s = .next t ∧ t.out = .completion 0 (some (leBytes 8 s.jrn.arena.epoch.toNat)) :: s.out ∧
      t.jrn.arena.headLatch = s.jrn.arena.head) ∧
    (∃ t, exec .clkTimeRead s = .next t ∧ t.out = .completion 0 (some (leBytes 8 s.clk.time.toNat)) :: s.out ∧
      t.clk.qualityLatch = s.clk.quality) ∧
    (∀ (off : BitVec 25), off.toNat % 8 = 0 → exec (.regAccess 0 off 8) s = .next (emit (latch s off.toNat)
      (.completion 0 (some (leBytes 8 (readWord (latch s off.toNat) off.toNat % 2 ^ 64)))))) ∧
    ∀ (off : BitVec 25) (v : BitVec 64) f i, off.toNat % 8 = 0 → fieldsAt off.toNat = [(f, i)] → roWord s off.toNat = none →
      f.lo = 0 → 1 ≤ f.width → f.width ≤ 64 → v.toNat < 2 ^ f.width → acts f = false → rget s f i < 2 ^ f.width →
      [0x78, 0x80, 0x88].contains off.toNat = false →
      (f.acc ≠ .rwl ∨ s.glb.locked = false → legalValue s f i v.toNat = true → busyRing s f i = none → v.toNat ≠ rget s f i →
        exec (.registerWrite 0 off 8 v) s = .next (rset s f v.toNat i)) ∧
      (f.acc = .rwl → s.glb.locked = true →
        exec (.registerWrite 0 off 8 v) s = .next (logErr s Err.lockedWrite 0xFF off.toNat v.toNat))) ∧
  (∀ (s : State) (fn : Tenant) (off : BitVec 25), bar0Served s fn.val = false → fn.val = 0 →
    exec (.regAccess fn off 8) s = .next (emit s (.completion fn.val none))) ∧
  (∀ (s : State) (off : BitVec 38), bar2Served s = true → s.fe.hang = none → s.hst.fullView = true → rget s Reg.bar2View = 0 →
    (∀ n, off.toNat + n ≤ dpaLimit → s.defects.failed = [] → s.lostBursts = [] → (∀ i, (getS s i).wc = [] ∧ (getS s i).steps = []) →
      ∃ t, exec (.bar2Read 0 off n) s = .next t ∧
        t.out = .completion 0 (some ((List.range n).map (fun i => nget 0 s.mem (off.toNat + i)))) :: s.out ∧ t.mem = s.mem) ∧
    ∀ (data : Bytes) t, off.toNat + data.length ≤ dpaLimit → data ≠ [] → bar2InRange s 0 off.toNat data.length true = true →
      (tableHolding s off.toNat = some t →
        exec (.bar2Write 0 off data) s = .next (logErr s Err.tableWrite 0xFF off.toNat (tHandle t.desc))) ∧
      ((∀ i, i < data.length → tableHolding s (off.toNat + i) = none) → off.toNat % 256 + data.length ≤ 256 →
        exec (.bar2Write 0 off data) s = .next (wcWrite s 0 (off.toNat / 256) (off.toNat % 256) data))) ∧
  ∀ (s : State) (fn : Tenant) (rate : BitVec 4) (width : BitVec 5),
    (∃ t, exec (.poisonedWrite fn) s = .next t ∧ (fnConfig t fn.val).uncorrectable = (fnConfig s fn.val).uncorrectable + 1 ∧
      t = { s with hst := { s.hst with config := t.hst.config } } ∧ ∀ g, g ≠ fn.val → fnConfig t g = fnConfig s g) ∧
    ∃ t, exec (.pcieLinkUp rate width) s = .next t ∧ t.hst.linkUp = true ∧ t.hst.width = width ∧
      (t.hst.rate = if 1 ≤ rate.toNat ∧ rate.toNat ≤ 3 then rate else 0) ∧ t.glb.conds.getLsbD 0 = !linkGood rate width

/-- Every control-core word has an encoding. The 256 bits that encode a well-formed word decode to it, every operand at
every value its encoding admits; and 256 bits that decode to a word are that word's encoding, so that no two
encodings mean the same word. (Derived from 05_control_core.md Table Core-3, 05_control_core.md Table Core-4,
05_control_core.md Table Core-5, 05_control_core.md Table Core-7.) -/
def Obligations.CoreWordsDecodeAsEncoded : Prop :=
  (∀ (i : Instr), (coreWord i).isSome = true → (encodeWord i).isSome = true) ∧
  (∀ (i : Instr) (n : Nat), i.wf = true → encodeWord i = some n → n < 2 ^ 256 ∧ ∃ k, decodeWord k n = some i) ∧
  ∀ (k : Skein) (n : Nat) (i : Instr), n < 2 ^ 256 → decodeWord k n = some i → encodeWord i = some n

/-- The 32 bits that encode a strand word decode to it, every operand at every value its encoding admits; and 32 bits
that decode to a strand word are that word's encoding. (Derived from 06_matrix_vector.md Table Matrix-6,
06_matrix_vector.md Table Matrix-7, R183.) -/
def Obligations.StrandWordsDecodeAsEncoded : Prop :=
  (∀ (i : Instr) (n : Nat), encodeStrand i = some n → n < 2 ^ 32 ∧ ∃ k j, decodeStrand k j n = some i) ∧
  ∀ (k : Skein) (j : Strand) (n : Nat) (i : Instr), n < 2 ^ 32 → decodeStrand k j n = some i → encodeStrand i = some n

/-- The MMAC word of Table Core-13, given as its four quarters, decodes to the field values of Table Core-12. Words laid
out from the opcode tables decode to ADD X3, X1, X2, to ENDL, to the FP32 VADD V1, V2, V3 and to the strand END.
(Derived from 05_control_core.md Table Core-12, 05_control_core.md Table Core-13, 05_control_core.md Table Core-7,
06_matrix_vector.md Table Matrix-6, 06_matrix_vector.md Table Matrix-7.) -/
def Obligations.WordsWrittenOutFromTheSpecDecode : Prop :=
  let h : Hdr := { pred := 0, pneg := false, rnd := 0, fmask := 0x3F, sat := false, scale := 0, fd := 0, fa := 2, fb := 2, fc := 0 }
  let plain : Hdr := { pred := 0, pneg := false, rnd := 0, fmask := 0, sat := false, scale := 0, fd := 0, fa := 0, fb := 0, fc := 0 }
  let t8 : Opd := { kind := false, trans := false, base := 8, stride := 0 }
  let a : Opd := { kind := true, trans := false, base := 0x200000, stride := 160 }
  let b : Opd := { kind := true, trans := false, base := 0x14000, stride := 64 }
  decodeWord 0 (0x00000220003F0041 + 0x00000020004F1F3F * 2 ^ 64 + 0x000100A080000100 * 2 ^ 128 + 0x0000000020004005 * 2 ^ 192) =
    some (.mmac 0 { hdr := h, mm1 := 63, nm1 := 31, km1 := 79, engine := 0, d := t8, a := a, b := b, c := t8 }) ∧
  decodeWord 0 (0x01 + (3 + 1 * 2 ^ 6 + 2 * 2 ^ 12) * 2 ^ 64) = some (.add 0 { hdr := plain, sd := 3, sa := 1, sb := 2, imm := 0 }) ∧
  decodeWord 0 0x27 = some (.endl 0 { hdr := plain, sd := 0, sa := 0, sb := 0, imm := 0 }) ∧
  decodeStrand 0 0 (4 + 1 * 2 ^ 17 + 2 * 2 ^ 20 + 3 * 2 ^ 23) =
    some (.vadd 0 0 { fmt := 0, rnd := 0, vd := 1, va := 2, vb := 3, vc := 0 }) ∧
  decodeStrand 0 0 0xA = some (.strandEnd 0 0 { xd := 0, imm := 0 })

/-- For every state whose device memory is in canonical form (addresses strictly rising, no byte listed at the value an
unlisted one reads), if a step answers a next state, that state's device memory is in canonical form: equal memories
stay equal data whatever command runs. (Derived from 07_memory.md R195, 07_memory.md R208, 17_bringup.md Table
Boot-6.) -/
def Obligations.StepKeepsDeviceMemoryCanonical : Prop :=
  ∀ (s t : State), Memory.wf s.mem = true → step s = .next t → Memory.wf t.mem = true

/-- Whatever command runs, from whatever state: the security counter in the fuses is at least what it was (COMMIT-SVN
alone raises it, Table Boot-8), and the key digests, the revocation bits and the factory map are unchanged. (Derived
from R541, 17_bringup.md Table Boot-8, R521.) -/
def Obligations.StepNeverLowersTheSecurityCounter : Prop :=
  ∀ (s t : State), step s = .next t → s.fuses.counter ≤ t.fuses.counter ∧ t.fuses.keys = s.fuses.keys ∧
    t.fuses.revoked = s.fuses.revoked ∧ t.fuses.map = s.fuses.map

/-- After a full device reset: phase ROM, no command waiting, epoch 0 with a head of 32 zero bytes, launch numbering at
ID 1, device time 0 and FREE-RUNNING, an empty error log whose first entry is number 1, every logical skein absent,
no port up, memory with nothing listed and in canonical form, and every register field at the reset value of its
table row. (Derived from R278, R340, R567, R564, R578, R523, 20_registers.md Table Reg-2, 20_registers.md Table
Reg-6.) -/
def Obligations.ResetLeavesTheSpecifiedState : Prop :=
  let s := State.reset
  s.pending = [] ∧ s.glb.phase = 0 ∧ s.glb.locked = false ∧ s.fe.epoch = 0 ∧ s.fe.head = List.replicate 32 0 ∧ s.fe.nextId = 1 ∧
  s.fe.polling = false ∧ s.clk.time = 0 ∧ s.clk.quality = 2 ∧ s.tlm.next = 1 ∧ s.tlm.log = [] ∧ s.tlm.drop = 0 ∧
  s.weave.lsm = List.replicate 128 0xFF ∧ (∀ p, p < 8 → (getP s p).mode = .down) ∧ s.jrn.arena.state = 0 ∧ s.launches = [] ∧
  s.mem = [] ∧ Memory.wf s.mem = true ∧ ∀ f i, rget s f i = f.reset

/-- Every address of the striped view names a place inside the 8 stacks, 30 pseudo-channels, 16 banks and 49,152 rows of
1 KiB, the place names that address again, and every such place has an address; the direct view names the same
bytes. Of a bank-resident table with a row size of 64 to 1,024 bytes, each row lies inside one DRAM row, and two
rows never share a byte. (Derived from R195, R196, R197, R198.) -/
def Obligations.DeviceAddressesAreOneToOne : Prop :=
  (∀ a, a < dpaLimit → stripedOf (stripedLoc a) = a ∧
    let p := stripedLoc a
    p.stack < 8 ∧ p.lpc < 30 ∧ p.bank < 16 ∧ p.row < 49152 ∧ p.byte < 1024) ∧
  (∀ p : Loc, p.stack < 8 → p.lpc < 30 → p.bank < 16 → p.row < 49152 → p.byte < 1024 →
    stripedLoc (stripedOf p) = p ∧ stripedOf p < dpaLimit ∧
    dpaStriped (2 ^ 47 + p.stack * 2 ^ 35 + p.lpc * 2 ^ 30 + p.bank * 2 ^ 26 + p.row * 2 ^ 10 + p.byte) = some (stripedOf p)) ∧
  (∀ a, dpaLimit ≤ a → a < 2 ^ 47 → dpaStriped a = none) ∧
  ∀ (e base i j : Nat), 6 ≤ e → e ≤ 10 →
    let p := rowLoc (2 ^ e) base i
    let q := rowLoc (2 ^ e) base j
    p.stack < 8 ∧ p.lpc < 30 ∧ p.bank < 16 ∧ p.byte + 2 ^ e ≤ 1024 ∧
    (i ≠ j → p.stack ≠ q.stack ∨ p.lpc ≠ q.lpc ∨ p.bank ≠ q.bank ∨ p.row ≠ q.row ∨
      p.byte + 2 ^ e ≤ q.byte ∨ q.byte + 2 ^ e ≤ p.byte)

/-- On an UP port with no power-fail sequence, whose first group key the partner shares: a frame of at most 2,048 bytes
of payload, sealed under the link key of a key epoch that is neither older than the last one nor more than 2^20
ahead, with a transmission counter above the last one, passes every check, and opening it gives the payload that was
sealed. It is 52 bytes longer than its payload. (Derived from R401, R402, R403, R404, R407.) -/
def Obligations.FramesOpenAsTheyWereSealed : Prop :=
  ∀ (s : State) (p : Port) (gk payload : Bytes) (kind flags sender receiver seq counter epoch : Nat),
    let q := getP s p.val
    let h := frameHeader kind flags sender receiver seq counter epoch payload.length
    let frame := sealFrame (linkKey gk epoch q.partner (ownMember s) q.theirs q.own) h payload
    frame.length = payload.length + 52 ∧ crcOk frame = true ∧
    (q.mode = .up → s.jrn.powerFail = false → (groupKeys s).head? = some gk → kind < 256 → payload.length ≤ 2048 →
      counter < 2 ^ 64 → epoch < 2 ^ 64 → q.keyEpoch ≤ epoch → epoch ≤ s.fe.epoch.toNat + 2 ^ 20 →
      (∀ c, q.rxCount = some c → c < counter) → FrameAccepted s p.val kind frame payload)

/-- The model's choice (log 4): with nothing commanded, a step is one idle microsecond. On a powered module device time
goes on by one microsecond in picoseconds, plus what it slews (at most 100 ppm), less what it absorbs of a negative
step (at most 500 ppm), and the parts slewed and absorbed are taken off what is left; device time never decreases.
The counters of SCLK, FCLK and MCLK cycles count them, modulo 2^48. An unpowered die counts nothing. (Derived from
R564, R573, R581, 20_registers.md Table Reg-11.) -/
def Obligations.IdleMicrosecondRunsTheClocks : Prop :=
  ∀ (s : State), s.pending = [] → ∃ t, step s = .next t ∧ t.clk.elapsed = s.clk.elapsed + 1000 ∧ t.mem = s.mem ∧
    t.launches = s.launches ∧ t.pending = [] ∧
    (s.mdl.powered = false → t = { s with clk := { s.clk with elapsed := s.clk.elapsed + 1000 } }) ∧
    (s.mdl.powered = true →
      let slewed : Int := max (-100) (min 100 s.clk.slew)
      let absorbed := min 500 s.clk.debt
      let ps : Int := s.clk.frac + 1000000 + slewed - absorbed
      (s.clk.time.toNat + ps / 1000 < 2 ^ 64 → (t.clk.time.toNat : Int) = s.clk.time.toNat + ps / 1000) ∧
      s.clk.time.toNat ≤ t.clk.time.toNat ∧ t.clk.slew = s.clk.slew - slewed ∧ t.clk.debt = s.clk.debt - absorbed ∧
      nget 0 t.tlm.counters 0 = (nget 0 s.tlm.counters 0 + if skeinsSlow s then 1050 else 1750) % 2 ^ 48 ∧
      nget 0 t.tlm.counters 1 = (nget 0 s.tlm.counters 1 + if s.clk.holdover then 1350 else 1500) % 2 ^ 48 ∧
      nget 0 t.tlm.counters 2 = (nget 0 s.tlm.counters 2 + if stacksSlow s then 720 else 1200) % 2 ^ 48)
end

