-- ==== Sys2Proof/Laws/Bytes.lean ====
section
/-! SUPPORT. Reading back what byte strings were made of: lengths, little-endian numbers, slices of joined strings. -/

namespace Sys2Proof.Machine

@[simp] theorem length_leBytes (n v : Nat) : (leBytes n v).length = n := by
  induction n generalizing v with
  | zero => rfl
  | succ n ih => simp [leBytes, ih]

@[simp] theorem length_beBytes (n v : Nat) : (beBytes n v).length = n := by simp [beBytes]

@[simp] theorem length_zeros (n : Nat) : (zeros n).length = n := by simp [zeros]

/-- A little-endian string read back is the number modulo its width. -/
theorem leNat_leBytes (n v : Nat) : leNat (leBytes n v) = v % 256 ^ n := by
  induction n generalizing v with
  | zero => simp [leBytes, leNat, Nat.mod_one]
  | succ n ih =>
    simp only [leBytes, leNat, ih, BitVec.toNat_ofNat]
    rw [show (256 : Nat) ^ (n + 1) = 256 * 256 ^ n by rw [Nat.pow_succ, Nat.mul_comm], Nat.mod_mul]

theorem leNat_lt (b : Bytes) : leNat b < 256 ^ b.length := by
  induction b with
  | nil => simp [leNat]
  | cons x b ih =>
    have := x.isLt
    simp only [leNat, List.length_cons, Nat.pow_succ]
    omega

/-- The number of a string written back is the string. -/
theorem leBytes_leNat (b : Bytes) : leBytes b.length (leNat b) = b := by
  induction b with
  | nil => rfl
  | cons x b ih =>
    have hx := x.isLt
    have h2 : (x.toNat + 256 * leNat b) / 256 = leNat b := by omega
    simp only [List.length_cons, leBytes, leNat, h2, ih]
    congr 1
    apply BitVec.eq_of_toNat_eq
    simp only [BitVec.toNat_ofNat]
    omega

@[simp] theorem length_fit (n : Nat) (b : Bytes) : (fit n b).length = n := by
  simp [fit]
  omega

theorem fit_self (b : Bytes) : fit b.length b = b := by simp [fit, zeros]

theorem length_slice {b : Bytes} {off n : Nat} (h : off + n ≤ b.length) : (slice b off n).length = n := by
  simp [slice]
  omega

/-- A slice inside the first of two strings. -/
theorem slice_append_left {a : Bytes} (b : Bytes) {off n : Nat} (h : off + n ≤ a.length) :
    slice (a ++ b) off n = slice a off n := by
  unfold slice
  rw [List.drop_append_of_le_length (by omega), List.take_append_of_le_length (by simp; omega)]

/-- A slice inside the second of two strings. -/
theorem slice_append_right (a b : Bytes) {off n : Nat} : slice (a ++ b) (a.length + off) n = slice b off n := by
  unfold slice
  rw [List.drop_append, List.drop_eq_nil_of_le (by omega), List.nil_append, Nat.add_sub_cancel_left]

/-- The whole of the second of two strings. -/
theorem slice_append_self (a b : Bytes) : slice (a ++ b) a.length b.length = b := by
  simp [slice]

theorem fld_append_left {a : Bytes} (b : Bytes) {off n : Nat} (h : off + n ≤ a.length) : fld (a ++ b) off n = fld a off n := by
  simp [fld, slice_append_left b h]

/-- A field that is the whole of the middle string. -/
theorem fld_at (a b c : Bytes) {off n : Nat} (ha : a.length = off) (hb : b.length = n) : fld (a ++ b ++ c) off n = leNat b := by
  subst ha hb
  unfold fld
  rw [slice_append_left c (by simp), slice_append_self]

theorem fld_lt (b : Bytes) (off n : Nat) : fld b off n < 256 ^ n := by
  have h1 := leNat_lt (slice b off n)
  have h2 : (slice b off n).length ≤ n := by simp [slice] <;> omega
  exact Nat.lt_of_lt_of_le h1 (Nat.pow_le_pow_right (by omega) h2)

end Sys2Proof.Machine
end

