-- ==== Sys2Proof/Laws/Crypto.lean ====
section
/-! SUPPORT. Sealing and opening are inverse, and a frame's CRC checks. -/

namespace Sys2Proof.Machine

theorem mem_pieces_length (n : Nat) : ∀ (fuel : Nat) (b : Bytes), n ∣ b.length → ∀ w ∈ pieces n fuel b, w.length = n := by
  intro fuel
  induction fuel with
  | zero => intro b _ w hw; simp [pieces] at hw
  | succ fuel ih =>
    intro b hd w hw
    cases b with
    | nil => simp [pieces] at hw
    | cons x b =>
      have hle : n ≤ (x :: b).length := Nat.le_of_dvd (by simp) hd
      simp only [pieces, List.mem_cons] at hw
      rcases hw with rfl | hw
      · rw [List.length_take]; omega
      · refine ih _ ?_ w hw
        rw [List.length_drop]
        exact Nat.dvd_sub hd (Nat.dvd_refl n)

theorem length_pieces (n : Nat) (hn : 0 < n) : ∀ (k fuel : Nat) (b : Bytes), b.length = k * n → k < fuel → (pieces n fuel b).length = k := by
  intro k
  induction k with
  | zero =>
    intro fuel b hb hf
    have : b = [] := List.length_eq_zero_iff.1 (by simpa using hb)
    subst this
    cases fuel <;> simp [pieces]
  | succ k ih =>
    intro fuel b hb hf
    cases fuel with
    | zero => omega
    | succ fuel =>
      cases b with
      | nil => exfalso; rw [Nat.succ_mul] at hb; simp at hb; omega
      | cons x b =>
        simp only [pieces, List.length_cons]
        rw [ih fuel _ ?_ (by omega)]
        rw [List.length_drop, hb, Nat.succ_mul]; omega

/-- Every word of the key schedule has four bytes. -/
theorem aesSched_words : ∀ (n i rc : Nat) (ws : List (List Nat)), 8 ≤ ws.length → (∀ w ∈ ws, w.length = 4) →
    (aesSched n i rc ws).length = ws.length + n ∧ ∀ w ∈ aesSched n i rc ws, w.length = 4 := by
  intro n
  induction n with
  | zero => intro i rc ws _ hw; exact ⟨by simp [aesSched], by simpa [aesSched] using hw⟩
  | succ n ih =>
    intro i rc ws h8 hw
    have hprev : (ws.headD []).length = 4 := by
      cases ws with
      | nil => simp at h8
      | cons w ws => exact hw w (by simp)
    have hold : (ws.getD 7 []).length = 4 := by
      have : 7 < ws.length := by omega
      rw [List.getD_eq_getElem?_getD, List.getElem?_eq_getElem this, Option.getD_some]
      exact hw _ (List.getElem_mem this)
    have hrot : ((ws.headD []).drop 1 ++ (ws.headD []).take 1).length = 4 := by
      rw [List.length_append, List.length_drop, List.length_take, hprev]; rfl
    unfold aesSched
    have key : ∀ t : List Nat, t.length = 4 → (List.zipWith (· ^^^ ·) (ws.getD 7 []) t).length = 4 := by
      intro t ht; simp only [List.length_zipWith, hold, ht, Nat.min_self]
    have ht : (if i % 8 = 0 then
        match (ws.headD []).drop 1 ++ (ws.headD []).take 1 with
        | x :: r => (subByte x ^^^ rc) :: r.map subByte
        | [] => []
      else if i % 8 = 4 then (ws.headD []).map subByte else ws.headD [] : List Nat).length = 4 := by
      split
      · split
        · rename_i x r hxr
          rw [hxr] at hrot
          simpa using hrot
        · rename_i hxr
          rw [hxr] at hrot
          simp at hrot
      · split
        · rw [List.length_map, hprev]
        · exact hprev
    have := ih (i + 1) (if i % 8 = 0 then xtime rc else rc) ((List.zipWith (· ^^^ ·) (ws.getD 7 []) (if i % 8 = 0 then
        match (ws.headD []).drop 1 ++ (ws.headD []).take 1 with
        | x :: r => (subByte x ^^^ rc) :: r.map subByte
        | [] => []
      else if i % 8 = 4 then (ws.headD []).map subByte else ws.headD [])) :: ws) (by simp; omega) ?_
    · refine ⟨?_, this.2⟩
      exact this.1.trans (by rw [List.length_cons]; omega)
    · intro w hm
      rcases List.mem_cons.1 hm with rfl | hm
      · exact key _ ht
      · exact hw w hm

theorem length_flatten_of_mem (c : Nat) (l : List (List Nat)) (h : ∀ w ∈ l, w.length = c) : l.flatten.length = l.length * c := by
  induction l with
  | nil => simp
  | cons w l ih =>
    have h1 := h w (by simp)
    have h2 := ih (fun x hx => h x (by simp [hx]))
    simp only [List.flatten_cons, List.length_append, List.length_cons, h1, h2, Nat.succ_mul]
    omega

/-- The last round key has 16 bytes. -/
theorem aesKeys_last (key : Bytes) : ((aesKeys key).getD 14 []).length = 16 := by
  have hk : (fit 32 key).length = 8 * 4 := by simp
  have hp : (chunksOf 4 (fit 32 key)).length = 8 := length_pieces 4 (by omega) 8 _ _ hk (by simp)
  have hm : ∀ w ∈ chunksOf 4 (fit 32 key), w.length = 4 := mem_pieces_length 4 _ _ (by simp)
  have hs := aesSched_words 52 8 1 ((chunksOf 4 (fit 32 key)).map (fun w => w.map BitVec.toNat)).reverse (by simp [hp]) (by
    intro w hw
    simp only [List.mem_reverse, List.mem_map] at hw
    obtain ⟨v, hv, rfl⟩ := hw
    simpa using hm v hv)
  have hf : ((aesSched 52 8 1 ((chunksOf 4 (fit 32 key)).map (fun w => w.map BitVec.toNat)).reverse).reverse).flatten.length = 240 := by
    rw [length_flatten_of_mem 4 _ (by intro w hw; exact hs.2 w (List.mem_reverse.1 hw))]
    rw [List.length_reverse, hs.1, List.length_reverse, List.length_map, hp]
  unfold aesKeys
  simp only [List.getD_eq_getElem?_getD]
  rw [List.getElem?_map, List.getElem?_range (by omega)]
  simp only [Option.map_some, Option.getD_some, List.length_take, List.length_drop, hf]
  omega

theorem length_aesBlock (key b : Bytes) : (aesBlock (aesKeys key) b).length = 16 := by
  simp only [aesBlock, shiftRows, List.length_map, List.length_zipWith, List.length_range, aesKeys_last, Nat.min_self]

theorem length_ctrStream (key nonce : Bytes) : ∀ n i, (ctrStream (aesKeys key) nonce n i).length = 16 * n := by
  intro n
  induction n with
  | zero => intro i; simp [ctrStream]
  | succ n ih => intro i; simp [ctrStream, length_aesBlock, ih]; omega

@[simp] theorem length_gcmCrypt (key nonce text : Bytes) : (gcmCrypt (aesKeys key) nonce text).length = text.length := by
  simp only [gcmCrypt, List.length_zipWith, length_ctrStream]
  omega

theorem zipWith_xor_twice : ∀ (a k : Bytes), a.length ≤ k.length →
    List.zipWith (· ^^^ ·) (List.zipWith (· ^^^ ·) a k) k = a := by
  intro a
  induction a with
  | nil => intro k _; simp
  | cons x a ih =>
    intro k h
    cases k with
    | nil => simp at h
    | cons y k =>
      simp only [List.length_cons] at h
      simp only [List.zipWith_cons_cons, ih k (by omega), List.cons.injEq, and_true]
      rw [BitVec.xor_assoc, BitVec.xor_self, BitVec.xor_zero]

/-- Counter mode undoes itself. -/
theorem gcmCrypt_twice (key nonce text : Bytes) : gcmCrypt (aesKeys key) nonce (gcmCrypt (aesKeys key) nonce text) = text := by
  have hl : (gcmCrypt (aesKeys key) nonce text).length = text.length := length_gcmCrypt ..
  show List.zipWith (· ^^^ ·) (gcmCrypt (aesKeys key) nonce text)
    (ctrStream (aesKeys key) nonce ((gcmCrypt (aesKeys key) nonce text).length / 16 + 1) 2) = text
  rw [hl]
  exact zipWith_xor_twice _ _ (by rw [length_ctrStream]; omega)

/-- Opening gives what was sealed. -/
theorem gcmOpen_gcmSeal (key nonce aad plain : Bytes) :
    gcmOpen key nonce aad (gcmSeal key nonce aad plain).1 (gcmSeal key nonce aad plain).2 = some plain := by
  simp [gcmOpen, gcmSeal, gcmCrypt_twice]

@[simp] theorem length_gcmTag (rk : List (List Nat)) (nonce aad text : Bytes) : (gcmTag rk nonce aad text).length = 16 := by
  simp [gcmTag]

@[simp] theorem length_gcmSeal (key nonce aad plain : Bytes) : (gcmSeal key nonce aad plain).1.length = plain.length := by
  simp [gcmSeal]

@[simp] theorem length_gcmSeal_tag (key nonce aad plain : Bytes) : (gcmSeal key nonce aad plain).2.length = 16 := by
  simp [gcmSeal]

theorem crcBits_lt (poly : Nat) (hp : poly < 2 ^ 32) : ∀ (n c : Nat), c < 2 ^ 32 → crcBits poly n c < 2 ^ 32 := by
  intro n
  induction n with
  | zero => intro c h; simpa [crcBits] using h
  | succ n ih =>
    intro c h
    unfold crcBits
    apply ih
    split
    · exact Nat.xor_lt_two_pow (by omega) hp
    · omega

theorem crc32_lt (b : Bytes) : crc32 b < 2 ^ 32 := by
  unfold crc32 crcWith
  refine Nat.xor_lt_two_pow ?_ (by omega)
  suffices ∀ (b : Bytes) (c : Nat), c < 2 ^ 32 → b.foldl (fun c x => crcBits 0xEDB88320 8 (c ^^^ x.toNat)) c < 2 ^ 32 from this b _ (by omega)
  intro b
  induction b with
  | nil => intro c h; simpa using h
  | cons x b ih =>
    intro c h
    exact ih _ (crcBits_lt _ (by omega) _ _ (Nat.xor_lt_two_pow h (by have := x.isLt; omega)))

theorem length_frameHeader (kind flags sender receiver seq counter epoch len : Nat) :
    (frameHeader kind flags sender receiver seq counter epoch len).length = 32 := by
  simp [frameHeader]

/-- The fields of a header read back (R403). -/
theorem frameHeader_fields (kind flags sender receiver seq counter epoch len : Nat) :
    let h := frameHeader kind flags sender receiver seq counter epoch len
    fld h 0 1 = kind % 256 ∧ fld h 1 1 = flags % 256 ∧ fld h 2 1 = sender % 256 ∧ fld h 4 3 = seq % 2 ^ 24 ∧
    fld h 8 8 = counter % 2 ^ 64 ∧ fld h 16 8 = epoch % 2 ^ 64 ∧ fld h 24 2 = len % 65536 := by
  have go : ∀ (a b c : Bytes) (off n v : Nat), frameHeader kind flags sender receiver seq counter epoch len = a ++ b ++ c →
      a.length = off → b.length = n → leNat b = v → fld (frameHeader kind flags sender receiver seq counter epoch len) off n = v := by
    intro a b c off n v he ha hb hv
    rw [he, fld_at a b c ha hb, hv]
  refine ⟨?_, ?_, ?_, ?_, ?_, ?_, ?_⟩
  · exact go [] (leBytes 1 kind) _ _ _ _ (by simp only [frameHeader, List.nil_append, List.append_assoc]; rfl) (by simp) (by simp) (leNat_leBytes _ _)
  · exact go (leBytes 1 kind) (leBytes 1 flags) _ _ _ _ (by simp only [frameHeader, List.append_assoc]; rfl) (by simp) (by simp) (leNat_leBytes _ _)
  · exact go (leBytes 1 kind ++ leBytes 1 flags) (leBytes 1 sender) _ _ _ _ (by simp only [frameHeader, List.append_assoc]; rfl) (by simp) (by simp)
      (leNat_leBytes _ _)
  · exact go (leBytes 1 kind ++ leBytes 1 flags ++ leBytes 1 sender ++ leBytes 1 receiver) (leBytes 3 seq) _ _ _ _
      (by simp only [frameHeader, List.append_assoc]; rfl) (by simp) (by simp) (leNat_leBytes _ _)
  · exact go (leBytes 1 kind ++ leBytes 1 flags ++ leBytes 1 sender ++ leBytes 1 receiver ++ leBytes 3 seq ++ zeros 1) (leBytes 8 counter) _ _ _ _
      (by simp only [frameHeader, List.append_assoc]; rfl) (by simp) (by simp) (leNat_leBytes _ _)
  · exact go (leBytes 1 kind ++ leBytes 1 flags ++ leBytes 1 sender ++ leBytes 1 receiver ++ leBytes 3 seq ++ zeros 1 ++ leBytes 8 counter)
      (leBytes 8 epoch) _ _ _ _ (by simp only [frameHeader, List.append_assoc]; rfl) (by simp) (by simp) (leNat_leBytes _ _)
  · exact go (leBytes 1 kind ++ leBytes 1 flags ++ leBytes 1 sender ++ leBytes 1 receiver ++ leBytes 3 seq ++ zeros 1 ++ leBytes 8 counter ++
      leBytes 8 epoch) (leBytes 2 len) _ _ _ _ (by simp only [frameHeader, List.append_assoc]; rfl) (by simp) (by simp) (leNat_leBytes _ _)

/-- A field of a frame's header is a field of the frame. -/
theorem fld_sealFrame (k h p : Bytes) (hh : h.length = 32) {off n : Nat} (ho : off + n ≤ 32) : fld (sealFrame k h p) off n = fld h off n := by
  unfold sealFrame
  simp only [List.append_assoc]
  exact fld_append_left _ (by omega)

theorem length_sealFrame (k h p : Bytes) (hh : h.length = 32) : (sealFrame k h p).length = p.length + 52 := by
  simp only [sealFrame, List.length_append, length_gcmSeal, length_gcmSeal_tag, length_leBytes, hh]
  omega

/-- Four bytes of CRC-32 after a string check. -/
theorem crc32_appended (f : Bytes) : fld (f ++ leBytes 4 (crc32 f)) f.length 4 = crc32 f := by
  have h := slice_append_self f (leBytes 4 (crc32 f))
  rw [length_leBytes] at h
  have hc := crc32_lt f
  rw [fld, h, leNat_leBytes]
  omega

/-- A string with its CRC appended passes the check. -/
theorem crcOk_appended (f : Bytes) (hf : 48 ≤ f.length) : crcOk (f ++ leBytes 4 (crc32 f)) = true := by
  have hl : (f ++ leBytes 4 (crc32 f)).length = f.length + 4 := by simp
  unfold crcOk
  rw [hl, Nat.add_sub_cancel, List.take_left, crc32_appended]
  simp only [decide_true, Bool.and_true, decide_eq_true_eq]
  omega

/-- A sealed frame passes the CRC check. -/
theorem crcOk_sealFrame (k h p : Bytes) (hh : h.length = 32) : crcOk (sealFrame k h p) = true :=
  crcOk_appended _ (by simp only [List.length_append, length_gcmSeal_tag, hh]; omega)

/-- A sealed frame's payload opens under its key. -/
theorem gcmOpen_sealFrame (k h p : Bytes) (hh : h.length = 32) :
    gcmOpen (k.take 32) (k.drop 32 ++ slice h 8 8) ((sealFrame k h p).take 32) (slice (sealFrame k h p) 32 p.length)
      (slice (sealFrame k h p) (32 + p.length) 16) = some p := by
  have h1 : (sealFrame k h p).take 32 = h := by
    unfold sealFrame
    simp only [List.append_assoc]
    rw [← hh, List.take_left]
  have h2 : slice (sealFrame k h p) 32 p.length = (gcmSeal (k.take 32) (k.drop 32 ++ slice h 8 8) h p).1 := by
    unfold sealFrame
    simp only [List.append_assoc]
    have := slice_append_right h ((gcmSeal (k.take 32) (k.drop 32 ++ slice h 8 8) h p).1 ++
      ((gcmSeal (k.take 32) (k.drop 32 ++ slice h 8 8) h p).2 ++ leBytes 4 (crc32 (h ++ ((gcmSeal (k.take 32) (k.drop 32 ++ slice h 8 8) h p).1 ++
        (gcmSeal (k.take 32) (k.drop 32 ++ slice h 8 8) h p).2))))) (off := 0) (n := p.length)
    rw [hh] at this
    rw [this, slice_append_left _ (by simp), slice, List.drop_zero]
    conv => lhs; rw [← length_gcmSeal (k.take 32) (k.drop 32 ++ slice h 8 8) h p]
    exact List.take_length
  have h3 : slice (sealFrame k h p) (32 + p.length) 16 = (gcmSeal (k.take 32) (k.drop 32 ++ slice h 8 8) h p).2 := by
    have hl : (h ++ (gcmSeal (k.take 32) (k.drop 32 ++ slice h 8 8) h p).1).length = 32 + p.length := by simp [hh]
    unfold sealFrame
    simp only []
    rw [slice_append_left _ (by simp [hh]; omega), ← hl]
    have := slice_append_self (h ++ (gcmSeal (k.take 32) (k.drop 32 ++ slice h 8 8) h p).1) (gcmSeal (k.take 32) (k.drop 32 ++ slice h 8 8) h p).2
    rwa [length_gcmSeal_tag] at this
  rw [h1, h2, h3, gcmOpen_gcmSeal]

end Sys2Proof.Machine
end

