-- ==== Sys2Proof/Laws/Store.lean ====
section
/-! SUPPORT. Laws of the sparse maps and number sets: what a write changes, and that every operation keeps the form. -/

namespace Sys2Proof.Machine

variable {α : Type} [DecidableEq α] {d : α}

/-! ### The canonical form -/

@[simp] theorem nwfFrom_nil (lo : Nat) : nwfFrom d lo [] = true := rfl

@[simp] theorem nwfFrom_cons (lo k : Nat) (v : α) (m : NMap α) :
    nwfFrom d lo ((k, v) :: m) = true ↔ lo ≤ k ∧ v ≠ d ∧ nwfFrom d (k + 1) m = true := by
  simp [nwfFrom, and_assoc]

theorem nwfFrom_mono {lo lo' : Nat} (h : lo' ≤ lo) : ∀ {m : NMap α}, nwfFrom d lo m = true → nwfFrom d lo' m = true
  | [], _ => rfl
  | (k, v) :: m, hm => by
    rw [nwfFrom_cons] at hm ⊢
    exact ⟨Nat.le_trans h hm.1, hm.2⟩

theorem nins_wfFrom {v : α} (hv : v ≠ d) : ∀ {m : NMap α} {lo k : Nat}, lo ≤ k → nwfFrom d lo m = true →
    nwfFrom d lo (nins k v m) = true
  | [], lo, k, hk, _ => by simp [nins, hv, hk]
  | (k', v') :: m, lo, k, hk, hm => by
    rw [nwfFrom_cons] at hm
    obtain ⟨h1, h2, h3⟩ := hm
    unfold nins
    split
    · rename_i hlt
      exact (nwfFrom_cons ..).2 ⟨hk, hv, (nwfFrom_cons ..).2 ⟨hlt, h2, h3⟩⟩
    · split
      · rename_i _ heq
        subst heq
        exact (nwfFrom_cons ..).2 ⟨hk, hv, h3⟩
      · exact (nwfFrom_cons ..).2 ⟨h1, h2, nins_wfFrom hv (by omega) h3⟩

theorem filter_wfFrom (p : Nat × α → Bool) : ∀ {m : NMap α} {lo : Nat}, nwfFrom d lo m = true →
    nwfFrom d lo (m.filter p) = true
  | [], _, h => h
  | (k, v) :: m, lo, h => by
    rw [nwfFrom_cons] at h
    rw [List.filter_cons]
    split
    · exact (nwfFrom_cons ..).2 ⟨h.1, h.2.1, filter_wfFrom p h.2.2⟩
    · exact nwfFrom_mono (by omega) (filter_wfFrom p h.2.2)

/-- Leaving entries out keeps the canonical form. -/
theorem filter_wf (p : Nat × α → Bool) {m : NMap α} (h : nwf d m = true) : nwf d (m.filter p) = true :=
  filter_wfFrom p h

theorem nput_wfFrom {v : α} {m : NMap α} {lo k : Nat} (hk : lo ≤ k) (h : nwfFrom d lo m = true) :
    nwfFrom d lo (nput d m k v) = true := by
  unfold nput
  split
  · exact filter_wfFrom _ h
  · rename_i hv
    exact nins_wfFrom hv hk h

/-- A write keeps the canonical form. -/
theorem nput_wf {m : NMap α} (h : nwf d m = true) (k : Nat) (v : α) : nwf d (nput d m k v) = true :=
  nput_wfFrom (Nat.zero_le _) h

/-- A write of a string keeps the canonical form. -/
theorem nputs_wf : ∀ (vs : List α) {m : NMap α} (k : Nat), nwf d m = true → nwf d (nputs d m k vs) = true
  | [], _, _, h => h
  | _ :: vs, _, k, h => nputs_wf vs (k + 1) (nput_wf h k _)

/-- A change at one key keeps the canonical form. -/
theorem nmod_wf {m : NMap α} (h : nwf d m = true) (k : Nat) (f : α → α) : nwf d (nmod d m k f) = true :=
  nput_wf h k _

theorem foldl_nput_wf {β : Type} (g : β → Nat × α) : ∀ (l : List β) {m : NMap α}, nwf d m = true →
    nwf d (l.foldl (fun a p => nput d a (g p).1 (g p).2) m) = true
  | [], _, h => h
  | _ :: l, _, h => foldl_nput_wf g l (nput_wf h _ _)

/-- Mapping the listed values gives the canonical form. -/
theorem nmap_wf (f : α → α) (m : NMap α) : nwf d (nmap d f m) = true :=
  foldl_nput_wf (fun p => (p.1, f p.2)) m rfl

/-! ### Reads after writes -/

theorem nget_below : ∀ {m : NMap α} {lo k : Nat}, nwfFrom d lo m = true → k < lo → nget d m k = d
  | [], _, _, _, _ => rfl
  | (k', v) :: m, lo, k, h, hk => by
    rw [nwfFrom_cons] at h
    have : k ≠ k' := by omega
    simp only [nget, this, if_false]
    exact nget_below h.2.2 (by omega)

omit [DecidableEq α] in
theorem nget_nins (k j : Nat) (v : α) : ∀ m : NMap α, nget d (nins k v m) j = if j = k then v else nget d m j
  | [] => by simp [nins, nget]
  | (k', v') :: m => by
    unfold nins
    split
    · rfl
    · split
      · rename_i _ h
        subst h
        by_cases hj : j = k <;> simp [nget, hj]
      · rename_i _ hne
        simp only [nget, nget_nins k j v m]
        by_cases hj : j = k
        · subst hj
          simp [hne]
        · simp [hj]

omit [DecidableEq α] in
theorem nget_filter (k j : Nat) : ∀ m : NMap α,
    nget d (m.filter (fun p => p.1 != k)) j = if j = k then d else nget d m j
  | [] => by simp [nget]
  | (k', v') :: m => by
    rw [List.filter_cons]
    by_cases hk : k' = k
    · subst hk
      simp only [bne_self_eq_false, Bool.false_eq_true, if_false, nget_filter k' j m, nget]
      by_cases hj : j = k' <;> simp [hj]
    · simp only [bne_iff_ne, ne_eq, hk, not_false_eq_true, if_true, nget, nget_filter k j m]
      by_cases hj : j = k
      · subst hj
        have : j ≠ k' := fun h => hk h.symm
        simp [this]
      · simp [hj]

/-- What a key reads after a write: the value written at the key itself, and what it read before anywhere else. -/
theorem nget_nput (m : NMap α) (k j : Nat) (v : α) : nget d (nput d m k v) j = if j = k then v else nget d m j := by
  unfold nput
  split
  · rename_i h
    rw [h, nget_filter]
  · exact nget_nins k j v m

/-- A read after a write to the same key gives the value written. -/
@[simp] theorem nget_nput_self (m : NMap α) (k : Nat) (v : α) : nget d (nput d m k v) k = v := by simp [nget_nput]

/-- A write leaves every other key alone. -/
theorem nget_nput_ne {v : α} {k j : Nat} (hne : j ≠ k) {m : NMap α} : nget d (nput d m k v) j = nget d m j := by
  simp [nget_nput, hne]

/-- What a key reads after a change at one key. -/
theorem nget_nmod (m : NMap α) (k j : Nat) (f : α → α) :
    nget d (nmod d m k f) j = if j = k then f (nget d m k) else nget d m j := nget_nput m k j _

/-- A change at a key is read there. -/
@[simp] theorem nget_nmod_self (m : NMap α) (k : Nat) (f : α → α) : nget d (nmod d m k f) k = f (nget d m k) := by
  simp [nget_nmod]

/-- What a key reads after a string write. -/
theorem nget_nputs (j : Nat) : ∀ (vs : List α) (m : NMap α) (k : Nat),
    nget d (nputs d m k vs) j = if h : k ≤ j ∧ j < k + vs.length then vs[j - k] else nget d m j
  | [], m, k => by
    have h : ¬(k ≤ j ∧ j < k + 0) := by omega
    simp only [nputs, List.length_nil, h, dif_neg, not_false_eq_true]
  | v :: vs, m, k => by
    rw [nputs, nget_nputs j vs, nget_nput]
    by_cases hj : j = k
    · subst hj
      simp <;> omega
    · by_cases hin : k + 1 ≤ j ∧ j < k + 1 + vs.length
      · have hin' : k ≤ j ∧ j < k + (v :: vs).length := by simp; omega
        simp only [hin, and_self, dif_pos, hin']
        have : j - k = (j - (k + 1)) + 1 := by omega
        simp [this]
      · have hout : ¬(k ≤ j ∧ j < k + (v :: vs).length) := by simp; omega
        rw [dif_neg hin, dif_neg hout, if_neg hj]

/-- A string write leaves every key outside it alone. -/
theorem nget_nputs_outside {j : Nat} (vs : List α) {m : NMap α} (k : Nat) (h : j < k ∨ k + vs.length ≤ j) :
    nget d (nputs d m k vs) j = nget d m j := by
  rw [nget_nputs, dif_neg (by omega)]

omit [DecidableEq α] in
theorem ngets_eq (m : NMap α) : ∀ n k : Nat, ngets d m k n = (List.range n).map (fun i => nget d m (k + i))
  | 0, _ => rfl
  | n + 1, k => by
    rw [ngets, ngets_eq m n, List.range_succ_eq_map, List.map_cons, List.map_map]
    congr 1
    apply List.map_congr_left
    intro i _
    simp only [Function.comp_apply]
    congr 1
    omega

/-- A string read back is the string written. -/
theorem ngets_nputs (vs : List α) (m : NMap α) (k : Nat) : ngets d (nputs d m k vs) k vs.length = vs := by
  rw [ngets_eq]
  apply List.ext_getElem
  · simp
  · intro i h1 h2
    have h : k ≤ k + i ∧ k + i < k + vs.length := by omega
    simp only [List.getElem_map, List.getElem_range, nget_nputs, h, and_self, dif_pos, Nat.add_sub_cancel_left]

/-- Two maps in the form that read alike are equal. -/
theorem nwf_ext_from : ∀ {m m' : NMap α} {lo : Nat}, nwfFrom d lo m = true → nwfFrom d lo m' = true →
    (∀ k, nget d m k = nget d m' k) → m = m'
  | [], [], _, _, _, _ => rfl
  | [], (k, v) :: m', _, _, h', hr => by
    rw [nwfFrom_cons] at h'
    exact absurd (by simpa [nget] using (hr k).symm) h'.2.1
  | (k, v) :: m, [], _, h, _, hr => by
    rw [nwfFrom_cons] at h
    exact absurd (by simpa [nget] using hr k) h.2.1
  | (k, v) :: m, (k', v') :: m', lo, h, h', hr => by
    rw [nwfFrom_cons] at h h'
    have hkk : k = k' := by
      rcases Nat.lt_trichotomy k k' with hlt | heq | hgt
      · have h1 := hr k
        have hne : k ≠ k' := by omega
        simp only [nget, if_true, hne, if_false] at h1
        rw [nget_below h'.2.2 (by omega)] at h1
        exact absurd h1 h.2.1
      · exact heq
      · have h1 := hr k'
        have hne : k' ≠ k := by omega
        simp only [nget, if_true, hne, if_false] at h1
        rw [nget_below h.2.2 (by omega)] at h1
        exact absurd h1.symm h'.2.1
    subst hkk
    have hv : v = v' := by simpa [nget] using hr k
    subst hv
    congr 1
    apply nwf_ext_from h.2.2 h'.2.2
    intro j
    by_cases hj : j = k
    · subst hj
      rw [nget_below h.2.2 (by omega), nget_below h'.2.2 (by omega)]
    · simpa [nget, hj] using hr j

/-- Two maps in the form that read alike are equal. -/
theorem nwf_ext {m m' : NMap α} (h : nwf d m = true) (h' : nwf d m' = true) (hr : ∀ k, nget d m k = nget d m' k) : m = m' :=
  nwf_ext_from h h' hr

/-- Writes to different keys commute. -/
theorem nput_comm {m : NMap α} (h : nwf d m = true) {j k : Nat} (hne : j ≠ k) (v w : α) :
    nput d (nput d m j v) k w = nput d (nput d m k w) j v := by
  refine nwf_ext (nput_wf (nput_wf h _ _) _ _) (nput_wf (nput_wf h _ _) _ _) (fun i => ?_)
  simp only [nget_nput]
  by_cases hj : i = j
  · subst hj
    simp [hne]
  · simp [hj]

/-! ### Sets -/

theorem mem_sadd {x y : Nat} : ∀ {s : NSet}, y ∈ sadd s x ↔ y = x ∨ y ∈ s
  | [] => by simp [sadd]
  | z :: s => by
    unfold sadd
    split
    · simp
    · split
      · rename_i _ h
        simp [h]
      · simp only [List.mem_cons, mem_sadd]
        exact or_left_comm

/-- A number added is a member, and nothing else changes. -/
@[simp] theorem smem_sadd (s : NSet) (x y : Nat) : smem (sadd s x) y = (decide (y = x) || smem s y) := by
  simp only [smem, List.contains_eq_mem, mem_sadd]
  by_cases h : y = x <;> simp [h]

@[simp] theorem smem_sdel (s : NSet) (x y : Nat) : smem (sdel s x) y = (decide (y ≠ x) && smem s y) := by
  simp only [smem, sdel, List.contains_eq_mem, List.mem_filter]
  by_cases h : y = x <;> simp [h]

theorem sadd_wfFrom {x : Nat} : ∀ {s : NSet} {lo : Nat}, lo ≤ x → swfFrom lo s = true → swfFrom lo (sadd s x) = true
  | [], lo, h, _ => by simp [sadd, swfFrom, h]
  | y :: s, lo, h, hs => by
    simp only [swfFrom, Bool.and_eq_true, decide_eq_true_eq] at hs
    unfold sadd
    split
    · simp only [swfFrom, Bool.and_eq_true, decide_eq_true_eq]
      exact ⟨h, by omega, hs.2⟩
    · split
      · simp [swfFrom, hs]
      · simp only [swfFrom, Bool.and_eq_true, decide_eq_true_eq]
        exact ⟨hs.1, sadd_wfFrom (by omega) hs.2⟩

end Sys2Proof.Machine
end

