-- ==== Sys2Proof/Laws/Issue.lean ====
section
/-! SUPPORT. What issuing a word does: one lemma for a word that runs, and one for each way in which it does not. -/

namespace Sys2Proof

open Sys2Proof.Machine

variable {s : State} {k : Skein} {x : SkeinCtx} {e : Env} {legal : Bool} {h : Hdr}

theorem issuing_not_held (hi : Issuing s k x e) : (!mayIssue s x.launch || held x.core) = false := by
  simp [hi.2.2.1, hi.2.2.2]

/-- A word that runs: what its unit answers decides. -/
theorem issueWord_ready {f : Env → State → Core → Issued} (hr : Ready s k x e) (hl : legal = true)
    (hg : guardOn x.core h = true) :
    issueWord s k.val legal h f = match f e s (past x.core) with
      | .wait => s
      | .parked (s', _) => s'
      | .fault cause => if x.core.groups.isEmpty then programFault s k.val x.launch x.ex cause x.core.pc else s
      | .done (s', some c) => withCore s' k c
      | .done (s', none) => s' := by
  obtain ⟨hi, hw⟩ := hr
  have hpc : ¬ imageLen e.acc ≤ x.core.pc := by have := hw.1; omega
  have hb : ¬ (wordBudget e.acc (dProg e.l.desc) ≠ 0 ∧ wordBudget e.acc (dProg e.l.desc) ≤ x.core.words) := by
    have := hw.2; omega
  unfold issueWord
  simp only [hi.1, hi.2.1, issuing_not_held hi, hl, hpc, hb, if_false, Bool.not_true, Bool.false_eq_true]
  rw [if_neg (by simpa [guardOn, getPred] using hg)]
  rfl

/-- A word of the launch's own core that runs. -/
theorem issueCore_ready {f : Env → Core → Eff Core} (hr : Ready s k x e) (hl : legal = true)
    (hg : guardOn x.core h = true) :
    issueCore s k.val legal h f = match f e (past x.core) with
      | .wait | .parked _ => s
      | .fault cause => if x.core.groups.isEmpty then programFault s k.val x.launch x.ex cause x.core.pc else s
      | .done c => withCore s k c := by
  unfold issueCore
  rw [issueWord_ready hr hl hg]
  cases f e (past x.core) <;> rfl

/-- A word whose guard is off only counts (R129). -/
theorem issueWord_off {f : Env → State → Core → Issued} (hr : Ready s k x e) (hl : legal = true)
    (hg : guardOn x.core h = false) : issueWord s k.val legal h f = withCore s k (past x.core) := by
  obtain ⟨hi, hw⟩ := hr
  have hpc : ¬ imageLen e.acc ≤ x.core.pc := by have := hw.1; omega
  have hb : ¬ (wordBudget e.acc (dProg e.l.desc) ≠ 0 ∧ wordBudget e.acc (dProg e.l.desc) ≤ x.core.words) := by
    have := hw.2; omega
  unfold issueWord
  simp only [hi.1, hi.2.1, issuing_not_held hi, hl, hpc, hb, if_false, Bool.not_true, Bool.false_eq_true]
  rw [if_pos (by simpa [guardOn, getPred] using hg)]
  rfl

/-- An illegal word is a fault of the skein (R157). -/
theorem issueWord_illegal {f : Env → State → Core → Issued} (hi : Issuing s k x e) (hl : legal = false) :
    issueWord s k.val legal h f = failSkein s k.val := by
  unfold issueWord
  simp only [hi.1, hi.2.1, issuing_not_held hi, hl, if_false, if_true, Bool.not_false, Bool.false_eq_true]

/-- A word past the program image is a program fault. -/
theorem issueWord_pastImage {f : Env → State → Core → Issued} (hi : Issuing s k x e) (hl : legal = true)
    (hq : x.core.groups = []) (hp : imageLen e.acc ≤ x.core.pc) :
    issueWord s k.val legal h f = programFault s k.val x.launch x.ex pfPc x.core.pc := by
  unfold issueWord
  simp only [hi.1, hi.2.1, issuing_not_held hi, hl, hp, hq, List.isEmpty_nil, if_false, if_true, Bool.not_true, Bool.false_eq_true]

/-- A word past the budget is a program fault (R150). -/
theorem issueWord_pastBudget {f : Env → State → Core → Issued} (hi : Issuing s k x e) (hl : legal = true)
    (hq : x.core.groups = []) (hp : x.core.pc < imageLen e.acc) (hb : wordBudget e.acc (dProg e.l.desc) ≠ 0)
    (hw : wordBudget e.acc (dProg e.l.desc) ≤ x.core.words) :
    issueWord s k.val legal h f = programFault s k.val x.launch x.ex pfBudget x.core.pc := by
  have hpc : ¬ imageLen e.acc ≤ x.core.pc := by omega
  unfold issueWord
  simp only [hi.1, hi.2.1, issuing_not_held hi, hl, hpc, hb, hw, hq, List.isEmpty_nil, if_false, if_true, Bool.not_true, Bool.false_eq_true,
    ne_eq, not_false_eq_true, and_self]

/-! ### The running core -/

theorem running_queue {s : State} {k : Nat} {x : SkeinCtx} (h : running s k = some x) :
    ∃ l, (getK s k).queue = x :: l ∧ x.started = true := by
  unfold running at h
  split at h
  · rename_i c l hq
    split at h
    · rename_i hs
      cases h
      exact ⟨l, hq, hs⟩
    · cases h
  · cases h

/-- Changing the core by a function is putting its value there. -/
theorem modCore_running {s : State} {k : Skein} {x : SkeinCtx} (h : running s k.val = some x) (f : Core → Core) :
    modCore s k.val f = withCore s k (f x.core) := by
  obtain ⟨l, hq, _⟩ := running_queue h
  unfold getK at hq
  simp only [withCore, modCore, modK, nmod, hq, updAt]

/-- A unit's event on a running launch. -/
theorem unitStep_running (hr : Running s k x e) (f : Env → Core → Core) :
    unitStep s k.val f = withCore s k (f e x.core) := by
  unfold unitStep
  simp only [hr.1, hr.2]
  exact modCore_running hr.1 (f e)

/-- After a core has been put, the skein runs the same execution with that core. -/
theorem running_withCore {c : Core} (h : running s k.val = some x) :
    running (withCore s k c) k.val = some { x with core := c } := by
  obtain ⟨l, hq, hs⟩ := running_queue h
  unfold running
  have : (getK (withCore s k c) k.val).queue = { x with core := c } :: l := by
    unfold getK at hq
    simp only [withCore, modCore, modK, getK, nget_nmod_self, hq, updAt]
  rw [this]
  simp only [hs, if_true]

/-- Putting a core changes nothing that its scratch layout depends on. -/
theorem envOf_withCore {c c' : Core} : envOf (withCore s k c) { x with core := c' } = envOf s x := rfl

/-- A strand word that runs. -/
theorem issueStrand_ready {i : Strand} {g : Group} {f : StrEnv → Core → StrandSt → Eff (Core × StrandSt)}
    (hr : StrandReady s k i x e g) (hl : legal = true) :
    issueStrand s k.val i.val legal f = match f ⟨e, i.val, g⟩ x.core (strandPast (getStr x.core i.val)) with
      | .wait | .parked _ => s
      | .fault cause => if x.core.groups.any (fun h => decide (h.id < g.id)) then s
          else programFault s k.val x.launch x.ex cause g.pc
      | .done (c, t) => withStrand s k c i t := by
  obtain ⟨hrun, hm, hg, hpc⟩ := hr
  have hp : ¬ strImage e.acc ≤ (getStr x.core i.val).pc := by omega
  unfold issueStrand
  simp only [hrun.1, hrun.2, hg, hm, hl, hp, if_false, Bool.not_true, Bool.false_eq_true]
  rfl

/-- A strand word that changes only the strand. -/
theorem issueLane_ready {i : Strand} {g : Group} {f : StrandSt → StrandSt} (hr : StrandReady s k i x e g)
    (hl : legal = true) :
    issueLane s k.val i.val legal f = withStrand s k x.core i (f (strandPast (getStr x.core i.val))) := by
  unfold issueLane
  rw [issueStrand_ready hr hl]

end Sys2Proof
end

