-- ==== Sys2Proof/Laws/State.lean ====
section
/-! SUPPORT. For each named update of the state, what every field reads afterwards: true by unfolding, so that no later proof
unfolds a record update. Then the frames of messages and error-log entries, and reading back what was changed. -/

namespace Sys2Proof.Machine

variable (s : State)

/-! ### emit -/

@[simp] theorem emit_pending (o : Out) : (emit s o).pending = s.pending := rfl
@[simp] theorem emit_out (o : Out) : (emit s o).out = o :: s.out := rfl
@[simp] theorem emit_free (o : Out) : (emit s o).free = s.free := rfl
@[simp] theorem emit_glb (o : Out) : (emit s o).glb = s.glb := rfl
@[simp] theorem emit_flash (o : Out) : (emit s o).flash = s.flash := rfl
@[simp] theorem emit_fuses (o : Out) : (emit s o).fuses = s.fuses := rfl
@[simp] theorem emit_defects (o : Out) : (emit s o).defects = s.defects := rfl
@[simp] theorem emit_curves (o : Out) : (emit s o).curves = s.curves := rfl
@[simp] theorem emit_regs (o : Out) : (emit s o).regs = s.regs := rfl
@[simp] theorem emit_fe (o : Out) : (emit s o).fe = s.fe := rfl
@[simp] theorem emit_tenants (o : Out) : (emit s o).tenants = s.tenants := rfl
@[simp] theorem emit_launches (o : Out) : (emit s o).launches = s.launches := rfl
@[simp] theorem emit_skeins (o : Out) : (emit s o).skeins = s.skeins := rfl
@[simp] theorem emit_weave (o : Out) : (emit s o).weave = s.weave := rfl
@[simp] theorem emit_mem (o : Out) : (emit s o).mem = s.mem := rfl
@[simp] theorem emit_lostBursts (o : Out) : (emit s o).lostBursts = s.lostBursts := rfl
@[simp] theorem emit_lostReaders (o : Out) : (emit s o).lostReaders = s.lostReaders := rfl
@[simp] theorem emit_hbmStacks (o : Out) : (emit s o).hbmStacks = s.hbmStacks := rfl
@[simp] theorem emit_tables (o : Out) : (emit s o).tables = s.tables := rfl
@[simp] theorem emit_boundary (o : Out) : (emit s o).boundary = s.boundary := rfl
@[simp] theorem emit_group (o : Out) : (emit s o).group = s.group := rfl
@[simp] theorem emit_ports (o : Out) : (emit s o).ports = s.ports := rfl
@[simp] theorem emit_jrn (o : Out) : (emit s o).jrn = s.jrn := rfl
@[simp] theorem emit_itg (o : Out) : (emit s o).itg = s.itg := rfl
@[simp] theorem emit_emd (o : Out) : (emit s o).emd = s.emd := rfl
@[simp] theorem emit_hst (o : Out) : (emit s o).hst = s.hst := rfl
@[simp] theorem emit_clk (o : Out) : (emit s o).clk = s.clk := rfl
@[simp] theorem emit_tlm (o : Out) : (emit s o).tlm = s.tlm := rfl
@[simp] theorem emit_mdl (o : Out) : (emit s o).mdl = s.mdl := rfl

/-! ### modT -/

@[simp] theorem modT_pending (t : Nat) (f : TenantSt → TenantSt) : (modT s t f).pending = s.pending := rfl
@[simp] theorem modT_out (t : Nat) (f : TenantSt → TenantSt) : (modT s t f).out = s.out := rfl
@[simp] theorem modT_free (t : Nat) (f : TenantSt → TenantSt) : (modT s t f).free = s.free := rfl
@[simp] theorem modT_glb (t : Nat) (f : TenantSt → TenantSt) : (modT s t f).glb = s.glb := rfl
@[simp] theorem modT_flash (t : Nat) (f : TenantSt → TenantSt) : (modT s t f).flash = s.flash := rfl
@[simp] theorem modT_fuses (t : Nat) (f : TenantSt → TenantSt) : (modT s t f).fuses = s.fuses := rfl
@[simp] theorem modT_defects (t : Nat) (f : TenantSt → TenantSt) : (modT s t f).defects = s.defects := rfl
@[simp] theorem modT_curves (t : Nat) (f : TenantSt → TenantSt) : (modT s t f).curves = s.curves := rfl
@[simp] theorem modT_regs (t : Nat) (f : TenantSt → TenantSt) : (modT s t f).regs = s.regs := rfl
@[simp] theorem modT_fe (t : Nat) (f : TenantSt → TenantSt) : (modT s t f).fe = s.fe := rfl
@[simp] theorem modT_tenants (t : Nat) (f : TenantSt → TenantSt) : (modT s t f).tenants = nmod TenantSt.reset s.tenants t f := rfl
@[simp] theorem modT_launches (t : Nat) (f : TenantSt → TenantSt) : (modT s t f).launches = s.launches := rfl
@[simp] theorem modT_skeins (t : Nat) (f : TenantSt → TenantSt) : (modT s t f).skeins = s.skeins := rfl
@[simp] theorem modT_weave (t : Nat) (f : TenantSt → TenantSt) : (modT s t f).weave = s.weave := rfl
@[simp] theorem modT_mem (t : Nat) (f : TenantSt → TenantSt) : (modT s t f).mem = s.mem := rfl
@[simp] theorem modT_lostBursts (t : Nat) (f : TenantSt → TenantSt) : (modT s t f).lostBursts = s.lostBursts := rfl
@[simp] theorem modT_lostReaders (t : Nat) (f : TenantSt → TenantSt) : (modT s t f).lostReaders = s.lostReaders := rfl
@[simp] theorem modT_hbmStacks (t : Nat) (f : TenantSt → TenantSt) : (modT s t f).hbmStacks = s.hbmStacks := rfl
@[simp] theorem modT_tables (t : Nat) (f : TenantSt → TenantSt) : (modT s t f).tables = s.tables := rfl
@[simp] theorem modT_boundary (t : Nat) (f : TenantSt → TenantSt) : (modT s t f).boundary = s.boundary := rfl
@[simp] theorem modT_group (t : Nat) (f : TenantSt → TenantSt) : (modT s t f).group = s.group := rfl
@[simp] theorem modT_ports (t : Nat) (f : TenantSt → TenantSt) : (modT s t f).ports = s.ports := rfl
@[simp] theorem modT_jrn (t : Nat) (f : TenantSt → TenantSt) : (modT s t f).jrn = s.jrn := rfl
@[simp] theorem modT_itg (t : Nat) (f : TenantSt → TenantSt) : (modT s t f).itg = s.itg := rfl
@[simp] theorem modT_emd (t : Nat) (f : TenantSt → TenantSt) : (modT s t f).emd = s.emd := rfl
@[simp] theorem modT_hst (t : Nat) (f : TenantSt → TenantSt) : (modT s t f).hst = s.hst := rfl
@[simp] theorem modT_clk (t : Nat) (f : TenantSt → TenantSt) : (modT s t f).clk = s.clk := rfl
@[simp] theorem modT_tlm (t : Nat) (f : TenantSt → TenantSt) : (modT s t f).tlm = s.tlm := rfl
@[simp] theorem modT_mdl (t : Nat) (f : TenantSt → TenantSt) : (modT s t f).mdl = s.mdl := rfl

/-! ### modL -/

@[simp] theorem modL_pending (id : Nat) (f : Launch → Launch) : (modL s id f).pending = s.pending := rfl
@[simp] theorem modL_out (id : Nat) (f : Launch → Launch) : (modL s id f).out = s.out := rfl
@[simp] theorem modL_free (id : Nat) (f : Launch → Launch) : (modL s id f).free = s.free := rfl
@[simp] theorem modL_glb (id : Nat) (f : Launch → Launch) : (modL s id f).glb = s.glb := rfl
@[simp] theorem modL_flash (id : Nat) (f : Launch → Launch) : (modL s id f).flash = s.flash := rfl
@[simp] theorem modL_fuses (id : Nat) (f : Launch → Launch) : (modL s id f).fuses = s.fuses := rfl
@[simp] theorem modL_defects (id : Nat) (f : Launch → Launch) : (modL s id f).defects = s.defects := rfl
@[simp] theorem modL_curves (id : Nat) (f : Launch → Launch) : (modL s id f).curves = s.curves := rfl
@[simp] theorem modL_regs (id : Nat) (f : Launch → Launch) : (modL s id f).regs = s.regs := rfl
@[simp] theorem modL_fe (id : Nat) (f : Launch → Launch) : (modL s id f).fe = s.fe := rfl
@[simp] theorem modL_tenants (id : Nat) (f : Launch → Launch) : (modL s id f).tenants = s.tenants := rfl
@[simp] theorem modL_launches (id : Nat) (f : Launch → Launch) : (modL s id f).launches = updFirst (fun l => l.id == id) f s.launches := rfl
@[simp] theorem modL_skeins (id : Nat) (f : Launch → Launch) : (modL s id f).skeins = s.skeins := rfl
@[simp] theorem modL_weave (id : Nat) (f : Launch → Launch) : (modL s id f).weave = s.weave := rfl
@[simp] theorem modL_mem (id : Nat) (f : Launch → Launch) : (modL s id f).mem = s.mem := rfl
@[simp] theorem modL_lostBursts (id : Nat) (f : Launch → Launch) : (modL s id f).lostBursts = s.lostBursts := rfl
@[simp] theorem modL_lostReaders (id : Nat) (f : Launch → Launch) : (modL s id f).lostReaders = s.lostReaders := rfl
@[simp] theorem modL_hbmStacks (id : Nat) (f : Launch → Launch) : (modL s id f).hbmStacks = s.hbmStacks := rfl
@[simp] theorem modL_tables (id : Nat) (f : Launch → Launch) : (modL s id f).tables = s.tables := rfl
@[simp] theorem modL_boundary (id : Nat) (f : Launch → Launch) : (modL s id f).boundary = s.boundary := rfl
@[simp] theorem modL_group (id : Nat) (f : Launch → Launch) : (modL s id f).group = s.group := rfl
@[simp] theorem modL_ports (id : Nat) (f : Launch → Launch) : (modL s id f).ports = s.ports := rfl
@[simp] theorem modL_jrn (id : Nat) (f : Launch → Launch) : (modL s id f).jrn = s.jrn := rfl
@[simp] theorem modL_itg (id : Nat) (f : Launch → Launch) : (modL s id f).itg = s.itg := rfl
@[simp] theorem modL_emd (id : Nat) (f : Launch → Launch) : (modL s id f).emd = s.emd := rfl
@[simp] theorem modL_hst (id : Nat) (f : Launch → Launch) : (modL s id f).hst = s.hst := rfl
@[simp] theorem modL_clk (id : Nat) (f : Launch → Launch) : (modL s id f).clk = s.clk := rfl
@[simp] theorem modL_tlm (id : Nat) (f : Launch → Launch) : (modL s id f).tlm = s.tlm := rfl
@[simp] theorem modL_mdl (id : Nat) (f : Launch → Launch) : (modL s id f).mdl = s.mdl := rfl

/-! ### modX -/

@[simp] theorem modX_pending (id e : Nat) (f : Exec → Exec) : (modX s id e f).pending = s.pending := rfl
@[simp] theorem modX_out (id e : Nat) (f : Exec → Exec) : (modX s id e f).out = s.out := rfl
@[simp] theorem modX_free (id e : Nat) (f : Exec → Exec) : (modX s id e f).free = s.free := rfl
@[simp] theorem modX_glb (id e : Nat) (f : Exec → Exec) : (modX s id e f).glb = s.glb := rfl
@[simp] theorem modX_flash (id e : Nat) (f : Exec → Exec) : (modX s id e f).flash = s.flash := rfl
@[simp] theorem modX_fuses (id e : Nat) (f : Exec → Exec) : (modX s id e f).fuses = s.fuses := rfl
@[simp] theorem modX_defects (id e : Nat) (f : Exec → Exec) : (modX s id e f).defects = s.defects := rfl
@[simp] theorem modX_curves (id e : Nat) (f : Exec → Exec) : (modX s id e f).curves = s.curves := rfl
@[simp] theorem modX_regs (id e : Nat) (f : Exec → Exec) : (modX s id e f).regs = s.regs := rfl
@[simp] theorem modX_fe (id e : Nat) (f : Exec → Exec) : (modX s id e f).fe = s.fe := rfl
@[simp] theorem modX_tenants (id e : Nat) (f : Exec → Exec) : (modX s id e f).tenants = s.tenants := rfl
@[simp] theorem modX_skeins (id e : Nat) (f : Exec → Exec) : (modX s id e f).skeins = s.skeins := rfl
@[simp] theorem modX_weave (id e : Nat) (f : Exec → Exec) : (modX s id e f).weave = s.weave := rfl
@[simp] theorem modX_mem (id e : Nat) (f : Exec → Exec) : (modX s id e f).mem = s.mem := rfl
@[simp] theorem modX_lostBursts (id e : Nat) (f : Exec → Exec) : (modX s id e f).lostBursts = s.lostBursts := rfl
@[simp] theorem modX_lostReaders (id e : Nat) (f : Exec → Exec) : (modX s id e f).lostReaders = s.lostReaders := rfl
@[simp] theorem modX_hbmStacks (id e : Nat) (f : Exec → Exec) : (modX s id e f).hbmStacks = s.hbmStacks := rfl
@[simp] theorem modX_tables (id e : Nat) (f : Exec → Exec) : (modX s id e f).tables = s.tables := rfl
@[simp] theorem modX_boundary (id e : Nat) (f : Exec → Exec) : (modX s id e f).boundary = s.boundary := rfl
@[simp] theorem modX_group (id e : Nat) (f : Exec → Exec) : (modX s id e f).group = s.group := rfl
@[simp] theorem modX_ports (id e : Nat) (f : Exec → Exec) : (modX s id e f).ports = s.ports := rfl
@[simp] theorem modX_jrn (id e : Nat) (f : Exec → Exec) : (modX s id e f).jrn = s.jrn := rfl
@[simp] theorem modX_itg (id e : Nat) (f : Exec → Exec) : (modX s id e f).itg = s.itg := rfl
@[simp] theorem modX_emd (id e : Nat) (f : Exec → Exec) : (modX s id e f).emd = s.emd := rfl
@[simp] theorem modX_hst (id e : Nat) (f : Exec → Exec) : (modX s id e f).hst = s.hst := rfl
@[simp] theorem modX_clk (id e : Nat) (f : Exec → Exec) : (modX s id e f).clk = s.clk := rfl
@[simp] theorem modX_tlm (id e : Nat) (f : Exec → Exec) : (modX s id e f).tlm = s.tlm := rfl
@[simp] theorem modX_mdl (id e : Nat) (f : Exec → Exec) : (modX s id e f).mdl = s.mdl := rfl

/-! ### modK -/

@[simp] theorem modK_pending (k : Nat) (f : SkeinSt → SkeinSt) : (modK s k f).pending = s.pending := rfl
@[simp] theorem modK_out (k : Nat) (f : SkeinSt → SkeinSt) : (modK s k f).out = s.out := rfl
@[simp] theorem modK_free (k : Nat) (f : SkeinSt → SkeinSt) : (modK s k f).free = s.free := rfl
@[simp] theorem modK_glb (k : Nat) (f : SkeinSt → SkeinSt) : (modK s k f).glb = s.glb := rfl
@[simp] theorem modK_flash (k : Nat) (f : SkeinSt → SkeinSt) : (modK s k f).flash = s.flash := rfl
@[simp] theorem modK_fuses (k : Nat) (f : SkeinSt → SkeinSt) : (modK s k f).fuses = s.fuses := rfl
@[simp] theorem modK_defects (k : Nat) (f : SkeinSt → SkeinSt) : (modK s k f).defects = s.defects := rfl
@[simp] theorem modK_curves (k : Nat) (f : SkeinSt → SkeinSt) : (modK s k f).curves = s.curves := rfl
@[simp] theorem modK_regs (k : Nat) (f : SkeinSt → SkeinSt) : (modK s k f).regs = s.regs := rfl
@[simp] theorem modK_fe (k : Nat) (f : SkeinSt → SkeinSt) : (modK s k f).fe = s.fe := rfl
@[simp] theorem modK_tenants (k : Nat) (f : SkeinSt → SkeinSt) : (modK s k f).tenants = s.tenants := rfl
@[simp] theorem modK_launches (k : Nat) (f : SkeinSt → SkeinSt) : (modK s k f).launches = s.launches := rfl
@[simp] theorem modK_skeins (k : Nat) (f : SkeinSt → SkeinSt) : (modK s k f).skeins = nmod SkeinSt.none s.skeins k f := rfl
@[simp] theorem modK_weave (k : Nat) (f : SkeinSt → SkeinSt) : (modK s k f).weave = s.weave := rfl
@[simp] theorem modK_mem (k : Nat) (f : SkeinSt → SkeinSt) : (modK s k f).mem = s.mem := rfl
@[simp] theorem modK_lostBursts (k : Nat) (f : SkeinSt → SkeinSt) : (modK s k f).lostBursts = s.lostBursts := rfl
@[simp] theorem modK_lostReaders (k : Nat) (f : SkeinSt → SkeinSt) : (modK s k f).lostReaders = s.lostReaders := rfl
@[simp] theorem modK_hbmStacks (k : Nat) (f : SkeinSt → SkeinSt) : (modK s k f).hbmStacks = s.hbmStacks := rfl
@[simp] theorem modK_tables (k : Nat) (f : SkeinSt → SkeinSt) : (modK s k f).tables = s.tables := rfl
@[simp] theorem modK_boundary (k : Nat) (f : SkeinSt → SkeinSt) : (modK s k f).boundary = s.boundary := rfl
@[simp] theorem modK_group (k : Nat) (f : SkeinSt → SkeinSt) : (modK s k f).group = s.group := rfl
@[simp] theorem modK_ports (k : Nat) (f : SkeinSt → SkeinSt) : (modK s k f).ports = s.ports := rfl
@[simp] theorem modK_jrn (k : Nat) (f : SkeinSt → SkeinSt) : (modK s k f).jrn = s.jrn := rfl
@[simp] theorem modK_itg (k : Nat) (f : SkeinSt → SkeinSt) : (modK s k f).itg = s.itg := rfl
@[simp] theorem modK_emd (k : Nat) (f : SkeinSt → SkeinSt) : (modK s k f).emd = s.emd := rfl
@[simp] theorem modK_hst (k : Nat) (f : SkeinSt → SkeinSt) : (modK s k f).hst = s.hst := rfl
@[simp] theorem modK_clk (k : Nat) (f : SkeinSt → SkeinSt) : (modK s k f).clk = s.clk := rfl
@[simp] theorem modK_tlm (k : Nat) (f : SkeinSt → SkeinSt) : (modK s k f).tlm = s.tlm := rfl
@[simp] theorem modK_mdl (k : Nat) (f : SkeinSt → SkeinSt) : (modK s k f).mdl = s.mdl := rfl

/-! ### modCore -/

@[simp] theorem modCore_pending (k : Nat) (f : Core → Core) : (modCore s k f).pending = s.pending := rfl
@[simp] theorem modCore_out (k : Nat) (f : Core → Core) : (modCore s k f).out = s.out := rfl
@[simp] theorem modCore_free (k : Nat) (f : Core → Core) : (modCore s k f).free = s.free := rfl
@[simp] theorem modCore_glb (k : Nat) (f : Core → Core) : (modCore s k f).glb = s.glb := rfl
@[simp] theorem modCore_flash (k : Nat) (f : Core → Core) : (modCore s k f).flash = s.flash := rfl
@[simp] theorem modCore_fuses (k : Nat) (f : Core → Core) : (modCore s k f).fuses = s.fuses := rfl
@[simp] theorem modCore_defects (k : Nat) (f : Core → Core) : (modCore s k f).defects = s.defects := rfl
@[simp] theorem modCore_curves (k : Nat) (f : Core → Core) : (modCore s k f).curves = s.curves := rfl
@[simp] theorem modCore_regs (k : Nat) (f : Core → Core) : (modCore s k f).regs = s.regs := rfl
@[simp] theorem modCore_fe (k : Nat) (f : Core → Core) : (modCore s k f).fe = s.fe := rfl
@[simp] theorem modCore_tenants (k : Nat) (f : Core → Core) : (modCore s k f).tenants = s.tenants := rfl
@[simp] theorem modCore_launches (k : Nat) (f : Core → Core) : (modCore s k f).launches = s.launches := rfl
@[simp] theorem modCore_weave (k : Nat) (f : Core → Core) : (modCore s k f).weave = s.weave := rfl
@[simp] theorem modCore_mem (k : Nat) (f : Core → Core) : (modCore s k f).mem = s.mem := rfl
@[simp] theorem modCore_lostBursts (k : Nat) (f : Core → Core) : (modCore s k f).lostBursts = s.lostBursts := rfl
@[simp] theorem modCore_lostReaders (k : Nat) (f : Core → Core) : (modCore s k f).lostReaders = s.lostReaders := rfl
@[simp] theorem modCore_hbmStacks (k : Nat) (f : Core → Core) : (modCore s k f).hbmStacks = s.hbmStacks := rfl
@[simp] theorem modCore_tables (k : Nat) (f : Core → Core) : (modCore s k f).tables = s.tables := rfl
@[simp] theorem modCore_boundary (k : Nat) (f : Core → Core) : (modCore s k f).boundary = s.boundary := rfl
@[simp] theorem modCore_group (k : Nat) (f : Core → Core) : (modCore s k f).group = s.group := rfl
@[simp] theorem modCore_ports (k : Nat) (f : Core → Core) : (modCore s k f).ports = s.ports := rfl
@[simp] theorem modCore_jrn (k : Nat) (f : Core → Core) : (modCore s k f).jrn = s.jrn := rfl
@[simp] theorem modCore_itg (k : Nat) (f : Core → Core) : (modCore s k f).itg = s.itg := rfl
@[simp] theorem modCore_emd (k : Nat) (f : Core → Core) : (modCore s k f).emd = s.emd := rfl
@[simp] theorem modCore_hst (k : Nat) (f : Core → Core) : (modCore s k f).hst = s.hst := rfl
@[simp] theorem modCore_clk (k : Nat) (f : Core → Core) : (modCore s k f).clk = s.clk := rfl
@[simp] theorem modCore_tlm (k : Nat) (f : Core → Core) : (modCore s k f).tlm = s.tlm := rfl
@[simp] theorem modCore_mdl (k : Nat) (f : Core → Core) : (modCore s k f).mdl = s.mdl := rfl

/-! ### modS -/

@[simp] theorem modS_pending (i : Nat) (f : StackSt → StackSt) : (modS s i f).pending = s.pending := rfl
@[simp] theorem modS_out (i : Nat) (f : StackSt → StackSt) : (modS s i f).out = s.out := rfl
@[simp] theorem modS_free (i : Nat) (f : StackSt → StackSt) : (modS s i f).free = s.free := rfl
@[simp] theorem modS_glb (i : Nat) (f : StackSt → StackSt) : (modS s i f).glb = s.glb := rfl
@[simp] theorem modS_flash (i : Nat) (f : StackSt → StackSt) : (modS s i f).flash = s.flash := rfl
@[simp] theorem modS_fuses (i : Nat) (f : StackSt → StackSt) : (modS s i f).fuses = s.fuses := rfl
@[simp] theorem modS_defects (i : Nat) (f : StackSt → StackSt) : (modS s i f).defects = s.defects := rfl
@[simp] theorem modS_curves (i : Nat) (f : StackSt → StackSt) : (modS s i f).curves = s.curves := rfl
@[simp] theorem modS_regs (i : Nat) (f : StackSt → StackSt) : (modS s i f).regs = s.regs := rfl
@[simp] theorem modS_fe (i : Nat) (f : StackSt → StackSt) : (modS s i f).fe = s.fe := rfl
@[simp] theorem modS_tenants (i : Nat) (f : StackSt → StackSt) : (modS s i f).tenants = s.tenants := rfl
@[simp] theorem modS_launches (i : Nat) (f : StackSt → StackSt) : (modS s i f).launches = s.launches := rfl
@[simp] theorem modS_skeins (i : Nat) (f : StackSt → StackSt) : (modS s i f).skeins = s.skeins := rfl
@[simp] theorem modS_weave (i : Nat) (f : StackSt → StackSt) : (modS s i f).weave = s.weave := rfl
@[simp] theorem modS_mem (i : Nat) (f : StackSt → StackSt) : (modS s i f).mem = s.mem := rfl
@[simp] theorem modS_lostBursts (i : Nat) (f : StackSt → StackSt) : (modS s i f).lostBursts = s.lostBursts := rfl
@[simp] theorem modS_lostReaders (i : Nat) (f : StackSt → StackSt) : (modS s i f).lostReaders = s.lostReaders := rfl
@[simp] theorem modS_hbmStacks (i : Nat) (f : StackSt → StackSt) : (modS s i f).hbmStacks = nmod StackSt.reset s.hbmStacks i f := rfl
@[simp] theorem modS_tables (i : Nat) (f : StackSt → StackSt) : (modS s i f).tables = s.tables := rfl
@[simp] theorem modS_boundary (i : Nat) (f : StackSt → StackSt) : (modS s i f).boundary = s.boundary := rfl
@[simp] theorem modS_group (i : Nat) (f : StackSt → StackSt) : (modS s i f).group = s.group := rfl
@[simp] theorem modS_ports (i : Nat) (f : StackSt → StackSt) : (modS s i f).ports = s.ports := rfl
@[simp] theorem modS_jrn (i : Nat) (f : StackSt → StackSt) : (modS s i f).jrn = s.jrn := rfl
@[simp] theorem modS_itg (i : Nat) (f : StackSt → StackSt) : (modS s i f).itg = s.itg := rfl
@[simp] theorem modS_emd (i : Nat) (f : StackSt → StackSt) : (modS s i f).emd = s.emd := rfl
@[simp] theorem modS_hst (i : Nat) (f : StackSt → StackSt) : (modS s i f).hst = s.hst := rfl
@[simp] theorem modS_clk (i : Nat) (f : StackSt → StackSt) : (modS s i f).clk = s.clk := rfl
@[simp] theorem modS_tlm (i : Nat) (f : StackSt → StackSt) : (modS s i f).tlm = s.tlm := rfl
@[simp] theorem modS_mdl (i : Nat) (f : StackSt → StackSt) : (modS s i f).mdl = s.mdl := rfl

/-! ### modP -/

@[simp] theorem modP_pending (p : Nat) (f : PortSt → PortSt) : (modP s p f).pending = s.pending := rfl
@[simp] theorem modP_out (p : Nat) (f : PortSt → PortSt) : (modP s p f).out = s.out := rfl
@[simp] theorem modP_free (p : Nat) (f : PortSt → PortSt) : (modP s p f).free = s.free := rfl
@[simp] theorem modP_glb (p : Nat) (f : PortSt → PortSt) : (modP s p f).glb = s.glb := rfl
@[simp] theorem modP_flash (p : Nat) (f : PortSt → PortSt) : (modP s p f).flash = s.flash := rfl
@[simp] theorem modP_fuses (p : Nat) (f : PortSt → PortSt) : (modP s p f).fuses = s.fuses := rfl
@[simp] theorem modP_defects (p : Nat) (f : PortSt → PortSt) : (modP s p f).defects = s.defects := rfl
@[simp] theorem modP_curves (p : Nat) (f : PortSt → PortSt) : (modP s p f).curves = s.curves := rfl
@[simp] theorem modP_regs (p : Nat) (f : PortSt → PortSt) : (modP s p f).regs = s.regs := rfl
@[simp] theorem modP_fe (p : Nat) (f : PortSt → PortSt) : (modP s p f).fe = s.fe := rfl
@[simp] theorem modP_tenants (p : Nat) (f : PortSt → PortSt) : (modP s p f).tenants = s.tenants := rfl
@[simp] theorem modP_launches (p : Nat) (f : PortSt → PortSt) : (modP s p f).launches = s.launches := rfl
@[simp] theorem modP_skeins (p : Nat) (f : PortSt → PortSt) : (modP s p f).skeins = s.skeins := rfl
@[simp] theorem modP_weave (p : Nat) (f : PortSt → PortSt) : (modP s p f).weave = s.weave := rfl
@[simp] theorem modP_mem (p : Nat) (f : PortSt → PortSt) : (modP s p f).mem = s.mem := rfl
@[simp] theorem modP_lostBursts (p : Nat) (f : PortSt → PortSt) : (modP s p f).lostBursts = s.lostBursts := rfl
@[simp] theorem modP_lostReaders (p : Nat) (f : PortSt → PortSt) : (modP s p f).lostReaders = s.lostReaders := rfl
@[simp] theorem modP_hbmStacks (p : Nat) (f : PortSt → PortSt) : (modP s p f).hbmStacks = s.hbmStacks := rfl
@[simp] theorem modP_tables (p : Nat) (f : PortSt → PortSt) : (modP s p f).tables = s.tables := rfl
@[simp] theorem modP_boundary (p : Nat) (f : PortSt → PortSt) : (modP s p f).boundary = s.boundary := rfl
@[simp] theorem modP_group (p : Nat) (f : PortSt → PortSt) : (modP s p f).group = s.group := rfl
@[simp] theorem modP_ports (p : Nat) (f : PortSt → PortSt) : (modP s p f).ports = nmod PortSt.reset s.ports p f := rfl
@[simp] theorem modP_jrn (p : Nat) (f : PortSt → PortSt) : (modP s p f).jrn = s.jrn := rfl
@[simp] theorem modP_itg (p : Nat) (f : PortSt → PortSt) : (modP s p f).itg = s.itg := rfl
@[simp] theorem modP_emd (p : Nat) (f : PortSt → PortSt) : (modP s p f).emd = s.emd := rfl
@[simp] theorem modP_hst (p : Nat) (f : PortSt → PortSt) : (modP s p f).hst = s.hst := rfl
@[simp] theorem modP_clk (p : Nat) (f : PortSt → PortSt) : (modP s p f).clk = s.clk := rfl
@[simp] theorem modP_tlm (p : Nat) (f : PortSt → PortSt) : (modP s p f).tlm = s.tlm := rfl
@[simp] theorem modP_mdl (p : Nat) (f : PortSt → PortSt) : (modP s p f).mdl = s.mdl := rfl

/-! ### memWrite -/

@[simp] theorem memWrite_pending (a : Nat) (b : Bytes) : (memWrite s a b).pending = s.pending := rfl
@[simp] theorem memWrite_out (a : Nat) (b : Bytes) : (memWrite s a b).out = s.out := rfl
@[simp] theorem memWrite_free (a : Nat) (b : Bytes) : (memWrite s a b).free = s.free := rfl
@[simp] theorem memWrite_glb (a : Nat) (b : Bytes) : (memWrite s a b).glb = s.glb := rfl
@[simp] theorem memWrite_flash (a : Nat) (b : Bytes) : (memWrite s a b).flash = s.flash := rfl
@[simp] theorem memWrite_fuses (a : Nat) (b : Bytes) : (memWrite s a b).fuses = s.fuses := rfl
@[simp] theorem memWrite_defects (a : Nat) (b : Bytes) : (memWrite s a b).defects = s.defects := rfl
@[simp] theorem memWrite_curves (a : Nat) (b : Bytes) : (memWrite s a b).curves = s.curves := rfl
@[simp] theorem memWrite_regs (a : Nat) (b : Bytes) : (memWrite s a b).regs = s.regs := rfl
@[simp] theorem memWrite_fe (a : Nat) (b : Bytes) : (memWrite s a b).fe = s.fe := rfl
@[simp] theorem memWrite_tenants (a : Nat) (b : Bytes) : (memWrite s a b).tenants = s.tenants := rfl
@[simp] theorem memWrite_launches (a : Nat) (b : Bytes) : (memWrite s a b).launches = s.launches := rfl
@[simp] theorem memWrite_skeins (a : Nat) (b : Bytes) : (memWrite s a b).skeins = s.skeins := rfl
@[simp] theorem memWrite_weave (a : Nat) (b : Bytes) : (memWrite s a b).weave = s.weave := rfl
@[simp] theorem memWrite_mem (a : Nat) (b : Bytes) : (memWrite s a b).mem = nputs 0 s.mem a b := rfl
@[simp] theorem memWrite_lostBursts (a : Nat) (b : Bytes) : (memWrite s a b).lostBursts = s.lostBursts := rfl
@[simp] theorem memWrite_lostReaders (a : Nat) (b : Bytes) : (memWrite s a b).lostReaders = s.lostReaders := rfl
@[simp] theorem memWrite_hbmStacks (a : Nat) (b : Bytes) : (memWrite s a b).hbmStacks = s.hbmStacks := rfl
@[simp] theorem memWrite_tables (a : Nat) (b : Bytes) : (memWrite s a b).tables = s.tables := rfl
@[simp] theorem memWrite_boundary (a : Nat) (b : Bytes) : (memWrite s a b).boundary = s.boundary := rfl
@[simp] theorem memWrite_group (a : Nat) (b : Bytes) : (memWrite s a b).group = s.group := rfl
@[simp] theorem memWrite_ports (a : Nat) (b : Bytes) : (memWrite s a b).ports = s.ports := rfl
@[simp] theorem memWrite_jrn (a : Nat) (b : Bytes) : (memWrite s a b).jrn = s.jrn := rfl
@[simp] theorem memWrite_itg (a : Nat) (b : Bytes) : (memWrite s a b).itg = s.itg := rfl
@[simp] theorem memWrite_emd (a : Nat) (b : Bytes) : (memWrite s a b).emd = s.emd := rfl
@[simp] theorem memWrite_hst (a : Nat) (b : Bytes) : (memWrite s a b).hst = s.hst := rfl
@[simp] theorem memWrite_clk (a : Nat) (b : Bytes) : (memWrite s a b).clk = s.clk := rfl
@[simp] theorem memWrite_tlm (a : Nat) (b : Bytes) : (memWrite s a b).tlm = s.tlm := rfl
@[simp] theorem memWrite_mdl (a : Nat) (b : Bytes) : (memWrite s a b).mdl = s.mdl := rfl

/-! ### raiseCond -/

@[simp] theorem raiseCond_pending (c : Nat) : (raiseCond s c).pending = s.pending := rfl
@[simp] theorem raiseCond_out (c : Nat) : (raiseCond s c).out = s.out := rfl
@[simp] theorem raiseCond_free (c : Nat) : (raiseCond s c).free = s.free := rfl
@[simp] theorem raiseCond_glb (c : Nat) : (raiseCond s c).glb = { s.glb with conds := s.glb.conds ||| BitVec.twoPow 8 c } := rfl
@[simp] theorem raiseCond_flash (c : Nat) : (raiseCond s c).flash = s.flash := rfl
@[simp] theorem raiseCond_fuses (c : Nat) : (raiseCond s c).fuses = s.fuses := rfl
@[simp] theorem raiseCond_defects (c : Nat) : (raiseCond s c).defects = s.defects := rfl
@[simp] theorem raiseCond_curves (c : Nat) : (raiseCond s c).curves = s.curves := rfl
@[simp] theorem raiseCond_regs (c : Nat) : (raiseCond s c).regs = s.regs := rfl
@[simp] theorem raiseCond_fe (c : Nat) : (raiseCond s c).fe = s.fe := rfl
@[simp] theorem raiseCond_tenants (c : Nat) : (raiseCond s c).tenants = s.tenants := rfl
@[simp] theorem raiseCond_launches (c : Nat) : (raiseCond s c).launches = s.launches := rfl
@[simp] theorem raiseCond_skeins (c : Nat) : (raiseCond s c).skeins = s.skeins := rfl
@[simp] theorem raiseCond_weave (c : Nat) : (raiseCond s c).weave = s.weave := rfl
@[simp] theorem raiseCond_mem (c : Nat) : (raiseCond s c).mem = s.mem := rfl
@[simp] theorem raiseCond_lostBursts (c : Nat) : (raiseCond s c).lostBursts = s.lostBursts := rfl
@[simp] theorem raiseCond_lostReaders (c : Nat) : (raiseCond s c).lostReaders = s.lostReaders := rfl
@[simp] theorem raiseCond_hbmStacks (c : Nat) : (raiseCond s c).hbmStacks = s.hbmStacks := rfl
@[simp] theorem raiseCond_tables (c : Nat) : (raiseCond s c).tables = s.tables := rfl
@[simp] theorem raiseCond_boundary (c : Nat) : (raiseCond s c).boundary = s.boundary := rfl
@[simp] theorem raiseCond_group (c : Nat) : (raiseCond s c).group = s.group := rfl
@[simp] theorem raiseCond_ports (c : Nat) : (raiseCond s c).ports = s.ports := rfl
@[simp] theorem raiseCond_jrn (c : Nat) : (raiseCond s c).jrn = s.jrn := rfl
@[simp] theorem raiseCond_itg (c : Nat) : (raiseCond s c).itg = s.itg := rfl
@[simp] theorem raiseCond_emd (c : Nat) : (raiseCond s c).emd = s.emd := rfl
@[simp] theorem raiseCond_hst (c : Nat) : (raiseCond s c).hst = s.hst := rfl
@[simp] theorem raiseCond_clk (c : Nat) : (raiseCond s c).clk = s.clk := rfl
@[simp] theorem raiseCond_tlm (c : Nat) : (raiseCond s c).tlm = s.tlm := rfl
@[simp] theorem raiseCond_mdl (c : Nat) : (raiseCond s c).mdl = s.mdl := rfl

/-! ### clearCond -/

@[simp] theorem clearCond_pending (c : Nat) : (clearCond s c).pending = s.pending := rfl
@[simp] theorem clearCond_out (c : Nat) : (clearCond s c).out = s.out := rfl
@[simp] theorem clearCond_free (c : Nat) : (clearCond s c).free = s.free := rfl
@[simp] theorem clearCond_glb (c : Nat) : (clearCond s c).glb = { s.glb with conds := s.glb.conds &&& ~~~(BitVec.twoPow 8 c) } := rfl
@[simp] theorem clearCond_flash (c : Nat) : (clearCond s c).flash = s.flash := rfl
@[simp] theorem clearCond_fuses (c : Nat) : (clearCond s c).fuses = s.fuses := rfl
@[simp] theorem clearCond_defects (c : Nat) : (clearCond s c).defects = s.defects := rfl
@[simp] theorem clearCond_curves (c : Nat) : (clearCond s c).curves = s.curves := rfl
@[simp] theorem clearCond_regs (c : Nat) : (clearCond s c).regs = s.regs := rfl
@[simp] theorem clearCond_fe (c : Nat) : (clearCond s c).fe = s.fe := rfl
@[simp] theorem clearCond_tenants (c : Nat) : (clearCond s c).tenants = s.tenants := rfl
@[simp] theorem clearCond_launches (c : Nat) : (clearCond s c).launches = s.launches := rfl
@[simp] theorem clearCond_skeins (c : Nat) : (clearCond s c).skeins = s.skeins := rfl
@[simp] theorem clearCond_weave (c : Nat) : (clearCond s c).weave = s.weave := rfl
@[simp] theorem clearCond_mem (c : Nat) : (clearCond s c).mem = s.mem := rfl
@[simp] theorem clearCond_lostBursts (c : Nat) : (clearCond s c).lostBursts = s.lostBursts := rfl
@[simp] theorem clearCond_lostReaders (c : Nat) : (clearCond s c).lostReaders = s.lostReaders := rfl
@[simp] theorem clearCond_hbmStacks (c : Nat) : (clearCond s c).hbmStacks = s.hbmStacks := rfl
@[simp] theorem clearCond_tables (c : Nat) : (clearCond s c).tables = s.tables := rfl
@[simp] theorem clearCond_boundary (c : Nat) : (clearCond s c).boundary = s.boundary := rfl
@[simp] theorem clearCond_group (c : Nat) : (clearCond s c).group = s.group := rfl
@[simp] theorem clearCond_ports (c : Nat) : (clearCond s c).ports = s.ports := rfl
@[simp] theorem clearCond_jrn (c : Nat) : (clearCond s c).jrn = s.jrn := rfl
@[simp] theorem clearCond_itg (c : Nat) : (clearCond s c).itg = s.itg := rfl
@[simp] theorem clearCond_emd (c : Nat) : (clearCond s c).emd = s.emd := rfl
@[simp] theorem clearCond_hst (c : Nat) : (clearCond s c).hst = s.hst := rfl
@[simp] theorem clearCond_clk (c : Nat) : (clearCond s c).clk = s.clk := rfl
@[simp] theorem clearCond_tlm (c : Nat) : (clearCond s c).tlm = s.tlm := rfl
@[simp] theorem clearCond_mdl (c : Nat) : (clearCond s c).mdl = s.mdl := rfl

/-! ### stopAdmit -/

@[simp] theorem stopAdmit_pending (c : Nat) : (stopAdmit s c).pending = s.pending := rfl
@[simp] theorem stopAdmit_out (c : Nat) : (stopAdmit s c).out = s.out := rfl
@[simp] theorem stopAdmit_free (c : Nat) : (stopAdmit s c).free = s.free := rfl
@[simp] theorem stopAdmit_glb (c : Nat) : (stopAdmit s c).glb = { s.glb with stopped := sadd s.glb.stopped c } := rfl
@[simp] theorem stopAdmit_flash (c : Nat) : (stopAdmit s c).flash = s.flash := rfl
@[simp] theorem stopAdmit_fuses (c : Nat) : (stopAdmit s c).fuses = s.fuses := rfl
@[simp] theorem stopAdmit_defects (c : Nat) : (stopAdmit s c).defects = s.defects := rfl
@[simp] theorem stopAdmit_curves (c : Nat) : (stopAdmit s c).curves = s.curves := rfl
@[simp] theorem stopAdmit_regs (c : Nat) : (stopAdmit s c).regs = s.regs := rfl
@[simp] theorem stopAdmit_fe (c : Nat) : (stopAdmit s c).fe = s.fe := rfl
@[simp] theorem stopAdmit_tenants (c : Nat) : (stopAdmit s c).tenants = s.tenants := rfl
@[simp] theorem stopAdmit_launches (c : Nat) : (stopAdmit s c).launches = s.launches := rfl
@[simp] theorem stopAdmit_skeins (c : Nat) : (stopAdmit s c).skeins = s.skeins := rfl
@[simp] theorem stopAdmit_weave (c : Nat) : (stopAdmit s c).weave = s.weave := rfl
@[simp] theorem stopAdmit_mem (c : Nat) : (stopAdmit s c).mem = s.mem := rfl
@[simp] theorem stopAdmit_lostBursts (c : Nat) : (stopAdmit s c).lostBursts = s.lostBursts := rfl
@[simp] theorem stopAdmit_lostReaders (c : Nat) : (stopAdmit s c).lostReaders = s.lostReaders := rfl
@[simp] theorem stopAdmit_hbmStacks (c : Nat) : (stopAdmit s c).hbmStacks = s.hbmStacks := rfl
@[simp] theorem stopAdmit_tables (c : Nat) : (stopAdmit s c).tables = s.tables := rfl
@[simp] theorem stopAdmit_boundary (c : Nat) : (stopAdmit s c).boundary = s.boundary := rfl
@[simp] theorem stopAdmit_group (c : Nat) : (stopAdmit s c).group = s.group := rfl
@[simp] theorem stopAdmit_ports (c : Nat) : (stopAdmit s c).ports = s.ports := rfl
@[simp] theorem stopAdmit_jrn (c : Nat) : (stopAdmit s c).jrn = s.jrn := rfl
@[simp] theorem stopAdmit_itg (c : Nat) : (stopAdmit s c).itg = s.itg := rfl
@[simp] theorem stopAdmit_emd (c : Nat) : (stopAdmit s c).emd = s.emd := rfl
@[simp] theorem stopAdmit_hst (c : Nat) : (stopAdmit s c).hst = s.hst := rfl
@[simp] theorem stopAdmit_clk (c : Nat) : (stopAdmit s c).clk = s.clk := rfl
@[simp] theorem stopAdmit_tlm (c : Nat) : (stopAdmit s c).tlm = s.tlm := rfl
@[simp] theorem stopAdmit_mdl (c : Nat) : (stopAdmit s c).mdl = s.mdl := rfl

/-! ### resumeAdmit -/

@[simp] theorem resumeAdmit_pending (c : Nat) : (resumeAdmit s c).pending = s.pending := rfl
@[simp] theorem resumeAdmit_out (c : Nat) : (resumeAdmit s c).out = s.out := rfl
@[simp] theorem resumeAdmit_free (c : Nat) : (resumeAdmit s c).free = s.free := rfl
@[simp] theorem resumeAdmit_glb (c : Nat) : (resumeAdmit s c).glb = { s.glb with stopped := sdel s.glb.stopped c } := rfl
@[simp] theorem resumeAdmit_flash (c : Nat) : (resumeAdmit s c).flash = s.flash := rfl
@[simp] theorem resumeAdmit_fuses (c : Nat) : (resumeAdmit s c).fuses = s.fuses := rfl
@[simp] theorem resumeAdmit_defects (c : Nat) : (resumeAdmit s c).defects = s.defects := rfl
@[simp] theorem resumeAdmit_curves (c : Nat) : (resumeAdmit s c).curves = s.curves := rfl
@[simp] theorem resumeAdmit_regs (c : Nat) : (resumeAdmit s c).regs = s.regs := rfl
@[simp] theorem resumeAdmit_fe (c : Nat) : (resumeAdmit s c).fe = s.fe := rfl
@[simp] theorem resumeAdmit_tenants (c : Nat) : (resumeAdmit s c).tenants = s.tenants := rfl
@[simp] theorem resumeAdmit_launches (c : Nat) : (resumeAdmit s c).launches = s.launches := rfl
@[simp] theorem resumeAdmit_skeins (c : Nat) : (resumeAdmit s c).skeins = s.skeins := rfl
@[simp] theorem resumeAdmit_weave (c : Nat) : (resumeAdmit s c).weave = s.weave := rfl
@[simp] theorem resumeAdmit_mem (c : Nat) : (resumeAdmit s c).mem = s.mem := rfl
@[simp] theorem resumeAdmit_lostBursts (c : Nat) : (resumeAdmit s c).lostBursts = s.lostBursts := rfl
@[simp] theorem resumeAdmit_lostReaders (c : Nat) : (resumeAdmit s c).lostReaders = s.lostReaders := rfl
@[simp] theorem resumeAdmit_hbmStacks (c : Nat) : (resumeAdmit s c).hbmStacks = s.hbmStacks := rfl
@[simp] theorem resumeAdmit_tables (c : Nat) : (resumeAdmit s c).tables = s.tables := rfl
@[simp] theorem resumeAdmit_boundary (c : Nat) : (resumeAdmit s c).boundary = s.boundary := rfl
@[simp] theorem resumeAdmit_group (c : Nat) : (resumeAdmit s c).group = s.group := rfl
@[simp] theorem resumeAdmit_ports (c : Nat) : (resumeAdmit s c).ports = s.ports := rfl
@[simp] theorem resumeAdmit_jrn (c : Nat) : (resumeAdmit s c).jrn = s.jrn := rfl
@[simp] theorem resumeAdmit_itg (c : Nat) : (resumeAdmit s c).itg = s.itg := rfl
@[simp] theorem resumeAdmit_emd (c : Nat) : (resumeAdmit s c).emd = s.emd := rfl
@[simp] theorem resumeAdmit_hst (c : Nat) : (resumeAdmit s c).hst = s.hst := rfl
@[simp] theorem resumeAdmit_clk (c : Nat) : (resumeAdmit s c).clk = s.clk := rfl
@[simp] theorem resumeAdmit_tlm (c : Nat) : (resumeAdmit s c).tlm = s.tlm := rfl
@[simp] theorem resumeAdmit_mdl (c : Nat) : (resumeAdmit s c).mdl = s.mdl := rfl

/-! ### countEvent -/

@[simp] theorem countEvent_pending (i n : Nat) : (countEvent s i n).pending = s.pending := rfl
@[simp] theorem countEvent_out (i n : Nat) : (countEvent s i n).out = s.out := rfl
@[simp] theorem countEvent_free (i n : Nat) : (countEvent s i n).free = s.free := rfl
@[simp] theorem countEvent_glb (i n : Nat) : (countEvent s i n).glb = s.glb := rfl
@[simp] theorem countEvent_flash (i n : Nat) : (countEvent s i n).flash = s.flash := rfl
@[simp] theorem countEvent_fuses (i n : Nat) : (countEvent s i n).fuses = s.fuses := rfl
@[simp] theorem countEvent_defects (i n : Nat) : (countEvent s i n).defects = s.defects := rfl
@[simp] theorem countEvent_curves (i n : Nat) : (countEvent s i n).curves = s.curves := rfl
@[simp] theorem countEvent_regs (i n : Nat) : (countEvent s i n).regs = s.regs := rfl
@[simp] theorem countEvent_fe (i n : Nat) : (countEvent s i n).fe = s.fe := rfl
@[simp] theorem countEvent_tenants (i n : Nat) : (countEvent s i n).tenants = s.tenants := rfl
@[simp] theorem countEvent_launches (i n : Nat) : (countEvent s i n).launches = s.launches := rfl
@[simp] theorem countEvent_skeins (i n : Nat) : (countEvent s i n).skeins = s.skeins := rfl
@[simp] theorem countEvent_weave (i n : Nat) : (countEvent s i n).weave = s.weave := rfl
@[simp] theorem countEvent_mem (i n : Nat) : (countEvent s i n).mem = s.mem := rfl
@[simp] theorem countEvent_lostBursts (i n : Nat) : (countEvent s i n).lostBursts = s.lostBursts := rfl
@[simp] theorem countEvent_lostReaders (i n : Nat) : (countEvent s i n).lostReaders = s.lostReaders := rfl
@[simp] theorem countEvent_hbmStacks (i n : Nat) : (countEvent s i n).hbmStacks = s.hbmStacks := rfl
@[simp] theorem countEvent_tables (i n : Nat) : (countEvent s i n).tables = s.tables := rfl
@[simp] theorem countEvent_boundary (i n : Nat) : (countEvent s i n).boundary = s.boundary := rfl
@[simp] theorem countEvent_group (i n : Nat) : (countEvent s i n).group = s.group := rfl
@[simp] theorem countEvent_ports (i n : Nat) : (countEvent s i n).ports = s.ports := rfl
@[simp] theorem countEvent_jrn (i n : Nat) : (countEvent s i n).jrn = s.jrn := rfl
@[simp] theorem countEvent_itg (i n : Nat) : (countEvent s i n).itg = s.itg := rfl
@[simp] theorem countEvent_emd (i n : Nat) : (countEvent s i n).emd = s.emd := rfl
@[simp] theorem countEvent_hst (i n : Nat) : (countEvent s i n).hst = s.hst := rfl
@[simp] theorem countEvent_clk (i n : Nat) : (countEvent s i n).clk = s.clk := rfl
@[simp] theorem countEvent_tlm (i n : Nat) : (countEvent s i n).tlm = { s.tlm with counters := nmod 0 s.tlm.counters i (fun v => (v + n) % 2 ^ 48) } := rfl
@[simp] theorem countEvent_mdl (i n : Nat) : (countEvent s i n).mdl = s.mdl := rfl

/-! ### modB -/

@[simp] theorem modB_pending (f : Boundary → Boundary) : (modB s f).pending = s.pending := rfl
@[simp] theorem modB_out (f : Boundary → Boundary) : (modB s f).out = s.out := rfl
@[simp] theorem modB_free (f : Boundary → Boundary) : (modB s f).free = s.free := rfl
@[simp] theorem modB_glb (f : Boundary → Boundary) : (modB s f).glb = s.glb := rfl
@[simp] theorem modB_flash (f : Boundary → Boundary) : (modB s f).flash = s.flash := rfl
@[simp] theorem modB_fuses (f : Boundary → Boundary) : (modB s f).fuses = s.fuses := rfl
@[simp] theorem modB_defects (f : Boundary → Boundary) : (modB s f).defects = s.defects := rfl
@[simp] theorem modB_curves (f : Boundary → Boundary) : (modB s f).curves = s.curves := rfl
@[simp] theorem modB_regs (f : Boundary → Boundary) : (modB s f).regs = s.regs := rfl
@[simp] theorem modB_fe (f : Boundary → Boundary) : (modB s f).fe = s.fe := rfl
@[simp] theorem modB_tenants (f : Boundary → Boundary) : (modB s f).tenants = s.tenants := rfl
@[simp] theorem modB_launches (f : Boundary → Boundary) : (modB s f).launches = s.launches := rfl
@[simp] theorem modB_skeins (f : Boundary → Boundary) : (modB s f).skeins = s.skeins := rfl
@[simp] theorem modB_weave (f : Boundary → Boundary) : (modB s f).weave = s.weave := rfl
@[simp] theorem modB_mem (f : Boundary → Boundary) : (modB s f).mem = s.mem := rfl
@[simp] theorem modB_lostBursts (f : Boundary → Boundary) : (modB s f).lostBursts = s.lostBursts := rfl
@[simp] theorem modB_lostReaders (f : Boundary → Boundary) : (modB s f).lostReaders = s.lostReaders := rfl
@[simp] theorem modB_hbmStacks (f : Boundary → Boundary) : (modB s f).hbmStacks = s.hbmStacks := rfl
@[simp] theorem modB_tables (f : Boundary → Boundary) : (modB s f).tables = s.tables := rfl
@[simp] theorem modB_boundary (f : Boundary → Boundary) : (modB s f).boundary = s.boundary.map f := rfl
@[simp] theorem modB_group (f : Boundary → Boundary) : (modB s f).group = s.group := rfl
@[simp] theorem modB_ports (f : Boundary → Boundary) : (modB s f).ports = s.ports := rfl
@[simp] theorem modB_jrn (f : Boundary → Boundary) : (modB s f).jrn = s.jrn := rfl
@[simp] theorem modB_itg (f : Boundary → Boundary) : (modB s f).itg = s.itg := rfl
@[simp] theorem modB_emd (f : Boundary → Boundary) : (modB s f).emd = s.emd := rfl
@[simp] theorem modB_hst (f : Boundary → Boundary) : (modB s f).hst = s.hst := rfl
@[simp] theorem modB_clk (f : Boundary → Boundary) : (modB s f).clk = s.clk := rfl
@[simp] theorem modB_tlm (f : Boundary → Boundary) : (modB s f).tlm = s.tlm := rfl
@[simp] theorem modB_mdl (f : Boundary → Boundary) : (modB s f).mdl = s.mdl := rfl

/-! ### setFwState -/

@[simp] theorem setFwState_pending (n : Nat) : (setFwState s n).pending = s.pending := rfl
@[simp] theorem setFwState_out (n : Nat) : (setFwState s n).out = s.out := rfl
@[simp] theorem setFwState_free (n : Nat) : (setFwState s n).free = s.free := rfl
@[simp] theorem setFwState_glb (n : Nat) : (setFwState s n).glb = { s.glb with fwState := n } := rfl
@[simp] theorem setFwState_flash (n : Nat) : (setFwState s n).flash = s.flash := rfl
@[simp] theorem setFwState_fuses (n : Nat) : (setFwState s n).fuses = s.fuses := rfl
@[simp] theorem setFwState_defects (n : Nat) : (setFwState s n).defects = s.defects := rfl
@[simp] theorem setFwState_curves (n : Nat) : (setFwState s n).curves = s.curves := rfl
@[simp] theorem setFwState_regs (n : Nat) : (setFwState s n).regs = s.regs := rfl
@[simp] theorem setFwState_fe (n : Nat) : (setFwState s n).fe = s.fe := rfl
@[simp] theorem setFwState_tenants (n : Nat) : (setFwState s n).tenants = s.tenants := rfl
@[simp] theorem setFwState_launches (n : Nat) : (setFwState s n).launches = s.launches := rfl
@[simp] theorem setFwState_skeins (n : Nat) : (setFwState s n).skeins = s.skeins := rfl
@[simp] theorem setFwState_weave (n : Nat) : (setFwState s n).weave = s.weave := rfl
@[simp] theorem setFwState_mem (n : Nat) : (setFwState s n).mem = s.mem := rfl
@[simp] theorem setFwState_lostBursts (n : Nat) : (setFwState s n).lostBursts = s.lostBursts := rfl
@[simp] theorem setFwState_lostReaders (n : Nat) : (setFwState s n).lostReaders = s.lostReaders := rfl
@[simp] theorem setFwState_hbmStacks (n : Nat) : (setFwState s n).hbmStacks = s.hbmStacks := rfl
@[simp] theorem setFwState_tables (n : Nat) : (setFwState s n).tables = s.tables := rfl
@[simp] theorem setFwState_boundary (n : Nat) : (setFwState s n).boundary = s.boundary := rfl
@[simp] theorem setFwState_group (n : Nat) : (setFwState s n).group = s.group := rfl
@[simp] theorem setFwState_ports (n : Nat) : (setFwState s n).ports = s.ports := rfl
@[simp] theorem setFwState_jrn (n : Nat) : (setFwState s n).jrn = s.jrn := rfl
@[simp] theorem setFwState_itg (n : Nat) : (setFwState s n).itg = s.itg := rfl
@[simp] theorem setFwState_emd (n : Nat) : (setFwState s n).emd = s.emd := rfl
@[simp] theorem setFwState_hst (n : Nat) : (setFwState s n).hst = s.hst := rfl
@[simp] theorem setFwState_clk (n : Nat) : (setFwState s n).clk = s.clk := rfl
@[simp] theorem setFwState_tlm (n : Nat) : (setFwState s n).tlm = s.tlm := rfl
@[simp] theorem setFwState_mdl (n : Nat) : (setFwState s n).mdl = s.mdl := rfl

/-! ### Messages and error-log entries -/

@[simp] theorem msix_pending (fn e : Nat) : (msix s fn e).pending = s.pending := by unfold msix; split <;> rfl
@[simp] theorem msix_free (fn e : Nat) : (msix s fn e).free = s.free := by unfold msix; split <;> rfl
@[simp] theorem msix_glb (fn e : Nat) : (msix s fn e).glb = s.glb := by unfold msix; split <;> rfl
@[simp] theorem msix_flash (fn e : Nat) : (msix s fn e).flash = s.flash := by unfold msix; split <;> rfl
@[simp] theorem msix_fuses (fn e : Nat) : (msix s fn e).fuses = s.fuses := by unfold msix; split <;> rfl
@[simp] theorem msix_defects (fn e : Nat) : (msix s fn e).defects = s.defects := by unfold msix; split <;> rfl
@[simp] theorem msix_curves (fn e : Nat) : (msix s fn e).curves = s.curves := by unfold msix; split <;> rfl
@[simp] theorem msix_regs (fn e : Nat) : (msix s fn e).regs = s.regs := by unfold msix; split <;> rfl
@[simp] theorem msix_fe (fn e : Nat) : (msix s fn e).fe = s.fe := by unfold msix; split <;> rfl
@[simp] theorem msix_launches (fn e : Nat) : (msix s fn e).launches = s.launches := by unfold msix; split <;> rfl
@[simp] theorem msix_skeins (fn e : Nat) : (msix s fn e).skeins = s.skeins := by unfold msix; split <;> rfl
@[simp] theorem msix_weave (fn e : Nat) : (msix s fn e).weave = s.weave := by unfold msix; split <;> rfl
@[simp] theorem msix_mem (fn e : Nat) : (msix s fn e).mem = s.mem := by unfold msix; split <;> rfl
@[simp] theorem msix_lostBursts (fn e : Nat) : (msix s fn e).lostBursts = s.lostBursts := by unfold msix; split <;> rfl
@[simp] theorem msix_lostReaders (fn e : Nat) : (msix s fn e).lostReaders = s.lostReaders := by unfold msix; split <;> rfl
@[simp] theorem msix_hbmStacks (fn e : Nat) : (msix s fn e).hbmStacks = s.hbmStacks := by unfold msix; split <;> rfl
@[simp] theorem msix_tables (fn e : Nat) : (msix s fn e).tables = s.tables := by unfold msix; split <;> rfl
@[simp] theorem msix_boundary (fn e : Nat) : (msix s fn e).boundary = s.boundary := by unfold msix; split <;> rfl
@[simp] theorem msix_group (fn e : Nat) : (msix s fn e).group = s.group := by unfold msix; split <;> rfl
@[simp] theorem msix_ports (fn e : Nat) : (msix s fn e).ports = s.ports := by unfold msix; split <;> rfl
@[simp] theorem msix_jrn (fn e : Nat) : (msix s fn e).jrn = s.jrn := by unfold msix; split <;> rfl
@[simp] theorem msix_itg (fn e : Nat) : (msix s fn e).itg = s.itg := by unfold msix; split <;> rfl
@[simp] theorem msix_emd (fn e : Nat) : (msix s fn e).emd = s.emd := by unfold msix; split <;> rfl
@[simp] theorem msix_hst (fn e : Nat) : (msix s fn e).hst = s.hst := by unfold msix; split <;> rfl
@[simp] theorem msix_clk (fn e : Nat) : (msix s fn e).clk = s.clk := by unfold msix; split <;> rfl
@[simp] theorem msix_tlm (fn e : Nat) : (msix s fn e).tlm = s.tlm := by unfold msix; split <;> rfl
@[simp] theorem msix_mdl (fn e : Nat) : (msix s fn e).mdl = s.mdl := by unfold msix; split <;> rfl
@[simp] theorem logErr_pending (code tenant a b : Nat) : (logErr s code tenant a b).pending = s.pending := by
  unfold logErr; dsimp only; split <;> simp
@[simp] theorem logErr_free (code tenant a b : Nat) : (logErr s code tenant a b).free = s.free := by
  unfold logErr; dsimp only; split <;> simp
@[simp] theorem logErr_glb (code tenant a b : Nat) : (logErr s code tenant a b).glb = s.glb := by
  unfold logErr; dsimp only; split <;> simp
@[simp] theorem logErr_flash (code tenant a b : Nat) : (logErr s code tenant a b).flash = s.flash := by
  unfold logErr; dsimp only; split <;> simp
@[simp] theorem logErr_fuses (code tenant a b : Nat) : (logErr s code tenant a b).fuses = s.fuses := by
  unfold logErr; dsimp only; split <;> simp
@[simp] theorem logErr_defects (code tenant a b : Nat) : (logErr s code tenant a b).defects = s.defects := by
  unfold logErr; dsimp only; split <;> simp
@[simp] theorem logErr_curves (code tenant a b : Nat) : (logErr s code tenant a b).curves = s.curves := by
  unfold logErr; dsimp only; split <;> simp
@[simp] theorem logErr_regs (code tenant a b : Nat) : (logErr s code tenant a b).regs = s.regs := by
  unfold logErr; dsimp only; split <;> simp
@[simp] theorem logErr_fe (code tenant a b : Nat) : (logErr s code tenant a b).fe = s.fe := by
  unfold logErr; dsimp only; split <;> simp
@[simp] theorem logErr_launches (code tenant a b : Nat) : (logErr s code tenant a b).launches = s.launches := by
  unfold logErr; dsimp only; split <;> simp
@[simp] theorem logErr_skeins (code tenant a b : Nat) : (logErr s code tenant a b).skeins = s.skeins := by
  unfold logErr; dsimp only; split <;> simp
@[simp] theorem logErr_weave (code tenant a b : Nat) : (logErr s code tenant a b).weave = s.weave := by
  unfold logErr; dsimp only; split <;> simp
@[simp] theorem logErr_mem (code tenant a b : Nat) : (logErr s code tenant a b).mem = s.mem := by
  unfold logErr; dsimp only; split <;> simp
@[simp] theorem logErr_lostBursts (code tenant a b : Nat) : (logErr s code tenant a b).lostBursts = s.lostBursts := by
  unfold logErr; dsimp only; split <;> simp
@[simp] theorem logErr_lostReaders (code tenant a b : Nat) : (logErr s code tenant a b).lostReaders = s.lostReaders := by
  unfold logErr; dsimp only; split <;> simp
@[simp] theorem logErr_hbmStacks (code tenant a b : Nat) : (logErr s code tenant a b).hbmStacks = s.hbmStacks := by
  unfold logErr; dsimp only; split <;> simp
@[simp] theorem logErr_tables (code tenant a b : Nat) : (logErr s code tenant a b).tables = s.tables := by
  unfold logErr; dsimp only; split <;> simp
@[simp] theorem logErr_boundary (code tenant a b : Nat) : (logErr s code tenant a b).boundary = s.boundary := by
  unfold logErr; dsimp only; split <;> simp
@[simp] theorem logErr_group (code tenant a b : Nat) : (logErr s code tenant a b).group = s.group := by
  unfold logErr; dsimp only; split <;> simp
@[simp] theorem logErr_ports (code tenant a b : Nat) : (logErr s code tenant a b).ports = s.ports := by
  unfold logErr; dsimp only; split <;> simp
@[simp] theorem logErr_jrn (code tenant a b : Nat) : (logErr s code tenant a b).jrn = s.jrn := by
  unfold logErr; dsimp only; split <;> simp
@[simp] theorem logErr_itg (code tenant a b : Nat) : (logErr s code tenant a b).itg = s.itg := by
  unfold logErr; dsimp only; split <;> simp
@[simp] theorem logErr_emd (code tenant a b : Nat) : (logErr s code tenant a b).emd = s.emd := by
  unfold logErr; dsimp only; split <;> simp
@[simp] theorem logErr_hst (code tenant a b : Nat) : (logErr s code tenant a b).hst = s.hst := by
  unfold logErr; dsimp only; split <;> simp
@[simp] theorem logErr_clk (code tenant a b : Nat) : (logErr s code tenant a b).clk = s.clk := by
  unfold logErr; dsimp only; split <;> simp
@[simp] theorem logErr_mdl (code tenant a b : Nat) : (logErr s code tenant a b).mdl = s.mdl := by
  unfold logErr; dsimp only; split <;> simp

theorem logErr_counters (code tenant a b : Nat) : (logErr s code tenant a b).tlm.counters = s.tlm.counters := by
  unfold logErr; dsimp only; split <;> simp

/-- An error log that is not full of numbers takes one entry: the next number is one more. -/
theorem logErr_next (code tenant a b : Nat) (h : s.tlm.next ≠ 2 ^ 64 - 1) :
    (logErr s code tenant a b).tlm.next = s.tlm.next + 1 := by
  unfold logErr; dsimp only; rw [if_neg h]; simp

/-- A log at its largest number takes none. -/
theorem logErr_full (code tenant a b : Nat) (h : s.tlm.next = 2 ^ 64 - 1) : logErr s code tenant a b = s := by
  unfold logErr; dsimp only; rw [if_pos h]

/-! ### Reading back -/

@[simp] theorem getT_modT_self (i : Nat) (f : TenantSt → TenantSt) : getT (modT s i f) i = f (getT s i) := by simp [getT]
theorem getT_modT_ne {i j : Nat} (f : TenantSt → TenantSt) (h : j ≠ i) : getT (modT s i f) j = getT s j := by simp [getT, nget_nmod, h]

@[simp] theorem getK_modK_self (i : Nat) (f : SkeinSt → SkeinSt) : getK (modK s i f) i = f (getK s i) := by simp [getK]
theorem getK_modK_ne {i j : Nat} (f : SkeinSt → SkeinSt) (h : j ≠ i) : getK (modK s i f) j = getK s j := by simp [getK, nget_nmod, h]

@[simp] theorem getS_modS_self (i : Nat) (f : StackSt → StackSt) : getS (modS s i f) i = f (getS s i) := by simp [getS]
theorem getS_modS_ne {i j : Nat} (f : StackSt → StackSt) (h : j ≠ i) : getS (modS s i f) j = getS s j := by simp [getS, nget_nmod, h]

@[simp] theorem getP_modP_self (i : Nat) (f : PortSt → PortSt) : getP (modP s i f) i = f (getP s i) := by simp [getP]
theorem getP_modP_ne {i j : Nat} (f : PortSt → PortSt) (h : j ≠ i) : getP (modP s i f) j = getP s j := by simp [getP, nget_nmod, h]

end Sys2Proof.Machine
end

