-- ==== Sys2Proof/Laws/Memory.lean ====
section
/-! SUPPORT. Device memory: every operation that writes it keeps the canonical form, and what a read gives after a write. -/

namespace Sys2Proof.Machine

variable {s : State}

/-- A fold of steps that each keep the form keeps it. -/
theorem foldl_mem_wf {β : Type} (f : State → β → State) (hf : ∀ s b, Memory.wf s.mem = true → Memory.wf (f s b).mem = true) :
    ∀ (l : List β) {s : State}, Memory.wf s.mem = true → Memory.wf (l.foldl f s).mem = true
  | [], _, h => h
  | b :: l, _, h => foldl_mem_wf f hf l (hf _ b h)

/-- Memory right after reset is in the form. -/
theorem reset_mem_wf : Memory.wf State.reset.mem = true := rfl

/-- Bytes written to memory. -/
theorem memWrite_wf (h : Memory.wf s.mem = true) (a : Nat) (b : Bytes) : Memory.wf (memWrite s a b).mem = true :=
  nputs_wf b a h

/-- A row written. -/
theorem rowWrite_wf (h : Memory.wf s.mem = true) (p : Loc) (b : Bytes) : Memory.wf (rowWrite s p b).mem = true :=
  foldl_mem_wf _ (fun _ _ h => memWrite_wf h _ _) _ h

/-- A write-combining entry flushed. -/
theorem flushEntry_wf (h : Memory.wf s.mem = true) (w : WcEntry) : Memory.wf (flushEntry s w).mem = true := by
  unfold flushEntry
  refine foldl_mem_wf _ (fun s b h => ?_) _ h
  dsimp only
  split
  · exact h
  · split
    · exact nputs_wf _ _ h
    · split
      · rw [logErr_mem]
        exact h
      · exact foldl_nput_wf id _ h

/-- Entries of a stack flushed. -/
theorem flushWhere_wf (h : Memory.wf s.mem = true) (i : Nat) (p : WcEntry → Bool) :
    Memory.wf (flushWhere s i p).mem = true :=
  foldl_mem_wf _ (fun _ w h => flushEntry_wf h w) _ h

/-- The line a read reaches flushed. -/
theorem flushLine_wf (h : Memory.wf s.mem = true) (line : Nat) : Memory.wf (flushLine s line).mem = true :=
  flushWhere_wf h _ _

/-- Every entry flushed. -/
theorem flushAll_wf (h : Memory.wf s.mem = true) : Memory.wf (flushAll s).mem = true :=
  foldl_mem_wf _ (fun _ i h => flushWhere_wf h i _) _ h

/-- A write through the combining buffers. -/
theorem wcWrite_wf (h : Memory.wf s.mem = true) (fn line off : Nat) (b : Bytes) :
    Memory.wf (wcWrite s fn line off b).mem = true := by
  unfold wcWrite
  dsimp only
  split
  · exact flushLine_wf (s := modS s _ _) h _
  · split
    · split
      · exact flushLine_wf (s := modS s _ _) h _
      · exact h
    · exact h

/-- A range zeroed. -/
theorem zeroRange_wf (h : Memory.wf s.mem = true) (a n : Nat) : Memory.wf (zeroRange s a n).mem = true :=
  filter_wf _ h

/-- A write that ends the loss of the bursts it covers. -/
theorem writeClear_wf (h : Memory.wf s.mem = true) (a : Nat) (b : Bytes) : Memory.wf (writeClear s a b).mem = true :=
  memWrite_wf h a b

/-- Bytes read back where they were written. -/
theorem memRead_memWrite (s : State) (a : Nat) (b : Bytes) : memRead (memWrite s a b) a b.length = b :=
  ngets_nputs b s.mem a

/-- A write leaves every byte outside it alone. -/
theorem memWrite_outside (s : State) {a j : Nat} (b : Bytes) (h : j < a ∨ a + b.length ≤ j) :
    nget 0 (memWrite s a b).mem j = nget 0 s.mem j :=
  nget_nputs_outside b a h

/-- A zeroed byte reads 0, and every other byte as before. -/
theorem zeroRange_read (s : State) (a n j : Nat) :
    nget 0 (zeroRange s a n).mem j = if a ≤ j ∧ j < a + n then 0 else nget 0 s.mem j := by
  unfold zeroRange
  dsimp only
  induction s.mem with
  | nil => simp [nget]
  | cons p m ih =>
    obtain ⟨k, v⟩ := p
    rw [List.filter_cons]
    split
    · rename_i hk
      simp only [decide_eq_true_eq] at hk
      simp only [nget, ih]
      by_cases hj : j = k
      · subst hj
        have : ¬(a ≤ j ∧ j < a + n) := by omega
        simp [this]
      · simp [hj]
    · rename_i hk
      simp only [decide_eq_true_eq] at hk
      rw [ih]
      by_cases hj : j = k
      · subst hj
        have : a ≤ j ∧ j < a + n := by omega
        simp [this]
      · simp [nget, hj]

end Sys2Proof.Machine
end

