-- ==== Sys2Proof/Tests/Slice0.lean ====
section
/-! SUPPORT. Tests: ill-formed terms that the checks refuse, words written out from the spec's encodings, and for each
obligation with hypotheses a state and operands that meet them. -/

namespace Sys2Proof.Tests

-- Evaluated one after another: each of these proofs waits for the kernel, and waiting ones would each hold a thread.
set_option Elab.async false

open Sys2Proof Sys2Proof.Machine

/-! ### Terms -/

/-- A header with no optional field. -/
abbrev h0 : Hdr :=
  { pred := 0, pneg := false, rnd := 0, fmask := 0, sat := false, scale := 0, fd := 0, fa := 0, fb := 0, fc := 0 }
/-- A Form S word with every field 0. -/
abbrev s0 : SWord := { hdr := h0, sd := 0, sa := 0, sb := 0, imm := 0 }
/-- A Form M word with every field 0. -/
abbrev m0 : MWord := { hdr := h0, sd := 0, sa := 0, sb := 0, sc := 0, imm32 := 0, param := 0 }
/-- An unused operand. -/
abbrev o0 : Opd := { kind := false, trans := false, base := 0, stride := 0 }
/-- Tile t. -/
abbrev ot (t : Nat) : Opd := { kind := false, trans := false, base := BitVec.ofNat 22 t, stride := 0 }
/-- Scratch rows from a base. -/
abbrev os (base stride : Nat) : Opd :=
  { kind := true, trans := false, base := BitVec.ofNat 22 base, stride := BitVec.ofNat 16 stride }
/-- A Form T word of one element. -/
abbrev t0 : TWord := { hdr := h0, mm1 := 0, nm1 := 0, km1 := 0, engine := 0, d := o0, a := o0, b := o0, c := o0 }
/-- A VARITH word on FP32. -/
abbrev v0 : VarithW := { fmt := 0, rnd := 0, vd := 0, va := 1, vb := 2, vc := 3 }
/-- A VPERM word on FP32. -/
abbrev p0 : VpermW := { fmt := 0, vd := 0, va := 1, vb := 2, xs := 1, imm5 := 0 }

/-! ### Ill-formed words -/

theorem test_wf_scalar :
    (Instr.add 0 { s0 with hdr := { h0 with rnd := 1 } }).wf = false ∧
    (Instr.nop 0 { s0 with sd := 1 }).wf = false ∧
    (Instr.cmpeq 0 { s0 with sd := 0 }).wf = false ∧
    (Instr.cmplt 0 { s0 with sd := 16 }).wf = false ∧
    (Instr.pand 0 { s0 with sd := 1, sa := 16 }).wf = false ∧
    (Instr.pnot 0 { s0 with sd := 1, sb := 1 }).wf = false ∧
    (Instr.lds 0 { s0 with sb := 1 }).wf = false ∧
    (Instr.ldc 0 { s0 with imm := 512 }).wf = false ∧
    (Instr.ldc 0 { s0 with imm := 4 }).wf = false ∧
    (Instr.br 0 { s0 with sa := 1 }).wf = false ∧
    (Instr.bri 0 { s0 with imm := 1 }).wf = false ∧
    (Instr.call 0 { s0 with sa := 1 }).wf = false ∧
    (Instr.rdflags 0 { s0 with imm := 1 }).wf = false ∧
    (Instr.asplit 0 { s0 with imm := 16 }).wf = false := by decide +kernel

theorem test_wf_header :
    (Instr.tld 0 { t0 with a := os 0 4, hdr := { h0 with rnd := 7 } }).wf = false ∧
    (Instr.tld 0 { t0 with a := os 0 4, hdr := { h0 with fd := 15 } }).wf = false ∧
    (Instr.tld 0 { t0 with a := os 0 4, hdr := { h0 with fa := 15 } }).wf = false ∧
    (Instr.tld 0 { t0 with a := os 0 4, hdr := { h0 with sat := true } }).wf = false ∧
    (Instr.tzero 0 { t0 with hdr := { h0 with fmask := 1 } }).wf = false ∧
    (Instr.mmul 0 { t0 with hdr := { h0 with fb := 15 } }).wf = false ∧
    (Instr.mmul 0 { t0 with hdr := { h0 with fc := 1 } }).wf = false := by decide +kernel

theorem test_wf_tiles :
    (Instr.mmul 0 { t0 with engine := 3 }).wf = false ∧
    (Instr.mmul 0 { t0 with c := ot 1 }).wf = false ∧
    (Instr.mmul 0 { t0 with d := { o0 with trans := true } }).wf = false ∧
    (Instr.mmac 0 { t0 with d := ot 64 }).wf = false ∧
    (Instr.mmac 0 { t0 with c := { o0 with stride := 4 } }).wf = false ∧
    (Instr.tld 0 t0).wf = false ∧
    (Instr.tst 0 t0).wf = false ∧
    (Instr.tzero 0 { t0 with a := ot 1 }).wf = false ∧
    (Instr.tcvt 0 { t0 with km1 := 1 }).wf = false ∧
    (Instr.tcopy 0 { t0 with hdr := { h0 with fd := 1 } }).wf = false := by decide +kernel

theorem test_wf_form_m :
    (Instr.ckpt 0 { m0 with param := 1 }).wf = false ∧
    (Instr.strgo 0 { m0 with param := 1 + 2 ^ 64 }).wf = false ∧
    (Instr.strwait 0 { m0 with sb := 1 }).wf = false ∧
    (Instr.stmopen 0 { m0 with param := 32 }).wf = false ∧
    (Instr.stmrearm 0 m0).wf = false ∧
    (Instr.stmclose 0 { m0 with imm32 := 32 }).wf = false ∧
    (Instr.stmwait 0 { m0 with sd := 1 }).wf = false ∧
    (Instr.nbgp 0 { m0 with sb := 1 }).wf = false ∧
    (Instr.nbdot 0 { m0 with hdr := { h0 with fb := 3 } }).wf = false ∧
    (Instr.nbsa 0 { m0 with sc := 1 }).wf = false ∧
    (Instr.nbcopy 0 { m0 with sd := 1 }).wf = false ∧
    (Instr.tally 0 { m0 with imm32 := 96 }).wf = false ∧
    (Instr.talrd 0 { m0 with param := 1 }).wf = false ∧
    (Instr.rowrd 0 { m0 with sc := 1 }).wf = false ∧
    (Instr.splice 0 { m0 with imm32 := 1 }).wf = false ∧
    (Instr.seqf 0 { m0 with sc := 1 }).wf = false ∧
    (Instr.frameOpen 0 m0).wf = false ∧
    (Instr.frameNext 0 m0).wf = false ∧
    (Instr.frameRead 0 m0).wf = false ∧
    (Instr.frameClose 0 m0).wf = false := by decide +kernel

theorem test_wf_strand :
    (Instr.branch 0 0 { cond := 7, xa := 0, xb := 0, off := 0 }).wf = false ∧
    (Instr.vadd 0 0 { v0 with fmt := 15 }).wf = false ∧
    (Instr.vadd 0 0 { v0 with rnd := 7 }).wf = false ∧
    (Instr.vfma 0 0 { v0 with fmt := 8 }).wf = false ∧
    (Instr.vcurve 0 0 { v0 with vb := 0, vc := 0 }).wf = false ∧
    (Instr.vcurve 0 0 { v0 with vb := 2, vc := 1 }).wf = false ∧
    (Instr.vcvt 0 0 { fd := 15, fa := 0, rnd := 0, sat := false, scale := 0, vd := 0, va := 0 }).wf = false ∧
    (Instr.perm 0 0 { p0 with fmt := 15 }).wf = false ∧
    (Instr.pack 0 0 { p0 with imm5 := 1 }).wf = false ∧
    (Instr.trd 0 0 { fmt := 15, tile := 0, v := 0, xs := 0 }).wf = false ∧
    (Instr.vld 0 0 { xa := 0, xd := 8, off := 0 }).wf = false ∧
    (Instr.strandLdc 0 0 { xd := 1, imm := 2 }).wf = false := by decide +kernel

theorem test_wf_events :
    (Instr.mvpChunkDone 0 1 256 0 0).wf = false ∧
    (Instr.doorbellPoll [(128, zeros 64)]).wf = false ∧
    (Instr.doorbellPoll [(0, zeros 63)]).wf = false ∧
    (Instr.descriptorFetch 0 0 0 (some (zeros 255))).wf = false ∧
    (Instr.admission 0 0 (some (zeros 511)) none).wf = false ∧
    (Instr.admission 0 0 none (some (zeros 127))).wf = false ∧
    (Instr.portTrained 0 3 (zeros 16)).wf = false ∧
    (Instr.portTrained 0 8 (zeros 15)).wf = false ∧
    (Instr.helloSend 0 (zeros 11)).wf = false ∧
    (Instr.registerWrite 0 0 0 0).wf = false := by decide +kernel

/-! ### One launch on skein 0 -/

/-- A table descriptor: handle, kind, exponent of its size, count, plane bases, map and data area. -/
def tdesc (h kind size count base0 base1 map data len : Nat) : Bytes :=
  leBytes 2 h ++ [BitVec.ofNat 8 kind, 0, 0, BitVec.ofNat 8 size] ++ zeros 2 ++ leBytes 4 count ++ leBytes 2 base0 ++
  leBytes 2 base1 ++ leBytes 8 map ++ leBytes 8 data ++ leBytes 8 len ++ [4] ++ zeros 3 ++ leBytes 4 0 ++ zeros 16

/-- A stream descriptor of one arming of `n` bytes: direction, side, options, ring. -/
def sdesc (dir space opt armings ring ringLen n : Nat) : Bytes :=
  [BitVec.ofNat 8 dir, BitVec.ofNat 8 space, 0, BitVec.ofNat 8 opt, 0, 0] ++ leBytes 2 armings ++ zeros 8 ++ leBytes 4 ring ++
  leBytes 4 ringLen ++ leBytes 4 n ++ (if n = 0 then zeros 16 else (List.replicate 4 (leBytes 4 1)).flatten) ++ zeros 20

/-- Row table 1, tally table 2, sequence table 3. -/
def schemas3 : List Bytes :=
  [tdesc 1 1 6 4 0 8 0x10000 0 0, tdesc 2 2 0 4 0 0 0x10100 0x20000 512, tdesc 3 3 6 4 0 0 0x10200 0x30000 4096]

/-- An accord of four program words and four strand words, with an IN, an OUT and an NB stream and three tables. -/
def acc : Accord :=
  { id := 1, digest := [],
    sections := [(2, zeros 128), (3, zeros 32), (4, zeros 16), (5, zeros 8),
      (6, sdesc 1 2 2 1 0 256 16 ++ sdesc 2 1 2 1 256 256 16 ++ sdesc 3 0 0 0 4096 4096 0), (7, schemas3.flatten), (9, zeros 8)] }

/-- A launch with one input and one output buffer of 4 KiB and 64 tally cells. -/
def dsc : Bytes :=
  zeros 6 ++ [1, 1] ++ zeros 28 ++ leBytes 4 64 ++ zeros 24 ++ zeros 8 ++ leBytes 4 4096 ++ zeros 116 ++ zeros 8 ++
  leBytes 4 4096 ++ zeros 52

/-- The launch. -/
def lch : Launch :=
  { id := 1, tenant := 0, ring := 0, seq := 0, desc := dsc, lcb := zeros 512, replay := [], held := [zeros 4096], epoch := 0,
    head := [], accord := acc, audit := false, watchdog := 0, admitted := 0,
    execs := [{ Exec.fresh .primary Place.any with phase := .placed, skein := some 0 }], stage := .running, reexecuted := false,
    audited := false, discarded := false, digestSeal := [], ids := [], copied := (0, 0) }

/-- Its place on the skein, with a core. -/
def ctx (c : Core) : SkeinCtx := { launch := 1, ex := 0, core := c, preloaded := true, started := true }

/-- Its scratch layout: no resident region, a bank of 2 MiB. -/
def env : Env := { acc, l := lch, ex := 0, res := 0, bank := 2 ^ 21 }

/-- The device with that launch running on skein 0. -/
def demo (c : Core) : State :=
  { State.reset with
    fe := { FrontSt.reset with accordCur := some acc }
    launches := [lch]
    tables := schemas3.map (fun d => { desc := d, since := 0, retired := none, young := [], pending := [], subjects := [], lost := false })
    skeins := [(0, { mode := .good, queue := [ctx c], resident := none, events := 0 })] }

/-- A core at its entry. -/
def c0 : Core := Core.entry 0

theorem layout_acc : resBytes acc = 0 ∧ bankBytes acc = 2 ^ 21 := by decide +kernel

theorem running_demo (c : Core) : Running (demo c) 0 (ctx c) env :=
  ⟨rfl, show some (Env.mk acc lch 0 (resBytes acc) (bankBytes acc)) = _ by rw [layout_acc.1, layout_acc.2]; rfl⟩

theorem issuing_demo (c : Core) (h : held c = false) : Issuing (demo c) 0 (ctx c) env :=
  ⟨rfl, (running_demo c).2, rfl, h⟩

theorem ready_demo (c : Core) (h : held c = false) (hp : c.pc < 4) : Ready (demo c) 0 (ctx c) env :=
  ⟨issuing_demo c h, ⟨by rw [show imageLen env.acc = 4 by decide +kernel]; exact hp, .inl (by decide +kernel)⟩⟩

/-- A core whose scalar registers 1, 2 and 3 hold values. -/
def cr (a b c : Nat) : Core := { c0 with sregs := [(1, BitVec.ofNat 64 a), (2, BitVec.ofNat 64 b), (3, BitVec.ofNat 64 c)] }

/-- A Form M word on those registers with stream, table and stream of its parameter. -/
abbrev mr (imm table stream : Nat) : MWord :=
  { m0 with sa := 1, sb := 2, sc := 3, imm32 := BitVec.ofNat 32 imm, param := BitVec.ofNat 128 (table + stream * 2 ^ 16) }

/-! ### Witnesses: control-core words -/

theorem witness_RegisterZeroAndPredicateZeroAreHardWired :
    ((63 : BitVec 6) ≠ 0 ∧ (0 : BitVec 6) ≠ 63) ∧ (0 < 1 ∧ 1 < 16 ∧ 0 < 15 ∧ 15 < 16 ∧ 15 ≠ 1) := by decide

theorem witness_ScalarArithmeticWords :
    Ready (demo c0) 0 (ctx c0) env ∧ legalAlu { s0 with sd := 1, sa := 2, sb := 3, imm := 1 } = true ∧ guardOn c0 h0 = true :=
  ⟨ready_demo _ rfl (by decide), by decide +kernel⟩

theorem witness_PredicateWords :
    Ready (demo c0) 0 (ctx c0) env ∧ guardOn c0 h0 = true ∧
    (legalCmp { s0 with sd := 15, sa := 1, imm := 1 } = true ∧ legalPred2 { s0 with sd := 1, sa := 15, sb := 15 } = true ∧
      legalPnot { s0 with sd := 1, sa := 15 } = true) :=
  ⟨ready_demo _ rfl (by decide), by decide +kernel⟩

/-- The first and the last eight bytes of scratch, the first and the last eight of the constant block. -/
theorem witness_ScratchAndConstantWords :
    (∀ a : Nat, Ready (demo (cr a 0 0)) 0 (ctx (cr a 0 0)) env) ∧ guardOn c0 h0 = true ∧
    (∀ a ∈ [0, 2 ^ 21 - 8], (legalLds { s0 with sd := 2, sa := 1, imm := 0 } = true ∧ a % 8 = 0 ∧ env.res ≤ a ∧ a + 8 ≤ env.top) ∧
      hazard env (cr a 0 0) [(a, 8)] [] = false ∧ hazard env (cr a 0 0) [] [(a, 8)] = false ∧
      extentReady (cr a 0 0) a 8 = true ∧ (getX64 (cr a 0 0) 1 + 0).toNat = a) ∧
    legalLdc { s0 with sd := 1, imm := 0 } = true ∧ legalLdc { s0 with sd := 1, imm := 504 } = true :=
  ⟨fun _ => ready_demo _ rfl (show 0 < 4 by decide), by decide +kernel, by decide +kernel, by decide +kernel⟩

/-- Targets at the first and the last word of the image; LOOP on s0, at 1 and elsewhere. -/
theorem witness_ControlFlowWords :
    Ready (demo (cr 3 1 0)) 0 (ctx (cr 3 1 0)) env ∧ guardOn (cr 3 1 0) h0 = true ∧
    (legalBare s0 = true ∧ quiet (cr 3 1 0) = true ∧ legalRdflags { s0 with sd := 1 } = true ∧
      legalAsplit { s0 with imm := 15 } = true ∧ legalBri { s0 with sa := 1 } = true ∧
      (getX64 (cr 3 1 0) 1).toNat < imageLen env.acc ∧
      (∀ n ∈ [0, 3], legalBr { s0 with imm := BitVec.ofNat 64 n } = true ∧ legalCall { s0 with sd := 2, imm := BitVec.ofNat 64 n } = true ∧
        legalCall { s0 with sd := 0, imm := BitVec.ofNat 64 n } = true ∧ (0 : Int) ≤ (0 : Int) + (BitVec.ofNat 64 n).toInt ∧
        (0 : Int) + (BitVec.ofNat 64 n).toInt < imageLen env.acc)) :=
  ⟨ready_demo _ rfl (by decide), by decide +kernel⟩

theorem witness_PredicatedOffWordOnlyCounts :
    (coreWord (.add 0 { s0 with hdr := { h0 with pred := 1 } })).isSome = true ∧
    (Instr.add 0 { s0 with hdr := { h0 with pred := 1 } }).wf = true ∧
    Sys2Proof.wordFits (demo c0) (.add 0 { s0 with hdr := { h0 with pred := 1 } }) = true ∧
    guardOn c0 { h0 with pred := 1 } = false ∧ Ready (demo c0) 0 (ctx c0) env :=
  ⟨by decide +kernel, by decide +kernel, by decide +kernel, by decide +kernel, ready_demo _ rfl (by decide)⟩

theorem witness_IllegalWordFailsTheSkein :
    Issuing (demo c0) 0 (ctx c0) env ∧
    (coreWord (.nop 0 { s0 with sd := 1 }) = some (0, h0) ∧ (Instr.nop 0 { s0 with sd := 1 }).wf = false) ∧
    (coreWord (.br 0 { s0 with imm := 4 }) = some (0, h0) ∧ Sys2Proof.wordFits (demo c0) (.br 0 { s0 with imm := 4 }) = false) :=
  ⟨issuing_demo _ rfl, by decide +kernel⟩

/-- The accord with a budget of one word for its entry. -/
def acc1 : Accord := { acc with sections := [(2, zeros 128), (3, zeros 8 ++ leBytes 8 1 ++ zeros 16), (9, zeros 8)] }

/-- A core that has counted one word. -/
def cw : Core := { c0 with words := 1 }

/-- A core past the image while a strand group runs. -/
def cgp : Core :=
  { c0 with
    pc := 4,
    groups := [{ id := 1, pc := 0, mask := 1, entry := 0, window := 0, winLen := 4096, rmask := 0, wmask := 0,
                 started := true, seen := noFlags, flags := noFlags, live := [0] }] }

/-- Past the image, past the image with a strand group that runs, and the budget of an entry of one word used up. -/
theorem witness_WordPastImageOrBudgetFaults :
    (Issuing (demo { c0 with pc := 4 }) 0 (ctx { c0 with pc := 4 }) env ∧
      imageLen env.acc ≤ (ctx { c0 with pc := 4 }).core.pc ∧ (Instr.nop 0 s0).wf = true) ∧
    (Issuing (demo cgp) 0 (ctx cgp) env ∧ cgp.groups ≠ [] ∧ imageLen env.acc ≤ cgp.pc) ∧
    (Issuing { demo cw with launches := [{ lch with accord := acc1 }] } 0 (ctx cw) { env with acc := acc1, l := { lch with accord := acc1 } } ∧
      cw.pc < imageLen acc1 ∧ wordBudget acc1 (dProg env.l.desc) ≠ 0 ∧ wordBudget acc1 (dProg env.l.desc) ≤ cw.words) :=
  ⟨⟨issuing_demo _ rfl, by decide +kernel⟩, ⟨issuing_demo _ rfl, by decide +kernel⟩,
    ⟨rfl, by decide +kernel, rfl, rfl⟩, by decide +kernel⟩

/-! ### Witnesses: tiles and matrix words -/

/-- One job of an m by n by k product of tiles 0, 8 and 16. -/
def mw (m n k : Nat) (engine : BitVec 2) : TWord :=
  { t0 with mm1 := BitVec.ofNat 8 (m - 1), nm1 := BitVec.ofNat 8 (n - 1), km1 := BitVec.ofNat 8 (k - 1), engine,
            d := ot 0, a := ot 8, b := ot 16 }

theorem witness_TileMoversWriteTheirResult :
    Ready (demo c0) 0 (ctx c0) env ∧ guardOn c0 h0 = true ∧ TilesFree c0 ∧
    (∀ p ∈ [(JobKind.tld, { t0 with a := os 0 4 }), (.tst, { t0 with d := os (2 ^ 21 - 4) 4 }), (.tzero, t0),
        (.tcvt, { t0 with d := ot 1, hdr := { h0 with sat := true, scale := 255 } }), (.tcopy, { t0 with d := ot 1 })],
      firstCause (tileFaults env p.1 p.2) = none ∧
      (let j := Job.fresh 1 p.1 p.2 0
       ((jobExtents j).1 ++ (jobExtents j).2).all (fun q => extentReady c0 q.1 q.2) = true)) ∧
    legalTld { t0 with a := os 0 4 } = true ∧ legalTst { t0 with d := os (2 ^ 21 - 4) 4 } = true ∧ legalTzero t0 = true ∧
    legalTcvt { t0 with d := ot 1, hdr := { h0 with sat := true, scale := 255 } } = true ∧
    legalTcopy { t0 with d := ot 1 } = true :=
  ⟨ready_demo _ rfl (by decide), by decide +kernel, ⟨rfl, rfl, rfl, rfl⟩, by decide +kernel⟩

theorem witness_TileRowsReadBack :
    o0.kind = false ∧ o0.trans = false ∧ (∀ m ∈ [1, 256], 0 < m ∧ m ≤ 256) ∧
    ∀ i, i < 1 → ∀ j, j < 1 → elemKey (tileOf o0) 1 i j ≠ 5 := by
  refine ⟨rfl, rfl, by decide, ?_⟩
  intro i hi j hj
  have : i = 0 := by omega
  have : j = 0 := by omega
  subst_vars
  decide

/-- Words for the arrays and for the MVP, and arrays of which two are split. -/
theorem witness_MatrixWordsQueueTheirProduct :
    (∀ a : BitVec 4, Ready (demo { c0 with asplit := a }) 0 (ctx { c0 with asplit := a }) env) ∧ guardOn c0 h0 = true ∧ TilesFree c0 ∧
    (∀ n ∈ [1, 2], firstCause (tileFaults env .mmul (mw 64 32 32 n)) = none ∧ legalMmul (mw 64 32 32 n) = true ∧
      firstCause (tileFaults env .mmac { mw 64 32 32 n with c := ot 24 }) = none ∧
      legalMmac { mw 64 32 32 n with c := ot 24 } = true) ∧
    (∀ a ∈ [0, 3], usesMvp (mw 64 32 32 1) a = false) ∧ usesMvp (mw 64 32 32 2) 0 = true ∧
    (let j := Job.fresh 1 .mmac { mw 64 32 32 1 with c := ot 24 } 0
     ((jobExtents j).1 ++ (jobExtents j).2).all (fun q => extentReady c0 q.1 q.2) = true) :=
  ⟨fun _ => ready_demo _ rfl (show 0 < 4 by decide), by decide +kernel, ⟨rfl, rfl, rfl, rfl⟩, by decide +kernel⟩

/-- A core with one job and its passes on the arrays. -/
def cj (kind : JobKind) (w : TWord) (asplit : BitVec 4) (done : NSet) (passes : List Nat) : Core :=
  { c0 with
    jobs := [{ Job.fresh 1 kind w asplit with dealt := 2, done }]
    arrays := (List.range passes.length).map (fun i => { array := i, job := 1, pass := passes.getD i 0 }) }
/-- A token that waits. -/
def want (t : Nat) (w : Bool) : TokenReq := ⟨t, w, 1, false⟩

/-- The first and the last pass; the last leaf where every token, C's tokens, and D's tokens are missing. -/
theorem witness_MatrixUnitsDeliver :
    (let c := cj .mmac (mw 2 2 33 1) 0 [0] [5]
     Running (demo c) 0 (ctx c) env ∧ (∃ j, c.jobs = [j] ∧ j.stage = .passes ∧ operandsGranted c j = true ∧ usesMvp j.word j.asplit = false ∧
       passRuns c j.id 5 = true ∧ leavesDone j = false ∧ leavesDone { j with done := sadd j.done 5 } = true)) ∧
    (let c := cj .mmac (mw 2 2 33 2) 0 [] []
     Running (demo c) 0 (ctx c) env ∧ (∃ j, c.jobs = [j] ∧ usesMvp j.word j.asplit = true) ∧ 1 < dimM (mw 2 2 33 2) ∧
       1 < dimN (mw 2 2 33 2) ∧ 1 < chunks (mw 2 2 33 2)) ∧
    ∀ t ∈ [want 24 false, want 0 true], let c := { cj .mmac { mw 2 2 33 1 with c := ot 24 } 0 [0] [5] with tokens := [t] }
     Running (demo c) 0 (ctx c) env ∧ c.jobs.all (operandsGranted c) = true :=
  ⟨⟨running_demo _, _, rfl, rfl, by decide +kernel⟩, ⟨running_demo _, ⟨_, rfl, by decide +kernel⟩, by decide +kernel⟩,
    fun t _ => ⟨running_demo _, by rename_i h; revert t h; decide +kernel⟩⟩

/-- Two whole passes, and two quadrant passes of one unit on a split array. -/
theorem witness_PassOrderDoesNotMatter :
    ∀ p ∈ [(mw 2 2 97 1, (0 : BitVec 4), 0, 5), (mw 32 32 32 1, 15, 1, 4)], let c := cj .mmul p.1 p.2.1 [] [p.2.2.1, p.2.2.2]
      Running (demo c) 0 (ctx c) env ∧ ∃ j, c.jobs = [j] ∧ j.stage = .passes ∧ passRuns c j.id p.2.2.1 = true ∧
        passRuns c j.id p.2.2.2 = true ∧ p.2.2.1 ≠ p.2.2.2 ∧ leavesDone { j with done := sadd j.done p.2.2.1 } = false ∧
        leavesDone { j with done := sadd j.done p.2.2.2 } = false ∧ (∃ t, exec (.arrayPassDone 0 j.id p.2.2.1) (demo c) = .next t) ∧
        ∃ t, exec (.arrayPassDone 0 j.id p.2.2.2) (demo c) = .next t := by
  intro p hp
  refine ⟨running_demo _, _, rfl, rfl, ?_, ?_, ?_, ?_, ?_, ⟨_, rfl⟩, ⟨_, rfl⟩⟩ <;> revert p <;> decide +kernel

theorem witness_TileTokensAreGrantedInIssueOrder :
    let c : Core := { c0 with tokens := [⟨3, false, 1, true⟩, ⟨3, false, 2, false⟩, ⟨3, true, 3, false⟩] }
    Running (demo c) 0 (ctx c) env ∧ (ctx c).core.jobs = [] ∧ c.tokens[1]? = some ⟨3, false, 2, false⟩ :=
  ⟨running_demo _, rfl, rfl⟩

/-! ### Witnesses: strands -/

/-- Group 1 of strands 0 and 1, started, with tile 3 to read and tile 4 to write and a window of 4 KiB. -/
def grp : Group :=
  { id := 1, pc := 0, mask := 3, entry := 0, window := 0, winLen := 4096, rmask := 8, wmask := 16, started := true,
    seen := noFlags, flags := noFlags, live := [0, 1] }

/-- Strand 0 in it, with values in registers 1 and 2. -/
def str (pc a b : Nat) : StrandSt :=
  { group := 1, pc, x := [(1, BitVec.ofNat 32 a), (2, BitVec.ofNat 32 b)], v := [], flags := noFlags }

/-- A core with that group. -/
def cg (t : StrandSt) : Core := { c0 with groups := [grp], strands := [(0, t)] }

theorem strand_demo (t : StrandSt) (hg : t.group = 1) (hp : t.pc < 4) :
    StrandReady (demo (cg t)) 0 0 (ctx (cg t)) env grp := by
  obtain ⟨g, pc, x, v, f⟩ := t
  simp only at hg hp
  subst hg
  exact ⟨running_demo _, rfl, rfl, by rw [show strImage env.acc = 4 by decide +kernel]; exact hp⟩

/-- Windows of no bytes and of the whole bank. -/
theorem witness_StrandGroupWords :
    Ready (demo (cr 3 0 (2 ^ 21))) 0 (ctx (cr 3 0 (2 ^ 21))) env ∧ guardOn (cr 3 0 (2 ^ 21)) h0 = true ∧
    legalStrgo (mr 0 8 0) = true ∧ Sys2Proof.wordFits (demo (cr 3 0 (2 ^ 21))) (.strgo 0 (mr 0 8 0)) = true ∧
    (getX64 c0 1).truncate 32 = (0 : BitVec 32) ∧ (getX64 (cr 3 0 (2 ^ 21)) 1).truncate 32 ≠ (0 : BitVec 32) ∧
    (∀ len ∈ [4096, 2 ^ 21], env.res ≤ 0 ∧ 0 + len ≤ env.top ∧ 0 % 128 = 0 ∧ len % 4096 = 0) ∧
    strandsBusy (cr 3 0 (2 ^ 21)) (maskStrands 3) = false ∧
    hazard env (cr 3 0 (2 ^ 21)) [(0, env.top)] [(0, 2 ^ 21)] = false ∧
    legalStrwait { m0 with sa := 1 } = true :=
  ⟨ready_demo _ rfl (by decide), by decide +kernel⟩

theorem witness_StrandsStartWithTheirSlice :
    let c : Core := { c0 with groups := [{ grp with started := false }] }
    Running (demo c) 0 (ctx c) env ∧ c.groups.find? (fun g => g.id == 1) = some { grp with started := false } ∧
    allGranted c 1 = true ∧ 0 ∈ grp.live ∧ 2 ∉ grp.live :=
  ⟨running_demo _, by decide +kernel⟩

theorem witness_StrandScalarWords : StrandReady (demo (cg (str 3 1 2))) 0 0 (ctx (cg (str 3 1 2))) env grp :=
  strand_demo _ rfl (by decide)

/-- Branches to the first and the last word; the last strand of a group and one that is not. -/
theorem witness_StrandControlWords :
    StrandReady (demo (cg (str 3 1 2))) 0 0 (ctx (cg (str 3 1 2))) env grp ∧
    (∀ n ∈ [0, -3], legalBranch { cond := 6, xa := 1, xb := 2, off := BitVec.ofInt 12 n } = true ∧
      (0 : Int) ≤ (3 : Int) + (BitVec.ofInt 12 n).toInt ∧ (3 : Int) + (BitVec.ofInt 12 n).toInt < strImage env.acc) ∧
    (sdel grp.live 0 ≠ [] ∧ sdel { grp with live := [0] }.live 0 = []) ∧
    ((cg (str 3 1 2)).jobs = [] ∧ (∀ h ∈ (cg (str 3 1 2)).groups, grp.id ≤ h.id) ∧ (cg (str 3 1 2)).nb = [] ∧
      (cg (str 3 1 2)).media.all (·.granted) = true) ∧
    legalSldc { xd := 1, imm := 0 } = true ∧ legalSldc { xd := 1, imm := 508 } = true :=
  ⟨strand_demo _ rfl (by decide), by decide +kernel⟩

theorem witness_LaneArithmeticWords :
    StrandReady (demo (cg (str 0 1 2))) 0 0 (ctx (cg (str 0 1 2))) env grp ∧ legalVarith v0 = true ∧
    legalVarith { v0 with fmt := 11 } = true ∧ legalVfloat { v0 with fmt := 4 } = true :=
  ⟨strand_demo _ rfl (by decide), by decide +kernel⟩

/-- A curve of one linear segment for function 1. -/
def curve1 : Curve :=
  let h : CurveHalf := { emin := -1, emax := 0, aboveFlags := noFlags, above := 0, segs := [[0, 0, 0, 0]] }
  { fid := 1, specials := [(0, 0), (0, 0), (0, 0), (0, 0)], pos := h, neg := h }

theorem witness_LaneReductionWords :
    let c := cg (str 0 1 2)
    let s : State := { demo c with curves := [{ version := 0, digest := [], curves := [curve1], file := [] }] }
    StrandReady s 0 0 (ctx c) env grp ∧
    (legalVarith v0 = true ∧ legalVcurve { v0 with vb := 1, vc := 0 } = true ∧
      (accordCurve s env.acc (curveId { v0 with vb := 1, vc := 0 })).isSome = true ∧
      legalVcvt { fd := 11, fa := 4, rnd := 4, sat := true, scale := 128, vd := 7, va := 0 } = true) :=
  ⟨⟨running_demo _, rfl, rfl, by decide +kernel⟩, by decide +kernel⟩

theorem witness_LanePermutationWords :
    StrandReady (demo (cg (str 0 1 2))) 0 0 (ctx (cg (str 0 1 2))) env grp ∧
    (legalVperm { p0 with imm5 := 31 } = true ∧ legalPack p0 = true ∧ legalPack { p0 with fmt := 11, imm5 := 28 } = true) :=
  ⟨strand_demo _ rfl (by decide), by decide +kernel⟩

/-- Keys of which one sorts before another, and of which neither does. -/
theorem witness_SortedLanesAreOrdered :
    (List.replicate 32 0).length = 32 ∧ sortsBefore .fp32 0x3F800000 0 = true ∧ sortsBefore .fp32 0 0 = false := by decide +kernel

/-- The ends of a strand's slice, of a window and of scratch. -/
theorem witness_StrandTileAndMemoryWords :
    let c := cg (str 0 0 (2 ^ 21 - 128))
    StrandReady (demo c) 0 0 (ctx c) env grp ∧
    (legalTile { fmt := 0, tile := 3, v := 1, xs := 1 } = true ∧ inMask grp.rmask 3 = true ∧ inMask grp.wmask 3 = false ∧
      inMask grp.wmask 4 = true ∧ (strX (str 0 31 0) 1).toNat ≤ 31 ∧ (strX (str 0 0 0) 1).toNat = 0) ∧
    (∀ p ∈ [(124, 4), (0, 128)], p.1 % p.2 = 0 ∧ env.res ≤ p.1 ∧ extentReady c p.1 p.2 = true ∧
      ∀ b, b < p.2 → inSlice grp 0 (p.1 + b) = true) ∧
    (∀ p ∈ [(0, 4), (4096, 128), (2 ^ 21 - 128, 128), (2 ^ 21 - 4, 4)], p.1 % p.2 = 0 ∧ p.1 + p.2 ≤ env.top ∧
      extentReady c p.1 p.2 = true ∧ ∀ b, b < p.2 → inWindow grp (p.1 + b) = true → inSlice grp 0 (p.1 + b) = true) ∧
    legalVld { xa := 2, xd := 7, off := 0 } = true :=
  ⟨strand_demo _ rfl (by decide), by decide +kernel, by decide +kernel, by decide +kernel, by decide +kernel⟩

/-! ### Witnesses: streams -/

/-- The persistent streams of the accord, IN and OUT, and its NB stream. -/
def din : StreamDesc :=
  { dir := 1, space := 2, buf := 0, convert := false, persistent := true, hint := 0, srcFmt := 0, dstFmt := 0, rnd := 0,
    sat := false, armings := 1, off := 0, ring := 0, ringLen := 256, counts := [16, 1, 1, 1, 1], strides := [0, 0, 0, 0], step := 0 }
/-- OUT. -/
def dout : StreamDesc := { din with dir := 2, space := 1, ring := 256 }
/-- NB. -/
def dnb : StreamDesc :=
  { din with dir := 3, space := 0, persistent := false, armings := 0, ring := 4096, ringLen := 4096, counts := [0, 0, 0, 0, 0] }

/-- A core on which stream 1 is open. -/
def cs (st : Stream) : Core := { cr 0 16 0 with streams := [(1, some st)] }

/-- Opening, arming, closing before and after the last unit, cancelling, and waits up to the marks' ends. -/
theorem witness_StreamWords :
    (∀ c : Core, held c = false → c.pc < 4 → Ready (demo c) 0 (ctx c) env) ∧ guardOn c0 h0 = true ∧
    (legalStmopen { m0 with imm32 := 1 } = true ∧ streamAt env.acc 0 = some din ∧ streamAt env.acc 64 = some dout ∧
      streamAt env.acc 128 = some dnb ∧ (∀ d ∈ [din, dout, dnb], openOk env c0 1 (freshStream d 0 0) = true ∧
        ringBusy env c0 (freshStream d 0 0) = false)) ∧
    (legalStmrearm { m0 with imm32 := 1 + 2 ^ 16 } = true ∧ (∀ d ∈ [din, dout], d.dir ≠ 3 ∧ d.persistent = true ∧
        extentOk env (freshStream d 0 0) 1 2 = true ∧ outClear (cs (freshStream d 0 0)) 1 (freshStream d 0 0) 1 2 = true)) ∧
    (legalStmclose { m0 with imm32 := 1 } = true ∧ (∀ st ∈ [{ freshStream din 0 0 with w := 16 }, { freshStream dout 0 0 with w := 16, q := 16 },
        freshStream dnb 0 0], closeReady st = true ∧ ringBusy env (cs st) st = false ∧ getStream (cs st) 1 = some st ∧
        held (cs st) = false)) ∧
    (legalStmwait { m0 with imm32 := 1, sa := 2, sb := 2 } = true ∧ totalBytes (freshStream din 0 0) = 16 ∧
      max (min (min 16 16) (16 + 256)) (max 0 (min 16 16)) ≤ ({ freshStream din 0 0 with w := 16 } : Stream).w) :=
  ⟨fun c => ready_demo c, by decide +kernel⟩

/-- A word on stream 1 when none is open; the near-bank words on table 1, SEQF on table 3. -/
theorem witness_WordOnClosedStreamRaisesNv :
    let w := { mr 0 1 1 with sb := 0, sc := 0 }
    let f := { mr 0 3 1 with sb := 0, sc := 0 }
    Ready (demo (cr 0 0 0)) 0 (ctx (cr 0 0 0)) env ∧ guardOn (cr 0 0 0) h0 = true ∧
    (getStream (cr 0 0 0) 1 = none ∧ legalStmrearm { m0 with imm32 := 1 + 2 ^ 16 } = true ∧
      legalStmclose { m0 with imm32 := 1 } = true ∧ legalStmwait { m0 with imm32 := 1 } = true) ∧
    ((sourceOf (demo (cr 0 0 0)) env (parHandle w)).isSome = true ∧ (sourceOf (demo (cr 0 0 0)) env (parHandle f)).isSome = true ∧
      legalSeqf f = true ∧ Sys2Proof.wordFits (demo (cr 0 0 0)) (.seqf 0 f) = true) ∧
    (∀ kind ∈ [NbKind.gp, .dot, .sa, .copy], firstCause (nbFaults kind w env (cr 0 0 0) 16 true) = none ∧
      hazard env (cr 0 0 0) (nbExtents kind w (cr 0 0 0) 16) [] = false ∧
      (nbExtents kind w (cr 0 0 0) 16).all (fun y => extentReady (cr 0 0 0) y.1 y.2) = true) ∧
    legalNbgp w = true ∧ legalNbdot w = true ∧ legalNbsa w = true ∧ legalNbcopy w = true ∧ legalRowrd w = true ∧
    Sys2Proof.wordFits (demo (cr 0 0 0)) (.nbgp 0 w) = true :=
  ⟨ready_demo _ rfl (show 0 < 4 by decide), by decide +kernel⟩

/-- The first unit of a stream and the last one of its armings; the first byte of the ring and the last. -/
theorem witness_StreamUnitsMove :
    (∀ n ∈ [0, 15], let st : Stream := { freshStream din 0 0 with w := n }
      getStream (cs st) 1 = some st ∧ 0 < unitRing din ∧ n % unitRing din = 0 ∧ (n + 1) * unitRing din ≤ 0 + din.ringLen ∧
      unitsOf st n 1 = [n] ∧ (unitSource env (demo (cs st)) st n).isSome = true ∧
      ((getK (demo (cs st)) 0).queue.find? (fun y => y.preloaded && (getStream y.core 1).isSome) = some (ctx (cs st)))) ∧
    (∀ n ∈ [0, 15], let st : Stream := { freshStream dout 0 0 with w := n, q := 16 }
      getStream (cs st) 1 = some st ∧ dout.isOut = true ∧ st.w + unitRing dout ≤ st.q ∧
      isParked (demo (cs st)) 1 (.outStream 0 1) = false ∧ ((findL (demo (cs st)) 1).bind (fun l => getX l 0)).isSome = true) ∧
    ∀ st, Running (demo (cs st)) 0 (ctx (cs st)) env :=
  ⟨by decide +kernel, by decide +kernel, fun _ => running_demo _⟩

/-! ### Witnesses: near-bank, tally and table words -/

/-- A core with an NB stream open as stream 1. -/
def cn : Core := { cr 0 64 0 with streams := [(1, some (freshStream dnb 0 0))] }

theorem witness_NearBankWordsResolveTheirRows :
    let w := { mr 0 1 1 with sb := 0, sc := 0 }
    Ready (demo cn) 0 (ctx cn) env ∧ guardOn cn h0 = true ∧
    ((sourceOf (demo cn) env (parHandle w)).any (fun src => !sourceDead src &&
      ([(0, 0)].foldl (nbResolve w env cn.nextId src)
        { s := dropAccess (demo cn) (.word 1 0), list := [], beyond := false, absent := none }).absent.isNone &&
      (src.maps [0]).all (fun line => !lineLost (demo cn) line && !lineBusy (demo cn) line)) = true) ∧
    (∀ kind ∈ [NbKind.gp, .dot, .sa, .copy], firstCause (nbFaults kind w env cn 16 true) = none ∧
      hazard env cn (nbExtents kind w cn 16) [] = false ∧ (nbExtents kind w cn 16).all (fun y => extentReady cn y.1 y.2) = true ∧
      nbBags kind 0 (nbIndexes (scratchRead env cn 0 8) 1) = [(0, 0)]) ∧
    (getStream cn (parStream w) = some (freshStream dnb 0 0) ∧ (freshStream dnb 0 0).desc.dir = 3 ∧
      0 + 256 ≤ (freshStream dnb 0 0).q + dnb.ringLen ∧ (∀ i, i < 8 → nbQueueFull cn i = false)) ∧
    legalNbgp w = true ∧ legalNbdot w = true ∧ legalNbsa w = true ∧ legalNbcopy w = true :=
  ⟨ready_demo _ rfl (show 0 < 4 by decide), by decide +kernel, by decide +kernel, by decide +kernel, by decide +kernel,
    by decide +kernel⟩

/-- An entry of a word on stack 1, bank 2, pseudo-channel 3. -/
def ent (p : NbPhase) : NbEntry :=
  { row := 1, bag := 0, bytes := zeros 64, stack := 1, lpc := 3, bank := 2, dramRow := 0, byte := 0, size := 64, phase := p }
/-- A word with that entry. -/
def nbw (p : NbPhase) : NbWord :=
  { id := 1, kind := .gp, word := m0, fmt := 0, entries := [{ ent .done with stack := 0 }, ent p], bags := 1, vec := [], bias := [],
    stream := 1, start := 0, len := 256, home := if p = .done then [1] else [], flags := noFlags }
/-- A core with that word in flight. -/
def cnb (p : NbPhase) : Core :=
  { c0 with nb := [nbw p], streams := [(1, some { freshStream dnb 0 0 with ranges := [⟨0, 256, false⟩] })] }
/-- A step of that entry, begun at time 1,000. -/
def stp (aborted ended : Option Nat) : NbStep :=
  { lpc := 3, bank := 2, phys := 3, row := 0, byte := 0, size := 64, owner := some ⟨1, 0, 1, 1⟩, since := 1000, aborted, ended }
/-- The device with that core and steps of stack 1, at a time. -/
def stepState (p : NbPhase) (ready : Bool) (steps : List NbStep) (now : Nat) : State :=
  { demo (cnb p) with
    clk := { ClockSt.reset with elapsed := now }
    hbmStacks := [(1, { StackSt.reset with ready, steps })] }

/-- A step that runs, has ended in NB-STATUS, and is aborted; times on both sides of the limits. -/
theorem witness_NearBankStepsServeTheirEntries :
    (∀ r ∈ [true, false], ∀ y ∈ [stp none none, stp none (some 2000), stp (some 3000) none], ∀ now ∈ [2279, 2280, 3279, 3280, 3639, 3640],
      stepAt (stepState .computing r [y] now) 1 3 2 = some y ∧ (getS (stepState .computing r [y] now) 1).ready = r ∧
      stepAt (stepState .computing r [y] now) 1 3 15 = none) ∧
    (32 * 0 < (stp none none).size ∧ 32 * 1 < (stp none none).size) ∧
    (2000 + 1280 ≤ 3280 ∧ 3279 < 2000 + 1280 ∧ (stp none none).since + 1280 ≤ 2280 ∧ 2279 < (stp none none).since + 1280 ∧
      3000 + 640 ≤ 3640 ∧ 3639 < 3000 + 640) ∧
    (let s := stepState .waiting true [] 0
     entryOf s ⟨1, 0, 1, 1⟩ = some (ent .waiting) ∧ stepFits s 1 3 2 true = true ∧ rowFenced s (entryLoc (ent .waiting)) = false ∧
      (getS s 1).held = [] ∧ (getS s 1).retraining = none) ∧
    ((cnb .done).nb.find? (fun m => m.id == 1) = some (nbw .done) ∧ nbComplete (nbw .done) = true ∧
      (∃ z ∈ (nbw .done).entries, z.bag = 0 ∧ z.stack = 1) ∧
      (∀ z ∈ (nbw .done).entries, z.bag = 0 → z.stack = 1 → z.phase = .done) ∧ 1 ≠ homeStack (nbw .done) 0) ∧
    ((∃ r ∈ ({ freshStream dnb 0 0 with ranges := [⟨0, 256, false⟩] } : Stream).ranges, r.start = 0 ∧ r.done = false) ∧
      (cnb .done).groups = []) ∧ ∀ c, Running (demo c) 0 (ctx c) env := by
  refine ⟨by decide +kernel, by decide, by decide, by decide +kernel,
    ⟨by decide +kernel, by decide +kernel, ?_, by decide +kernel, by decide +kernel⟩, ⟨?_, rfl⟩, running_demo⟩
  · exact ⟨ent .done, by decide, rfl, rfl⟩
  · exact ⟨⟨0, 256, false⟩, by decide, rfl, rfl⟩

/-- The first and the last cell of the area; one element and 32. -/
theorem witness_TallyWords :
    let w : MWord := { m0 with sa := 1, sb := 2 }
    (∀ c : Core, held c = false → c.pc < 4 → Ready (demo c) 0 (ctx c) env) ∧ guardOn (cr 63 0 0) h0 = true ∧
    (∀ p ∈ [(63, 0), (0, 31)], let c := cr p.1 0 0
      let v : MWord := { w with imm32 := BitVec.ofNat 32 p.2 }
      legalTally v = true ∧ legalTalrd v = true ∧ tallyTable v = false ∧ addKind (tallyCode v) = some .fp32 ∧
      ReadCode.ofCode (tallyCode v) = some .fp32 ∧ 0 + tallyCount v * 4 ≤ env.top ∧ firstCause (tallyFaults v env c) = none ∧ (∀ i ∈ tallyCells v env c, i < dTally env.l.desc) ∧
      hazard env c [(0, tallyCount v * 4), tallyIndexExtent v c] [] = false ∧
      hazard env c [tallyIndexExtent v c] [(0, tallyCount v * 4)] = false ∧ extentReady c 0 (tallyCount v * 4) = true ∧
      extentReady c (tallyIndexExtent v c).1 (tallyIndexExtent v c).2 = true) ∧
    (∀ lost ∈ [[], [Config.tallyBurst 1 0 0]], let s : State := { demo c0 with
       lostBursts := lost
       hbmStacks := [(0, { StackSt.reset with addends := [⟨1, 0, 0, .fp32, 0⟩] })] }
     (getS s 0).addends = [⟨1, 0, 0, .fp32, 0⟩] ∧ smem s.lostBursts (Config.tallyBurst 1 0 0) = !lost.isEmpty) := by
  refine ⟨fun c => ready_demo c, by decide +kernel, by decide +kernel, ?_⟩
  intro lost h
  rcases List.mem_cons.1 h with rfl | h
  · exact ⟨rfl, rfl⟩
  · rw [List.mem_singleton.1 h]; exact ⟨rfl, by simp [smem]⟩

theorem witness_TallyOrderDoesNotMatter :
    let s : State := { demo c0 with hbmStacks := [(0, { StackSt.reset with addends := [⟨1, 0, 0, .fp32, 0x7FC00000⟩] }),
      (1, { StackSt.reset with addends := [⟨1, 0, 4, .int32, 1⟩] })] }
    (0 : Stack) ≠ 1 ∧ s.lostBursts = [] ∧ (∃ t, exec (.tallyApply 0) s = .next t) ∧ ∃ t, exec (.tallyApply 1) s = .next t :=
  ⟨by decide, rfl, ⟨_, rfl⟩, ⟨_, rfl⟩⟩

/-- The first and the last row, a subject at the count and one below it. -/
theorem witness_RowAndSequenceReads :
    let w := { mr 0 1 1 with sb := 0, sc := 0 }
    let f := { mr 0 3 1 with sc := 0, sd := 4 }
    Ready (demo cn) 0 (ctx cn) env ∧ guardOn cn h0 = true ∧
    ((sourceOf (demo cn) env (parHandle w)).any (fun src => !sourceDead src && tSize src.desc == 64 && tCount src.desc == 4 &&
      (match gotRow (demo cn) env src 3 with | .value _ l => l.isEmpty | _ => false)) = true) ∧
    ((sourceOf (demo cn) env (parHandle f)).any (fun src => !sourceDead src && tCount src.desc == 4 &&
      (match gotSubject (demo cn) env src 3 with | .value v _ => v.events.isEmpty | _ => false)) = true) ∧
    (getStream cn 1 = some (freshStream dnb 0 0) ∧ rangeFits (freshStream dnb 0 0) (1 * 64) = true ∧ parStream w = 1 ∧ parStream f = 1) ∧
    ((sourceOf (demo cn) env 1).any (fun src => (src.maps [3] ++ rowsLines (demo cn) env [3] src).all (fun line =>
      !lineLost (demo cn) line && !lineBusy (demo cn) line)) = true) ∧
    legalRowrd w = true ∧ legalSeqf f = true ∧ Sys2Proof.wordFits (demo cn) (.rowrd 0 w) = true ∧
    Sys2Proof.wordFits (demo cn) (.seqf 0 f) = true ∧ hazard env cn [(0, 8)] [] = false ∧ extentReady cn 0 8 = true :=
  ⟨ready_demo _ rfl (show 0 < 4 by decide), by decide +kernel⟩

/-- A row write of table 1 at address 0, and a body of zeros, which names no table. -/
theorem witness_SpliceWordEmits :
    let body : Bytes := leBytes 2 1 ++ [1, 0] ++ leBytes 4 64 ++ zeros 16 ++ zeros 64
    let bank : NMap Byte := ((List.range 88).zip body).filter (fun p => p.2 != 0)
    let c : Core := { c0 with bank }
    (∀ c : Core, held c = false → c.pc < 4 → Ready (demo c) 0 (ctx c) env) ∧ guardOn c h0 = true ∧ legalSplice m0 = true ∧
    (scratchRead env c 0 88 = body ∧ (sourceOf (demo c) env (fld body 0 2)).any (fun src => spliceFits src.desc body) = true ∧
      leNat (scratchRead env c 4 4) = 64 ∧ (demo c).fe.queue.length < 4096) ∧
    ((sourceOf (demo c0) env (fld (zeros 24) 0 2)).any (fun src => spliceFits src.desc (zeros 24)) = false ∧
      scratchRead env c0 0 24 = zeros 24) ∧ hazard env c [(0, 88)] [] = false ∧ extentReady c 0 88 = true :=
  ⟨fun c => ready_demo c, by decide +kernel⟩

/-- A context of 64 by 64 frames from the first 16 bytes of the input. -/
def med (granted : Bool) (decoded : Nat) (cur : Option Nat) : Media :=
  { codec := 1, buf := 0, off := 0, len := 16, wMax := 64, hMax := 64, dpb := 1, deep := false, granted, decoded, taken := 0, cur }

/-- The frames of a bitstream are free (log 11): the clauses on a frame are met whenever this one holds one coded frame, of the
context's largest size, that outputs one frame. -/
theorem witness_FrameWords :
    let c (m : Media) : Core := { cr 0 0 (1 + 2 ^ 16) with media := some m }
    (∀ c : Core, held c = false → c.pc < 4 → Ready (demo c) 0 (ctx c) env) ∧ guardOn c0 h0 = true ∧
    (legalFrameOpen { m0 with sb := 2, sc := 3, param := 1 + 2 ^ 24 } = true ∧ c0.media = none ∧ 0 < dInputs env.l.desc ∧
      0 + 16 ≤ (dInput env.l.desc 0).2 ∧ mediaBytes 64 64 1 false ≤ 512 * 2 ^ 20) ∧
    (legalFrameClose { m0 with imm32 := 3 } = true ∧ legalFrameNext { m0 with imm32 := 1, sd := 1 } = true ∧
      legalFrameRead { m0 with imm32 := 2, sa := 1, sb := 2, sc := 3, param := 64 } = true) ∧
    (∀ f : MediaFrame, f.concealed = false → Config.mediaUnits 1 64 64 1 false (zeros 16) =
        [{ broken := false, width := 64, height := 64, depth := 8, buffers := 1, access := true, starts := true, output := [f],
           pending := [] }] →
      mediaFrames (demo (c (med true 1 none))) 1 (med true 1 none) = some [f] ∧ [f][0]? = some f ∧ 0 < (med true 1 none).decoded ∧ 0 < 2 ^ 32 ∧
      mediaFrames (demo (c (med true 1 (some 0)))) 1 (med true 1 (some 0)) = some [f] ∧ [f][1]? = none ∧
      (med true 0 none).decoded < [f].length) ∧
    ([(0, 4)].all (fun y => decide (env.res ≤ y.1 ∧ y.1 + y.2 ≤ env.top)) = true ∧
      hazard env (c (med true 1 (some 0))) [] [(0, 4)] = false) ∧
    ((mediaUse (demo (c (med false 0 none)))).1 < 256 ∧ engineRuns (demo (c (med true 0 none))) 0 = true) := by
  refine ⟨fun c => ready_demo c, by decide +kernel, by decide +kernel, by decide +kernel, ?_, by decide +kernel, by decide +kernel⟩
  intro f hc hf
  have h16 : slice (zeros 4096) 0 16 = zeros 16 := by decide +kernel
  have h : ∀ m : Media, m.codec = 1 → m.wMax = 64 → m.hMax = 64 → m.dpb = 1 → m.deep = false → m.off = 0 → m.len = 16 → m.buf = 0 →
      ∀ c, mediaFrames (demo c) 1 m = some [f] := by
    intro m h1 h2 h3 h4 h5 h6 h7 h8 c
    have : findL (demo c) 1 = some lch := rfl
    unfold mediaFrames
    rw [this]
    simp only [h1, h2, h3, h4, h5, h6, h7, h8, show lch.held.getD 0 [] = zeros 4096 from rfl, h16,
      show 0 + 16 ≤ (zeros 4096).length from by decide +kernel, if_true, hf, decodeUnits, List.foldl, decodeUnit, erroneous,
      Decoding.give, List.map, List.nil_append, List.append_nil]
    simp [← hc]
  exact ⟨h _ rfl rfl rfl rfl rfl rfl rfl rfl _, rfl, by decide, by decide, h _ rfl rfl rfl rfl rfl rfl rfl rfl _, rfl, Nat.one_pos⟩

theorem witness_CheckpointAndEnd :
    Ready (demo c0) 0 (ctx c0) env ∧ guardOn c0 h0 = true ∧ quiet c0 = true ∧ outDrained c0 = true ∧ legalCkpt m0 = true ∧
    (∃ x, (findL (settleTally (demo c0) 1 0) 1).bind (fun l => getX l 0) = some x ∧ x.ckpts = []) ∧
    poolRoom (settleTally (rset (demo c0) Reg.holdPoolSize 4) 1 0) (ckptBytes lch) = true ∧
    legalBare s0 = true ∧ resultQueue (demo c0) 0 < 16 :=
  ⟨ready_demo _ rfl (by decide), by decide +kernel, by decide +kernel, by decide +kernel, by decide +kernel, ⟨_, rfl, rfl⟩,
    by decide +kernel, by decide +kernel, by decide +kernel⟩

/-! ### Witnesses: submission, transfers and memory -/

/-- Ring 0 enabled, with consumed mark and tail, and its slots. -/
def rng (consumed tail : Nat) (slots : NMap (Option Bytes)) (decided : Option (Bytes × Bytes)) : RingSt :=
  { RingSt.off with enabled := true, consumed := BitVec.ofNat 32 consumed, tail := BitVec.ofNat 32 tail, slots, decided }

/-- A device in service that polls, with tenant 0's ring and completion ring. -/
def serving (r : RingSt) : State :=
  { demo c0 with
    glb := { GlobalSt.reset with phase := 6 }
    fe := { FrontSt.reset with accordCur := some acc, polling := true, idBlock := some 0 }
    launches := []
    skeins := [(0, { SkeinSt.none with mode := .good })]
    regs := [(Reg.pasidEnable.key 0, some 1)]
    tenants := [(0, { TenantSt.reset with rings := [(0, r)], cqOn := true })] }

/-- The descriptor with another expected accord. -/
def dscFor (a : Nat) : Bytes := dsc.take 40 ++ leBytes 4 a ++ dsc.drop 44

/-- Tenant 0 with that submission ring alone, polled last at a time, at an elapsed time. -/
def polls (last : Option Nat) (now : Nat) : State :=
  let s := serving (rng 0 0 [] none)
  { s with
    fe := { s.fe with lastPoll := last }
    tenants := [(0, { TenantSt.reset with rings := [(0, rng 0 0 [] none)] })]
    clk := { s.clk with elapsed := now } }

/-- A replay of the arena's zero head under the accord of digest zeros, and a device that serves it. -/
def dscR : Bytes := dsc.take 32 ++ leBytes 4 (fld dsc 32 4 ||| 1) ++ dsc.drop 36
/-- Its device: an arena that holds the zero head, or none. -/
def replaying (loaded : Nat) : State :=
  let s := serving (rng 0 1 [(0, some dscR)] (some (zeros 512, zeros 128)))
  { s with
    fe := { s.fe with accordCur := some { acc with digest := zeros 32 } }
    jrn := { s.jrn with arena := { s.jrn.arena with state := loaded } } }

/-- A tail one ring ahead, the 64th slot ahead, an accepted and a rejected slot, a bound launch, one whose expected accord is
another, a replay that matches and one that no longer does, and a skein with room. -/
theorem witness_SlotsAreReadAheadAndAdmitted :
    (∀ p ∈ [(none, 0), (some 0, 50000), (some 0, 49999)], let s := polls p.1 p.2
      s.fe.polling = true ∧ (∀ u, u < 128 → polledTenant s u = decide (u = 0)) ∧
      (∀ r, r < 4 → (getR (getT s 0) r).enabled = decide (r = 0)) ∧ pollDue s = decide (p.2 ≠ 49999) ∧ (getT s 0).cqOn = false ∧
      seqAfter 64 (rng 0 0 [] none).tail = true ∧ (64 - (rng 0 0 [] none).consumed).toNat ≤ (rng 0 0 [] none).size ∧
      seqAfter (BitVec.ofNat 32 (fld (zeros 64) 20 4)) (rng 0 0 [] none).cancel = false) ∧
    ((63 - (rng 0 64 [] none).consumed).toNat < ((rng 0 64 [] none).tail - (rng 0 64 [] none).consumed).toNat ∧
      nget none (rng 0 64 [] none).slots 63 = none ∧ smem (rng 0 64 [] none).dropped 63 = false) ∧
    (admissionCheck (serving (rng 0 1 [(0, some dsc)] none)) 0 0 dsc (some (zeros 512)) (some (zeros 128)) = none ∧
      admissionCheck (serving (rng 1 2 [(1, some dsc)] none)) 0 1 dsc (some (zeros 512)) (some (zeros 128)) = some (Status.seqMismatch, 0) ∧
      isTurn (serving (rng 0 1 [(0, some dsc)] none)) 0 0 = true ∧ isTurn (serving (rng 1 2 [(1, some dsc)] none)) 0 0 = true ∧
      nget none (rng 0 1 [(0, some dsc)] none).slots 0 = some dsc) ∧
    (∀ n ∈ [0, 2], let s := serving (rng 0 1 [(0, some (dscFor n))] (some (zeros 512, [])))
      isTurn s 0 0 = true ∧ dIsReplay (dscFor n) = false ∧ boundAccord s (dscFor n) [] = some acc ∧
      badForAccord s 0 (dscFor n) [] acc = none ∧ dAccord (dscFor n) = n ∧ acc.id = 1) ∧
    (∀ n ∈ [0, 2], let s := replaying n
      isTurn s 0 0 = true ∧ dIsReplay dscR = true ∧ replayMatches s (zeros 128) = decide (n = 2) ∧
      boundAccord s dscR (zeros 128) = some { acc with digest := zeros 32 } ∧
      badForAccord s 0 dscR (zeros 128) { acc with digest := zeros 32 } = none ∧ dAccord dscR = 0) ∧
    ((serving (rng 0 1 [(0, some dsc)] none)).fe.turn < 512) ∧
    (let l : Launch := { lch with execs := [Exec.fresh .primary Place.any] }
     let s : State := { serving (rng 0 0 [] none) with launches := [l] }
     findL s l.id = some l ∧ (getK s 0).mode = .good ∧ (getK s 0).queue.length < 8 ∧ s.fe.hang = none ∧ s.jrn.powerFail = false ∧
      sectionTaken l 0 (Exec.fresh .primary Place.any) 0 = false) := by
  decide +kernel

/-- The accord of a group of members 0 and 1 with a key of zeros. -/
def accG : Accord := { acc with sections := acc.sections ++ [(0x20, leBytes 4 1 ++ leBytes 4 3 ++ zeros 120)] }
/-- A port in a state, bound to member 1. -/
def prt (m : PortMode) : PortSt := { PortSt.reset with mode := m, partner := 1, own := zeros 16, theirs := zeros 16 }
/-- Member 0 of that group, with port 0. -/
def lny (q : PortSt) (g : GroupSt) : State :=
  { serving (rng 0 0 [] none) with
    fe := { FrontSt.reset with accordCur := some accG }
    ports := [(0, q)]
    group := { g with memberSet := true }
    clk := { ClockSt.reset with elapsed := 10 ^ 13 } }

/-- A launch whose input buffer is still being copied. -/
def copying : Launch := { lch with held := [[]] }
/-- The device with it; the launch at the front of skein 0 has not started. -/
def entering (preloaded : Bool) (resident : Option Bytes) : State :=
  { demo c0 with launches := [copying], skeins := [(0, { mode := .good, queue := [⟨1, 0, c0, preloaded, false⟩], resident, events := 0 })] }
/-- A page request of that launch, sent or not. -/
def req (sent : Bool) : PageReq := ⟨0, 5, 7, 1, .hold 0, 0, sent, false⟩

theorem witness_LaunchesStartAndTransfersPark :
    (findL (entering false none) copying.id = some copying ∧ holdOpen (entering false none) copying 0 = true ∧
      (holdNext copying 0).2 = 256 ∧ smem (entering false none).hst.failed copying.tenant = false ∧
      (fnConfig (entering false none) copying.tenant).priOn = true ∧ (entering false none).hst.requests = [] ∧
      0 < (fnConfig (entering false none) copying.tenant).priAlloc) ∧
    (let s : State := { entering false none with hst := { HostSt.reset with failed := [0], requests := [{ req true with dead := true }] } }
     smem s.hst.failed copying.tenant = true ∧ (∀ r, r ∈ s.hst.requests → r.fn = copying.tenant → r.sent = true ∨ r.dead = true) ∧
      (fnConfig { s with hst := { s.hst with config := [(0, { FnConfig.reset with priOn := false })] } } copying.tenant).priOn = false) ∧
    ((getK (entering false (some [])) 0).queue = ⟨1, 0, c0, false, false⟩ :: [] ∧
      (openPreloads (launchEnv copying 0) 0 (preloads acc (dProg copying.desc)) c0).isSome = true ∧
      (getK (entering false (some [])) 0).resident = some copying.accord.digest ∧ mayIssue (entering true (some [])) 1 = true) ∧
    (∀ sent ∈ [true, false], let s : State := { entering true none with hst := { HostSt.reset with requests := [req sent] } }
      (s.hst.requests.find? (fun r => r.fn == 0 && r.group == 7 && r.sent) = if sent then some (req sent) else none) ∧
      s.hst.requests.find? (fun r => r.fn == 0 && r.page == 5 && !r.dead && decide (r.due ≤ s.clk.elapsed)) = some (req sent) ∧
      wanted s (req sent) = true ∧ wanted { s with launches := [] } (req sent) = false) ∧
    (0 < 19 ∧ 18 < 19 ∧ (∀ i, i < 19 → 2 ^ 11 ≠ 2 ^ (12 + i)) ∧ rget (entering false none) Reg.pasid 0 ≠ (1 : BitVec 20).toNat) := by
  decide +kernel

/-- A stack with one combining entry, one rebuild, one retrain or in self-refresh. -/
def stk (f : StackSt → StackSt) : State :=
  { State.reset with hbmStacks := [(0, f StackSt.reset)], clk := { ClockSt.reset with elapsed := 10 ^ 13 } }
/-- A stack's pseudo-channel with a near-bank step in the bank of line 8. -/
def inStep (q : StackSt) : StackSt :=
  { q with
    wc := [{ line := 8, data := [(0, some 1)], since := 0, fn := 0, due := false }]
    steps := [{ stp none none with lpc := (stripedLoc (256 * 8)).lpc, bank := (stripedLoc (256 * 8)).bank }] }
/-- A device with the tally table alone, a burst of line 0x200 lost and read by a launch: its second line, or its first. -/
def losing (tables : List Bytes) (own : Accord) : State :=
  { demo c0 with
    fe := { FrontSt.reset with accordCur := some own }
    lostBursts := [8 * 0x200]
    lostReaders := [(0x200, 1)]
    tables := tables.map (fun d => { desc := d, since := 0, retired := none, young := [], pending := [], subjects := [], lost := false }) }

/-- An entry in a free and in a busy bank; the first and the last burst; a line with a replica's copy, one that the journal
gives back and one that it cannot; a rebuild one line before its end and at it. -/
theorem witness_StackControllersKeepTheirBytes :
    (let w : WcEntry := { line := 8, data := [(0, some 1)], since := 0, fn := 0, due := false }
     ∀ f ∈ [(fun q : StackSt => { q with wc := [w] }, false), (inStep, true)],
       (getS (stk f.1) 0).wc = [] ++ w :: [] ∧ w.line % 8 = 0 ∧ w.since + 2000 ≤ (stk f.1).clk.elapsed ∧ lineBusy (stk f.1) w.line = f.2) ∧
    (∀ b ∈ [0, dpaLimit / 32 - 57], 32 * b < dpaLimit ∧ (stripedLoc (32 * b)).stack = 0 ∧ inGroup (stk id) = false ∧
      lineBusy (stk id) (b / 8) = false ∧
      inGib (32 * b) (rget (stk id) Reg.holdPoolBase) (rget (stk id) Reg.holdPoolSize) = false ∧
      inGib (32 * b) (rget (stk id) Reg.emdBase) (rget (stk id) Reg.emdSize) = false) ∧
    (∀ p ∈ [(losing schemas3 accG, 0), (losing schemas3 acc, 1), (losing (schemas3.drop 1) acc, 2)],
      lineLost p.1 0x200 = true ∧ lineBusy p.1 0x200 = false ∧ inGroup p.1 = decide (p.2 = 0) ∧
      (tableHolding p.1 (256 * 0x200)).any (fun t => mapElements t 0x200 == [] && tData t.desc % 64 == 0 &&
        (let u : State := { p.1 with lostReaders := p.1.lostReaders.filter (fun r => r.1 != 0x200) }
         ((versions u).bind (fun v => reconLine u v t 0x200)).isSome == decide (p.2 < 2))) = true) ∧
    (∀ n ∈ [3145727, 3145728], (getS (stk (fun q => { q with rebuild := [⟨29, 30, n⟩] })) 0).rebuild = ⟨29, 30, n⟩ :: []) ∧
    ((getS (stk id) 0).retraining = none ∧ (getS (stk id) 0).rebuild.any (fun r => r.lpc == 29) = false ∧
      (getS (stk id) 0).steps.any (fun y => y.lpc == 29) = false ∧ retrainDue (stk id) 0 29 .period = true ∧
      (getS (stk (fun q => { q with retraining := some (29, .period) })) 0).retraining = some (29, .period) ∧
      (getS (stk (fun q => { q with selfRefresh := true })) 0).selfRefresh = true) ∧
    (let s : State := { State.reset with glb := { GlobalSt.reset with stopped := [stopRebuild] } }
     rebuildDue s = true ∧ (match flashRecon s (rebuildTarget s) with | .ok _ => True | .error _ => False)) := by
  refine ⟨?_, by decide +kernel, by decide +kernel, by decide +kernel, by decide +kernel, by decide +kernel, ?_⟩
  · intro w f hf
    rcases List.mem_cons.1 hf with rfl | h
    · decide +kernel
    · rw [List.mem_singleton.1 h]; decide +kernel
  · exact trivial

/-- A device whose skein 0 runs the launch; a skein in test; an execution in each phase; an engine after one event and after two. -/
theorem witness_FailedUnitsGiveTheirWorkAway :
    ((getK { demo c0 with skeins := [(0, { SkeinSt.none with mode := .good })] } 0).mode = .good ∧
      (getK { demo c0 with skeins := [(0, { SkeinSt.none with mode := .good })] } 0).queue = [] ∧
      (getK (demo c0) 0).queue = [ctx c0] ∧ findL (demo c0) 1 = some lch ∧
      (lch.execs[0]?).map (fun x => (x.role, x.ckpts, x.splices, x.phase)) = some (.primary, [], [], .placed)) ∧
    ((getK { demo c0 with skeins := [(0, { SkeinSt.none with mode := .testing })] } 0).mode = .testing ∧
      (getK { demo c0 with skeins := [(0, { SkeinSt.none with mode := .testing })] } 0).events = 0) ∧
    (∀ old ∈ [0, 2], let s : State := { demo c0 with weave := { WeaveSt.reset with events := List.replicate old (293, 0) } }
      smem s.weave.permanent 293 = false ∧
      ((((293, s.clk.elapsed) :: s.weave.events.filter (fun e => decide (s.clk.elapsed ≤ e.2 + 1000000000))).filter
        (fun e => e.1 == 293)).length < 3 ↔ old = 0)) ∧
    (∀ p ∈ [(ExPhase.placed, 0), (.result, 0), (.checked, 0), (.placed, 1)],
      let x : Exec := { Exec.fresh .primary Place.any with phase := p.1, skein := some 0, ckpts := List.replicate p.2 ⟨c0, [], []⟩ }
      let s : State := { demo c0 with launches := [{ lch with execs := [x] }] }
      findL s 1 = some { lch with execs := [x] } ∧ ({ lch with execs := [x] } : Launch).execs[0]? = some x ∧ lch.stage = .running ∧
        (if p.2 = 0 then (x.phase = .placed ∧ x.ckpts = []) ∨ x.phase = .result ∨ x.phase = .checked
         else x.phase = .placed ∧ x.ckpts ≠ [])) ∧
    ((serving (rng 0 0 [] none)).fe.hang = none ∧ (serving (rng 0 0 [] none)).launches = [] ∧
      (serving (rng 0 0 [] none)).glb.phase = 6 ∧ (getK (demo c0) 0).mode ≠ .absent) ∧
    (∀ n ∈ [0, 2], let s : State := { demo c0 with itg := ⟨[{ kind := chEngine, index := 3, times := List.replicate n 0, permanent := false }], 0, 0⟩ }
      smem s.emd.engines 3 = true ∧ (event s chEngine 3).2 = decide (n = 2) ∧ (channel s chEngine 3).permanent = false) := by
  decide +kernel

/-! ### Witnesses: integrity, boundaries and the journal -/

/-- An execution with its result, with flags and a verdict. -/
def res (role : Role) (p : ExPhase) (flags : Flags) : Exec := { Exec.fresh role Place.any with phase := p, flags }
/-- The accord with an envelope set that forbids inexact results of program 0. -/
def accE : Accord := { acc with sections := acc.sections ++ [(8, leBytes 4 1 ++ zeros 4 ++ [0, 0, 0, 0x3F] ++ zeros 4)] }
/-- The launch with executions at a stage, under that accord or without envelopes. -/
def lx (st : Stage) (x : List Exec) (a : Accord := acc) : Launch := { lch with execs := x, stage := st, accord := a }
/-- The device with a launch. -/
def judged (l : Launch) : State :=
  { serving (rng 0 0 [] none) with launches := [l], skeins := [(16, { SkeinSt.none with mode := .good })] }

theorem sealed_alike : let l := lx .running [res .primary .checked 0, res .reexec .result 0]
    sealedMessage l (res .primary .checked 0) =
      sealedMessage l { res .reexec .result 0 with verdict := verdictOf l (res .reexec .result 0) } := by
  have : verdictOf (lx .running [res .primary .checked 0, res .reexec .result 0]) (res .reexec .result 0) = 0 := by decide +kernel
  simp only [this]
  rfl

/-- A passing and a rejecting result, two alike; the outputs' copy whole, at its first and at its last byte; an outcome without
and with a splice; stages up to the record; a masked vector that is pending. -/
theorem witness_ResultsAreCheckedSealedAndRecorded :
    ((∀ f ∈ [0, 1], let l := lx .running [res .primary .result (BitVec.ofNat 6 f)] accE
      findL (judged l) l.id = some l ∧ (∀ i, i < dInputs l.desc → holdDone l i = true) ∧ readsLost (judged l) l.id = false ∧
      (sealQueue (judged l)).length < 64 ∧
      bit (verdictOf l (res .primary .result (BitVec.ofNat 6 f))) 0 = decide (f = 1) ∧
      hasOtherSection (judged l) ((res .primary .result (BitVec.ofNat 6 f)).ran / 16) = true)) ∧
    (let l := lx (.decided 0) [res .primary .checked 0]
     findL (judged l) l.id = some l ∧ cqFree (judged l) l.tenant = true ∧ (judged l).fe.hang = none ∧ copyParked (judged l) l.id = false ∧
      l.copied = (0, 0) ∧ (∀ off ∈ [0, 4095], copyStops l 0 off = true) ∧ smem (judged l).hst.failed l.tenant = false ∧
      (fnConfig (judged l) l.tenant).priOn = true) ∧
    (∀ sp ∈ [[], [(⟨zeros 24, some 5⟩ : Emitted)]], let x : Exec := { res .primary .checked 0 with splices := sp }
      let l := lx (.sealed 0) [x]
      findL (judged l) l.id = some l ∧ outcomeWaiting (judged l) 1 = false ∧ rejects x = false ∧ dIsReplay l.desc = false ∧
        (judged l).jrn.powerFail = false ∧ (∀ q, q ∈ x.splices → q.id.isSome = true)) ∧
    ((sealedDue (judged lch) 0).isNone = true ∧ (sealedDue (judged (lx (.outcome 0) [res .primary .checked 0])) 0).isSome = true ∧
      (let c : TenantSt := { TenantSt.reset with cqOn := true, finished := [⟨1, 0, zeros 248, true, 0, [], false⟩], owed := true }
       let s : State := { judged lch with tenants := [(0, c)] }
       cqFree s 0 = true ∧ (getT s 0).owed = true ∧ (getT s 0).nextMsg ≤ s.clk.elapsed ∧ (getT s 0).resetting = false ∧
        (getT s 0).finished.find? (fun r => !recordsWait s r.ids) = some ⟨1, 0, zeros 248, true, 0, [], false⟩)) := by
  decide +kernel

/-- A launch past its watchdog; a reset whose records have drained, and one whose record is still there just before 2,000 µs and
then. -/
theorem witness_HungLaunchesStartAndEndTheReset :
    (let s : State := { serving (rng 0 0 [] none) with launches := [lch] }
     findL s 1 = some lch ∧ lch.admitted + 1000 * lch.watchdog ≤ s.clk.elapsed ∧ s.fe.hang = none ∧ s.glb.phase = 6 ∧
      entryReserved s lch = false) ∧
    (∀ p ∈ [(([] : List Launch), 0), ([lch], 1999999), ([lch], 2000000)],
      let s : State := { serving (rng 0 0 [] none) with
        fe := { FrontSt.reset with hang := some ⟨1, 0, 5⟩ }
        launches := p.1
        tenants := [(0, { TenantSt.reset with reserved := p.1.map (·.id) })]
        clk := { ClockSt.reset with elapsed := p.2 } }
      s.fe.hang = some ⟨1, 0, 5⟩ ∧ canRetain s = true ∧ drained (drainAll false s) = p.1.isEmpty ∧
        (p.2 < 0 + 2000000 ↔ p.2 ≠ 2000000)) := by
  decide +kernel

/-- A row write of table 1, and one of a table that is not there. -/
def rowBody (h : Nat) : Bytes := leBytes 2 h ++ [1, 0] ++ leBytes 4 64 ++ zeros 16 ++ zeros 64
/-- A boundary at a step for one splice. -/
def bnd (step : BStep) : Boundary :=
  { step, manifest := zeros 72 ++ bodiesDigest [rowBody 1], ids := [5], swap := none, position := 0, refused := [], due := 0, asked := 0 }
/-- The device in that boundary, with the splice's body. -/
def closing (step : BStep) (h : Nat) : State :=
  { serving (rng 0 0 [] none) with boundary := some (bnd step), clk := { ClockSt.reset with elapsed := 10 ^ 13 },
                                   group := { GroupSt.reset with known := [⟨5, some (rowBody h), 0, true, false⟩] } }

/-- The least table whose element 3 is young, and the row table. -/
def young (r : NSet) : Table :=
  { desc := tdesc 1 1 6 4 0 8 0x10000 0 0, since := 0, retired := none, young := r, pending := [], subjects := [], lost := false }

/-- The splice queue's front; a close without a group and one of an anchor; a set that is whole, one whose bodies are wrong and
one that lacks a body, in the first round and in a later one; drain, apply with a body that fits and one that does not, record.
-/
theorem witness_BoundariesCloseApplyAndCutOver :
    (let s : State := { serving (rng 0 0 [] none) with fe := { FrontSt.reset with queue := [⟨1, 0, 0, rowBody 1⟩] } }
     s.fe.queue = ⟨1, 0, 0, rowBody 1⟩ :: [] ∧ s.jrn.waiting = [] ∧ s.jrn.covered = 0) ∧
    (∀ p ∈ [(acc, false), (accG, true)], let s : State := { closing .gather 1 with
       boundary := none
       fe := { FrontSt.reset with accordCur := some p.1 }
       group := { GroupSt.reset with memberSet := true } }
     mayClose s = true ∧ s.group.closeDue ≤ s.clk.elapsed ∧ s.fe.epoch.toNat ≠ lastEpoch ∧
      isAnchor s = true ∧ inGroup s = p.2) ∧
    ((bodiesOf (closing .gather 1) [5]).length = [5].length ∧ bodiesDigest (bodiesOf (closing .gather 1) [5]) = manM (bnd .gather).manifest ∧
      (bodiesOf (closing .gather 2) [5]).length = [5].length ∧
      bodiesDigest (bodiesOf (closing .gather 2) [5]) ≠ manM (bnd .gather).manifest) ∧
    (∀ n ∈ [0, 1], let b : Boundary := { bnd .gather with asked := n }
      let s : State := { closing .gather 1 with boundary := some b, group := GroupSt.reset }
      s.boundary = some b ∧ (bodiesOf s b.ids).length ≠ b.ids.length ∧ gathered s b = false ∧
        b.due ≤ s.clk.elapsed ∧ s.group.behind = 0) ∧
    ((closing .drain 1).fe.epoch = 0 ∧ (bnd .drain).ids ≠ [] ∧ (closing .drain 1).jrn.drydown = none ∧ foldLost (closing .drain 1) = false ∧
      foldBusy (closing .drain 1) = false ∧ (young [3]).young = [3] ∧ foldLost { closing .drain 1 with tables := [young [3]] } = false ∧
      foldBusy { closing .drain 1 with tables := [young [3]] } = false) ∧
    ((findSplice (closing .apply 1) 5).bind (·.body) = some (rowBody 1) ∧ (bnd .apply).ids[(bnd .apply).position]? = some 5 ∧
      (match applyOne (flushTouched (closing .apply 1) (rowBody 1)) (bnd .apply) (rowBody 1) with | .done _ => true | _ => false) = true ∧
      (match applyOne (flushTouched (closing .apply 9) (rowBody 9)) (bnd .apply) (rowBody 9) with | .refused _ => true | _ => false) = true ∧
      bKind (rowBody 9) ≠ 5) ∧
    recordDone (closing .record 1) = true := by
  decide +kernel

/-- A ring with one open segment. -/
def seg : Segment := { serial := 0, data := [], closed := false, exported := false, damaged := false }
/-- The journal with staged bytes, waiting writes and an open segment. -/
def jst (f : JournalSt → JournalSt) : State := { serving (rng 0 0 [] none) with jrn := f { JournalSt.reset with ring := [seg] }, clk := { ClockSt.reset with elapsed := 10 ^ 15 } }
/-- A segment whose BOUNDARY record is of epoch 1. -/
def segB : Segment := { seg with data := recBytes 0 ⟨0x04, leBytes 8 1 ++ zeros 96⟩ }
/-- A write of one record, and an image of epoch 0. -/
def jw : JrnWrite := { recs := [⟨0x0B, leBytes 8 1⟩], frame := none }
/-- An image in the base area. -/
def img : Image := ⟨0, 0, zeros 32, 0, imageBytes 0 (zeros 32) 0 [] [], false⟩

theorem witness_JournalKeepsItsRecords :
    (acceptable (jst (fun j => { j with waiting := [jw], covered := 1000 })) jw = true ∧
      (writeAll jw.recs (jst id)).isSome = true) ∧
    (let s := jst (fun j => { j with staged := [⟨0x0B, leBytes 8 1⟩] })
     openSegment s = some seg ∧ fitsOpen s ⟨0x0B, leBytes 8 1⟩ = true ∧ 0 < freeSegments s ∧ s.jrn.full = false) ∧
    (let s := jst (fun j => { j with ring := List.replicate 1726 seg, staged := [⟨0x01, []⟩] })
     freeSegments s = 0 ∧ reservedType 0x01 = false ∧ reservedType 0x0B = true ∧
      fitsOpen (jst (fun j => { j with ring := List.replicate 1726 seg })) ⟨0x0B, leBytes 8 1⟩ = true) ∧
    (let s := jst (fun j => { j with ring := [segB] })
     drydownRuns s = false ∧ s.jrn.powerFail = false ∧ flashEpoch s ≠ 0 ∧ drydownDamaged s = false ∧
      drydownDamaged (readDrydown (jst (fun j => { j with ring := [{ segB with damaged := true }] }))) = true ∧
      s.jrn.lastImage + rget s Reg.drydownPeriod * 1000000000 ≤ s.clk.elapsed) ∧
    (let s := jst (fun j => { j with drydown := some (0, false) })
     (match reconFrom s (ringRecs s) 0 with
      | .ok q => (freeBase s (imageBytes 0 q.head (serialOf s 0) q.tables (carriedOf q)).length).isSome
      | .error _ => false) = true ∧
      (let s := jst (fun j => { j with drydown := some (1, false) })
       match reconFrom s (ringRecs s) 1 with | .error _ => true | .ok _ => false) = true) ∧
    (let s := rset (jst (fun j => { j with images := [img], exporting := some (true, 0, 64) })) Reg.exportKind 1
     s.jrn.exportState ≠ 1 ∧ rget s Reg.exportKind = 1 ∧ (exportBytes s true 0).isSome = true ∧ exportBytes s true 1 = none ∧
      (exportBytes s true 0).any (fun b => decide (rget s Reg.exportLen < b.length)) = true ∧
      (exportBytes s true 0).any (fun b => decide (b.length ≤ rget (rset s Reg.exportLen 65536) Reg.exportLen)) = true) ∧
    ((0 : BitVec 64).toNat % 64 = 0 ∧ (BitVec.ofNat 64 (2 ^ 64 - 64)).toNat % 64 = 0 ∧ arenaInUse (jst id) = false ∧
      arenaInUse { jst id with launches := [{ lch with desc := dscR }] } = true ∧
      (jst id).jrn.arena.state ≠ 1 ∧ (jst (fun j => { j with arena := { ArenaSt.reset with state := 1 } })).jrn.arena.state = 1) := by
  decide +kernel

/-! ### Witnesses: lanyards -/

/-- The frame that member 1 sends: its first one, with flags. -/
def frm (kind : Nat) (b : Bytes) (flags : Nat := 0) : Bytes :=
  sealFrame (linkKey (zeros 32) 0 1 0 (zeros 16) (zeros 16)) (frameHeader kind flags 1 0 0 1 0 b.length) b

theorem frm_accepted (g : GroupSt) (kind : Nat) (b : Bytes) (n : Nat) (hk : kind < 256) (hb : b.length ≤ 2048) :
    FrameAccepted (lny (prt .up) g) 0 kind (frm kind b n) b := by
  have hh := length_frameHeader kind n 1 0 0 1 0 b.length
  obtain ⟨f0, _, _, _, f8, f16, f24⟩ := frameHeader_fields kind n 1 0 0 1 0 b.length
  have hl : (frm kind b n).length = b.length + 52 := length_sealFrame _ _ _ hh
  have e0 : fld (frm kind b n) 0 1 = kind := (fld_sealFrame _ _ _ hh (by omega)).trans (f0.trans (by omega))
  have e8 : fld (frm kind b n) 8 8 = 1 := (fld_sealFrame _ _ _ hh (by omega)).trans f8
  have e16 : fld (frm kind b n) 16 8 = 0 := (fld_sealFrame _ _ _ hh (by omega)).trans f16
  have e24 : fld (frm kind b n) 24 2 = b.length := (fld_sealFrame _ _ _ hh (by omega)).trans (f24.trans (by omega))
  have hs : slice (frm kind b n) 8 8 = slice (frameHeader kind n 1 0 0 1 0 b.length) 8 8 := by
    unfold frm sealFrame
    simp only [List.append_assoc]
    exact slice_append_left _ (by omega)
  refine ⟨rfl, rfl, crcOk_sealFrame _ _ _ hh, e0, by omega, by omega, by rw [e16]; exact Nat.zero_le _, by rw [e16]; exact Nat.zero_le _,
    (fun c hc => by cases hc), ?_⟩
  have hg : groupKeys (lny (prt .up) g) = [zeros 32] :=
    (rfl : _ = groupKeys (lny (prt .up) GroupSt.reset)).trans (by decide +kernel)
  unfold openPayload
  simp only [hg, List.findSome?_cons, e16, e24, hs]
  have := gcmOpen_sealFrame (linkKey (zeros 32) 0 1 0 (zeros 16) (zeros 16)) (frameHeader kind n 1 0 0 1 0 b.length) b hh
  rw [show linkKey (zeros 32) 0 (getP (lny (prt .up) g) 0).partner (ownMember (lny (prt .up) g)) (getP (lny (prt .up) g) 0).theirs
    (getP (lny (prt .up) g) 0).own = linkKey (zeros 32) 0 1 0 (zeros 16) (zeros 16) from rfl]
  unfold frm
  rw [this]

theorem frm_inTurn (g : GroupSt) (kind : Nat) (b : Bytes) (n : Nat) (hk : kind < 256) (hb : b.length ≤ 2048) :
    FrameInTurn (lny (prt .up) g) 0 kind (frm kind b n) b := by
  have hh := length_frameHeader kind n 1 0 0 1 0 b.length
  obtain ⟨_, _, _, f4, _⟩ := frameHeader_fields kind n 1 0 0 1 0 b.length
  refine ⟨frm_accepted g kind b n hk hb, (fld_sealFrame _ _ _ hh (by omega)).trans f4, ?_⟩
  have hu : units b.length ≤ 9 := by unfold units; omega
  show if isRebuild kind then 0 + units b.length ≤ 512 else 0 + units b.length ≤ 1024
  split <;> omega

/-- A HELLO of member 1 for port 0. -/
def hello : Bytes :=
  let h := frameHeader 0x0E 0 1 0xFF 0 0 0 40
  let b := leBytes 4 1 ++ leBytes 1 1 ++ zeros 35
  let f := h ++ b ++ helloTag (zeros 32) h b
  f ++ leBytes 4 (crc32 f)

theorem hello_ok : crcOk hello = true ∧ fld hello 0 1 = 0x0E ∧ helloOk (lny (prt .hello) GroupSt.reset) 0 hello = true := by
  have hh : (frameHeader 0x0E 0 1 0xFF 0 0 0 40).length = 32 := length_frameHeader ..
  have ht : (helloTag (zeros 32) (frameHeader 0x0E 0 1 0xFF 0 0 0 40) (leBytes 4 1 ++ leBytes 1 1 ++ zeros 35)).length = 16 := length_gcmTag ..
  generalize hT : helloTag (zeros 32) (frameHeader 0x0E 0 1 0xFF 0 0 0 40) (leBytes 4 1 ++ leBytes 1 1 ++ zeros 35) = T at ht
  have he : hello = (frameHeader 0x0E 0 1 0xFF 0 0 0 40 ++ (leBytes 4 1 ++ leBytes 1 1 ++ zeros 35) ++ T) ++
      leBytes 4 (crc32 (frameHeader 0x0E 0 1 0xFF 0 0 0 40 ++ (leBytes 4 1 ++ leBytes 1 1 ++ zeros 35) ++ T)) := by
    unfold hello; simp only []; rw [hT]
  generalize hC : leBytes 4 (crc32 (frameHeader 0x0E 0 1 0xFF 0 0 0 40 ++ (leBytes 4 1 ++ leBytes 1 1 ++ zeros 35) ++ T)) = C at he
  have hc : C.length = 4 := by rw [← hC]; simp
  have hcrc : crcOk hello = true := by
    rw [he, ← hC]
    exact crcOk_appended _ (by simp [hh, ht])
  have hl : hello.length = 92 := by rw [he]; simp [hh, ht, hc]
  have hfld : ∀ off n, off + n ≤ 72 → fld hello off n =
      fld (frameHeader 0x0E 0 1 0xFF 0 0 0 40 ++ (leBytes 4 1 ++ leBytes 1 1 ++ zeros 35)) off n := by
    intro off n h
    rw [he, List.append_assoc, fld_append_left _ (by simp [hh]; omega)]
  have hslice : ∀ off n, off + n ≤ 72 → slice hello off n =
      slice (frameHeader 0x0E 0 1 0xFF 0 0 0 40 ++ (leBytes 4 1 ++ leBytes 1 1 ++ zeros 35)) off n := by
    intro off n h
    rw [he, List.append_assoc, slice_append_left _ (by simp [hh]; omega)]
  have hb : slice hello 32 40 = leBytes 4 1 ++ leBytes 1 1 ++ zeros 35 := by
    rw [hslice 32 40 (by omega)]; decide +kernel
  have h32 : hello.take 32 = frameHeader 0x0E 0 1 0xFF 0 0 0 40 := by
    have := hslice 0 32 (by omega)
    simp only [slice, List.drop_zero] at this
    rw [this]; decide +kernel
  have htag : slice hello 72 16 = T := by
    rw [he, slice_append_left _ (by simp [hh, ht])]
    have := slice_append_self (frameHeader 0x0E 0 1 0xFF 0 0 0 40 ++ (leBytes 4 1 ++ leBytes 1 1 ++ zeros 35)) T
    rw [ht] at this
    simpa [hh] using this
  refine ⟨hcrc, by rw [hfld 0 1 (by omega)]; decide +kernel, ?_⟩
  have ho : ownKey (lny (prt .hello) GroupSt.reset) = zeros 32 := by decide +kernel
  unfold helloOk
  rw [hb, h32, htag, hl, hfld 24 2 (by omega), ho]
  simp only []
  rw [hT]
  have h1 : fld (frameHeader 0x0E 0 1 0xFF 0 0 0 40 ++ (leBytes 4 1 ++ leBytes 1 1 ++ zeros 35)) 24 2 = 40 := by decide +kernel
  rw [h1]
  simp only [beq_self_eq_true, decide_true, Bool.true_and]
  decide +kernel

/-- A frame sent and not acknowledged. -/
def snt : SentFrame := { seq := 0, kind := 1, flags := 0, sender := 0, payload := [], acked := false, staged := false, due := 0, excused := false }

theorem witness_LanyardPortsTrainAndRetry :
    (let s := lny (prt .training) GroupSt.reset
     (getP s 0).mode = .training ∧ usableLanes (getP s 0).retired ≠ 0 ∧ s.clk.tripped.getLsbD 2 = false ∧ usableLanes 0xFF = 0 ∧
      usableLanes (0x3D ||| BitVec.twoPow 8 1) ≠ 0 ∧ usableLanes (0x55 ||| BitVec.twoPow 8 7) = 0) ∧
    (let s := lny (prt .hello) GroupSt.reset
     (getP s 0).mode = .hello ∧ inGroup s = true ∧ s.jrn.powerFail = false ∧ replicates s = true ∧ (getP s 0).helloAt = none ∧
      (getP s 0).waiting = [] ∧ (getP s 0).sent = []) ∧
    (crcOk hello = true ∧ fld hello 0 1 = 0x0E ∧ helloOk (lny (prt .hello) GroupSt.reset) 0 hello = true) ∧
    ((getP (lny (prt .down) GroupSt.reset) 0).mode = .down ∧ (getP (lny (prt .quarantined) GroupSt.reset) 0).mode = .quarantined) ∧
    (∀ n ∈ [0, 2], let s : State := { lny (prt .up) GroupSt.reset with itg := ⟨[⟨chLane, 7, List.replicate n 0, false⟩], 0, 0⟩ }
      (event s chLane 7).2 = decide (n = 2)) ∧
    ((getP (lny { prt .up with linkOwed := true } GroupSt.reset) 0).linkOwed = true) ∧
    (let q : PortSt := { prt .up with sent := [snt] }
     goBackDue (lny q GroupSt.reset) q = true ∧ q.episode = none ∧ q.sent.find? (fun g => g.seq == snt.seq) = some snt ∧
      timerOut (lny q GroupSt.reset) q snt = true) ∧
    (let q : PortSt := { prt .up with episode := some ⟨1, 0, []⟩ }
     q.episode = some ⟨1, 0, []⟩ ∧ 0 + 20000 < (lny q GroupSt.reset).clk.elapsed) ∧
    (FrameAccepted (lny (prt .up) GroupSt.reset) 0 0x0F (frm 0x0F (zeros 16)) (zeros 16) ∧
      (fld (zeros 16) 3 1 ≤ 1 ∧ zeroAt (zeros 16) 7 1 = true ∧ zeroAt (zeros 16) 11 1 = true ∧
        (getP (lny (prt .up) GroupSt.reset) 0).links.1 ≠ (lny (prt .up) GroupSt.reset).clk.elapsed)) :=
  ⟨by decide +kernel, by decide +kernel, hello_ok, by decide +kernel, by decide +kernel, by decide +kernel, by decide +kernel,
    by decide +kernel, frm_accepted _ _ _ _ (by decide) (by decide +kernel), by decide +kernel⟩

/-- A manifest that the anchor has issued. -/
def man : Bytes := zeros 104
/-- The group in which this chip is the anchor and has issued it, and the one in which member 1 is. -/
def gAnchor : GroupSt := { GroupSt.reset with issuing := man }
/-- Member 1 is the anchor. -/
def gMember : GroupSt := { GroupSt.reset with anchor := 1 }

/-- Frames in turn, of the group's traffic and replies to FETCH; chunks of index 0 and 1, of a low and of the current term,
awaited or not; two states of one splice and of two; the anchor's issue acknowledged. -/
theorem witness_GroupFramesTakeEffect :
    (∀ (g : GroupSt) (kind : Nat) (b : Bytes) (n : Nat), kind < 256 → b.length ≤ 2048 →
      FrameInTurn (lny (prt .up) g) 0 kind (frm kind b n) b) ∧
    (∀ k ∈ [3, 5], ∀ n ∈ [0, 2], (rcvOf 0 (frm k [] n) []).fetched = decide (n = 2)) ∧
    ((readSplices 3 (leBytes 8 7 ++ zeros 4 ++ leBytes 4 88 ++ rowBody 1)).isSome = true ∧
      (leBytes 8 7 ++ zeros 4 ++ leBytes 4 88 ++ rowBody 1).length / 40 + 1 = 3) ∧
    (∀ n ∈ [7, 8], let b := leBytes 8 7 ++ [1] ++ zeros 7 ++ leBytes 8 n ++ [2] ++ zeros 7
     b ≠ [] ∧ b.length % 16 = 0 ∧ (∀ e ∈ chunksOf 16 b, (fld e 8 1 = 1 ∨ fld e 8 1 = 2) ∧ zeroAt e 9 7 = true ∧
      stateSeen (lny (prt .up) gMember) (fld e 0 8) = 0) ∧ (((chunksOf 16 b).map (fun e => fld e 0 8)).Nodup ↔ n = 8)) ∧
    (∀ n ∈ [112, 2048], let b := zeros 4 ++ leBytes 4 1 ++ zeros (n - 8)
     8 < b.length ∧ 112 ≤ b.length ∧ b.length ≤ 2048 ∧ fld b 0 4 = 0 ∧ 0 < fld b 4 4 ∧ some (fld b 16 8, fld b 24 4) = some (0, 0)) ∧
    (let b := leBytes 4 1 ++ leBytes 4 2 ++ zeros 8
     8 < b.length ∧ fld b 0 4 = 1 ∧ 1 < fld b 4 4 ∧ (getP (lny { prt .up with naming := some (0, 0) } gMember) 0).naming = some (0, 0)) ∧
    (lowTerm (lny (prt .up) gMember) 0 = false ∧ lowTerm (lny (prt .up) { gMember with votedTerm := 1 }) 0 = true ∧
      awaits (lny (prt .up) gMember) 0 0 = false ∧ awaits (lny (prt .up) { gMember with asked := [(0, 0)] }) 0 0 = true) ∧
    ((∀ k ∈ [3, 4, 5, 6, 7], isHeard (lny (prt .up) gMember) k 0 0 0 = false) ∧
      isHeard (lny (prt .up) { gMember with heard := [(3, 0, 0, 0)] }) 3 0 0 0 = true) ∧
    (let b := zeros 12 ++ [1] ++ zeros 3 ++ sha256 man
     let u := spreadOn (takenIn (lny (prt .up) gAnchor) 0 4 (frm 4 b) b) (rcvOf 0 (frm 4 b) b) 4 1 0 0
     b.length = 48 ∧ isAnchor u = true ∧ u.group.issuing ≠ [] ∧ slice b 16 32 = sha256 u.group.issuing ∧ bit (roster u) (fld b 12 1) = true) ∧
    (let b := leBytes 8 1 ++ zeros 40
     b.length = 48 ∧ (lny (prt .up) gMember).fe.epoch.toNat < fld b 0 8 ∧ fld b 8 4 = 0 ∧
      awaits (lny (prt .up) { gMember with asked := [(0, 1)] }) 0 (fld b 0 8) = true ∧
      isHeard (lny (prt .up) gMember) 5 (fld b 12 1) (fld b 0 8) (fld b 8 4) = false) ∧
    ((zeros 80).length = 80 ∧ (zeros 64).length = 64 ∧
      (∀ k ∈ [1, 2], let b := zeros 8 ++ [BitVec.ofNat 8 k] ++ zeros 15
        24 ≤ b.length ∧ b.length % 8 = 0 ∧ (b.length - 24) / 8 ≤ 252 ∧ zeroAt b 9 7 = true ∧ fld b 8 1 = k)) ∧
    (let s : State := { lny (prt .up) { gMember with fetches := [(0, 0)] } with lostBursts := [0] }
     s.group.fetches.contains (fld (zeros 280) 0 8, fld (zeros 280) 16 8) = true ∧ fld (zeros 280) 16 8 % 256 = 0 ∧ s.group.lines = [] ∧
      s.lostBursts.any (fun x => x / 8 == fld (zeros 280) 16 8 / 256) = true ∧ s.lostReaders = [] ∧ s.jrn.waiting = []) ∧
    (let s := lny (prt .up) gMember
     inGroup s = true ∧ isAnchor s = false ∧ s.group.confirm.any (fun c => c.1 == nextSet s) = false ∧
      s.group.lastConfirm + s.group.epochWait + s.group.anchorWait ≤ s.clk.elapsed) :=
  ⟨frm_inTurn, by decide +kernel, by decide +kernel, by decide +kernel, by decide +kernel, by decide +kernel, by decide +kernel,
    by decide +kernel, by decide +kernel, by decide +kernel, by decide +kernel, by decide +kernel, by decide +kernel⟩

/-! ### Firmware, accords and the boot -/

/-- A firmware image with an empty payload, security version 1, store schema 6, signed with the private key 1 (so that the
public key is the base point of P-384). The signature was computed once and stands here as two numbers. -/
def fwHead : Bytes := beBytes 8 0x54514657494D4731 ++ leBytes 2 1 ++ leBytes 2 0 ++ leBytes 4 1 ++ leBytes 4 1 ++ leBytes 2 6 ++ leBytes 2 6 ++
  zeros 8 ++ sha384 [] ++ [4] ++ beBytes 48 gx384 ++ beBytes 48 gy384 ++ zeros 3
/-- The image, signed. -/
@[irreducible] def fw : Bytes := fwHead ++
  beBytes 48 8507797818898436165927568424667794461908903196954668211432159019196323037714519379852320379020742721771847160401131 ++
  beBytes 48 29665152735658708578391681432182485476324856699257742051050239869735230610277188197417585119116349269460763038531237
/-- Fuses that hold the digest of that key. -/
def fuses1 : FuseSt := { State.reset.fuses with keys := [sha384 ([4] ++ beBytes 48 gx384 ++ beBytes 48 gy384)] }

theorem fw_accepted (s : State) (h : s.fuses = fuses1) : fwAccepted s fw = true := by
  have : fwAccepted { State.reset with fuses := fuses1 } fw = true := by decide +kernel
  unfold fwAccepted at this ⊢
  rw [h]; exact this

/-! ### Witnesses: module, clocks, resets -/

/-- A powered module with energy and a monitor last heard at 0. -/
def pwd (energy : Nat) : State :=
  { serving (rng 0 0 [] none) with
    launches := []
    mdl := { State.reset.mdl with powered := true, warning := false, energy, reportAt := 0 }
    clk := { ClockSt.reset with elapsed := 10 ^ 13 } }

theorem witness_PowerAndHeatEvents :
    ((pwd 0).mdl.powered = true ∧ (pwd 0).mdl.warning = false ∧ (pwd 0).launches = [] ∧ tripAt .bank ≤ 80) ∧
    (let s : State := { pwd 0 with jrn := { (pwd 0).jrn with powerFail := true } }
     s.jrn.powerFail = true) ∧
    (let s : State := { pwd 0 with mdl := { (pwd 0).mdl with powered := false } }
     s.mdl.powered = false) ∧
    (20000 ≤ (pwd 20000).mdl.energy ∧ (pwd 19999).mdl.energy < 20000 ∧
      (pwd 20000).mdl.reportAt + 1000000000 ≤ (pwd 20000).clk.elapsed) := by decide +kernel

/-- A clock state of that module, with one register field set. -/
def clkd (c : ClockSt) (f : RegField) (v : Nat) : State := rset { pwd 0 with clk := c } f v
/-- A clock running for a long time, whose device time stands at a whole second. -/
def ck : ClockSt := { ClockSt.reset with elapsed := 10 ^ 13, time := 10 ^ 12, quality := 0 }

theorem witness_ClocksKeepDeviceTime :
    (let s := clkd ck Reg.timeSrc 2
     rget s Reg.timeSrc = 2 ∧ s.clk.quality = 0 ∧ (getP s 0).mode = .down ∧ usableLanes (getP s 0).retired ≠ 0 ∧ canRetain s = true) ∧
    (let s : State := { clkd ck Reg.retention 0 with glb := { GlobalSt.reset with phase := 9 } }
     rget s Reg.retention = 0 ∧ s.glb.phase ≠ 0 ∧ s.hst.down = false ∧ s.jrn.powerFail = false ∧ canRetain s = false) ∧
    (let s : State := { clkd ck Reg.timeSrc 2 with jrn := { (pwd 0).jrn with powerFail := true } }
     s.jrn.powerFail = true ∧ State.reset.glb.phase = 0) ∧
    (∀ n ∈ [1, 3], let s := clkd { ck with tripped := 1, trips := List.replicate n (0, 0) } Reg.portEnable 1
     s.clk.tripped.getLsbD (refBit .modref) = true ∧ refClean s (refBit .modref) = true ∧ (getP s 0).mode = .down ∧
      rget s Reg.portEnable 0 ≠ 0) ∧
    ((clkd { ck with tripped := 0 } Reg.timeSrc 2).clk.tripped.getLsbD 0 = false) ∧
    (let s : State := { clkd ck Reg.timeSrc 1 with hst := { State.reset.hst with linkUp := true, ptmFails := 2 } }
     rget s Reg.timeSrc = 1 ∧ s.hst.ptmAt ≤ s.clk.elapsed ∧ s.hst.linkUp = true ∧ s.hst.ptmFails = 2 ∧ s.clk.quality = 0) ∧
    (∀ n ∈ [0, 100], let s := clkd { ck with lastPps := some (10 ^ 13 - 1500000000), good := 2, stepDue := false } Reg.timeSrc 2
     rget s Reg.timeSrc = 2 ∧ s.clk.tripped.getLsbD 10 = false ∧ s.clk.nextSet = none ∧ s.clk.stepDue = false ∧
      (toSecond (s.clk.time.toNat + n)).natAbs ≤ 100 ∧ s.clk.lastPps = some (10 ^ 13 - 1500000000) ∧
      10 ^ 13 - 1500000000 + 1500000000 ≤ s.clk.elapsed ∧ s.clk.quality = 0) ∧
    (let s := clkd { ck with quality := 1, elapsed := 10 ^ 17 } Reg.timeSrc 0
     s.clk.quality = 1 ∧ s.clk.qualityAt + rget s Reg.holdoverMax * 1000000000 ≤ s.clk.elapsed ∧ rget s Reg.timeSrc = 0) := by
  decide +kernel

theorem witness_ResetLevels :
    (let s := clkd ck Reg.retention 1
     canRetain s = true ∧ rget s Reg.retention = 1) ∧
    (let s := clkd ck Reg.retention 0
     canRetain s = true ∧ rget s Reg.retention = 0 ∧ rget s Reg.timeSrc ≠ 1 ∧ s.jrn.staged = [] ∧ s.fe.hang = none ∧ s.hst.down = false) ∧
    (let s : State := { pwd 0 with hst := { State.reset.hst with down := true } }
     s.jrn.powerFail = false ∧ s.hst.down = true) ∧
    (let s : State := { pwd 0 with jrn := { (pwd 0).jrn with powerFail := true } }
     s.jrn.powerFail = true) ∧
    ((getT (pwd 0) 1).reserved = [] ∧ (pwd 0).fe.hang = none ∧ (1 : Tenant).val ≠ 0 ∧ (127 : Tenant).val < 128) ∧
    (let s : State := { pwd 0 with glb := { GlobalSt.reset with phase := 0 } }
     s.jrn.powerFail = false ∧ s.hst.down = false ∧ s.glb.phase = 0 ∧ s.mdl.powered = true ∧ s.mdl.warning = false) ∧
    ((readBcb (pwd 0)).pending = false ∧ (readBcb (writeBcb (pwd 0) { Bcb.erased with pending := true })).pending = true) ∧
    (∀ x ∈ [10 ^ 13 - 1000000, 10 ^ 13 - 1000001], let s := clkd { ck with armed := some x } Reg.retention 0
     s.clk.armed = some x ∧ (x = 10 ^ 13 - 1000000 → s.clk.elapsed ≤ x + 1000000) ∧
      (x = 10 ^ 13 - 1000001 → x + 1000000 < s.clk.elapsed)) ∧
    (getK { pwd 0 with skeins := [(0, { SkeinSt.none with mode := .testing })] } 0).mode = .testing := by decide +kernel

/-- A hang that began too long ago. -/
theorem witness_ResetLevels_overrun :
    ∃ (s : State) (h : Hang), s.fe.hang = some h ∧ h.start + 250000000 ≤ s.clk.elapsed := by
  refine ⟨{ pwd 0 with fe := { (pwd 0).fe with hang := some { launch := 1, start := 0, cause := 1 } } }, _, rfl, by decide +kernel⟩

/-! ### Witnesses: boot, registers, windows -/

/-- What a boot finds when nothing fails. -/
theorem boots (s : State) (hb : readBcb s = Bcb.erased) (hf : fwAccepted s s.flash.slotA = true) : (chooseSlot s).isSome = true := by
  simp [chooseSlot, hb, takePending, checkActive, revertSlot, Bcb.erased, Bcb.count, slotImage, hf]

/-- A powered chip in a phase whose flash slots both hold the image. -/
def booted (phase : Phase) (f : FlashSt) : State :=
  { pwd 0 with glb := { GlobalSt.reset with phase }, flash := f, fuses := fuses1 }
theorem fuses_booted (p : Phase) (f : FlashSt) : (booted p f).fuses = fuses1 := by unfold booted; rfl
theorem flash_booted (p : Phase) (f : FlashSt) : (booted p f).flash = f := by unfold booted; rfl

/-- A flash that holds the image in both slots. -/
def flash1 : FlashSt := { State.reset.flash with slotA := fw, slotB := fw }

/-- The least accord that every check passes, of curve-table version 0. -/
@[irreducible] def accMin : Accord :=
  let l := [(1, [1] ++ zeros 7), (2, []), (3, []), (4, []), (5, []), (6, []), (7, []), (8, zeros 8), (9, zeros 8)]
  { id := 1, sections := l, digest := accordDigest l }
/-- A chip in HOLD that expects it. -/
@[irreducible] def holding (retained : Bool) : State :=
  { pwd 0 with
    glb := { GlobalSt.reset with phase := 8, retained }
    curves := [{ version := 0, digest := [], curves := [], file := [] }]
    hst := { State.reset.hst with persist := zeros 76 ++ leBytes 4 1 ++ accMin.digest ++ zeros 144 } }

theorem witness_BootAndFirmwareCommands :
    (let s := booted 0 State.reset.flash
     s.glb.phase = 0 ∧ s.mdl.powered = true ∧ s.mdl.warning = false ∧ s.glb.phase.toNat < 5 ∧ s.hst.down = false ∧
      s.glb.bootAt + 1000000 * rget s Reg.bootLimit ≤ s.clk.elapsed ∧
      chooseSlot (findModref ⟨true, [], [], [], 0, 0, 0, 0, 0⟩ s) = none ∧ chooseSlot s = none) ∧
    (answersConfig (booted 4 flash1) = false ∧ answersConfig (booted 5 flash1) = true ∧ answersConfig (booted 8 flash1) = true ∧
      (fnConfig { booted 5 flash1 with hst := { State.reset.hst with config := [(0, { FnConfig.reset with priOn := false })] } } 0).priOn = false) ∧
    (let s := booted 5 State.reset.flash
     fwAccepted s (slotImage s (1 - (readBcb s).active)) = false ∧ s.glb.fwState ≠ 1 ∧ s.glb.phase ≠ 9 ∧
      (if true then 1 else 0) ≠ (readBcb s).active ∧ (measurement s 3).isSome = true) ∧
    fw.length ≤ 2 ^ 25 := by decide +kernel

theorem witness_BootAndFirmwareCommands_image :
    (booted 0 flash1).glb.phase = 0 ∧ (chooseSlot (booted 0 flash1)).isSome = true ∧
    fwAccepted (booted 5 flash1) (slotImage (booted 5 flash1) (1 - (readBcb (booted 5 flash1)).active)) = true := by
  have h0 : readBcb (booted 0 flash1) = Bcb.erased := by decide +kernel
  have h5 : readBcb (booted 5 flash1) = Bcb.erased := by decide +kernel
  have hf : flash1.slotA = fw ∧ flash1.slotB = fw := ⟨rfl, rfl⟩
  refine ⟨by decide +kernel, boots _ h0 ?_, ?_⟩
  · rw [flash_booted, hf.1]; exact fw_accepted _ (fuses_booted _ _)
  · have h1 : slotImage (booted 5 flash1) (1 - Bcb.erased.active) = fw := by
      simp [slotImage, flash_booted, hf.2, Bcb.erased]
    have h2 : slotImage (booted 5 flash1) (1 - (readBcb (booted 5 flash1)).active) = fw := (congrArg (fun b => slotImage (booted 5 flash1) (1 - b.active)) h5).trans h1
    exact (congrArg (fwAccepted (booted 5 flash1)) h2).trans (fw_accepted _ (fuses_booted _ _))

theorem witness_BootAndFirmwareCommands_hold :
    (∀ r ∈ [true, false], holdAccords (holding r) (storeImage 1 6 [some accMin, none, none]) = some [some accMin, none, none]) ∧
    expectedAccord (holding true) = some (accMin.id, accMin.digest) ∧ expectedAccord (holding false) = none ∧
    (holding true).glb.phase = 8 ∧
    (let s : State := { pwd 0 with glb := { GlobalSt.reset with phase := 5, retained := true, fwState := 1 } }
     s.glb.phase = 5 ∧ s.glb.attach = 0 ∧ s.glb.retained = true ∧ s.glb.fwState = 1) :=
  ⟨by decide +kernel, by decide +kernel, by decide +kernel, by decide +kernel, by decide +kernel⟩

/-- A chip in service with its PF view. -/
def full (phase : Phase) : State :=
  { pwd 0 with glb := { GlobalSt.reset with phase }, hst := { State.reset.hst with fullView := true } }
/-- Its registers with both ranges of the arena and the evidence media decoder at one place. -/
def ranges (emd : Nat) : State := rset (rset (rset (rset (full 5) Reg.arenaBase 1) Reg.arenaSize 1) Reg.emdBase 1) Reg.emdSize emd

theorem witness_RegistersAndWindows :
    ((stagedImage (rset (full 5) Reg.stageAddr (2 ^ 46))).2 = none ∧ (stagedImage (rset (full 5) Reg.stageLength 16)).2 = some (zeros 16) ∧
      (full 5).fe.queue.length < 4096 ∧ (full 5).fe.tableState ≠ 1 ∧ (getR (getT (full 5) 1) 0).enabled = false ∧
      (getT (full 5) 1).resetting = false ∧ (getT (full 5) 1).cqOn = false ∧ (full 5).glb.phase = 5) ∧
    ((full 5).glb.locked = false ∧ setupOverlap (ranges 0) = none ∧ (setupOverlap (ranges 1)).isSome = true ∧
      bar0Served (full 5) 0 = true ∧ (full 5).fe.hang = none ∧ bar0Served (full 4) 0 = false) := by decide +kernel

/-- The least and the greatest boot limit, in a locked chip, and the view of BAR2, where the lock is open. -/
theorem witness_RegistersAndWindows_write :
    (fieldsAt 0x40 = [(Reg.bootLimit, 0)] ∧ fieldsAt 0x200000 = [(Reg.bar2View, 0)] ∧ Reg.bar2View.acc = .rwl ∧ Reg.bootLimit.acc ≠ .rwl) ∧
    ∀ x ∈ [(Reg.bootLimit, 2000, true), (Reg.bootLimit, 60000, true), (Reg.bar2View, 1, false)],
      let s : State := { full 5 with glb := { GlobalSt.reset with phase := 5, locked := x.2.2 } }
      bar0Served s 0 = true ∧ s.fe.hang = none ∧ x.1.off % 8 = 0 ∧ roWord s x.1.off = none ∧
      x.1.lo = 0 ∧ 1 ≤ x.1.width ∧ x.1.width ≤ 64 ∧ x.2.1 < 2 ^ x.1.width ∧ acts x.1 = false ∧ rget s x.1 0 < 2 ^ x.1.width ∧
      [0x78, 0x80, 0x88].contains x.1.off = false ∧ (x.1.acc ≠ .rwl ∨ s.glb.locked = false) ∧ legalValue s x.1 0 x.2.1 = true ∧
      busyRing s x.1 0 = none ∧ x.2.1 ≠ rget s x.1 0 := by
  exact ⟨⟨rfl, rfl, rfl, by decide⟩, by decide +kernel⟩

theorem witness_RegistersAndWindows_bar2 :
    (∀ i, (getS (full 5) i).wc = [] ∧ (getS (full 5) i).steps = []) ∧
    bar2Served (full 5) = true ∧ (full 5).fe.hang = none ∧ (full 5).hst.fullView = true ∧ rget (full 5) Reg.bar2View = 0 ∧
    (full 5).defects.failed = [] ∧ (full 5).lostBursts = [] ∧ (full 5).hbmStacks = [] ∧
    (∀ x ∈ [248, 0x29C0000000 - 8], x + 8 ≤ dpaLimit ∧ x % 256 + 8 ≤ 256 ∧ bar2InRange (full 5) 0 x 8 true = true ∧
      ∀ i ∈ List.range 8, tableHolding { full 5 with tables := [] } (x + i) = none) ∧
    (tableHolding (full 5) 0x30000).isSome = true :=
  ⟨fun _ => ⟨rfl, rfl⟩, by decide +kernel⟩

/-! ### Witnesses: the whole machine -/

theorem witness_StepKeepsDeviceMemoryCanonical :
    ∃ t, Memory.wf [(5, 1), (7, 2)] = true ∧
      step { State.reset with mem := [(5, 1), (7, 2)], pending := [.pwrbrkAssert] } = .next t ∧ t.mdl.pwrbrk = true :=
  ⟨_, by decide +kernel, rfl, rfl⟩

/-- The first and the last byte, and the last place of the last stack. -/
theorem witness_DeviceAddressesAreOneToOne :
    (stripedOf (stripedLoc 0) = 0 ∧ stripedOf (stripedLoc (dpaLimit - 1)) = dpaLimit - 1) ∧
    stripedLoc (stripedOf ⟨7, 29, 15, 49151, 1023⟩) = ⟨7, 29, 15, 49151, 1023⟩ ∧
    (dpaStriped dpaLimit = none ∧ dpaStriped (2 ^ 47 - 1) = none ∧ dpaStriped (2 ^ 47) = some 0) := by decide +kernel

theorem witness_FramesOpenAsTheyWereSealed :
    let s := lny (prt .up) GroupSt.reset
    (getP s 0).mode = .up ∧ s.jrn.powerFail = false ∧ (groupKeys s).head? = some (zeros 32) ∧ (getP s 0).rxCount = none ∧
    (getP s 0).keyEpoch = 0 ∧ s.fe.epoch.toNat = 0 := by decide +kernel

theorem witness_IdleMicrosecondRunsTheClocks :
    (pwd 0).pending = [] ∧ (pwd 0).mdl.powered = true ∧ State.reset.pending = [] ∧ (pwd 0).clk.time.toNat + 1001 < 2 ^ 64 := by
  decide +kernel

/-! ### Words written out from the encoding tables (Tables Core-3 to Core-7, Matrix-6 and Matrix-7) -/

/-- NOT-p2 guarded CMPLT p3 = X5 < X6 + 7: opcode 0x11, PRED 2, PNEG, SD 3, SA 5, SB 6, IMM 7. -/
theorem test_decode_cmplt :
    decodeWord 9 (0x11 + 2 * 2 ^ 8 + 2 ^ 12 + 3 * 2 ^ 64 + 5 * 2 ^ 70 + 6 * 2 ^ 76 + 7 * 2 ^ 128) =
      some (.cmplt 9 { s0 with hdr := { h0 with pred := 2, pneg := true }, sd := 3, sa := 5, sb := 6, imm := 7 }) := by decide +kernel

/-- A reserved header bit, a reserved body bit and an opcode that Table Core-7 does not list are no words. -/
theorem test_decode_reserved :
    decodeWord 0 (2 ^ 23) = none ∧ decodeWord 0 (0x01 + 2 ^ 82) = none ∧ decodeWord 0 0xFF = none := by decide +kernel

/-- BRANCH LT X1, X2, -1 (class 2); BCAST V1 from lane 9 of V2 (class 6, FUNC 2); STW X5 to X4 + 8 (class 9); class 0xF is
reserved. -/
theorem test_decode_strand :
    decodeStrand 0 3 (0x2 + 2 * 2 ^ 4 + 1 * 2 ^ 10 + 2 * 2 ^ 15 + 0xFFF * 2 ^ 20) =
      some (.branch 0 3 { cond := 2, xa := 1, xb := 2, off := 0xFFF }) ∧
    decodeStrand 0 0 (0x6 + 2 * 2 ^ 8 + 1 * 2 ^ 13 + 2 * 2 ^ 16 + 9 * 2 ^ 27) =
      some (.bcast 0 0 { fmt := 0, vd := 1, va := 2, vb := 0, xs := 0, imm5 := 9 }) ∧
    decodeStrand 0 0 (0x9 + 1 * 2 ^ 4 + 4 * 2 ^ 8 + 5 * 2 ^ 13 + 8 * 2 ^ 18) = some (.stw 0 0 { xa := 4, xd := 5, off := 8 }) ∧
    decodeStrand 0 0 0xF = none := by decide +kernel

end Sys2Proof.Tests
end

section
/-! SUPPORT. Failed units: what the journal, the ports and the stores leave alone, what discarding, restarting and replacing an
execution does to its launch and to the queues, and the events of skeins, sections, links and engines (O40). -/

namespace Sys2Proof.Machine

/-! ### Folds of steps -/

/-- What no step of a fold changes, the fold does not change. -/
theorem foldl_keeps {β γ : Type} (g : State → γ) (f : State → β → State) (l : List β) :
    (∀ s, ∀ b ∈ l, g (f s b) = g s) → ∀ s, g (l.foldl f s) = g s := by
  induction l with
  | nil => intro _ s; rfl
  | cons b l ih =>
    intro h s
    rw [List.foldl_cons, ih (fun s c hc => h s c (List.mem_cons_of_mem b hc)), h s b List.mem_cons_self]

/-- What every step of a fold keeps, the fold keeps. -/
theorem foldl_preserves {β : Type} {P : State → Prop} {f : State → β → State} (keep : ∀ s b, P s → P (f s b)) (l : List β)
    {s : State} (h : P s) : P (l.foldl f s) :=
  List.foldlRecOn l f h (fun s hs b _ => keep s b hs)

/-- A fact that each step establishes for its own element and keeps for every other holds of all elements in the end. -/
theorem foldl_establishes {β : Type} {P : State → β → Prop} {f : State → β → State} (own : ∀ s b, P (f s b) b)
    (keep : ∀ s b c, P s c → P (f s b) c) (l : List β) : ∀ (s : State), ∀ b ∈ l, P (l.foldl f s) b := by
  induction l with
  | nil => intro s b hb; cases hb
  | cons a l ih =>
    intro s b hb
    rcases List.mem_cons.1 hb with rfl | hb
    · exact foldl_preserves (fun s c => keep s c b) l (own s b)
    · exact ih _ b hb

/-! ### Lists and sets -/

/-- A change at an index is the library's. -/
theorem updAt_eq_modify {α : Type} (f : α → α) : ∀ (l : List α) (n : Nat), updAt f l n = l.modify n f
  | [], 0 | [], _ + 1 => rfl
  | _ :: _, 0 => rfl
  | x :: l, n + 1 => by rw [updAt, updAt_eq_modify f l n, List.modify_succ_cons]

@[simp] theorem length_updAt {α : Type} (f : α → α) (l : List α) (n : Nat) : (updAt f l n).length = l.length := by
  simp [updAt_eq_modify]

@[simp] theorem getElem?_updAt_self {α : Type} (f : α → α) (l : List α) (n : Nat) : (updAt f l n)[n]? = l[n]?.map f := by
  simp [updAt_eq_modify]

theorem updAt_updAt {α : Type} (f g : α → α) (l : List α) (n : Nat) : updAt g (updAt f l n) n = updAt (g ∘ f) l n := by
  simp [updAt_eq_modify, List.modify_modify_eq]

theorem find?_updFirst {α : Type} {p : α → Bool} {f : α → α} (hf : ∀ x, p (f x) = p x) :
    ∀ l : List α, (updFirst p f l).find? p = (l.find? p).map f
  | [] => rfl
  | x :: l => by
    cases hx : p x with
    | true => simp [updFirst, hx, hf]
    | false => simp [updFirst, hx, find?_updFirst hf l]

@[simp] theorem smem_sadd_self (s : NSet) (x : Nat) : smem (sadd s x) x = true := by simp [smem, mem_sadd]

/-! ### What the stores, the journal and the ports leave alone -/

/-- Where the work of the chip stands: its launches, its skeins and the weave. -/
def workOf (s : State) : List Launch × NMap SkeinSt × WeaveSt := (s.launches, s.skeins, s.weave)

theorem of_workOf {s t : State} (h : workOf t = workOf s) : t.launches = s.launches ∧ t.skeins = s.skeins ∧ t.weave = s.weave := by
  simpa [workOf] using h

section
variable (s : State)

theorem workOf_modS (i : Nat) (f : StackSt → StackSt) : workOf (modS s i f) = workOf s := rfl
theorem workOf_modP (p : Nat) (f : PortSt → PortSt) : workOf (modP s p f) = workOf s := rfl
theorem workOf_learnState (id st : Nat) : workOf (learnState s id st) = workOf s := rfl
theorem workOf_logErr (code tenant a b : Nat) : workOf (logErr s code tenant a b) = workOf s := by simp [workOf]

theorem workOf_putFrame (p kind flags sender seq : Nat) (payload : Bytes) :
    workOf (putFrame s p kind flags sender seq payload) = workOf s := by
  unfold putFrame; dsimp only; split <;> rfl

theorem workOf_pumpOne (p : Nat) : workOf (pumpOne s p) = workOf s := by
  unfold pumpOne
  dsimp only
  split
  · rfl
  · simp only [apply_ite workOf, workOf_putFrame, workOf_modP, ite_self]

theorem workOf_queueFrame (p kind flags sender : Nat) (payload : Bytes) :
    workOf (queueFrame s p kind flags sender payload) = workOf s := by
  unfold queueFrame
  split
  · exact foldl_keeps workOf _ _ (fun s _ _ => workOf_pumpOne s p) _
  · rfl

theorem workOf_flood (from_ kind sender : Nat) (payload : Bytes) :
    workOf (flood s from_ kind sender payload) = workOf s := by
  unfold flood
  split
  · refine foldl_keeps workOf _ _ (fun s p _ => ?_) s
    split
    · rfl
    · exact workOf_queueFrame s ..
  · rfl

/-- A STATE record that becomes durable changes what is remembered of splices and is flooded. -/
theorem workOf_recordDurable (from_ : Nat) (spread : Bool) {r : JrnRecord} (hr : r.kind = 0x02) :
    workOf (recordDurable s from_ spread r) = workOf s := by
  unfold recordDurable
  rw [hr]
  exact (workOf_flood ..).trans (foldl_keeps workOf _ _ (fun s _ _ => workOf_learnState s ..) s)

theorem workOf_noteExhausted (n : Nat) : workOf (noteExhausted s n) = workOf s := by
  unfold noteExhausted
  split
  · rfl
  · exact workOf_logErr ..

/-- STATE records of the chip's own that are staged, or wait to be. -/
theorem workOf_stageOwn {recs : List JrnRecord} (h : ∀ r ∈ recs, r.kind = 0x02) : workOf (stageOwn s recs) = workOf s := by
  unfold stageOwn stage
  split
  · exact foldl_keeps workOf _ _ (fun s r hr => workOf_recordDurable s _ _ (h r hr)) _
  · exact workOf_noteExhausted s _

theorem workOf_recallIds (ids : List Nat) : workOf (recallIds s ids) = workOf s := by
  unfold recallIds
  split
  · rfl
  · refine workOf_stageOwn s (fun r hr => ?_)
    obtain ⟨_, _, rfl⟩ := List.mem_map.1 hr
    rfl

theorem workOf_releaseLedger (id : Nat) : workOf (releaseLedger s id) = workOf s :=
  foldl_keeps workOf _ _ (fun s _ _ => workOf_modS s ..) s

theorem workOf_orphanSteps (id e : Nat) : workOf (orphanSteps s id e) = workOf s :=
  foldl_keeps workOf _ _ (fun s _ _ => workOf_modS s ..) s

theorem workOf_dropAddends (id e : Nat) : workOf (dropAddends s id e) = workOf s :=
  foldl_keeps workOf _ _ (fun s _ _ => workOf_modS s ..) s

theorem workOf_persistMap : workOf (persistMap s) = workOf s := by
  unfold persistMap; dsimp only; split
  · rfl
  · split <;> rfl

@[simp] theorem recallIds_launches (ids : List Nat) : (recallIds s ids).launches = s.launches := (of_workOf (workOf_recallIds s ids)).1
@[simp] theorem recallIds_skeins (ids : List Nat) : (recallIds s ids).skeins = s.skeins := (of_workOf (workOf_recallIds s ids)).2.1
@[simp] theorem recallIds_weave (ids : List Nat) : (recallIds s ids).weave = s.weave := (of_workOf (workOf_recallIds s ids)).2.2
@[simp] theorem releaseLedger_launches (id : Nat) : (releaseLedger s id).launches = s.launches := (of_workOf (workOf_releaseLedger s id)).1
@[simp] theorem releaseLedger_skeins (id : Nat) : (releaseLedger s id).skeins = s.skeins := (of_workOf (workOf_releaseLedger s id)).2.1
@[simp] theorem releaseLedger_weave (id : Nat) : (releaseLedger s id).weave = s.weave := (of_workOf (workOf_releaseLedger s id)).2.2
@[simp] theorem orphanSteps_launches (id e : Nat) : (orphanSteps s id e).launches = s.launches := (of_workOf (workOf_orphanSteps s id e)).1
@[simp] theorem orphanSteps_skeins (id e : Nat) : (orphanSteps s id e).skeins = s.skeins := (of_workOf (workOf_orphanSteps s id e)).2.1
@[simp] theorem orphanSteps_weave (id e : Nat) : (orphanSteps s id e).weave = s.weave := (of_workOf (workOf_orphanSteps s id e)).2.2
@[simp] theorem dropAddends_launches (id e : Nat) : (dropAddends s id e).launches = s.launches := (of_workOf (workOf_dropAddends s id e)).1
@[simp] theorem dropAddends_skeins (id e : Nat) : (dropAddends s id e).skeins = s.skeins := (of_workOf (workOf_dropAddends s id e)).2.1
@[simp] theorem dropAddends_weave (id e : Nat) : (dropAddends s id e).weave = s.weave := (of_workOf (workOf_dropAddends s id e)).2.2
@[simp] theorem persistMap_launches : (persistMap s).launches = s.launches := (of_workOf (workOf_persistMap s)).1
@[simp] theorem persistMap_skeins : (persistMap s).skeins = s.skeins := (of_workOf (workOf_persistMap s)).2.1
@[simp] theorem persistMap_weave : (persistMap s).weave = s.weave := (of_workOf (workOf_persistMap s)).2.2

end

/-! ### Launches and executions read back -/

section
variable {s : State} {id e : Nat}

theorem findL_congr {t : State} (h : t.launches = s.launches) (id : Nat) : findL t id = findL s id := by
  unfold findL; rw [h]

/-- A launch that keeps its ID is found changed. -/
theorem findL_modL {f : Launch → Launch} (hf : ∀ l, (f l).id = l.id) : findL (modL s id f) id = (findL s id).map f :=
  find?_updFirst (fun l => by rw [hf]) s.launches

theorem findL_modX (f : Exec → Exec) :
    findL (modX s id e f) id = (findL s id).map (fun l => { l with execs := updAt f l.execs e }) :=
  findL_modL (fun _ => rfl)

theorem findL_addExec (r : Role) (p : Place) : findL (addExec s id r p) id =
    (findL s id).map (fun l => { l with execs := l.execs ++ [Exec.fresh r p], reexecuted := l.reexecuted || r != .audit }) :=
  findL_modL (fun _ => rfl)

/-! ### Discarding an execution -/

/-- An execution whose splices have lost their IDs (R155). -/
def Exec.recalled (x : Exec) : Exec := { x with splices := x.splices.map (fun e => { e with id := none }) }
/-- An execution that has ended without a result, off its skein and without images. -/
def Exec.discarded (x : Exec) : Exec := { x.recalled with phase := .dropped, skein := none, ckpts := [] }

@[simp] theorem dropCtx_launches (k : Nat) : (dropCtx s k id e).launches = s.launches := by simp [dropCtx]
@[simp] theorem dropCtx_weave (k : Nat) : (dropCtx s k id e).weave = s.weave := by simp [dropCtx]

/-- A skein from whose queue an execution is taken keeps the others. -/
theorem getK_dropCtx (k j : Nat) : getK (dropCtx s k id e) j =
    if j = k then { getK s k with queue := (getK s k).queue.filter (fun c => c.launch != id || c.ex != e) } else getK s j := by
  simp [dropCtx, getK, nget_nmod]

/-- An execution taken off the skein it stands on, if it stands on one. -/
def offSkein (s : State) (k? : Option Nat) (id e : Nat) : State := k?.elim s (fun k => dropCtx s k id e)

@[simp] theorem offSkein_launches (k? : Option Nat) : (offSkein s k? id e).launches = s.launches := by cases k? <;> simp [offSkein]
@[simp] theorem offSkein_weave (k? : Option Nat) : (offSkein s k? id e).weave = s.weave := by cases k? <;> simp [offSkein]

@[simp] theorem recallExec_skeins : (recallExec s id e).skeins = s.skeins := by
  unfold recallExec; split <;> simp
@[simp] theorem recallExec_weave : (recallExec s id e).weave = s.weave := by
  unfold recallExec; split <;> simp

theorem findL_recallExec {l : Launch} {x : Exec} (hl : findL s id = some l) (hx : l.execs[e]? = some x) :
    findL (recallExec s id e) id = some { l with execs := updAt Exec.recalled l.execs e } := by
  have hb : (findL s id).bind (fun l => getX l e) = some x := by simp [hl, getX, hx]
  unfold recallExec
  rw [hb]
  dsimp only
  rw [findL_congr (recallIds_launches _ _), findL_modX]
  change Option.map _ (findL s id) = _
  rw [hl]
  rfl

/-- What discarding an execution leaves of its launch's state before the launch notes that a primary is gone. -/
def dropExec (s : State) (id e : Nat) (x : Exec) : State :=
  modX (dropAddends (recallExec (offSkein s x.skein id e) id e) id e) id e
    (fun x => { x with phase := .dropped, skein := none, ckpts := [] })

theorem discardExec_eq {l : Launch} {x : Exec} (hl : findL s id = some l) (hx : l.execs[e]? = some x) :
    discardExec s id e =
      if x.role = .primary then modL (dropExec s id e x) id (fun l => { l with discarded := true }) else dropExec s id e x := by
  unfold discardExec
  simp only [hl, Option.bind_some, getX, hx]
  unfold dropExec offSkein
  cases x.skein <;> simp only [Option.elim_none, Option.elim_some]

theorem discardExec_none (h : (findL s id).bind (fun l => l.execs[e]?) = none) : discardExec s id e = s := by
  unfold discardExec getX
  rw [h]

/-- Either there is no such execution, or its launch stands in the table. -/
theorem exec_cases (s : State) (id e : Nat) :
    (findL s id).bind (fun l => l.execs[e]?) = none ∨ ∃ l x, findL s id = some l ∧ l.execs[e]? = some x := by
  cases hl : findL s id with
  | none => exact .inl rfl
  | some l =>
    cases hx : l.execs[e]? with
    | none => exact .inl hx
    | some x => exact .inr ⟨l, x, rfl, hx⟩

theorem dropExec_weave (x : Exec) : (dropExec s id e x).weave = s.weave := by
  rw [dropExec, modX_weave, dropAddends_weave, recallExec_weave, offSkein_weave]

theorem dropExec_skeins (x : Exec) : (dropExec s id e x).skeins = (offSkein s x.skein id e).skeins := by
  rw [dropExec, modX_skeins, dropAddends_skeins, recallExec_skeins]

@[simp] theorem discardExec_weave : (discardExec s id e).weave = s.weave := by
  rcases exec_cases s id e with h | ⟨l, x, hl, hx⟩
  · rw [discardExec_none h]
  · rw [discardExec_eq hl hx]
    split
    · rw [modL_weave, dropExec_weave]
    · rw [dropExec_weave]

theorem findL_dropExec {l : Launch} {x : Exec} (hl : findL s id = some l) (hx : l.execs[e]? = some x) :
    findL (dropExec s id e x) id = some { l with execs := updAt Exec.discarded l.execs e } := by
  unfold dropExec
  rw [findL_modX, findL_congr (dropAddends_launches ..),
    findL_recallExec ((findL_congr (offSkein_launches x.skein) id).trans hl) hx, Option.map_some, updAt_updAt]
  rfl

/-- Discarding an execution ends it, and the launch keeps its other executions. -/
theorem findL_discardExec {l : Launch} {x : Exec} (hl : findL s id = some l) (hx : l.execs[e]? = some x) :
    findL (discardExec s id e) id =
      some { l with execs := updAt Exec.discarded l.execs e, discarded := l.discarded || x.role == .primary } := by
  rw [discardExec_eq hl hx]
  split
  · rename_i hr
    rw [findL_modL, findL_dropExec hl hx]
    · simp [hr]
    · intro _; rfl
  · rename_i hr
    rw [findL_dropExec hl hx]
    simp [hr]

end

/-! ### Running an execution again -/

/-- An execution that waits to restart from a checkpoint image at another place (R489). -/
def Exec.restarted (p : Place) (c : Ckpt) (x : Exec) : Exec :=
  { x with phase := .waiting, skein := none, place := p, resume := true, tally := c.tally, evidence := c.evidence,
           splices := x.splices.take c.core.emission }

/-- A place kept away from as well. -/
def Place.and (away p : Place) : Place := ⟨away.skeins ++ p.skeins, away.sections ++ p.sections⟩

/-- An execution is discarded and a new one of its launch waits in its place; the launch is marked RE-EXECUTED. -/
def replaceExec (s : State) (id e : Nat) (r : Role) (p : Place) : State :=
  modL (addExec (discardExec s id e) id r p) id (fun l => { l with reexecuted := true })

/-- What stands of the chip after an execution has been sent back to its newest checkpoint image. -/
def resumeExec (s : State) (id e : Nat) (p : Place) (c : Ckpt) (x : Exec) : State :=
  modL (modX (dropAddends (orphanSteps (recallIds
    { s with fe := { s.fe with queue := s.fe.queue.filter (fun q => q.launch != id || q.ex != e || decide (q.index < c.core.emission)) } }
    ((x.splices.drop c.core.emission).filterMap (·.id))) id e) id e) id e (Exec.restarted p c)) id
    (fun l => { l with reexecuted := true })

section
variable {s : State} {id e : Nat} {l : Launch} {x : Exec}

theorem replaceExec_skeins (r : Role) (p : Place) : (replaceExec s id e r p).skeins = (discardExec s id e).skeins := by
  rw [replaceExec, addExec, modL_skeins, modL_skeins]

theorem resumeExec_skeins (p : Place) (c : Ckpt) : (resumeExec s id e p c x).skeins = s.skeins := by
  rw [resumeExec, modL_skeins, modX_skeins, dropAddends_skeins, orphanSteps_skeins, recallIds_skeins]

theorem findL_replaceExec (hl : findL s id = some l) (hx : l.execs[e]? = some x) (r : Role) (p : Place) :
    findL (replaceExec s id e r p) id = some { l with
      execs := updAt Exec.discarded l.execs e ++ [Exec.fresh r p], discarded := l.discarded || x.role == .primary,
      reexecuted := true } := by
  unfold replaceExec
  rw [findL_modL, findL_addExec, findL_discardExec hl hx]
  · rfl
  · intro _; rfl

theorem findL_resumeExec (hl : findL s id = some l) (p : Place) (c : Ckpt) :
    findL (resumeExec s id e p c x) id = some { l with execs := updAt (Exec.restarted p c) l.execs e, reexecuted := true } := by
  unfold resumeExec
  rw [findL_modL, findL_modX, findL_congr (dropAddends_launches ..), findL_congr (orphanSteps_launches ..),
    findL_congr (recallIds_launches ..)]
  · change Option.map _ (Option.map _ (findL s id)) = _
    rw [hl]
    rfl
  · intro _; rfl

/-- An execution without a checkpoint image is replaced. -/
theorem restartExec_replaces (away : Place) (hl : findL s id = some l) (hx : l.execs[e]? = some x) (hc : x.ckpts = []) :
    restartExec s away id e = replaceExec (releaseLedger s id) id e (again x.role) (away.and x.place) := by
  unfold restartExec
  simp only [hl, Option.bind_some, getX, hx, hc]
  rfl

/-- An execution with a checkpoint image goes back to it. -/
theorem restartExec_resumes (away : Place) (hl : findL s id = some l) (hx : l.execs[e]? = some x) {c : Ckpt} {cs : List Ckpt}
    (hc : x.ckpts = c :: cs) :
    restartExec s away id e = resumeExec (releaseLedger s id) id e (away.and x.place) c x := by
  unfold restartExec
  simp only [hl, Option.bind_some, getX, hx, hc]
  rfl

theorem restartExec_none (away : Place) (h : (findL s id).bind (fun l => l.execs[e]?) = none) : restartExec s away id e = s := by
  unfold restartExec getX
  rw [h]

theorem findL_releaseLedger (i : Nat) : findL (releaseLedger s i) id = findL s id := findL_congr (releaseLedger_launches s i) id

theorem findL_restartExec_fresh (away : Place) (hl : findL s id = some l) (hx : l.execs[e]? = some x) (hc : x.ckpts = []) :
    findL (restartExec s away id e) id = some { l with
      execs := updAt Exec.discarded l.execs e ++ [Exec.fresh (again x.role) (away.and x.place)],
      discarded := l.discarded || x.role == .primary, reexecuted := true } := by
  rw [restartExec_replaces away hl hx hc]
  exact findL_replaceExec (by rw [findL_releaseLedger, hl]) hx ..

theorem findL_restartExec_ckpt (away : Place) (hl : findL s id = some l) (hx : l.execs[e]? = some x) {c : Ckpt} {cs : List Ckpt}
    (hc : x.ckpts = c :: cs) : findL (restartExec s away id e) id =
      some { l with execs := updAt (Exec.restarted (away.and x.place) c) l.execs e, reexecuted := true } := by
  rw [restartExec_resumes away hl hx hc]
  exact findL_resumeExec (by rw [findL_releaseLedger, hl]) ..

end

/-! ### Queues that only lose executions -/

/-- Every skein stands as before, its queue without some of its executions. -/
def QueuesShrink (s t : State) : Prop := ∀ j, ∃ q, q.Sublist (getK s j).queue ∧ getK t j = { getK s j with queue := q }

section
variable {s t u : State} {id e k : Nat}

theorem getK_congr (h : t.skeins = s.skeins) (j : Nat) : getK t j = getK s j := by
  unfold getK; rw [h]

theorem QueuesShrink.of_skeins (h : t.skeins = s.skeins) : QueuesShrink s t :=
  fun j => ⟨(getK s j).queue, List.Sublist.refl _, getK_congr h j⟩

theorem QueuesShrink.trans (h : QueuesShrink s t) (h' : QueuesShrink t u) : QueuesShrink s u := by
  intro j
  obtain ⟨q, hq, ht⟩ := h j
  obtain ⟨q', hq', hu⟩ := h' j
  rw [ht] at hq' hu
  exact ⟨q', hq'.trans hq, hu⟩

/-- A skein with an empty queue stays as it is. -/
theorem QueuesShrink.getK_of_empty (h : QueuesShrink s t) {j : Nat} (hj : (getK s j).queue = []) : getK t j = getK s j := by
  obtain ⟨q, hq, ht⟩ := h j
  rw [hj, List.sublist_nil] at hq
  rw [ht, hq, ← hj]

theorem queuesShrink_dropCtx : QueuesShrink s (dropCtx s k id e) := by
  intro j
  rw [getK_dropCtx]
  split
  · rename_i h
    subst h
    exact ⟨_, List.filter_sublist, rfl⟩
  · exact ⟨_, List.Sublist.refl _, rfl⟩

theorem queuesShrink_offSkein (k? : Option Nat) : QueuesShrink s (offSkein s k? id e) := by
  unfold offSkein
  cases k? with
  | none => rw [Option.elim_none]; exact .of_skeins rfl
  | some k => rw [Option.elim_some]; exact queuesShrink_dropCtx

theorem queuesShrink_discardExec : QueuesShrink s (discardExec s id e) := by
  rcases exec_cases s id e with h | ⟨l, x, hl, hx⟩
  · rw [discardExec_none h]
    exact .of_skeins rfl
  · refine (queuesShrink_offSkein x.skein (id := id) (e := e)).trans (.of_skeins ?_)
    rw [discardExec_eq hl hx]
    split
    · rw [modL_skeins, dropExec_skeins]
    · rw [dropExec_skeins]

theorem queuesShrink_restartExec (away : Place) : QueuesShrink s (restartExec s away id e) := by
  rcases exec_cases s id e with h | ⟨l, x, hl, hx⟩
  · rw [restartExec_none away h]
    exact .of_skeins rfl
  · have release : QueuesShrink s (releaseLedger s id) := .of_skeins (releaseLedger_skeins s id)
    cases hc : x.ckpts with
    | nil =>
      rw [restartExec_replaces away hl hx hc]
      exact release.trans (queuesShrink_discardExec.trans (.of_skeins (replaceExec_skeins ..)))
    | cons c cs =>
      rw [restartExec_resumes away hl hx hc]
      exact release.trans (.of_skeins (resumeExec_skeins ..))

/-- A reset skein holds nothing; its standing and its events are what they were. -/
theorem queuesShrink_clearSkein (away : Place) :
    QueuesShrink (modK s k (fun q => { q with queue := [], resident := none })) (clearSkein s away k) :=
  foldl_preserves (fun _ _ h => h.trans (queuesShrink_restartExec away)) _ (.of_skeins rfl)

theorem getK_clearSkein_self (away : Place) :
    getK (clearSkein s away k) k = { getK s k with queue := [], resident := none } := by
  rw [(queuesShrink_clearSkein away).getK_of_empty] <;> simp

/-! ### A skein's fault and its retirement -/

theorem clearSkein_of_empty (away : Place) (h : (getK s k).queue = []) :
    clearSkein s away k = modK s k (fun q => { q with queue := [], resident := none }) := by
  unfold clearSkein
  rw [h]
  rfl

/-- A good skein that fails is in test with one event more, its queue and resident region gone. -/
theorem getK_failSkein_self (h : (getK s k).mode = .good) :
    getK (failSkein s k) k = { mode := .testing, queue := [], resident := none, events := (getK s k).events + 1 } := by
  unfold failSkein skeinEvent
  rw [getK_modK_self, getK_clearSkein_self]
  simp only [h]

theorem getK_failSkein_ne (hq : (getK s k).queue = []) {j : Nat} (hj : j ≠ k) : getK (failSkein s k) j = getK s j := by
  unfold failSkein skeinEvent
  rw [getK_modK_ne _ _ hj, clearSkein_of_empty _ hq, getK_modK_ne _ _ hj]

/-- Moving the executions that have not started takes nothing else off a skein. -/
theorem moveUnstarted_skeins :
    (moveUnstarted s k).skeins = (modK s k (fun q => { q with queue := q.queue.filter (·.started) })).skeins := by
  unfold moveUnstarted
  dsimp only
  rw [modK_skeins, modK_skeins, foldl_keeps (fun s => s.skeins) _ _ (fun s c _ => by simp) s]

@[simp] theorem moveUnstarted_weave : (moveUnstarted s k).weave = s.weave := by
  unfold moveUnstarted
  dsimp only
  rw [modK_weave, foldl_keeps (fun s => s.weave) _ _ (fun s c _ => by simp) s]

theorem retireSkein_of_out (h : (getK s k).mode = .absent ∨ (getK s k).mode = .retiring) : retireSkein s k = s := by
  unfold retireSkein
  rw [if_pos h]

theorem getK_retireSkein (h : ¬((getK s k).mode = .absent ∨ (getK s k).mode = .retiring)) (j : Nat) :
    getK (retireSkein s k) j = if j = k then
      { getK s k with mode := .retiring, events := 0, queue := (getK s k).queue.filter (·.started) } else getK s j := by
  have hs : (retireSkein s k).skeins = (moveUnstarted (modK s k (fun q => { q with mode := .retiring, events := 0 })) k).skeins := by
    unfold retireSkein
    rw [if_neg h]
    simp
  rw [getK_congr (hs.trans moveUnstarted_skeins)]
  split
  · rename_i hj
    subst hj
    simp
  · rename_i hj
    rw [getK_modK_ne _ _ hj, getK_modK_ne _ _ hj]

theorem retireSkein_weave (h : ¬((getK s k).mode = .absent ∨ (getK s k).mode = .retiring)) :
    (retireSkein s k).weave = { s.weave with retire := s.weave.retire ||| BitVec.twoPow 128 k } := by
  unfold retireSkein
  rw [if_neg h]
  simp

end

/-! ### Permanent weave links -/

/-- The links that are permanent, and those whose pairs switch route at the next boundary. -/
def deadLinks (s : State) : NSet × NSet := (s.weave.permanent, s.weave.pendingSwap)

section
variable (s : State)

theorem deadLinks_congr {s t : State} (h : t.weave = s.weave) : deadLinks t = deadLinks s := by
  unfold deadLinks; rw [h]

theorem endLaunch_weave (id status detail word : Nat) (cursor : Bytes) (k : Nat) :
    (endLaunch s id status detail word cursor k).weave = s.weave := by
  have all : (discardAll s id).weave = s.weave := by
    unfold discardAll
    split
    · rfl
    · exact foldl_keeps (·.weave) _ _ (fun _ _ _ => discardExec_weave) s
  unfold endLaunch
  split
  · rfl
  · dsimp only
    rw [pushRecord, modT_weave, modL_weave, releaseLedger_weave, all]

theorem startRetaining_weave (hung cause : Nat) : (startRetaining s hung cause).weave = s.weave := by
  unfold startRetaining
  split
  · rfl
  · refine foldl_keeps (·.weave) _ _ (fun u l _ => ?_) _
    split
    · rfl
    · exact endLaunch_weave ..

theorem deadLinks_retireSkein (k : Nat) : deadLinks (retireSkein s k) = deadLinks s := by
  by_cases h : (getK s k).mode = .absent ∨ (getK s k).mode = .retiring
  · rw [retireSkein_of_out h]
  · unfold deadLinks
    rw [retireSkein_weave h]

/-- Retiring the skeins of cut-off sites leaves the links as they are. -/
theorem deadLinks_retireSites (gone : List Nat) :
    deadLinks (gone.foldl (fun s p =>
      (List.range 128).foldl (fun s k => if physicalOf s k = p then retireSkein s k else s) s) s) = deadLinks s := by
  refine foldl_keeps deadLinks _ _ (fun s p _ => foldl_keeps deadLinks _ _ (fun s k _ => ?_) s) s
  split
  · exact deadLinks_retireSkein s k
  · rfl

theorem deadLinks_settleRoutes (link : Nat) : deadLinks (settleRoutes s link) = deadLinks s := by
  have marked (u : State) (l : NSet) : deadLinks (persistMap { u with defects := { u.defects with skeins := l } }) = deadLinks u :=
    deadLinks_congr (persistMap_weave _)
  have degraded (u : State) : deadLinks (startRetaining
      (msix (logErr (stopAdmit (raiseCond u condWeave) condWeave) Err.weaveDegraded noTenant link 0) 0 5) 0 0x0B) = deadLinks u :=
    deadLinks_congr (by rw [startRetaining_weave, msix_weave, logErr_weave, stopAdmit_weave, raiseCond_weave])
  unfold settleRoutes
  simp only [apply_ite deadLinks, marked, degraded, deadLinks_retireSites, ite_self]

/-- Uncorrectable flits of the last second, the one that comes now at their head. -/
def flitEvents (link : Nat) : List (Nat × Nat) :=
  (link, s.clk.elapsed) :: s.weave.events.filter (fun e => decide (s.clk.elapsed ≤ e.2 + 1000000000))

theorem linkEvent_few {link : Nat} (hp : smem s.weave.permanent link = false)
    (hn : ((flitEvents s link).filter (fun e => e.1 == link)).length < 3) :
    linkEvent s link = { s with weave := { s.weave with events := flitEvents s link } } := by
  unfold linkEvent
  rw [if_neg (by simp [hp])]
  exact if_pos hn

theorem linkEvent_third {link : Nat} (hp : smem s.weave.permanent link = false)
    (hn : 3 ≤ ((flitEvents s link).filter (fun e => e.1 == link)).length) :
    smem (linkEvent s link).weave.permanent link = true ∧ smem (linkEvent s link).weave.pendingSwap link = true := by
  have h : deadLinks (linkEvent s link) = (sadd s.weave.permanent link, sadd s.weave.pendingSwap link) := by
    unfold flitEvents at hn
    unfold linkEvent
    rw [if_neg (by simp [hp])]
    dsimp only
    rw [if_neg (Nat.not_lt.2 hn), deadLinks_settleRoutes]
    exact deadLinks_congr (persistMap_weave _)
  obtain ⟨hperm, hswap⟩ := Prod.mk.inj h
  rw [hperm, hswap]
  exact ⟨smem_sadd_self .., smem_sadd_self ..⟩

end

/-! ### Failed transactions -/

section
variable {s : State} {id e : Nat} {l : Launch} {x : Exec}

/-- An execution that still runs restarts away from the skein it ran on. -/
theorem failTransaction_placed (hl : findL s id = some l) (hx : l.execs[e]? = some x) (hs : l.stage = .running)
    (hp : x.phase = .placed) :
    failTransaction s id e = restartExec (offSkein s x.skein id e) ⟨[x.ran], []⟩ id e := by
  unfold failTransaction offSkein
  simp only [hl, getX, hx, hs, hp]

/-- One whose result has passed on is replaced away from that skein. -/
theorem failTransaction_passedOn (hl : findL s id = some l) (hx : l.execs[e]? = some x) (hs : l.stage = .running)
    (hp : x.phase = .result ∨ x.phase = .checked) :
    failTransaction s id e = replaceExec s id e (again x.role) { x.place with skeins := x.ran :: x.place.skeins } := by
  unfold failTransaction
  rcases hp with hp | hp <;> simp only [hl, getX, hx, hs, hp, rerun, replaceExec]

theorem failTransaction_fresh (hl : findL s id = some l) (hx : l.execs[e]? = some x) (hs : l.stage = .running)
    (hp : (x.phase = .placed ∧ x.ckpts = []) ∨ x.phase = .result ∨ x.phase = .checked) :
    (findL (failTransaction s id e) id).map (fun l => (l.reexecuted, l.execs.length)) = some (true, l.execs.length + 1) := by
  rcases hp with ⟨hp, hc⟩ | hp
  · rw [failTransaction_placed hl hx hs hp,
      findL_restartExec_fresh _ ((findL_congr (offSkein_launches x.skein) id).trans hl) hx hc]
    simp
  · rw [failTransaction_passedOn hl hx hs hp, findL_replaceExec hl hx]
    simp

theorem failTransaction_ckpt (hl : findL s id = some l) (hx : l.execs[e]? = some x) (hs : l.stage = .running)
    (hp : x.phase = .placed) (hc : x.ckpts ≠ []) :
    (findL (failTransaction s id e) id).map (fun l => (l.reexecuted, l.execs.length, (l.execs[e]?).map (fun y => (y.phase, y.resume)))) =
      some (true, l.execs.length, some (.waiting, true)) := by
  obtain ⟨c, cs, hc⟩ := List.exists_cons_of_ne_nil hc
  rw [failTransaction_placed hl hx hs hp,
    findL_restartExec_ckpt _ ((findL_congr (offSkein_launches x.skein) id).trans hl) hx hc]
  simp [hx, Exec.restarted]

end

/-! ### Events of sections and engines -/

section
variable (s : State) (kind index : Nat)

theorem event_skeins : (event s kind index).1.skeins = s.skeins := by unfold event; dsimp only; split <;> rfl
theorem event_emd : (event s kind index).1.emd = s.emd := by unfold event; dsimp only; split <;> rfl
theorem event_defects : (event s kind index).1.defects = s.defects := by unfold event; dsimp only; split <;> rfl

theorem channel_key : (channel s kind index).kind = kind ∧ (channel s kind index).index = index := by
  unfold channel
  cases h : s.itg.channels.find? (fun c => c.kind == kind && c.index == index) with
  | none => exact ⟨rfl, rfl⟩
  | some c => simpa using List.find?_some h

/-- The event of a channel that is not permanent stands in its record. -/
theorem event_recorded (h : (channel s kind index).permanent = false) :
    ∃ c, c ∈ (event s kind index).1.itg.channels ∧ c.kind = kind ∧ c.index = index ∧ c.times.head? = some s.clk.time.toNat := by
  obtain ⟨hk, hi⟩ := channel_key s kind index
  unfold event
  dsimp only
  rw [if_neg (by simp [h])]
  exact ⟨_, List.mem_cons_self, hk, hi, rfl⟩

@[simp] theorem persistMap_emd : (persistMap s).emd = s.emd := by
  unfold persistMap; dsimp only; split
  · rfl
  · split <;> rfl

@[simp] theorem persistMap_defects : (persistMap s).defects = s.defects := by
  unfold persistMap; dsimp only; split
  · rfl
  · split <;> rfl

end

section
variable {s : State}

/-- A skein with nothing to run that takes no dispatch. -/
def Emptied (s : State) (j : Nat) : Prop := (getK s j).queue = [] ∧ (getK s j).mode ≠ .good

theorem Emptied.of_shrink {t : State} {j : Nat} (h : Emptied s j) (hs : QueuesShrink s t) : Emptied t j := by
  unfold Emptied
  rw [hs.getK_of_empty h.1]
  exact h

/-- A change of one skein that fills no queue and makes no skein good. -/
theorem Emptied.modK {j k : Nat} {f : SkeinSt → SkeinSt} (h : Emptied s j)
    (hf : ∀ q, q.queue = [] → q.mode ≠ .good → (f q).queue = [] ∧ (f q).mode ≠ .good) : Emptied (modK s k f) j := by
  unfold Emptied
  by_cases hj : j = k
  · subst hj
    rw [getK_modK_self]
    exact hf _ h.1 h.2
  · rw [getK_modK_ne _ _ hj]
    exact h

theorem Emptied.retireSkein {j k : Nat} (h : Emptied s j) : Emptied (retireSkein s k) j := by
  by_cases ho : (getK s k).mode = .absent ∨ (getK s k).mode = .retiring
  · rwa [retireSkein_of_out ho]
  · unfold Emptied
    rw [getK_retireSkein ho]
    split
    · rename_i hj
      subst hj
      simp [h.1]
    · exact h

/-- The reset of one skein of a section: a good one is in test. -/
def resetInSection (n : Nat) (s : State) (k : Nat) : State :=
  modK (clearSkein s ⟨[], [n]⟩ k) k (fun q => if q.mode = .good then { q with mode := .testing } else q)

theorem emptied_resetInSection_self (n k : Nat) : Emptied (resetInSection n s k) k := by
  unfold Emptied resetInSection
  rw [getK_modK_self, getK_clearSkein_self]
  split <;> simp_all

theorem Emptied.resetInSection {j : Nat} (h : Emptied s j) (n k : Nat) : Emptied (resetInSection n s k) j := by
  have cleared : Emptied (clearSkein s ⟨[], [n]⟩ k) j :=
    (h.modK (f := fun q => { q with queue := [], resident := none }) (fun _ _ hm => ⟨rfl, hm⟩)).of_shrink
      (queuesShrink_clearSkein _)
  exact cleared.modK (fun q hq hm => by rw [if_neg hm]; exact ⟨hq, hm⟩)

theorem queuesShrink_clearResults (n : Nat) : QueuesShrink s (clearResults s n) := by
  refine foldl_preserves (P := QueuesShrink s) (fun _ l h => foldl_preserves (P := QueuesShrink s) (fun u p h => ?_) _ h) _
    (.of_skeins rfl)
  split
  · exact h.trans (queuesShrink_restartExec _)
  · exact h

/-- The event that a section's reset counts. -/
def sectionEvent (s : State) (n : Nat) : State × Bool :=
  event (clearResults ((sectionSkeins n).foldl (resetInSection n) s) n) chSection n

theorem resetSection_eq (n : Nat) :
    resetSection s n = if (sectionEvent s n).2 then (sectionSkeins n).foldl retireSkein (sectionEvent s n).1 else (sectionEvent s n).1 := by
  unfold resetSection sectionEvent resetInSection
  rfl

/-- After a section's reset each of its skeins is emptied. -/
theorem emptied_resetSection (n : Nat) {j : Nat} (hj : j ∈ sectionSkeins n) : Emptied (resetSection s n) j := by
  have skeins : Emptied ((sectionSkeins n).foldl (resetInSection n) s) j :=
    foldl_establishes (P := Emptied) (f := resetInSection n) (fun _ k => emptied_resetInSection_self n k)
      (fun _ k _ h => h.resetInSection n k) (sectionSkeins n) s j hj
  have counted : Emptied (sectionEvent s n).1 j :=
    (skeins.of_shrink (queuesShrink_clearResults n)).of_shrink (.of_skeins (by rw [sectionEvent, event_skeins]))
  rw [resetSection_eq]
  split
  · exact foldl_preserves (P := fun s => Emptied s j) (fun _ _ h => Emptied.retireSkein h) _ counted
  · exact counted

end

/-! ### The commands -/

section
variable (s : State)

theorem exec_skeinFault {k : Skein} (ev : SkeinEvent) (h : (getK s k.val).mode = .good) :
    exec (.skeinFault k ev) s = .next (failSkein s k.val) := by
  change Host.Outcome.next (if (getK s k.val).mode = .absent then s else failSkein s k.val) = _
  rw [h, if_neg nofun]

/-- SKEIN_FAULT of a skein with nothing queued: the skein is in test, nothing else changes. -/
theorem skeinFault_idle (k : Skein) (ev : SkeinEvent) (h : (getK s k.val).mode = .good) (hq : (getK s k.val).queue = []) :
    ∃ t, exec (.skeinFault k ev) s = .next t ∧ (getK t k.val).queue = [] ∧ (getK t k.val).resident = none ∧
      (getK t k.val).mode = .testing ∧ (getK t k.val).events = (getK s k.val).events + 1 ∧
      (∀ j, j ≠ k.val → getK t j = getK s j) ∧ t.launches = s.launches := by
  have hl : (failSkein s k.val).launches = s.launches := by
    unfold failSkein skeinEvent
    rw [clearSkein_of_empty _ hq, modK_launches, modK_launches]
  refine ⟨_, exec_skeinFault s ev h, ?_, ?_, ?_, ?_, fun j hj => getK_failSkein_ne hq hj, hl⟩ <;> rw [getK_failSkein_self h]

/-- SKEIN_FAULT of a skein that runs a primary without checkpoint images: a new execution waits, kept off the skein. -/
theorem skeinFault_primary (k : Skein) (ev : SkeinEvent) (h : (getK s k.val).mode = .good) {c : SkeinCtx} {l : Launch} {x : Exec}
    (hq : (getK s k.val).queue = [c]) (hl : findL s c.launch = some l) (hx : l.execs[c.ex]? = some x) (hr : x.role = .primary)
    (hc : x.ckpts = []) :
    ∃ t l', exec (.skeinFault k ev) s = .next t ∧ (getK t k.val).queue = [] ∧ (getK t k.val).mode = .testing ∧
      findL t c.launch = some l' ∧ l'.reexecuted = true ∧ l'.execs.length = l.execs.length + 1 ∧
      l'.execs[l.execs.length]? = some (Exec.fresh .reexec ⟨k.val :: x.place.skeins, x.place.sections⟩) ∧
      (l'.execs[c.ex]?).map (·.phase) = some .dropped := by
  let s1 := modK s k.val (fun q => { q with queue := [], resident := none })
  have hs : (failSkein s k.val).launches = (restartExec s1 ⟨[k.val], []⟩ c.launch c.ex).launches := by
    unfold failSkein skeinEvent clearSkein
    rw [hq]
    rfl
  have hf := (findL_congr hs c.launch).trans
    (findL_restartExec_fresh (s := s1) _ ((findL_congr (modK_launches ..) _).trans hl) hx hc)
  have hlt : c.ex < l.execs.length := (List.getElem?_eq_some_iff.1 hx).1
  refine ⟨_, _, exec_skeinFault s ev h, ?_, ?_, hf, rfl, ?_, ?_, ?_⟩
  · rw [getK_failSkein_self h]
  · rw [getK_failSkein_self h]
  · simp
  · simp [hr, again, Place.and]
  · rw [List.getElem?_append_left (by simpa using hlt), getElem?_updAt_self, hx]
    rfl

/-- A failed self-test retires the skein. -/
theorem selfTest_failed (k : Skein) (h : (getK s k.val).mode = .testing) :
    ∃ t, exec (.skeinSelfTestDone k false) s = .next t ∧ (getK t k.val).mode = .retiring ∧ t.weave.retire.getLsbD k.val = true ∧
      ∀ c, c ∈ (getK t k.val).queue → c.started = true := by
  have hin : ¬((getK s k.val).mode = .absent ∨ (getK s k.val).mode = .retiring) := by simp [h]
  have he : exec (.skeinSelfTestDone k false) s = .next (retireSkein s k.val) := by
    change execSkeinSelfTestDone k false s = _
    simp [execSkeinSelfTestDone, h]
  refine ⟨_, he, ?_, ?_, ?_⟩
  · simp [getK_retireSkein hin]
  · rw [retireSkein_weave hin]
    simp
  · simp [getK_retireSkein hin]

/-- A passed self-test with no event to count returns the skein to service. -/
theorem selfTest_passed (k : Skein) (h : (getK s k.val).mode = .testing) (he : (getK s k.val).events = 0) :
    exec (.skeinSelfTestDone k true) s = .next (modK s k.val (fun q => { q with mode := .good, events := 0 })) := by
  change execSkeinSelfTestDone k true s = _
  simp [execSkeinSelfTestDone, h, he, countSkeinEvents]

/-- FLIT_DOUBLE_ERROR counts the corrected flits and then the uncorrectable one. -/
theorem exec_flitDoubleError (link : Fin 294) (n : Nat) (owner : Option (Nat × Nat)) :
    exec (.flitDoubleError link ⟨n, owner⟩) s = .next (match owner with
      | some (l, e) => failTransaction (linkEvent (countEvent s 7 n) link.val) l e
      | none => linkEvent (countEvent s 7 n) link.val) := rfl

/-- Fewer than three uncorrectable flits of a link in a second are recorded. -/
theorem flitDoubleError_few {link : Fin 294} (n : Nat) (hp : smem s.weave.permanent link.val = false)
    (hn : ((flitEvents s link.val).filter (fun e => e.1 == link.val)).length < 3) :
    exec (.flitDoubleError link ⟨n, none⟩) s =
      .next { countEvent s 7 n with weave := { s.weave with events := flitEvents s link.val } } := by
  rw [exec_flitDoubleError, linkEvent_few (countEvent s 7 n) hp hn]
  rfl

/-- Their transaction fails in a state that holds the launches of before. -/
theorem flitDoubleError_few_owner {link : Fin 294} (n : Nat) (hp : smem s.weave.permanent link.val = false)
    (hn : ((flitEvents s link.val).filter (fun e => e.1 == link.val)).length < 3) (l x : Nat) :
    exec (.flitDoubleError link ⟨n, some (l, x)⟩) s =
      .next (failTransaction { countEvent s 7 n with weave := { s.weave with events := flitEvents s link.val } } l x) := by
  rw [exec_flitDoubleError, linkEvent_few (countEvent s 7 n) hp hn]
  rfl

/-- The third makes the link permanent. -/
theorem flitDoubleError_third {link : Fin 294} (n : Nat) (hp : smem s.weave.permanent link.val = false)
    (hn : 3 ≤ ((flitEvents s link.val).filter (fun e => e.1 == link.val)).length) :
    ∃ t, exec (.flitDoubleError link ⟨n, none⟩) s = .next t ∧
      smem t.weave.permanent link.val = true ∧ smem t.weave.pendingSwap link.val = true :=
  ⟨_, exec_flitDoubleError s link n none, linkEvent_third (countEvent s 7 n) hp hn⟩

theorem exec_waitBound_skein (k : Skein) (number : Fin 160) (cls : Fin 5) (h : (getK s k.val).mode ≠ .absent) :
    exec (.waitBound (.skein k) number cls) s = .next (failSkein (logErr s Err.waitBound 0xFF number.val cls.val) k.val) := by
  change Host.Outcome.next (if (getK s k.val).mode = .absent then s else _) = _
  rw [if_neg h]
  rfl

/-- The retaining reset of a chip that is up and has no launch: polling stops and the hang is recorded. -/
theorem startRetaining_idle (hung cause : Nat) (hh : s.fe.hang = none) (hl : s.launches = [])
    (hp : s.glb.phase = 5 ∨ s.glb.phase = 6 ∨ s.glb.phase = 8) :
    startRetaining s hung cause = { s with fe := { s.fe with polling := false, hang := some ⟨hung, s.clk.elapsed, cause⟩ } } := by
  unfold startRetaining
  rw [if_neg]
  · dsimp only
    rw [hl]
    rfl
  · rcases hp with hp | hp | hp <;> simp [hh, hp]

/-- A wait elsewhere than at a skein is treated as a hang. -/
theorem exec_waitBound_other (number : Fin 160) (cls : Fin 5) (hh : s.fe.hang = none) (hl : s.launches = [])
    (hp : s.glb.phase = 5 ∨ s.glb.phase = 6 ∨ s.glb.phase = 8) :
    let logged := logErr s Err.waitBound 0xFF number.val cls.val
    exec (.waitBound .other number cls) s =
      .next { logged with fe := { logged.fe with polling := false, hang := some ⟨0, s.clk.elapsed, 0x0A⟩ } } := by
  intro logged
  change Host.Outcome.next (startRetaining logged 0 0x0A) = _
  rw [startRetaining_idle logged 0 0x0A (by rw [logErr_fe, hh]) (by rw [logErr_launches, hl]) (by rwa [logErr_glb]), logErr_clk]

/-- The state after an engine has gone out of service, before EMD-DEGRADED. -/
def engineRetired (s : State) (n : Nat) : State :=
  msix (persistMap { (event s chEngine n).1 with
    emd := { engines := sdel s.emd.engines n }
    defects := { s.defects with engines := sadd s.defects.engines n } }) 0 5

/-- An engine in service that fails: it is counted, and its third event retires it. -/
theorem exec_engineFailure (n : Fin 4) (h : smem s.emd.engines n.val = true) :
    exec (.engineFailure n) s = .next (if (event s chEngine n.val).2 then
      if (sdel s.emd.engines n.val).isEmpty then logErr (raiseCond (engineRetired s n.val) condEmd) Err.emdDegraded noTenant 0 0
      else engineRetired s n.val
    else (event s chEngine n.val).1) := by
  change execEngineFailure n s = _
  unfold execEngineFailure engineRetired
  simp only [h]
  cases (event s chEngine n.val).2 <;> rfl

theorem engineRetired_emd (n : Nat) : (engineRetired s n).emd.engines = sdel s.emd.engines n := by
  rw [engineRetired, msix_emd, persistMap_emd]

theorem engineRetired_defects (n : Nat) : smem (engineRetired s n).defects.engines n = true := by
  rw [engineRetired, msix_defects, persistMap_defects]
  exact smem_sadd_self ..

theorem engineFailure_counted (n : Fin 4) (h : smem s.emd.engines n.val = true) (hp : (event s chEngine n.val).2 = false) :
    ∃ t, exec (.engineFailure n) s = .next t ∧ t.emd = s.emd ∧ t.defects = s.defects ∧
      ((channel s chEngine n.val).permanent = false → ∃ c, c ∈ t.itg.channels ∧ c.kind = chEngine ∧ c.index = n.val ∧
        c.times.head? = some s.clk.time.toNat) := by
  refine ⟨(event s chEngine n.val).1, ?_, event_emd .., event_defects .., event_recorded s chEngine n.val⟩
  rw [exec_engineFailure s n h, hp]
  rfl

theorem engineFailure_permanent (n : Fin 4) (h : smem s.emd.engines n.val = true) (hp : (event s chEngine n.val).2 = true) :
    ∃ t, exec (.engineFailure n) s = .next t ∧ t.emd.engines = sdel s.emd.engines n.val ∧
      smem t.defects.engines n.val = true ∧ (t.emd.engines = [] → t.glb.conds.getLsbD 3 = true) := by
  rw [exec_engineFailure s n h, hp, if_pos rfl]
  refine ⟨_, rfl, ?_⟩
  split
  · rw [logErr_emd, raiseCond_emd, logErr_defects, raiseCond_defects, logErr_glb]
    refine ⟨engineRetired_emd .., engineRetired_defects .., fun _ => ?_⟩
    simp [raiseCond, condEmd]
  · rename_i hne
    refine ⟨engineRetired_emd .., engineRetired_defects .., fun h => absurd ?_ hne⟩
    rw [List.isEmpty_iff, ← engineRetired_emd, h]

end

/-- Settles O40, one theorem of this file for each of its events. -/
theorem failedUnitsGiveTheirWorkAway : Obligations.FailedUnitsGiveTheirWorkAway := by
  unfold Obligations.FailedUnitsGiveTheirWorkAway
  refine ⟨fun s k ev h => ⟨skeinFault_idle s k ev h, fun c l x hq hl hx hr hc _ => skeinFault_primary s k ev h hq hl hx hr hc⟩,
    fun s k h => ⟨selfTest_failed s k h, selfTest_passed s k h⟩,
    fun s n => ⟨resetSection s n.val, rfl, fun j hj => emptied_resetSection n.val (List.mem_map.2 ⟨j, List.mem_range.2 hj, rfl⟩)⟩,
    fun s link n hp => ⟨fun hn => ⟨flitDoubleError_few s n hp hn, fun l x lx ex hl hx hs => ⟨
      fun hph => ⟨_, flitDoubleError_few_owner s n hp hn l x, failTransaction_fresh hl hx hs hph⟩,
      fun hph hc => ⟨_, flitDoubleError_few_owner s n hp hn l x, failTransaction_ckpt hl hx hs hph hc⟩⟩⟩,
      flitDoubleError_third s n hp⟩,
    fun s number cls => ⟨fun k => exec_waitBound_skein s k number cls, exec_waitBound_other s number cls⟩,
    fun s n h => ⟨engineFailure_counted s n h, engineFailure_permanent s n h⟩⟩

end Sys2Proof.Machine
end

section
/-! SUPPORT. Lane-wise words of a strand: what a lane register reads after all its 32 cells are written, a lane operation as a
function of the lane's number, and each word of Table Matrix-7 from VADD to VSEL (O21). -/

namespace Sys2Proof.Machine

/-! ### Writing a lane register -/

section
variable (t : StrandSt) (r : BitVec 3)

@[simp] theorem fit32_map_range (c : Nat → W32) :
    setLanes.fit32 ((List.range 32).map c) = (List.range 32).map c := by
  simp [setLanes.fit32]

/-- A lane register whose 32 cells were written reads them back. -/
theorem lane_setLanes_self (c : Nat → W32) {j : Nat} (hj : j < 32) :
    lane (setLanes t r ((List.range 32).map c)) r j = c j := by
  simp [lane, setLanes, nget_nputs, hj]

/-- Writing a lane register leaves the lanes of every other one alone: lane `j` of register `r` has key `32 r + j`. -/
theorem lane_setLanes_ne {r' : BitVec 3} (hr : r' ≠ r) (c : Nat → W32) {j : Nat} (hj : j < 32) :
    lane (setLanes t r ((List.range 32).map c)) r' j = lane t r' j := by
  have hne : r'.toNat ≠ r.toNat := fun h => hr (BitVec.eq_of_toNat_eq h)
  simp only [lane, setLanes, fit32_map_range]
  refine nget_nputs_outside _ _ ?_
  simp only [List.length_map, List.length_range]
  omega

@[simp] theorem flagUnion_map_noFlags {α : Type} (l : List α) : flagUnion (l.map (fun _ => noFlags)) = noFlags := by
  induction l with
  | nil => rfl
  | cons a l ih =>
    rw [List.map_cons, flagUnion, List.foldl_cons, show noFlags ||| noFlags = noFlags from BitVec.or_self]
    exact ih

@[simp] theorem strFlags_noFlags : strFlags t noFlags = t := by simp [strFlags, noFlags]

/-- The words of a strand read the lanes that it had before its word. -/
@[simp] theorem lane_strandPast (j : Nat) : lane (strandPast t) r j = lane t r j := rfl

@[simp] theorem lane_strFlags (f : Flags) (j : Nat) : lane (strFlags t f) r j = lane t r j := rfl

theorem laneElems_eq_map (f : Fmt) : laneElems t r f = (List.range 32).map (laneElem t r f) :=
  List.map_map ..

/-! ### A lane operation as a function of the lane's number -/

/-- All lanes written and the union of their flags raised, in the strand past its word. -/
theorem laneResult_mapLanes (v : Nat → Nat × Flags) :
    LaneResult t (mapLanes (strandPast t) r ((List.range 32).map v)) r v := by
  simp only [mapLanes, setElems, List.map_map]
  refine ⟨fun j hj => ?_, rfl, fun r' j hr hj => ?_, rfl, rfl, rfl⟩
  · rw [lane_strFlags, lane_setLanes_self _ r _ hj]
    rfl
  · rw [lane_strFlags, lane_setLanes_ne _ r hr _ hj, lane_strandPast]

/-- Whole cells written and no flag raised. -/
theorem laneResult_setLanes (c : Nat → W32) :
    LaneResult t (setLanes (strandPast t) r ((List.range 32).map c)) r (fun j => ((c j).toNat, noFlags)) := by
  have h := laneResult_mapLanes t r (fun j => ((c j).toNat, noFlags))
  simpa only [mapLanes, setElems, List.map_map, Function.comp_def, BitVec.ofNat_toNat, BitVec.setWidth_eq,
    flagUnion_map_noFlags, strFlags_noFlags] using h

end

section
variable (w : VarithW) (t : StrandSt)

/-- A unary word works on element `j` of VA. -/
theorem laneResult_lane1 (f : Fmt → Rnd → Nat → Nat × Flags) :
    LaneResult t (lane1 w f (strandPast t)) w.vd (fun j => f (vFmt w) (vRnd w) (laneElem t w.va (vFmt w) j)) := by
  unfold lane1
  rw [laneElems_eq_map, List.map_map]
  exact laneResult_mapLanes t w.vd _

/-- A binary word works on elements `j` of VA and VB. -/
theorem laneResult_lane2 (f : Fmt → Rnd → Nat → Nat → Nat × Flags) :
    LaneResult t (lane2 w f (strandPast t)) w.vd
      (fun j => f (vFmt w) (vRnd w) (laneElem t w.va (vFmt w) j) (laneElem t w.vb (vFmt w) j)) := by
  unfold lane2
  rw [laneElems_eq_map, laneElems_eq_map, List.zip_map', List.map_map]
  exact laneResult_mapLanes t w.vd _

/-- A compare leaves 1 or 0 and raises nothing (R102). -/
theorem laneResult_laneCmp (f : Fmt → Nat → Nat → Bool) :
    LaneResult t (laneCmp w f (strandPast t)) w.vd
      (fun j => (if f (vFmt w) (laneElem t w.va (vFmt w) j) (laneElem t w.vb (vFmt w) j) then 1 else 0, noFlags)) :=
  laneResult_lane2 w t _

/-- A ternary word works on elements `j` of VA, VB and VC. -/
theorem laneResult_ternary (f : Nat → Nat → Nat → Nat × Flags) (m : Fmt) :
    LaneResult t (mapLanes (strandPast t) w.vd ((((laneElems (strandPast t) w.va m).zip (laneElems (strandPast t) w.vb m)).zip
      (laneElems (strandPast t) w.vc m)).map (fun p => f p.1.1 p.1.2 p.2))) w.vd
      (fun j => f (laneElem t w.va m j) (laneElem t w.vb m j) (laneElem t w.vc m j)) := by
  rw [laneElems_eq_map, laneElems_eq_map, laneElems_eq_map, List.zip_map', List.zip_map', List.map_map]
  exact laneResult_mapLanes t w.vd _

/-- A select takes the whole cell of VB where the whole cell of VC is 0 and of VA elsewhere (log 20). -/
theorem laneResult_select :
    LaneResult t (setLanes (strandPast t) w.vd ((List.range 32).map (fun j =>
      if lane (strandPast t) w.vc j != 0 then lane (strandPast t) w.va j else lane (strandPast t) w.vb j))) w.vd
      (fun j => ((if lane t w.vc j = 0 then lane t w.vb j else lane t w.va j).toNat, noFlags)) := by
  simp only [lane_strandPast, bne_iff_ne, ne_eq, ite_not]
  exact laneResult_setLanes t w.vd _

end

/-! ### Issue of a lane-wise word -/

section
variable {s : State} {k : Skein} {i : Strand} {x : SkeinCtx} {e : Env} {g : Group} {legal : Bool} {f : StrandSt → StrandSt}

/-- A legal lane word on a ready strand leaves what its operation leaves in the strand past the word. -/
theorem laneWord_writes (hr : StrandReady s k i x e g) (hl : legal = true) {word : Instr}
    (hx : exec word s = .next (issueLane s k.val i.val legal f)) {vd : BitVec 3} {v : Nat → Nat × Flags}
    (hv : LaneResult (getStr x.core i.val) (f (strandPast (getStr x.core i.val))) vd v) :
    ∃ t', exec word s = .next (withStrand s k x.core i t') ∧ LaneResult (getStr x.core i.val) t' vd v :=
  ⟨_, hx.trans (congrArg _ (issueLane_ready hr hl)), hv⟩

end

/-- Settles O21, from what each kind of lane operation leaves and the issue of a lane word. -/
theorem laneArithmeticWords : Obligations.LaneArithmeticWords := by
  intro s k i x e g w hr hl
  dsimp only
  refine ⟨?vadd, ?vsub, ?vmul, ?vdiv, ?vmin, ?vmax, ?vabs, ?vneg, ?vcmpeq, ?vcmplt, ?vcmple, ?vsel,
    fun hf => ⟨?vfma, ?vsqrt, ?vcmpun⟩⟩
  case vadd => exact laneWord_writes hr hl rfl (laneResult_lane2 w _ eAdd)
  case vsub => exact laneWord_writes hr hl rfl (laneResult_lane2 w _ eSub)
  case vmul => exact laneWord_writes hr hl rfl (laneResult_lane2 w _ eMul)
  case vdiv => exact laneWord_writes hr hl rfl (laneResult_lane2 w _ eDiv)
  case vmin => exact laneWord_writes hr hl rfl (laneResult_lane2 w _ (fun f _ a b => (eMin f a b, noFlags)))
  case vmax => exact laneWord_writes hr hl rfl (laneResult_lane2 w _ (fun f _ a b => (eMax f a b, noFlags)))
  case vabs => exact laneWord_writes hr hl rfl (laneResult_lane1 w _ (fun f _ => eAbs f))
  case vneg => exact laneWord_writes hr hl rfl (laneResult_lane1 w _ (fun f _ => eNeg f))
  case vcmpeq => exact laneWord_writes hr hl rfl (laneResult_laneCmp w _ eEq)
  case vcmplt => exact laneWord_writes hr hl rfl (laneResult_laneCmp w _ eLt)
  case vcmple => exact laneWord_writes hr hl rfl (laneResult_laneCmp w _ eLe)
  case vsel =>
    refine laneWord_writes hr hl rfl ?_
    exact laneResult_select w _
  case vfma =>
    refine laneWord_writes hr hf rfl ?_
    exact laneResult_ternary w _ (eFma (vFmt w) (vRnd w)) (vFmt w)
  case vsqrt => exact laneWord_writes hr hf rfl (laneResult_lane1 w _ eSqrt)
  case vcmpun => exact laneWord_writes hr hf rfl (laneResult_laneCmp w _ eUn)

end Sys2Proof.Machine
end

section
/-! SUPPORT. Tally cells and their order: a cell as an exact sum and three sticky indications, what a stack's oldest addend
adds to each cell and what it leaves of each stack, and two stacks in either order (O32). -/

namespace Sys2Proof.Machine

/-! ### Numbers wrapped to a width, and what stands above it -/

theorem two_pow_cast_pos (n : Nat) : (0 : Int) < ((2 ^ n : Nat) : Int) := Int.natCast_pos.2 (Nat.two_pow_pos n)

theorem unsigned_cast (n : Nat) (i : Int) : (unsigned n i : Int) = i % ((2 ^ n : Nat) : Int) :=
  Int.toNat_of_nonneg (Int.emod_nonneg i (Int.ne_of_gt (two_pow_cast_pos n)))

theorem unsigned_lt (n : Nat) (i : Int) : unsigned n i < 2 ^ n := by
  have h := Int.emod_lt_of_pos i (two_pow_cast_pos n)
  rw [← unsigned_cast] at h
  exact Int.ofNat_lt.1 h

theorem wrapped_div (n : Nat) (h : Cell320) (i : Int) : (unsigned n i + h * 2 ^ n : Cell320) / 2 ^ n = h := by
  rw [Nat.add_mul_div_right _ _ (Nat.two_pow_pos n), Nat.div_eq_of_lt (unsigned_lt n i), Nat.zero_add]

theorem wrapped_mod (n : Nat) (h : Cell320) (i : Int) :
    ((unsigned n i + h * 2 ^ n : Cell320) : Int) % (2 ^ n : Nat) = i % (2 ^ n : Nat) := by
  rw [Int.natCast_add, Int.natCast_mul, unsigned_cast, Int.add_mul_emod_self_right, Int.emod_emod]

theorem or_two_pow_div (c : Cell320) {m n : Nat} (h : m ≤ n) : (c ||| 2 ^ n) / 2 ^ m = c / 2 ^ m ||| 2 ^ (n - m) := by
  rw [Nat.or_div_two_pow, Nat.pow_div h (by decide)]

theorem or_two_pow_mod (c : Cell320) {m n : Nat} (h : m ≤ n) :
    ((c ||| 2 ^ n : Cell320) : Int) % (2 ^ m : Nat) = (c + 0) % (2 ^ m : Nat) := by
  rw [Int.add_zero, ← Int.natCast_emod, Nat.or_mod_two_pow, Nat.mod_eq_zero_of_dvd (Nat.pow_dvd_pow 2 h), Nat.or_zero,
    Int.natCast_emod]

theorem eq_of_div_of_mod (n : Nat) {a b : Cell320} (hd : a / 2 ^ n = b / 2 ^ n)
    (hm : (a : Int) % (2 ^ n : Nat) = (b : Int) % (2 ^ n : Nat)) : a = b := by
  rw [← Int.natCast_emod, ← Int.natCast_emod, Int.natCast_inj] at hm
  rw [← Nat.div_add_mod a (2 ^ n), hd, hm, Nat.div_add_mod]

theorem mod_add_mod (n : Nat) (c : Cell320) (i : Int) :
    (((c % 2 ^ n : Nat) : Int) + i) % (2 ^ n : Nat) = (c + i) % (2 ^ n : Nat) := by
  rw [Int.natCast_emod, Int.emod_add_emod]

/-! ### A cell as an exact sum and its indications (R112, R113, R120) -/

/-- What an addend adds to a cell's sum, in units of 2^-149. -/
def sumPart : Val → Int
  | .fin n _ e => n * (2 ^ (e + 149).toNat : Nat)
  | .nan | .inf _ | .zero _ => 0

/-- The indications above a cell's sum that an addend sets. -/
def stickyPart : Val → Nat
  | .nan => 1
  | .inf false => 2
  | .inf true => 4
  | .zero _ | .fin _ _ _ => 0

theorem cellAdd_nan (c : Cell320) : cellAdd c .nan = c ||| 2 ^ 317 := rfl
theorem cellAdd_posInf (c : Cell320) : cellAdd c (.inf false) = c ||| 2 ^ 318 := rfl
theorem cellAdd_negInf (c : Cell320) : cellAdd c (.inf true) = c ||| 2 ^ 319 := rfl
theorem cellAdd_zero (c : Cell320) (neg : Bool) : cellAdd c (.zero neg) = c := rfl
theorem cellAdd_fin (c : Cell320) (n : Int) (d : Nat) (e : Int) : cellAdd c (.fin n d e) =
    unsigned 317 ((c % 2 ^ 317 : Nat) + sumPart (.fin n d e)) + c / 2 ^ 317 * 2 ^ 317 := rfl

/-- The indications are sticky. -/
theorem cellAdd_div (c : Cell320) : ∀ v : Val, cellAdd c v / 2 ^ 317 = c / 2 ^ 317 ||| stickyPart v
  | .nan => by rw [cellAdd_nan, or_two_pow_div c (Nat.le_refl 317), Nat.sub_self]; rfl
  | .inf false => by rw [cellAdd_posInf, or_two_pow_div c (show 317 ≤ 318 by decide)]; rfl
  | .inf true => by rw [cellAdd_negInf, or_two_pow_div c (show 317 ≤ 319 by decide)]; rfl
  | .zero neg => by rw [cellAdd_zero, stickyPart, Nat.or_zero]
  | .fin n d e => by rw [cellAdd_fin, wrapped_div 317, stickyPart, Nat.or_zero]

/-- The sum is exact modulo 2^317. -/
theorem cellAdd_mod (c : Cell320) : ∀ v : Val, (cellAdd c v : Int) % (2 ^ 317 : Nat) = (c + sumPart v) % (2 ^ 317 : Nat)
  | .nan => by rw [cellAdd_nan, or_two_pow_mod c (Nat.le_refl 317), sumPart]
  | .inf false => by rw [cellAdd_posInf, or_two_pow_mod c (show 317 ≤ 318 by decide), sumPart]
  | .inf true => by rw [cellAdd_negInf, or_two_pow_mod c (show 317 ≤ 319 by decide), sumPart]
  | .zero neg => by rw [cellAdd_zero, sumPart, Int.add_zero]
  | .fin n d e => by rw [cellAdd_fin, wrapped_mod 317, mod_add_mod 317]

/-- A cell is its indications and its sum. -/
theorem cell_ext {a b : Cell320} (hd : a / 2 ^ 317 = b / 2 ^ 317) (hm : (a : Int) % (2 ^ 317 : Nat) = (b : Int) % (2 ^ 317 : Nat)) :
    a = b := eq_of_div_of_mod 317 hd hm

theorem cellAdd_twice_div (c : Cell320) (v w : Val) :
    cellAdd (cellAdd c v) w / 2 ^ 317 = c / 2 ^ 317 ||| (stickyPart v ||| stickyPart w) := by
  rw [cellAdd_div, cellAdd_div, Nat.or_assoc]

theorem cellAdd_twice_mod (c : Cell320) (v w : Val) :
    (cellAdd (cellAdd c v) w : Int) % (2 ^ 317 : Nat) = (c + sumPart v + sumPart w) % (2 ^ 317 : Nat) := by
  rw [cellAdd_mod, ← Int.emod_add_emod, cellAdd_mod, Int.emod_add_emod]

/-- Two addends in either order leave the same cell. -/
theorem cellAdd_right_comm (c : Cell320) (v w : Val) : cellAdd (cellAdd c v) w = cellAdd (cellAdd c w) v :=
  cell_ext (by rw [cellAdd_twice_div, cellAdd_twice_div, Nat.or_comm (stickyPart v)])
    (by rw [cellAdd_twice_mod, cellAdd_twice_mod, Int.add_right_comm])

/-! ### Launches, executions and tally cells after a change -/

theorem find?_updFirst_of_disjoint {α : Type} {p q : α → Bool} {f : α → α} (h : ∀ x, p x → q x = false ∧ q (f x) = false) :
    ∀ l : List α, (updFirst p f l).find? q = l.find? q
  | [] => rfl
  | x :: l => by
    cases hx : p x with
    | true => simp [updFirst, hx, h x hx]
    | false => simp [updFirst, hx, List.find?_cons, find?_updFirst_of_disjoint h l]

theorem findL_modX_ne (s : State) {id id' : Nat} (h : id' ≠ id) (e : Nat) (f : Exec → Exec) :
    findL (modX s id e f) id' = findL s id' :=
  find?_updFirst_of_disjoint (fun l hl => by
    have hid : l.id = id := by simpa using hl
    simp [hid, h.symm]) s.launches

theorem getX_modX (s : State) (id e id' e' : Nat) (f : Exec → Exec) : (findL (modX s id e f) id').bind (fun l => getX l e') =
    ((findL s id').bind (fun l => getX l e')).map (fun x => if id = id' ∧ e = e' then f x else x) := by
  by_cases hid : id' = id
  · subst hid
    rw [findL_modX]
    cases findL s id' with
    | none => rfl
    | some l => simp [getX, updAt_eq_modify, List.getElem?_modify]
  · rw [findL_modX_ne s hid]
    simp [Ne.symm hid]

@[simp] theorem getS_applyAddend (s : State) (a : Addend) (i : Nat) : getS (applyAddend s a) i = getS s i := rfl

/-- An applied addend is added to its own cell and to no other. -/
theorem tallyCell_applyAddend (s : State) (a : Addend) (launch ex cell : Nat) :
    tallyCell (applyAddend s a) launch ex cell = (tallyCell s launch ex cell).map (fun c =>
      if a.launch = launch ∧ a.ex = ex ∧ a.cell = cell then cellAdd c (a.kind.val a.value) else c) := by
  unfold tallyCell applyAddend
  rw [getX_modX, Option.map_map, Option.map_map]
  congr 1
  funext x
  by_cases hx : a.launch = launch ∧ a.ex = ex
  · by_cases hc : a.cell = cell
    · simp [hx, hc]
    · simp [hx, hc, nget_nmod, Ne.symm hc]
  · have hne : ¬(a.launch = launch ∧ a.ex = ex ∧ a.cell = cell) := fun h => hx ⟨h.1, h.2.1⟩
    simp [hx, hne]

/-! ### One tally unit -/

/-- A cell with the oldest addend of a stack added, where that addend is one of this cell. -/
def frontAdded (q : StackSt) (launch ex cell : Nat) (c : Cell320) : Cell320 :=
  match q.addends with
  | [] => c
  | a :: _ => if a.launch = launch ∧ a.ex = ex ∧ a.cell = cell then cellAdd c (a.kind.val a.value) else c

theorem frontAdded_nil {q : StackSt} (h : q.addends = []) (launch ex cell : Nat) : frontAdded q launch ex cell = id := by
  funext c; simp [frontAdded, h]

theorem frontAdded_cons {q : StackSt} {a : Addend} {rest : List Addend} (h : q.addends = a :: rest) (launch ex cell : Nat) :
    frontAdded q launch ex cell =
      fun c => if a.launch = launch ∧ a.ex = ex ∧ a.cell = cell then cellAdd c (a.kind.val a.value) else c := by
  funext c; simp [frontAdded, h]

/-- An oldest addend either leaves a cell alone or adds one value to it. -/
theorem frontAdded_cases (q : StackSt) (launch ex cell : Nat) :
    frontAdded q launch ex cell = id ∨ ∃ v, frontAdded q launch ex cell = fun c => cellAdd c v := by
  cases h : q.addends with
  | nil => exact .inl (frontAdded_nil h ..)
  | cons a rest =>
    rw [frontAdded_cons h]
    split
    · exact .inr ⟨_, rfl⟩
    · exact .inl rfl

/-- The oldest addends of two stacks in either order leave the same cell. -/
theorem frontAdded_right_comm (p q : StackSt) (launch ex cell : Nat) :
    frontAdded q launch ex cell ∘ frontAdded p launch ex cell = frontAdded p launch ex cell ∘ frontAdded q launch ex cell := by
  rcases frontAdded_cases p launch ex cell with hp | ⟨v, hp⟩
  · rw [hp, Function.comp_id, Function.id_comp]
  rcases frontAdded_cases q launch ex cell with hq | ⟨w, hq⟩
  · rw [hq, Function.comp_id, Function.id_comp]
  · rw [hp, hq]
    exact funext fun c => cellAdd_right_comm c v w

/-- What TALLY_APPLY of a stack leaves: the stack without its oldest addend, each cell with that addend where it is its own. -/
structure FrontApplied (p : Stack) (s t : State) : Prop where
  stack : ∀ i, getS t i = if i = p.val then { getS s i with addends := (getS s i).addends.tail } else getS s i
  cell : ∀ launch ex cell, tallyCell t launch ex cell =
    (tallyCell s launch ex cell).map (frontAdded (getS s p.val) launch ex cell)
  lost : t.lostBursts = s.lostBursts

/-- A tally unit with no addend does nothing. -/
theorem tallyApply_nil {p : Stack} {s : State} (h : (getS s p.val).addends = []) : exec (.tallyApply p) s = .next s := by
  change execTallyApply p s = _
  rw [execTallyApply, h]

/-- A tally unit applies its oldest addend to a cell that is not lost. -/
theorem tallyApply_cons {p : Stack} {s : State} {a : Addend} {rest : List Addend} (h : (getS s p.val).addends = a :: rest)
    (hlost : smem s.lostBursts (Config.tallyBurst a.launch a.ex a.cell) = false) :
    exec (.tallyApply p) s = .next (applyAddend (modS s p.val (fun q => { q with addends := rest })) a) := by
  change execTallyApply p s = _
  rw [execTallyApply, h]
  simp only [hlost, Bool.false_eq_true, if_false]

/-- While no tally line is lost, TALLY_APPLY applies the oldest addend, or does nothing where there is none. -/
theorem tallyApply_frontApplied (p : Stack) {s : State}
    (hlost : ∀ launch ex cell, smem s.lostBursts (Config.tallyBurst launch ex cell) = false) :
    ∃ t, exec (.tallyApply p) s = .next t ∧ FrontApplied p s t := by
  cases h : (getS s p.val).addends with
  | nil =>
    refine ⟨s, tallyApply_nil h, fun i => ?_, fun launch ex cell => ?_, rfl⟩
    · split
      · subst i
        rw [h, List.tail_nil, ← h]
      · rfl
    · rw [frontAdded_nil h, Option.map_id, id]
  | cons a rest =>
    refine ⟨_, tallyApply_cons h (hlost ..), fun i => ?_, fun launch ex cell => ?_, rfl⟩
    · rw [getS_applyAddend]
      split
      · subst i
        rw [getS_modS_self, h, List.tail_cons]
      · exact getS_modS_ne s _ ‹i ≠ p.val›
    · rw [tallyCell_applyAddend, frontAdded_cons h]
      rfl

/-! ### Two tally units -/

section
variable {p q : Stack} {s s1 s2 t1 t2 : State}

/-- A tally unit leaves the addends of every other stack in their places. -/
theorem FrontApplied.getS_ne (h : FrontApplied p s s1) (hne : q ≠ p) : getS s1 q.val = getS s q.val := by
  rw [h.stack, if_neg (fun heq => hne (Fin.ext heq))]

theorem FrontApplied.stacks_comm (hne : p ≠ q) (h1 : FrontApplied p s s1) (h2 : FrontApplied q s s2)
    (g1 : FrontApplied q s1 t1) (g2 : FrontApplied p s2 t2) (i : Nat) : getS t1 i = getS t2 i := by
  have hv : p.val ≠ q.val := fun h => hne (Fin.ext h)
  rw [g1.stack, g2.stack, h1.stack, h2.stack]
  by_cases hp : i = p.val
  · subst i
    simp [hv]
  · simp [hp]

theorem FrontApplied.cells_comm (hne : p ≠ q) (h1 : FrontApplied p s s1) (h2 : FrontApplied q s s2)
    (g1 : FrontApplied q s1 t1) (g2 : FrontApplied p s2 t2) (launch ex cell : Nat) :
    tallyCell t1 launch ex cell = tallyCell t2 launch ex cell := by
  rw [g1.cell, g2.cell, h1.cell, h2.cell, h1.getS_ne hne.symm, h2.getS_ne hne, Option.map_map, Option.map_map,
    frontAdded_right_comm]

end

/-- Settles O32: either order leaves the same, stack by stack, since each unit pops its own, and cell by cell, since a cell is an
exact sum and sticky indications. -/
theorem tallyOrderDoesNotMatter : Obligations.TallyOrderDoesNotMatter := by
  intro s s1 s2 p q hne hlost e1 e2
  obtain ⟨_, e1', h1⟩ := tallyApply_frontApplied p hlost
  obtain ⟨_, e2', h2⟩ := tallyApply_frontApplied q hlost
  cases e1.symm.trans e1'
  cases e2.symm.trans e2'
  obtain ⟨t1, d1, g1⟩ := tallyApply_frontApplied q (s := s1) (by rwa [h1.lost])
  obtain ⟨t2, d2, g2⟩ := tallyApply_frontApplied p (s := s2) (by rwa [h2.lost])
  exact ⟨t1, t2, d1, d2, h1.stacks_comm hne h2 g1 g2, h1.cells_comm hne h2 g1 g2⟩

end Sys2Proof.Machine
end

section
/-! SUPPORT. Lane words with one result and words that convert: a result in lane 0 as a lane operation, the test that a strand word
puts to its accord, and VDOT, VSUM, VRMIN, VRMAX, VCURVE and VCVT (O22). -/

namespace Sys2Proof.Machine

/-! ### A result in lane 0 -/

/-- What each lane takes of one result: lane 0 the result and its flags, every other lane +0. -/
def inLane0 (v : Nat × Flags) (j : Nat) : Nat × Flags := if j = 0 then v else (0, noFlags)

theorem map_range_inLane0 {α : Type} (f : Nat × Flags → α) (v : Nat × Flags) (n : Nat) :
    (List.range (n + 1)).map (fun j => f (inLane0 v j)) = f v :: List.replicate n (f (0, noFlags)) := by
  simp [List.range_succ_eq_map, Function.comp_def, inLane0, List.map_const']

@[simp] theorem flagUnion_cons_noFlags (f : Flags) (n : Nat) : flagUnion (f :: List.replicate n noFlags) = f := by
  induction n with
  | zero => simp [flagUnion, noFlags]
  | succ n ih => simpa [flagUnion, noFlags, List.replicate_succ] using ih

/-- A result into lane 0 is a lane operation that gives the other lanes +0 and no flag. -/
theorem lane0_eq_mapLanes (t : StrandSt) (r : BitVec 3) (v : Nat × Flags) :
    lane0 r v t = mapLanes t r ((List.range 32).map (inLane0 v)) := by
  have cells : setElems t r [v.1] = setElems t r (((List.range 32).map (inLane0 v)).map (·.1)) := by
    rw [List.map_map, Function.comp_def, map_range_inLane0 (·.1)]
    rfl
  have flags : flagUnion (((List.range 32).map (inLane0 v)).map (·.2)) = v.2 := by
    rw [List.map_map, Function.comp_def, map_range_inLane0 (·.2), flagUnion_cons_noFlags]
  rw [lane0, mapLanes, cells, flags]

theorem laneResult_lane0 (t : StrandSt) (r : BitVec 3) (v : Nat × Flags) :
    LaneResult t (lane0 r v (strandPast t)) r (inLane0 v) := by
  rw [lane0_eq_mapLanes]
  exact laneResult_mapLanes t r (inLane0 v)

/-! ### A strand word that tests its accord -/

section
variable {s : State} {k : Skein} {i : Strand} {x : SkeinCtx} {e : Env} {g : Group}

theorem fitsGroup_ready (hr : StrandReady s k i x e g) (p : Env → Group → StrandSt → Bool) :
    fitsGroup s k.val i.val p = p e g (getStr x.core i.val) := by
  obtain ⟨⟨hrun, henv⟩, -, hg, -⟩ := hr
  unfold fitsGroup fitsAccord
  simp only [hrun, henv, hg]

/-- VCURVE with a curve of the accord evaluates that curve on VA. -/
theorem vcurve_ready (hr : StrandReady s k i x e g) {w : VarithW} (hl : legalVcurve w = true) {curve : Curve}
    (hc : accordCurve s e.acc (curveId w) = some curve) : exec (.vcurve k i w) s =
      .next (withStrand s k x.core i (lane1 w (curveEval curve) (strandPast (getStr x.core i.val)))) := by
  have hlegal : (legalVcurve w && fitsGroup s k.val i.val (fun e _ _ => (accordCurve s e.acc (curveId w)).isSome)) = true := by
    rw [hl, fitsGroup_ready hr, hc]
    rfl
  change execVcurve k i w s = _
  simp only [execVcurve]
  rw [issueStrand_ready hr hlegal, hc]

/-- A legal word of one result on a ready strand leaves its result in lane 0. -/
theorem lane0Word_writes (hr : StrandReady s k i x e g) {legal : Bool} (hl : legal = true) {word : Instr} {vd : BitVec 3}
    {f : StrandSt → Nat × Flags} (hx : exec word s = .next (issueLane s k.val i.val legal (fun t => lane0 vd (f t) t)))
    {v : Nat × Flags} (hv : f (strandPast (getStr x.core i.val)) = v) :
    ∃ t', exec word s = .next (withStrand s k x.core i t') ∧ LaneResult (getStr x.core i.val) t' vd (inLane0 v) :=
  laneWord_writes hr hl hx (hv ▸ laneResult_lane0 ..)

end

/-! ### What the words read -/

/-- A strand past its word reads the lanes that it had before. -/
theorem laneElems_strandPast (t : StrandSt) (r : BitVec 3) (f : Fmt) :
    laneElems (strandPast t) r f = (List.range 32).map (laneElem t r f) :=
  laneElems_eq_map ..

/-- A scale exponent is the two's complement of its field (R85). -/
theorem signed_toNat {n : Nat} (b : BitVec n) : signed n b.toNat = b.toInt := by
  unfold signed BitVec.toInt
  rw [Nat.mod_eq_of_lt b.isLt]
  cases n with
  | zero => simp [BitVec.of_length_zero]
  | succ n =>
    have hpow : 2 ^ (n + 1) = 2 * 2 ^ n := Nat.pow_succ'
    have hhalf : b.toNat < 2 ^ (n + 1 - 1) ↔ 2 * b.toNat < 2 ^ (n + 1) := by
      rw [Nat.add_sub_cancel]
      omega
    simp only [hhalf]

/-- VCVT works on element `j` of VA. -/
theorem laneResult_convert (u : VcvtW) (t : StrandSt) (f : Fmt) (conv : Nat → Nat × Flags) :
    LaneResult t (mapLanes (strandPast t) u.vd ((laneElems (strandPast t) u.va f).map conv)) u.vd
      (fun j => conv (laneElem t u.va f j)) := by
  rw [laneElems_strandPast, List.map_map]
  exact laneResult_mapLanes t u.vd _

/-- Settles O22, from a result in lane 0, an operation lane by lane and the issue of a lane word. -/
theorem laneReductionWords : Obligations.LaneReductionWords := by
  intro s k i x e g w u hr
  dsimp only
  refine ⟨fun hl => ⟨?vdot, ?vsum, ?vrmin, ?vrmax⟩, fun curve hl hc => ?vcurve, fun hl => ?vcvt⟩
  case vdot => exact lane0Word_writes hr hl rfl (by rw [laneElems_strandPast, laneElems_strandPast, List.zip_map'])
  case vsum => exact lane0Word_writes hr hl rfl (by rw [laneElems_strandPast])
  case vrmin => exact lane0Word_writes hr hl rfl (by rw [laneElems_strandPast])
  case vrmax => exact lane0Word_writes hr hl rfl (by rw [laneElems_strandPast])
  case vcurve => exact ⟨_, vcurve_ready hr hl hc, laneResult_lane1 w _ (curveEval curve)⟩
  case vcvt =>
    rw [← signed_toNat]
    exact laneWord_writes hr hl rfl (laneResult_convert u _ _ _)

end Sys2Proof.Machine
end

section
/-! SUPPORT. The passes of a matrix word: what writing D changes, what the folder's dealing cannot change, one pass and two passes
in either order (O15). -/

namespace Sys2Proof.Machine

/-! ### Lists and sets -/

theorem updFirst_self {α : Type} (p : α → Bool) : ∀ l : List α, updFirst p (fun x => x) l = l
  | [] => rfl
  | x :: l => by rw [updFirst, updFirst_self p l, ite_self]

/-- Two numbers join a set in either order. -/
theorem sadd_right_comm (x y : Nat) : ∀ s : NSet, sadd (sadd s x) y = sadd (sadd s y) x
  | [] => by
    rcases Nat.lt_trichotomy x y with h | rfl | h
    · simp [sadd, h, Nat.not_lt_of_gt h, Nat.ne_of_gt h]
    · rfl
    · simp [sadd, h, Nat.not_lt_of_gt h, Nat.ne_of_gt h]
  | z :: s => by
    have ih := sadd_right_comm x y s
    grind [sadd]

/-- A second write to a key replaces the first one. -/
theorem nins_nins_self {α : Type} (k : Nat) (v w : α) : ∀ m : NMap α, nins k w (nins k v m) = nins k w m
  | [] => by simp [nins]
  | (j, u) :: m => by
    have ih := nins_nins_self k v w m
    grind [nins]

theorem nput_nput_self {α : Type} [DecidableEq α] {d v w : α} (hv : v ≠ d) (hw : w ≠ d) (m : NMap α) (k : Nat) :
    nput d (nput d m k v) k w = nput d m k w := by
  rw [nput, if_neg hw, nput, if_neg hv, nput, if_neg hw, nins_nins_self]

/-! ### What writing D changes -/

/-- A core with the tiles and the bank of another one. -/
def storeFrom (c d : Core) : Core := { c with tiles := d.tiles, bank := d.bank }

/-- Writing a row reads and changes nothing but tiles and bank. -/
theorem putRow_storeFrom (e : Env) (c d : Core) (o : Opd) (code cols i : Nat) (row : List Nat) :
    putRow e (storeFrom c d) o code cols i row = storeFrom c (putRow e d o code cols i row) := by
  unfold putRow
  split
  · rfl
  · exact List.foldl_hom (storeFrom c) (fun _ _ => rfl)

/-- The rows of a Form T word's D written in ascending order (R142). -/
def storeRows (e : Env) (w : TWord) (rows : List (List (Nat × Flags))) (c : Core) : Core :=
  ((List.range (dimM w)).zip rows).foldl (fun c p => putRow e c w.d w.hdr.fd.toNat (dimN w) p.1 (p.2.map (·.1))) c

theorem storeRows_storeFrom (e : Env) (w : TWord) (rows : List (List (Nat × Flags))) (c d : Core) :
    storeRows e w rows (storeFrom c d) = storeFrom c (storeRows e w rows d) :=
  List.foldl_hom (storeFrom c) (fun _ _ => putRow_storeFrom ..)

/-- Writing D changes tiles and bank alone. -/
theorem storeRows_frame (e : Env) (w : TWord) (rows : List (List (Nat × Flags))) (c : Core) :
    storeRows e w rows c = storeFrom c (storeRows e w rows c) := storeRows_storeFrom e w rows c c

/-- The flags that the elements of D raise, as the word's mask lets them through (R96, R142). -/
def maskedFlags (w : TWord) (rows : List (List (Nat × Flags))) : Flags :=
  flagUnion (rows.map (fun r => flagUnion (r.map (·.2)))) &&& w.hdr.fmask

/-- A job that is finished has its D written, its masked flags joined and its tokens released, and is gone. -/
theorem finishJob_eq (e : Env) (c : Core) (j : Job) (rows : List (List (Nat × Flags))) :
    finishJob e c j rows =
      { joinFlags (storeRows e j.word rows c) j.id (maskedFlags j.word rows) with
        tokens := c.tokens.filter (fun r => r.owner != j.id)
        jobs := c.jobs.filter (fun x => x.id != j.id) } := by
  unfold finishJob
  rw [show List.foldl _ c _ = storeRows e j.word rows c from rfl, storeRows_frame]
  rfl

/-! ### The stages of a job -/

section
variable {e : Env} {c : Core} {j : Job}

theorem formJob_summed {sums : List (List DotSum)} (h : j.stage = .summed sums) : formJob e c j =
    if c.tokens.all (fun r => r.owner != j.id || !(accTiles j).contains r.tile || r.granted) then
      modJob (releaseReads c j.id []) j.id (fun x => { x with stage := .formed (formRows e c j sums) })
    else c := by
  unfold formJob; rw [h]

theorem formJob_passes (h : j.stage = .passes) : formJob e c j = c := by unfold formJob; rw [h]

theorem formJob_formed {rows : List (List (Nat × Flags))} (h : j.stage = .formed rows) : formJob e c j = c := by
  unfold formJob; rw [h]

theorem writeJob_summed {sums : List (List DotSum)} (h : j.stage = .summed sums) : writeJob e c j = c := by
  unfold writeJob; rw [h]; exact ite_self c

theorem writeJob_formed {rows : List (List (Nat × Flags))} (h : j.stage = .formed rows) :
    writeJob e c j = if allGranted c j.id then finishJob e c j rows else c := by
  unfold writeJob; rw [h]; cases allGranted c j.id <;> rfl

theorem writeJob_passes (h : j.stage = .passes) : writeJob e c j =
    if allGranted c j.id then if j.kind = .mmul ∨ j.kind = .mmac then c else finishJob e c j (moverRows e c j) else c := by
  unfold writeJob; rw [h]; cases allGranted c j.id <;> rfl

end

/-! ### What the folder's dealing cannot change -/

/-- A job less the folder's place in it. -/
def Job.undealt (j : Job) : Job := { j with dealt := 0 }

/-- A core less what the folder has issued: no pass stands on an array. -/
def undealt (c : Core) : Core := { c with arrays := [], jobs := c.jobs.map Job.undealt }

theorem map_undealt_updFirst (n : Nat) {f f' : Job → Job} (hf : ∀ j, (f j).undealt = f' j.undealt) : ∀ l : List Job,
    (updFirst (fun j => j.id == n) f l).map Job.undealt = updFirst (fun j => j.id == n) f' (l.map Job.undealt)
  | [] => rfl
  | j :: l => by
    rw [updFirst, List.map_cons, updFirst, show j.undealt.id = j.id from rfl]
    split
    · rw [List.map_cons, hf]
    · rw [List.map_cons, map_undealt_updFirst n hf l]

/-- A change of a job that goes with its undealt form. -/
theorem undealt_modJob (c : Core) (n : Nat) {f f' : Job → Job} (hf : ∀ j, (f j).undealt = f' j.undealt) :
    undealt (modJob c n f) = modJob (undealt c) n f' :=
  congrArg (fun l => { c with arrays := [], jobs := l }) (map_undealt_updFirst n hf c.jobs)

theorem undealt_jobStep {f : Core → Job → Core} (hf : ∀ c j, undealt (f c j) = f (undealt c) j.undealt) (id : Nat)
    (c : Core) : undealt (jobStep f id c) = jobStep f id (undealt c) := by
  have hfind : (undealt c).jobs.find? (fun j => j.id == id) = (c.jobs.find? (fun j => j.id == id)).map Job.undealt :=
    List.find?_map
  unfold jobStep
  rw [hfind]
  cases c.jobs.find? (fun j => j.id == id) with
  | none => rfl
  | some j => exact hf c j

theorem undealt_sumJob (e : Env) (c : Core) (j : Job) : undealt (sumJob e c j) = sumJob e (undealt c) j.undealt := by
  unfold sumJob
  rw [apply_ite undealt, undealt_modJob _ _ (f' := fun x => { x with stage := .summed (jobSums e c j) }) (fun _ => rfl)]
  rfl

theorem undealt_formJob (e : Env) (c : Core) (j : Job) : undealt (formJob e c j) = formJob e (undealt c) j.undealt := by
  cases hs : j.stage with
  | summed sums =>
    rw [formJob_summed hs, formJob_summed (j := j.undealt) hs, apply_ite undealt,
      undealt_modJob _ _ (f' := fun x => { x with stage := .formed (formRows e c j sums) }) (fun _ => rfl)]
    rfl
  | passes => rw [formJob_passes hs, formJob_passes (j := j.undealt) hs]
  | formed rows => rw [formJob_formed hs, formJob_formed (j := j.undealt) hs]

theorem undealt_finishJob (e : Env) (c : Core) (j : Job) (rows : List (List (Nat × Flags))) :
    undealt (finishJob e c j rows) = finishJob e (undealt c) j.undealt rows := by
  have hjobs : (c.jobs.filter (fun x => x.id != j.id)).map Job.undealt = (c.jobs.map Job.undealt).filter (fun x => x.id != j.id) :=
    (List.filter_map (f := Job.undealt) (p := fun x => x.id != j.id)).symm
  have hstore : storeRows e j.word rows (undealt c) = storeFrom (undealt c) (storeRows e j.word rows c) :=
    storeRows_storeFrom e j.word rows (undealt c) c
  rw [finishJob_eq, finishJob_eq, storeRows_frame, show j.undealt.word = j.word from rfl, hstore]
  exact congrArg (fun l => Core.mk _ _ _ _ _ _ _ _ _ _ _ l _ _ _ _ _ _ _) hjobs

theorem undealt_writeJob (e : Env) (c : Core) (j : Job) : undealt (writeJob e c j) = writeJob e (undealt c) j.undealt := by
  have hg : allGranted (undealt c) j.undealt.id = allGranted c j.id := rfl
  cases hs : j.stage with
  | summed sums => rw [writeJob_summed hs, writeJob_summed (j := j.undealt) hs]
  | passes => 
    rw [writeJob_passes hs, writeJob_passes (j := j.undealt) hs, hg, apply_ite undealt, apply_ite undealt, undealt_finishJob]
    rfl
  | formed rows =>
    rw [writeJob_formed hs, writeJob_formed (j := j.undealt) hs, hg, apply_ite undealt, undealt_finishJob]

/-- Jobs settle alike wherever the folder stands. -/
theorem undealt_settleJobs (e : Env) (c : Core) : undealt (settleJobs e c) = settleJobs e (undealt c) := by
  unfold settleJobs
  rw [show (undealt c).jobs = c.jobs.map Job.undealt from rfl, List.foldl_map]
  refine (List.foldl_hom undealt (fun c j => ?_)).symm
  rw [undealt_jobStep (undealt_writeJob e), undealt_jobStep (undealt_formJob e), undealt_jobStep (undealt_sumJob e)]
  rfl

/-- Passes of a job put on the arrays, and the folder's place in the job moved on. -/
def putPasses (c : Core) (id : Nat) (ps : List PassRun) : Core :=
  modJob { c with arrays := c.arrays ++ ps } id (fun j => { j with dealt := j.dealt + 1 })

/-- The folder has nothing to put anywhere, or puts passes of one job and goes on. -/
theorem deal_succ (n : Nat) (c : Core) : deal (n + 1) c = c ∨ ∃ id ps, deal (n + 1) c = deal n (putPasses c id ps) := by
  rw [deal]
  split
  · exact .inl rfl
  · split
    · exact .inl rfl
    · exact .inr ⟨_, _, rfl⟩

theorem undealt_putPasses (c : Core) (id : Nat) (ps : List PassRun) : undealt (putPasses c id ps) = undealt c := by
  have hjobs := map_undealt_updFirst id (f := fun j => { j with dealt := j.dealt + 1 }) (f' := fun j => j) (fun _ => rfl) c.jobs
  rw [updFirst_self] at hjobs
  exact congrArg (fun l => { c with arrays := [], jobs := l }) hjobs

/-- The folder changes nothing but what stands on the arrays and its own place in each job. -/
theorem undealt_deal (n : Nat) (c : Core) : undealt (deal n c) = undealt c := by
  induction n generalizing c with
  | zero => rfl
  | succ n ih =>
    rcases deal_succ n c with h | ⟨id, ps, h⟩
    · rw [h]
    · rw [h, ih, undealt_putPasses]

/-! ### One pass -/

/-- The folder takes no pass off an array. -/
theorem arrays_subset_deal (n : Nat) (c : Core) : c.arrays ⊆ (deal n c).arrays := by
  induction n generalizing c with
  | zero => exact List.Subset.refl _
  | succ n ih =>
    rcases deal_succ n c with h | ⟨id, ps, h⟩
    · rw [h]
      exact List.Subset.refl _
    · rw [h]
      exact List.Subset.trans (List.subset_append_left c.arrays ps) (ih (putPasses c id ps))

theorem deal_of_not_dealing (n : Nat) {c : Core} (h : ∀ j ∈ c.jobs, dealing j = false) : deal n c = c := by
  cases n with
  | zero => rfl
  | succ n =>
    have hfind : c.jobs.find? dealing = none := List.find?_eq_none.2 (fun j hj => by simp [h j hj])
    rw [deal, hfind]

/-- The chunk holder has a pass or a leaf of a job. -/
def addDone (c : Core) (id p : Nat) : Core := modJob c id (fun j => { j with done := sadd j.done p })

/-- A pass is off its array and in the chunk holder. -/
def takePass (c : Core) (id p : Nat) : Core :=
  addDone { c with arrays := c.arrays.filter (fun r => r.job != id || r.pass != p) } id p

section
variable {e : Env} {c : Core} {j : Job} {p q : Nat}

theorem undealt_takePass (id : Nat) : undealt (takePass c id p) = addDone (undealt c) id p :=
  undealt_modJob _ id (fun _ => rfl)

theorem takePass_jobs (hj : c.jobs = [j]) : (takePass c j.id p).jobs = [{ j with done := sadd j.done p }] := by
  simp [takePass, addDone, modJob, updFirst, hj]

theorem find?_of_jobs (hj : c.jobs = [j]) : c.jobs.find? (fun x => x.id == j.id) = some j := by simp [hj]

theorem passDone_granted (hj : c.jobs = [j]) (hp : passRuns c j.id p = true) (hg : operandsGranted c j = true) :
    passDone j.id p e c = deal quadrants (settleJobs e (takePass c j.id p)) := by
  unfold passDone
  rw [find?_of_jobs hj]
  exact if_pos ⟨hp, hg⟩

theorem passDone_not_granted (hj : c.jobs = [j]) (hg : operandsGranted c j = false) : passDone j.id p e c = c := by
  unfold passDone
  rw [find?_of_jobs hj]
  exact if_neg (fun h => by simp [hg] at h)

/-- While leaves of its matrix word are missing a job stays as it is. -/
theorem settleJobs_missing (hj : c.jobs = [j]) (hk : j.kind = .mmul ∨ j.kind = .mmac) (hs : j.stage = .passes)
    (hd : leavesDone j = false) : settleJobs e c = c := by
  have hsum : sumJob e c j = c := by simp [sumJob, hd]
  have hwrite : writeJob e c j = c := by rw [writeJob_passes hs, if_pos hk, ite_self]
  have hstep (f : Core → Job → Core) : jobStep f j.id c = f c j := by rw [jobStep, find?_of_jobs hj]
  simp only [settleJobs, hj, List.foldl_cons, List.foldl_nil, hstep, hsum, formJob_passes hs, hwrite]

/-! ### Two passes -/

/-- Two numbers join what the chunk holder has of a job in either order. -/
theorem addDone_comm (hj : c.jobs = [j]) : addDone (addDone c j.id p) j.id q = addDone (addDone c j.id q) j.id p := by
  simp [addDone, modJob, updFirst, hj, sadd_right_comm p q]

theorem takePass_comm (hj : c.jobs = [j]) : takePass (takePass c j.id p) j.id q = takePass (takePass c j.id q) j.id p := by
  simp [takePass, addDone, modJob, updFirst, hj, sadd_right_comm p q, List.filter_filter, Bool.and_comm]

/-- A matrix word's first pass of two: it is in the chunk holder, and the word goes on. -/
structure FirstPass (j : Job) (p : Nat) (c c' : Core) : Prop where
  /-- But for the folder's dealing, only the chunk holder has changed. -/
  same : undealt c' = undealt (takePass c j.id p)
  /-- Every other pass stands where it stood. -/
  arrays : (takePass c j.id p).arrays ⊆ c'.arrays
  /-- With no pass left to issue there is no dealing. -/
  dealing : dealing j = false → c' = takePass c j.id p

/-- A granted pass that does not complete its word. -/
theorem firstPass_passDone (hj : c.jobs = [j]) (hk : j.kind = .mmul ∨ j.kind = .mmac) (hs : j.stage = .passes)
    (hp : passRuns c j.id p = true) (hg : operandsGranted c j = true)
    (hd : leavesDone { j with done := sadd j.done p } = false) : FirstPass j p c (passDone j.id p e c) := by
  rw [passDone_granted hj hp hg, settleJobs_missing (takePass_jobs hj) hk hs hd]
  refine ⟨undealt_deal .., arrays_subset_deal .., fun h => deal_of_not_dealing _ (fun x hx => ?_)⟩
  rw [takePass_jobs hj, List.mem_singleton] at hx
  subst hx
  exact h

section
variable {c' : Core} (h : FirstPass j p c c')
include h

/-- The word is still the only job. -/
theorem FirstPass.jobs (hj : c.jobs = [j]) : ∃ j', c'.jobs = [j'] ∧ j'.id = j.id ∧ j'.word = j.word := by
  have hmap : c'.jobs.map Job.undealt = [({ j with done := sadd j.done p } : Job).undealt] :=
    (congrArg Core.jobs h.same).trans (congrArg (List.map Job.undealt) (takePass_jobs hj))
  obtain ⟨j', l, hl, hj', hnil⟩ := List.map_eq_cons_iff.1 hmap
  exact ⟨j', by rw [hl, List.map_eq_nil_iff.1 hnil], (congrArg Job.id hj' :), (congrArg Job.word hj' :)⟩

/-- Another pass of the word still runs. -/
theorem FirstPass.runs (hq : passRuns c j.id q = true) (hne : q ≠ p) : passRuns c' j.id q = true := by
  obtain ⟨r, hr, hjob⟩ := List.any_eq_true.1 hq
  have hpass : r.pass = q := by simp at hjob; exact hjob.2
  exact List.any_eq_true.2 ⟨r, h.arrays (List.mem_filter.2 ⟨hr, by simp [hpass, hne]⟩), hjob⟩

/-- The second pass: what it leaves but for the folder's dealing, from what stood before the first, and what it leaves. -/
theorem FirstPass.second (hj : c.jobs = [j]) (hq : passRuns c j.id q = true) (hne : q ≠ p) (hg : operandsGranted c j = true) :
    undealt (passDone j.id q e c') = settleJobs e (addDone (addDone (undealt c) j.id p) j.id q) ∧
    passDone j.id q e c' = deal quadrants (settleJobs e (takePass c' j.id q)) := by
  obtain ⟨j', hj', hid, hword⟩ := h.jobs hj
  have htokens : c'.tokens = c.tokens := (congrArg Core.tokens h.same :)
  have hgrant : operandsGranted c' j' = true := by
    rw [← hg]
    simp only [operandsGranted, htokens, hid, hword]
  have hdone : passDone j.id q e c' = deal quadrants (settleJobs e (takePass c' j.id q)) :=
    hid ▸ passDone_granted hj' (hid ▸ h.runs hq hne) hgrant
  refine ⟨?_, hdone⟩
  rw [hdone, undealt_deal, undealt_settleJobs, undealt_takePass, h.same, undealt_takePass]

end

/-- Two passes of a matrix word, neither of which completes it alone, leave the same in either order. -/
theorem passDone_comm (hj : c.jobs = [j]) (hk : j.kind = .mmul ∨ j.kind = .mmac) (hs : j.stage = .passes)
    (hp : passRuns c j.id p = true) (hq : passRuns c j.id q = true) (hne : p ≠ q)
    (hdp : leavesDone { j with done := sadd j.done p } = false) (hdq : leavesDone { j with done := sadd j.done q } = false) :
    undealt (passDone j.id q e (passDone j.id p e c)) = undealt (passDone j.id p e (passDone j.id q e c)) ∧
    (dealing j = false → passDone j.id q e (passDone j.id p e c) = passDone j.id p e (passDone j.id q e c)) := by
  cases hg : operandsGranted c j with
  | false => simp only [passDone_not_granted hj hg, implies_true, and_self]
  | true =>
    have h1 : FirstPass j p c (passDone j.id p e c) := firstPass_passDone hj hk hs hp hg hdp
    have h2 : FirstPass j q c (passDone j.id q e c) := firstPass_passDone hj hk hs hq hg hdq
    obtain ⟨hu1, hc1⟩ := h1.second (e := e) hj hq hne.symm hg
    obtain ⟨hu2, hc2⟩ := h2.second (e := e) hj hp hne hg
    have hj0 : (undealt c).jobs = [j.undealt] := by simp [undealt, hj]
    refine ⟨?_, fun hn => ?_⟩
    · rw [hu1, hu2]
      exact congrArg (settleJobs e) (addDone_comm (j := j.undealt) hj0)
    · rw [hc1, hc2, h1.dealing hn, h2.dealing hn, takePass_comm hj]

end

/-! ### Passes as commands -/

section
variable {s : State} {k : Skein} {x : SkeinCtx} {e : Env}

/-- Putting a core twice is putting the second one. -/
theorem withCore_withCore (hr : running s k.val = some x) (c c' : Core) : withCore (withCore s k c) k c' = withCore s k c' := by
  obtain ⟨l, hq, -⟩ := running_queue hr
  unfold getK at hq
  simp only [withCore, modCore, modK, nmod, nget_nput_self, hq, updAt]
  have hne (q : SkeinSt) (y : SkeinCtx) : { q with queue := y :: l } ≠ SkeinSt.none := fun h => by cases congrArg SkeinSt.queue h
  rw [nput_nput_self (hne _ _) (hne _ _)]

theorem running_put (hr : Running s k x e) (c : Core) : Running (withCore s k c) k { x with core := c } e :=
  ⟨running_withCore hr.1, hr.2⟩

theorem exec_arrayPassDone (hr : Running s k x e) (id p : Nat) :
    exec (.arrayPassDone k id p) s = .next (withCore s k (passDone id p e x.core)) :=
  congrArg Host.Outcome.next (unitStep_running hr (passDone id p))

/-- Two passes one after the other. -/
theorem exec_arrayPassDone_twice (hr : Running s k x e) (id p q : Nat) :
    exec (.arrayPassDone k id q) (withCore s k (passDone id p e x.core)) =
      .next (withCore s k (passDone id q e (passDone id p e x.core))) := by
  rw [exec_arrayPassDone (running_put hr _), withCore_withCore hr.1]

end

/-- Settles O15: what a job makes of its passes does not depend on where the folder stands, and passes join the chunk holder as
numbers join a set. -/
theorem passOrderDoesNotMatter : Obligations.PassOrderDoesNotMatter := by
  intro s s1 s2 k x e j p q hr hj hk hs hp hq hne hdp hdq h1 h2
  rw [exec_arrayPassDone hr] at h1 h2
  cases h1
  cases h2
  obtain ⟨hu, hc⟩ := passDone_comm (e := e) hj hk hs hp hq hne hdp hdq
  refine ⟨_, _, exec_arrayPassDone_twice hr j.id p q, exec_arrayPassDone_twice hr j.id q p,
    congrArg (fun c => { c with jobs := [] }) hu, ?_, hc⟩
  simpa [undealt] using congrArg (fun c => c.jobs.length) hu

end Sys2Proof.Machine
end

section
/-! SUPPORT. Every control-core word goes through one issue, whatever it does: what stops it, what lets it count and go on (O2, O8,
O9, O10). -/

namespace Sys2Proof

open Sys2Proof.Machine

/-- A control-core word issues under its own header, legal when it is well formed and fits the accord of the launch. -/
theorem exec_coreWord {i : Instr} {k : Skein} {h : Hdr} (hi : coreWord i = some (k, h)) (s : State) :
    ∃ legal f, exec i s = .next (issueWord s k.val legal h f) ∧ legal = (i.wf && wordFits s i) := by
  cases i <;> cases hi <;> exact ⟨_, _, rfl, by simp only [Instr.wf, wordFits, Bool.and_true]⟩

/-- While a strand group runs, a word past the program image waits: the group may end the execution first (log 76). -/
theorem issueWord_pastImage_waits {s : State} {k : Skein} {x : SkeinCtx} {e : Env} {legal : Bool} {h : Hdr}
    {f : Env → State → Core → Issued} (hi : Issuing s k x e) (hl : legal = true) (hq : x.core.groups ≠ [])
    (hp : imageLen e.acc ≤ x.core.pc) : issueWord s k.val legal h f = s := by
  have hbusy : x.core.groups.isEmpty = false := by simpa using hq
  unfold issueWord
  simp only [hi.1, hi.2.1, issuing_not_held hi, hl, hp, hbusy, if_false, if_true, Bool.not_true, Bool.false_eq_true]

/-- Settles O2: every arm of `exec` answers a next state. -/
theorem everyCommandCompletes : Obligations.EveryCommandCompletes := by
  intro c s
  cases c <;> exact ⟨_, rfl⟩

/-- Settles O8, by the issue of a word whose guard is off. -/
theorem predicatedOffWordOnlyCounts : Obligations.PredicatedOffWordOnlyCounts := by
  intro i k h s x e hi hwf hfits hr hg
  obtain ⟨legal, f, hx, hl⟩ := exec_coreWord hi s
  rw [hx, issueWord_off hr (hl.trans (by rw [hwf, hfits, Bool.and_self])) hg]
  rfl

/-- Settles O9, by the issue of an illegal word. -/
theorem illegalWordFailsTheSkein : Obligations.IllegalWordFailsTheSkein := by
  intro i k h s x e hi hbad hr
  obtain ⟨legal, f, hx, hl⟩ := exec_coreWord hi s
  rw [hx, issueWord_illegal hr (hl.trans (Bool.and_eq_false_iff.2 hbad))]

/-- Settles O10, by the issue of a word past the image and past the budget. -/
theorem wordPastImageOrBudgetFaults : Obligations.WordPastImageOrBudgetFaults := by
  intro i k h s x e hi hwf hfits hr
  obtain ⟨legal, f, hx, hl⟩ := exec_coreWord hi s
  have hlegal : legal = true := hl.trans (by rw [hwf, hfits, Bool.and_self])
  rw [hx]
  refine ⟨fun hq hp => ?image, fun hq hp => ?waits, fun hq hp hb hw => ?budget⟩
  case image => rw [issueWord_pastImage hr hlegal hq hp]; rfl
  case waits => rw [issueWord_pastImage_waits hr hlegal hq hp]
  case budget => rw [issueWord_pastBudget hr hlegal hq hp hb hw]; rfl

end Sys2Proof
end

section
/-! SUPPORT. The scalar words of the control core: registers and predicates read back, 64-bit results as integer arithmetic, and the
words that write one register or predicate or choose the next word (O3, O4, O5, O7). -/

namespace Sys2Proof.Machine

/-! ### Registers and predicates (R126) -/

section
variable (c : Core)

theorem getX64_zero : getX64 c 0 = 0 := rfl

theorem setX64_zero (v : W64) : setX64 c 0 v = c := rfl

theorem setX64_ne_zero {r : BitVec 6} (h : r ≠ 0) (v : W64) : 
    setX64 c r v = { c with sregs := nput 0 c.sregs r.toNat v } := if_neg h

/-- What a register reads after a write: every register but s0 what was written to it. -/
theorem getX64_setX64 (r q : BitVec 6) (v : W64) :
    getX64 (setX64 c r v) q = if q = r ∧ r ≠ 0 then v else getX64 c q := by
  by_cases hr : r = 0
  · rw [if_neg (fun h => h.2 hr), hr, setX64_zero]
  · rw [setX64_ne_zero c hr]
    by_cases hq : q = r
    · rw [if_pos ⟨hq, hr⟩, hq, getX64, if_neg hr, nget_nput_self]
    · have hne : q.toNat ≠ r.toNat := fun h => hq (BitVec.eq_of_toNat_eq h)
      rw [if_neg (fun h => hq h.1), getX64, nget_nput_ne hne, getX64]

theorem getPred_zero : getPred c 0 = true := rfl

/-- What a predicate reads after a write to one of p1 to p15. -/
theorem getPred_setPred {i j : Nat} (hi : 0 < i) (hj : j < 16) (b : Bool) :
    getPred (setPred c i b) j = if j = i then b else getPred c j := by
  by_cases h : j = i
  · subst h
    cases b <;> simp [getPred, setPred, hj, Nat.ne_of_gt hi]
  · cases b <;> simp [getPred, setPred, hj, h]

end

/-! ### 64-bit results as integer arithmetic (R127) -/

section
variable (a b : W64)

theorem add_eq_ofInt : a + b = BitVec.ofInt 64 (a.toInt + b.toInt) := by simp [BitVec.ofInt_add]

theorem mul_eq_ofInt : a * b = BitVec.ofInt 64 (a.toInt * b.toInt) := by simp [BitVec.ofInt_mul]

theorem sub_eq_ofInt : a - b = BitVec.ofInt 64 (a.toInt - b.toInt) := by
  rw [Int.sub_eq_add_neg, BitVec.ofInt_add, BitVec.ofInt_neg, BitVec.ofInt_toInt, BitVec.ofInt_toInt, BitVec.sub_eq_add_neg]

/-- The upper half of a 128-bit two's complement number is its quotient by 2^64. -/
theorem high_ofInt (p : Int) : ((BitVec.ofInt 128 p) >>> 64).truncate 64 = BitVec.ofInt 64 (p / 2 ^ 64) := by
  apply BitVec.eq_of_toNat_eq
  simp only [BitVec.truncate_eq_setWidth, BitVec.toNat_setWidth, BitVec.toNat_ushiftRight, BitVec.toNat_ofInt,
    Nat.shiftRight_eq_div_pow]
  omega

theorem mulHighS_eq_ofInt : mulHighS a b = BitVec.ofInt 64 (a.toInt * b.toInt / 2 ^ 64) := by
  rw [← high_ofInt, BitVec.ofInt_mul]
  rfl

theorem mulHighU_eq_ofNat : mulHighU a b = BitVec.ofNat 64 (a.toNat * b.toNat / 2 ^ 64) := by
  have hlt : a.toNat * b.toNat < 2 ^ 128 := Nat.mul_lt_mul'' (c := 2 ^ 64) (d := 2 ^ 64) a.isLt b.isLt
  apply BitVec.eq_of_toNat_eq
  simp only [mulHighU, BitVec.truncate_eq_setWidth, BitVec.toNat_setWidth, BitVec.toNat_ushiftRight, BitVec.toNat_mul,
    BitVec.toNat_ofNat, Nat.shiftRight_eq_div_pow]
  have ha := a.isLt
  have hb := b.isLt
  rw [Nat.mod_eq_of_lt (a := a.toNat) (by omega), Nat.mod_eq_of_lt (a := b.toNat) (by omega), Nat.mod_eq_of_lt hlt]

theorem shl_eq_ofNat (n : Nat) : a <<< n = BitVec.ofNat 64 (a.toNat * 2 ^ n) := by
  apply BitVec.eq_of_toNat_eq
  simp [Nat.shiftLeft_eq]

theorem shr_eq_ofNat (n : Nat) : a >>> n = BitVec.ofNat 64 (a.toNat / 2 ^ n) := by
  rw [← Nat.shiftRight_eq_div_pow, ← BitVec.toNat_ushiftRight, BitVec.ofNat_toNat, BitVec.setWidth_eq]

theorem sar_eq_ofInt (n : Nat) : a.sshiftRight n = BitVec.ofInt 64 (a.toInt / 2 ^ n) := by
  have h : (a.sshiftRight n).toInt = a.toInt / 2 ^ n := by rw [BitVec.toInt_sshiftRight, Int.shiftRight_eq_div_pow]; norm_cast
  rw [← h, BitVec.ofInt_toInt]

theorem min_eq_ofInt : (if a.slt b then a else b) = BitVec.ofInt 64 (min a.toInt b.toInt) := by
  rw [BitVec.slt_eq_decide]
  by_cases h : a.toInt < b.toInt
  · simp [h, min_eq_left (Int.le_of_lt h)]
  · simp [h, min_eq_right (Int.not_lt.1 h)]

theorem max_eq_ofInt : (if a.slt b then b else a) = BitVec.ofInt 64 (max a.toInt b.toInt) := by
  rw [BitVec.slt_eq_decide]
  by_cases h : a.toInt < b.toInt
  · simp [h, max_eq_right (Int.le_of_lt h)]
  · simp [h, max_eq_left (Int.not_lt.1 h)]

theorem minu_eq_ofNat : (if a.ult b then a else b) = BitVec.ofNat 64 (min a.toNat b.toNat) := by
  rw [BitVec.ult_eq_decide]
  by_cases h : a.toNat < b.toNat
  · simp [h, min_eq_left (Nat.le_of_lt h)]
  · simp [h, min_eq_right (Nat.not_lt.1 h)]

theorem maxu_eq_ofNat : (if a.ult b then b else a) = BitVec.ofNat 64 (max a.toNat b.toNat) := by
  rw [BitVec.ult_eq_decide]
  by_cases h : a.toNat < b.toNat
  · simp [h, max_eq_right (Nat.le_of_lt h)]
  · simp [h, max_eq_left (Nat.not_lt.1 h)]

theorem beq_eq_decide_toNat : (a == b) = decide (a.toNat = b.toNat) := by
  simp [BEq.beq, BitVec.toNat_inj]

end

/-! ### One scalar word -/

section
variable {s : State} {k : Skein} {x : SkeinCtx} {e : Env} {w : SWord}

/-- A word reads the registers of the core before it. -/
theorem getX64_past (c : Core) (r : BitVec 6) : getX64 (past c) r = getX64 c r := rfl

theorem flags_setX64 (c : Core) (r : BitVec 6) (v : W64) : (setX64 c r v).flags = c.flags := by
  unfold setX64
  split <;> rfl

/-- A legal word that completes on a ready skein leaves what it makes of the core past it. -/
theorem coreWord_done (hr : Ready s k x e) {h : Hdr} (hg : guardOn x.core h = true) {legal : Bool} (hl : legal = true)
    {word : Instr} {f : Env → Core → Eff Core} (hx : exec word s = .next (issueCore s k.val legal h f)) {c : Core}
    (hf : f e (past x.core) = .done c) : exec word s = .next (withCore s k c) := by
  rw [hx, issueCore_ready hr hl hg, hf]

section
variable (hr : Ready s k x e) (hg : guardOn x.core w.hdr = true)
include hr hg

/-- A word of SA and b writes its result to SD. -/
theorem aluWord_writes (hl : legalAlu w = true) {word : Instr} (f : W64 → W64 → W64) (hx : exec word s = issueAlu s k w f)
    {v : W64} (hv : f (getX64 x.core w.sa) (getX64 x.core w.sb + w.imm) = v) :
    exec word s = .next (withCore s k (setX64 (past x.core) w.sd v)) :=
  hv ▸ coreWord_done hr hg hl hx rfl

/-- A comparison of SA and b writes pSD. -/
theorem cmpWord_writes (hl : legalCmp w = true) {word : Instr} (f : W64 → W64 → Bool) (hx : exec word s = issueCmp s k w f)
    {v : Bool} (hv : f (getX64 x.core w.sa) (getX64 x.core w.sb + w.imm) = v) :
    exec word s = .next (withCore s k (setPred (past x.core) w.sd.toNat v)) :=
  hv ▸ coreWord_done hr hg hl hx rfl

end

/-- The target of a branch counts from the word's own index. -/
theorem branchTo_past (c : Core) (w : SWord) : branchTo (past c) w = (c.pc : Int) + w.imm.toInt := by
  rw [branchTo, immInt, signed_toNat]
  simp [past]

/-- An immediate target inside the program image fits the accord. -/
theorem targetOk_running (hr : Ready s k x e) (h0 : 0 ≤ (x.core.pc : Int) + w.imm.toInt)
    (h1 : (x.core.pc : Int) + w.imm.toInt < imageLen e.acc) : targetOk s k.val w = true := by
  obtain ⟨⟨hrun, henv, -, -⟩, -⟩ := hr
  unfold targetOk fitsAccord
  simp only [hrun, henv, immInt, signed_toNat, inImage, h0, h1, and_self, decide_true]

/-- What LOOP makes of the core past it, by what SD holds. -/
theorem loop_core (c : Core) (w : SWord) :
    (let c1 := setX64 (past c) w.sd (getX64 (past c) w.sd - 1)
     if getX64 c1 w.sd = 0 then c1 else { c1 with pc := (branchTo (past c) w).toNat }) =
    if w.sd = 0 then past c
    else if getX64 c w.sd = 1 then setX64 (past c) w.sd 0
    else { setX64 (past c) w.sd (getX64 c w.sd - 1) with pc := ((c.pc : Int) + w.imm.toInt).toNat } := by
  rw [branchTo_past, getX64_past]
  dsimp only
  by_cases h0 : w.sd = 0
  · rw [if_pos h0, h0, setX64_zero, getX64_zero, if_pos rfl]
  · have hread (v : W64) : getX64 (setX64 (past c) w.sd v) w.sd = v := by rw [getX64_setX64, if_pos ⟨rfl, h0⟩]
    rw [hread, if_neg h0]
    by_cases h1 : getX64 c w.sd = 1
    · rw [if_pos h1, h1]
      rfl
    · rw [if_neg h1, if_neg (fun h => h1 (sub_eq_zero.1 h))]

end

/-- Settles O3, by what a register and a predicate read after a write. -/
theorem registerZeroAndPredicateZeroAreHardWired : Obligations.RegisterZeroAndPredicateZeroAreHardWired := by
  intro c r v
  refine ⟨getX64_zero c, setX64_zero c v, fun hr => ⟨?_, _, setX64_ne_zero c hr v⟩, fun q hq => ?_, getPred_zero c,
    fun i b hi h16 => ⟨?_, ⟨_, rfl⟩, fun j hj hne => ?_⟩⟩
  · rw [getX64_setX64, if_pos ⟨rfl, hr⟩]
  · rw [getX64_setX64, if_neg (fun h => hq h.1)]
  · rw [getPred_setPred c hi h16, if_pos rfl]
  · rw [getPred_setPred c hi hj, if_neg hne]

/-- Settles O4, word by word: each result as integer arithmetic. -/
theorem scalarArithmeticWords : Obligations.ScalarArithmeticWords := by
  intro s k x e w hr hl hg
  dsimp only
  refine ⟨?add, ?sub, ?mul, ?mulhs, ?mulhu, ?and, ?or, ?xor, ?shl, ?shr, ?sar, ?min, ?max, ?minu, ?maxu,
    fun v => flags_setX64 _ _ _⟩
  case add => exact aluWord_writes hr hg hl (· + ·) rfl (add_eq_ofInt ..)
  case sub => exact aluWord_writes hr hg hl (· - ·) rfl (sub_eq_ofInt ..)
  case mul => exact aluWord_writes hr hg hl (· * ·) rfl (mul_eq_ofInt ..)
  case mulhs => exact aluWord_writes hr hg hl mulHighS rfl (mulHighS_eq_ofInt ..)
  case mulhu => exact aluWord_writes hr hg hl mulHighU rfl (mulHighU_eq_ofNat ..)
  case and => exact aluWord_writes hr hg hl (· &&& ·) rfl rfl
  case or => exact aluWord_writes hr hg hl (· ||| ·) rfl rfl
  case xor => exact aluWord_writes hr hg hl (· ^^^ ·) rfl rfl
  case shl => exact aluWord_writes hr hg hl (fun a b => a <<< (b.toNat % 64)) rfl (shl_eq_ofNat ..)
  case shr => exact aluWord_writes hr hg hl (fun a b => a >>> (b.toNat % 64)) rfl (shr_eq_ofNat ..)
  case sar => exact aluWord_writes hr hg hl (fun a b => a.sshiftRight (b.toNat % 64)) rfl (sar_eq_ofInt ..)
  case min => exact aluWord_writes hr hg hl (fun a b => if a.slt b then a else b) rfl (min_eq_ofInt ..)
  case max => exact aluWord_writes hr hg hl (fun a b => if a.slt b then b else a) rfl (max_eq_ofInt ..)
  case minu => exact aluWord_writes hr hg hl (fun a b => if a.ult b then a else b) rfl (minu_eq_ofNat ..)
  case maxu => exact aluWord_writes hr hg hl (fun a b => if a.ult b then b else a) rfl (maxu_eq_ofNat ..)

/-- Settles O5, word by word. -/
theorem predicateWords : Obligations.PredicateWords := by
  intro s k x e w hr hg
  dsimp only
  refine ⟨fun hl => ⟨?cmpeq, ?cmplt, ?cmpltu⟩, fun hl => ⟨?pand, ?por⟩, fun hl => ?pnot⟩
  case cmpeq => exact cmpWord_writes hr hg hl (· == ·) rfl (beq_eq_decide_toNat ..)
  case cmplt => exact cmpWord_writes hr hg hl BitVec.slt rfl BitVec.slt_eq_decide
  case cmpltu => exact cmpWord_writes hr hg hl BitVec.ult rfl BitVec.ult_eq_decide
  case pand => exact coreWord_done hr hg hl rfl rfl
  case por => exact coreWord_done hr hg hl rfl rfl
  case pnot => exact coreWord_done hr hg hl rfl rfl

/-- Settles O7, word by word. -/
theorem controlFlowWords : Obligations.ControlFlowWords := by
  intro s k x e w hr hg
  dsimp only
  refine ⟨fun hl => ?nop, fun hl h0 h1 => ?br, fun hl h => ?bri, fun hl h0 h1 => ?call, fun hl h0 h1 => ?loop,
    fun hl hq => ?fence, fun hl hq => ?rdflags, fun hl => ?asplit⟩
  case nop => exact coreWord_done hr hg hl rfl rfl
  case br =>
    rw [← branchTo_past]
    exact coreWord_done hr hg (by rw [hl, targetOk_running hr h0 h1, Bool.and_self]) rfl rfl
  case bri => exact coreWord_done hr hg hl rfl (if_neg (Nat.not_le.2 h))
  case call =>
    rw [← branchTo_past]
    exact coreWord_done hr hg (by rw [hl, targetOk_running hr h0 h1, Bool.and_self]) rfl rfl
  case loop =>
    rw [← loop_core]
    exact coreWord_done hr hg (by rw [hl, targetOk_running hr h0 h1, Bool.and_self]) rfl rfl
  case fence => exact coreWord_done hr hg hl rfl (if_pos hq)
  case rdflags => exact coreWord_done hr hg hl rfl (if_pos hq)
  case asplit => exact coreWord_done hr hg hl rfl rfl

end Sys2Proof.Machine
end

section
/-! SUPPORT. Scratch and constant-block words, CKPT and ENDL: bytes of scratch after a store, what an eight-byte access
asks, and the words (O6, O36). -/

namespace Sys2Proof.Machine

/-! ### Bytes of scratch -/

/-- Byte `i` of a little-endian string. -/
theorem getElem_leBytes (n v : Nat) {i : Nat} (h : i < (leBytes n v).length) :
    (leBytes n v)[i] = BitVec.ofNat 8 (v / 256 ^ i) := by
  induction n generalizing v i with
  | zero => simp at h
  | succ n ih =>
    cases i with
    | zero => simp [leBytes]
    | succ i =>
      have hi : i < (leBytes n (v / 256)).length := by simpa using h
      simp only [leBytes, List.getElem_cons_succ, ih _ hi, Nat.div_div_eq_div_mul, Nat.pow_succ, Nat.mul_comm]

section
variable (e : Env) (c : Core) {a : Nat} (b : Bytes)

/-- A byte of the string stored at an address of the launch bank. -/
theorem scratchByte_scratchWrite_self (ha : e.res ≤ a) {i : Nat} (hi : i < b.length) :
    scratchByte e (scratchWrite e c a b) (a + i) = b[i] := by
  have hin : a - e.res ≤ a + i - e.res ∧ a + i - e.res < a - e.res + b.length := by omega
  have hsub : a + i - e.res - (a - e.res) = i := by omega
  rw [scratchByte, if_neg (by omega), scratchWrite, nget_nputs, dif_pos hin]
  simp only [hsub]

/-- A store changes no byte of scratch outside it. -/
theorem scratchByte_scratchWrite_outside (ha : e.res ≤ a) {j : Nat} (hj : j < a ∨ a + b.length ≤ j) :
    scratchByte e (scratchWrite e c a b) j = scratchByte e c j := by
  unfold scratchByte
  split
  · rfl
  · exact nget_nputs_outside b _ (by omega)

end

/-! ### Faults of an access -/

theorem firstCause_none {l : List (Bool × Nat)} (h : ∀ p ∈ l, p.1 = false) : firstCause l = none := by
  induction l with
  | nil => rfl
  | cons p l ih =>
    rw [firstCause, h p List.mem_cons_self, ih (fun q hq => h q (List.mem_cons_of_mem p hq))]
    rfl

section
variable {e : Env} {a : Nat} (h8 : a % 8 = 0) (ht : a + 8 ≤ e.top)
include h8 ht

/-- An aligned read of eight bytes inside scratch meets no fault (Table Core-9). -/
theorem ldsFaults_none : firstCause [(outside e a 8, pfRange), (a % 8 != 0, pfAlign)] = none :=
  firstCause_none (by simp [outside, h8, Nat.not_lt.2 ht])

/-- An aligned store of eight bytes in the launch bank meets no fault (Table Core-9). -/
theorem stsFaults_none (hr : e.res ≤ a) :
    firstCause [(outside e a 8, pfRange), (intoResident e a 8, pfResident), (a % 8 != 0, pfAlign)] = none :=
  firstCause_none (by simp [outside, intoResident, h8, Nat.not_lt.2 ht, Nat.not_lt.2 hr])

end

/-- A word that meets no fault and waits for nothing is done. -/
theorem access_done {α : Type} {l : List (Bool × Nat)} (hl : firstCause l = none) {busy ready : Bool} (hb : busy = false)
    (hr : ready = true) (done : Eff α) :
    (match firstCause l with
      | some n => .fault n
      | none => if busy || !ready then .wait else done) = done := by
  rw [hl, hb, hr]
  rfl

/-! ### The words -/

/-- Settles O6, word by word. -/
theorem scratchAndConstantWords : Obligations.ScratchAndConstantWords := by
  intro s k x e w hr hg
  dsimp only
  refine ⟨fun hl h8 ht hh hx => ?lds, fun hl h8 hres ht hh hx => ?sts, fun hl => ?ldc⟩
  case lds =>
    exact coreWord_done hr hg hl rfl (access_done (ldsFaults_none h8 ht) hh hx _)
  case sts =>
    refine ⟨_, coreWord_done hr hg hl rfl
      (access_done (stsFaults_none h8 ht hres) hh hx _), fun i hi => ?_, fun b hb => ?_⟩
    · exact (scratchByte_scratchWrite_self e (past x.core) (leBytes 8 (getX64 x.core w.sd).toNat) hres (by simpa using hi)).trans
        (getElem_leBytes ..)
    · exact scratchByte_scratchWrite_outside e (past x.core) (leBytes 8 (getX64 x.core w.sd).toNat) hres (by simpa using hb)
  case ldc => exact coreWord_done hr hg hl rfl rfl

/-- Settles O36: with nothing in flight and the streams drained neither word waits, and CKPT finds room for its image. -/
theorem checkpointAndEnd : Obligations.CheckpointAndEnd := by
  intro s k x e hr hq ho
  have hq' : quiet (past x.core) = true := hq
  have ho' : outDrained (past x.core) = true := ho
  dsimp only
  refine ⟨fun w ex hl hg hex hroom => ?ckpt, fun w hl hg hres => ?endl⟩
  case ckpt =>
    have hfull : ¬(ex.ckpts.length < 2 ∧ (!poolRoom (settleTally s e.l.id e.ex) (ckptBytes e.l)) = true) := by
      rintro ⟨hlt, hno⟩
      rcases hroom with h2 | hroom
      · omega
      · simp [hroom] at hno
    change execCkpt k w s = _
    unfold execCkpt
    rw [issueWord_ready hr hl hg]
    simp only [hq', ho', hex, hfull, if_false, Bool.not_true, Bool.or_self, Bool.false_eq_true]
  case endl =>
    have hfree : ¬ resultLimit ≤ resultQueue s (k.val / 16) := Nat.not_le.2 hres
    change execEndl k w s = _
    unfold execEndl
    rw [issueWord_ready hr hl hg]
    simp only [hq', ho', hfree, decide_false, if_false, Bool.not_true, Bool.or_self, Bool.false_eq_true]
    rfl

end Sys2Proof.Machine
end

section
/-! SUPPORT. What a matrix word's units leave: the stages from the last leaf to the rows of D, as far as the tokens let them
(O14). -/

namespace Sys2Proof.Machine

/-! ### The rows of D -/

/-- The rows of D of a matrix word: each element the lay-order product of its row of A and column of B, C's element added for MMAC,
rounded to FD (R105, R109, R145). -/
def productRows (e : Env) (c : Core) (j : Job) : List (List (Nat × Flags)) :=
  let w := j.word
  let h := w.hdr
  (List.range (dimM w)).map (fun r => (List.range (dimN w)).map (fun y =>
    dot (codeFmt h.fa.toNat) (codeFmt h.fb.toNat)
      ((List.range (dimK w)).map (fun q =>
        (opdElem e c w.a h.fa.toNat (dimM w) (dimK w) r q, opdElem e c w.b h.fb.toNat (dimK w) (dimN w) q y)))
      (if j.kind = .mmac then some (codeFmt h.fc.toNat, opdElem e c w.c h.fc.toNat (dimM w) (dimN w) r y) else none)
      (codeFmt h.fd.toNat) (codeRnd h.rnd.toNat)))

theorem zip_map_range {α : Type} (f : Nat → α) (n : Nat) :
    ((List.range n).map f).zip (List.range ((List.range n).map f).length) = (List.range n).map (fun i => (f i, i)) := by
  rw [List.length_map, List.length_range]
  simpa using List.zip_map' (f := f) (g := id) (l := List.range n)

/-- The rows formed from the sums of products are the products rounded. -/
theorem formRows_jobSums (e : Env) (c : Core) (j : Job) : formRows e c j (jobSums e c j) = productRows e c j := by
  simp only [formRows, jobSums, zip_map_range, List.map_map, Function.comp_def]
  rfl

/-! ### From the last leaf to D -/

/-- The tokens of a job that a test picks have all been granted. -/
def tokensHeld (c : Core) (j : Job) (p : TokenReq → Bool) : Bool := c.tokens.all (fun r => r.owner != j.id || !p r || r.granted)

/-- A job's products are summed: A and B are free (Table Matrix-2). -/
def summedCore (e : Env) (c : Core) (j : Job) : Core :=
  { c with
    tokens := c.tokens.filter (fun r => r.owner != j.id || r.write || (accTiles j).contains r.tile)
    jobs := [{ j with stage := .summed (jobSums e c j) }] }

/-- Every element of a job's D is formed: C is free. -/
def formedCore (e : Env) (c : Core) (j : Job) : Core :=
  { c with
    tokens := c.tokens.filter (fun r => r.owner != j.id || r.write)
    jobs := [{ j with stage := .formed (productRows e c j) }] }

/-- D has its rows, the masked flags have joined, and the job is gone with its tokens. -/
def writtenCore (e : Env) (c : Core) (j : Job) : Core :=
  { storeRows e j.word (productRows e c j) c with
    flags := c.flags ||| maskedFlags j.word (productRows e c j)
    tokens := c.tokens.filter (fun r => r.owner != j.id)
    jobs := [] }

/-- What stands on the arrays and which jobs there are make no difference to the rows of D and where they are written. -/
theorem writtenCore_eq (e : Env) (c : Core) (arrays : List PassRun) (jobs : List Job) (j : Job) :
    writtenCore e { c with arrays, jobs } j =
      { storeRows e j.word (productRows e c j) c with
        arrays
        flags := c.flags ||| maskedFlags j.word (productRows e c j)
        tokens := c.tokens.filter (fun r => r.owner != j.id)
        jobs := [] } := by
  have hstore : storeRows e j.word (productRows e c j) { c with arrays, jobs } =
      storeFrom { c with arrays, jobs } (storeRows e j.word (productRows e c j) c) := 
    storeRows_storeFrom e j.word _ { c with arrays, jobs } c
  rw [writtenCore, show productRows e { c with arrays, jobs } j = productRows e c j from rfl, hstore, storeRows_frame]
  rfl

section
variable {e : Env} {c : Core} {j : Job}

theorem jobStep_single (hj : c.jobs = [j]) (f : Core → Job → Core) : jobStep f j.id c = f c j := by
  rw [jobStep, find?_of_jobs hj]

theorem jobStep_summedCore (f : Core → Job → Core) :
    jobStep f j.id (summedCore e c j) = f (summedCore e c j) { j with stage := .summed (jobSums e c j) } :=
  jobStep_single (j := { j with stage := .summed (jobSums e c j) }) rfl f

theorem jobStep_formedCore (f : Core → Job → Core) :
    jobStep f j.id (formedCore e c j) = f (formedCore e c j) { j with stage := .formed (productRows e c j) } :=
  jobStep_single (j := { j with stage := .formed (productRows e c j) }) rfl f

theorem sumJob_complete (hj : c.jobs = [j]) (hk : j.kind = .mmul ∨ j.kind = .mmac) (hs : j.stage = .passes)
    (hd : leavesDone j = true) : sumJob e c j = summedCore e c j := by
  rw [sumJob, if_pos ⟨hk, hs, hd⟩]
  simp [modJob, releaseReads, updFirst, hj, summedCore]

theorem formJob_summedCore : formJob e (summedCore e c j) { j with stage := .summed (jobSums e c j) } =
    if tokensHeld c j (fun r => (accTiles j).contains r.tile) then formedCore e c j else summedCore e c j := by
  have hcond (o w a g : Bool) : (!(o || w || a) || (o || !a || g)) = (o || !a || g) := by revert o w a g; decide
  have hfilter (o w a : Bool) : ((o || w) && (o || w || a)) = (o || w) := by revert o w a; decide
  have hheld : (summedCore e c j).tokens.all (fun r => r.owner != j.id || !(accTiles j).contains r.tile || r.granted) =
      tokensHeld c j (fun r => (accTiles j).contains r.tile) := by
    simp only [summedCore, tokensHeld, List.all_filter, hcond]
  have hrows : formRows e (summedCore e c j) { j with stage := .summed (jobSums e c j) } (jobSums e c j) = productRows e c j :=
    formRows_jobSums e c j
  rw [formJob_summed rfl]
  refine (if_congr (Eq.congr_left hheld) rfl rfl).trans ?_
  refine if_congr Iff.rfl ?_ rfl
  rw [hrows]
  simp [modJob, releaseReads, updFirst, summedCore, formedCore, List.filter_filter, hfilter]

theorem writeJob_formedCore (hg : c.groups = []) : writeJob e (formedCore e c j) { j with stage := .formed (productRows e c j) } =
    if tokensHeld c j (·.write) then writtenCore e c j else formedCore e c j := by
  have hcond (o w g : Bool) : (!(o || w) || (o || g)) = (o || !w || g) := by revert o w g; decide
  have hfilter (o w : Bool) : (o && (o || w)) = o := by revert o w; decide
  have hheld : allGranted (formedCore e c j) j.id = tokensHeld c j (·.write) := by
    simp only [allGranted, formedCore, tokensHeld, List.all_filter, hcond]
  have hstore : storeRows e j.word (productRows e c j) (formedCore e c j) =
      storeFrom (formedCore e c j) (storeRows e j.word (productRows e c j) c) :=
    storeRows_storeFrom e j.word _ (formedCore e c j) c
  rw [writeJob_formed rfl]
  change (if allGranted (formedCore e c j) j.id then _ else _) = _
  rw [hheld, finishJob_eq]
  refine if_congr Iff.rfl ?_ rfl
  simp only [hstore, writtenCore]
  rw [storeRows_frame e j.word _ c]
  simp [storeFrom, joinFlags, formedCore, hg, List.filter_filter, hfilter]

/-- Where a matrix word that stands alone gets to with the leaves that have been delivered and the tokens that have been granted. -/
theorem settleJobs_matrix (hj : c.jobs = [j]) (hk : j.kind = .mmul ∨ j.kind = .mmac) (hs : j.stage = .passes)
    (hg : c.groups = []) : settleJobs e c =
      if leavesDone j = false then c
      else if tokensHeld c j (fun r => (accTiles j).contains r.tile) = false then summedCore e c j
      else if tokensHeld c j (·.write) = false then formedCore e c j
      else writtenCore e c j := by
  cases hd : leavesDone j with
  | false => exact settleJobs_missing hj hk hs hd
  | true =>
    simp only [settleJobs, hj, List.foldl_cons, List.foldl_nil]
    rw [jobStep_single hj, sumJob_complete hj hk hs hd,
      jobStep_summedCore, formJob_summedCore]
    cases hC : tokensHeld c j (fun r => (accTiles j).contains r.tile) with
    | false => exact (jobStep_summedCore _).trans (writeJob_summed rfl)
    | true =>
      refine ((jobStep_formedCore _).trans (writeJob_formedCore hg)).trans ?_
      cases hD : tokensHeld c j (·.write) <;> rfl

end

/-! ### The units' events -/

section
variable {e : Env} {c : Core} {j : Job}

theorem addDone_single (hj : c.jobs = [j]) (p : Nat) :
    addDone c j.id p = { c with jobs := [{ j with done := sadd j.done p }] } := by
  simp [addDone, modJob, updFirst, hj]

theorem chunkDone_granted (hj : c.jobs = [j]) (hk : j.kind = .mmul ∨ j.kind = .mmac) (hu : usesMvp j.word j.asplit = true)
    {m n chunk : Nat} (hm : m < dimM j.word) (hn : n < dimN j.word) (hc : chunk < chunks j.word) (hg : operandsGranted c j = true) :
    chunkDone j.id m n chunk e c = settleJobs e (addDone c j.id (leafNo j.word m n chunk)) := by
  unfold chunkDone
  rw [find?_of_jobs hj]
  refine (if_pos ⟨hk, hu, hm, hn, hc, hg⟩).trans ?_
  simp [addDone, modJob, updFirst, hj]

end

/-- Settles O14: a pass or a leaf joins the chunk holder, and the word settles as far as its leaves and tokens let it. -/
theorem matrixUnitsDeliver : Obligations.MatrixUnitsDeliver := by
  intro s k x e j pass m n chunk hr hj hgr hk hs hg w h a b acc d rows stored ofC held delivered
  have hdelivered (leaf : Nat) (arrays : List PassRun) :
      settleJobs e (addDone { x.core with arrays } j.id leaf) = delivered leaf arrays := by
    let j' : Job := { j with done := sadd j.done leaf }
    rw [addDone_single (c := { x.core with arrays }) hj]
    refine (settleJobs_matrix (c := { x.core with arrays, jobs := [j'] }) (j := j') rfl hk hs hgr).trans ?_
    exact if_congr Iff.rfl rfl (if_congr Iff.rfl rfl (if_congr Iff.rfl rfl (writtenCore_eq e x.core arrays [j'] j')))
  refine ⟨fun hp => ?pass, fun hu hm hn hc => ?leaf⟩
  case pass => rw [exec_arrayPassDone hr, passDone_granted hj hp hg, takePass, hdelivered]
  case leaf =>
    change execMvpChunkDone k j.id m n chunk s = _
    rw [execMvpChunkDone, unitStep_running hr, chunkDone_granted hj hk hu hm hn hc hg]
    exact congrArg (fun c => Host.Outcome.next (withCore s k c)) (hdelivered _ x.core.arrays)

end Sys2Proof.Machine
end

section
/-! SUPPORT. Tile movers: tokens that are granted as soon as they are asked for, and a mover that is issued with nothing in its way
(O11). -/

namespace Sys2Proof.Machine

/-! ### Tokens of a word that stands alone (R169, R170) -/

theorem nodup_eraseDups : ∀ l : List Nat, l.eraseDups.Nodup
  | [] => List.nodup_nil
  | a :: l => by
    rw [List.eraseDups_cons]
    refine List.nodup_cons.2 ⟨fun h => ?_, nodup_eraseDups _⟩
    simpa using List.of_mem_filter (List.mem_eraseDups.1 h)
  termination_by l => l.length
  decreasing_by exact Nat.lt_succ_of_le (List.length_filter_le ..)

/-- A request granted. -/
def TokenReq.grant (r : TokenReq) : TokenReq := { r with granted := true }

/-- Requests for tiles that no other request names are granted at once. -/
theorem grantFrom_distinct : ∀ before l : List TokenReq, ((before ++ l).map (·.tile)).Nodup →
    grantFrom (fun _ => true) before l = l.map TokenReq.grant
  | _, [], _ => rfl
  | before, r :: l, h => by
    have hfree : grantable before r = true := by
      refine List.all_eq_true.2 (fun b hb => ?_)
      have hne : b.tile ≠ r.tile := fun heq => by
        rw [List.map_append, List.map_cons, List.nodup_append] at h
        exact h.2.2 _ (List.mem_map_of_mem hb) _ List.mem_cons_self heq
      simp [hne]
    have hr : (if true && !r.granted && grantable before r then { r with granted := true } else r) = r.grant := by
      rw [hfree]
      cases hg : r.granted with
      | false => rfl
      | true => exact congrArg (TokenReq.mk r.tile r.write r.owner) hg
    rw [grantFrom, List.map_cons]
    simp only [hr]
    rw [grantFrom_distinct (before ++ [r.grant]) l (by simpa [TokenReq.grant] using h)]

/-- The tokens of a word, granted: its writes and then its other reads, each tile once. -/
def heldTokens (owner : Nat) (rd wr : List Nat) : List TokenReq :=
  wr.eraseDups.map (fun t => { tile := t, write := true, owner, granted := true }) ++
    (rd.filter (fun t => !wr.contains t)).eraseDups.map (fun t => { tile := t, write := false, owner, granted := true })

theorem mem_heldTokens {owner : Nat} {rd wr : List Nat} {r : TokenReq} (h : r ∈ heldTokens owner rd wr) :
    r.owner = owner ∧ r.granted = true := by
  rcases List.mem_append.1 h with h | h <;> obtain ⟨t, -, rfl⟩ := List.mem_map.1 h <;> exact ⟨rfl, rfl⟩

/-- Where no token is asked for, a word's requests are all granted. -/
theorem grantFrom_requestTokens {c : Core} (hc : c.tokens = []) (owner : Nat) (rd wr : List Nat) :
    grantFrom (fun _ => true) [] (requestTokens c owner rd wr).tokens = heldTokens owner rd wr := by
  rw [grantFrom_distinct]
  · simp [requestTokens, heldTokens, hc, TokenReq.grant, Function.comp_def]
  · have htiles : ((requestTokens c owner rd wr).tokens.map (·.tile)) =
        wr.eraseDups ++ (rd.filter (fun t => !wr.contains t)).eraseDups := by
      simp [requestTokens, hc, Function.comp_def]
    rw [List.nil_append, htiles]
    refine List.nodup_append.2 ⟨nodup_eraseDups _, nodup_eraseDups _, fun a ha b hb hab => ?_⟩
    subst hab
    have hout := List.of_mem_filter (List.mem_eraseDups.1 hb)
    simp [List.mem_eraseDups.1 ha] at hout

/-! ### Issue of a tile mover -/

section
variable {e : Env} {c : Core} {kind : JobKind} {w : TWord}

/-- With nothing in flight no word in flight holds a word back (R151, R189). -/
theorem hazard_free (hf : TilesFree c) (rd wr : List Extent) : hazard e c rd wr = false := by
  obtain ⟨hjobs, hgroups, -, -⟩ := hf
  simp [hazard, hjobs, hgroups]

/-- The core in which a job is the only one, its tokens granted. -/
def queuedCore (c : Core) (j : Job) : Core :=
  { c with
    nextId := c.nextId + 1
    jobs := [j]
    tokens := heldTokens j.id (jobTiles j).1 (jobTiles j).2 }

/-- With nothing in its way a Form T word becomes the only job, its tokens granted, and does what it can at once. -/
theorem issueTile_free (hf : TilesFree c) (hfault : firstCause (tileFaults e kind w) = none) {j : Job}
    (hj : Job.fresh c.nextId kind w c.asplit = j)
    (hx : ((jobExtents j).1 ++ (jobExtents j).2).all (fun p => extentReady c p.1 p.2) = true) :
    issueTile kind w e c = .done (deal quadrants (jobStep (writeJob e) j.id (queuedCore c j))) := by
  obtain ⟨hjobs, -, htok, -⟩ := id hf
  have htokens : c.tokens ++ grantFrom (fun _ => true) c.tokens
      ((requestTokens c j.id (jobTiles j).1 (jobTiles j).2).tokens.drop c.tokens.length) =
      heldTokens j.id (jobTiles j).1 (jobTiles j).2 := by
    rw [htok]
    exact grantFrom_requestTokens htok ..
  unfold issueTile
  rw [hfault, hj]
  simp only [hazard_free hf, hx, Bool.not_true, Bool.or_self, Bool.false_eq_true, if_false, htokens, hjobs, List.nil_append]
  rfl

theorem allGranted_queuedCore (c : Core) (j : Job) : allGranted (queuedCore c j) j.id = true :=
  List.all_eq_true.2 (fun r hr => by rw [(mem_heldTokens hr).2, Bool.or_true])

/-- The core in which a mover's D is written and its masked flags have joined: nothing of its job stays. -/
def movedCore (e : Env) (c : Core) (w : TWord) (rows : List (List (Nat × Flags))) : Core :=
  { storeRows e w rows c with
    nextId := c.nextId + 1
    flags := c.flags ||| maskedFlags w rows }

/-- The only job is finished: its D is written, and nothing of the job stays. -/
theorem finishJob_queuedCore (hf : TilesFree c) (j : Job) (rows : List (List (Nat × Flags))) :
    finishJob e (queuedCore c j) j rows = movedCore e c j.word rows := by
  obtain ⟨hjobs, hgroups, htokens, -⟩ := hf
  have hstore : storeRows e j.word rows (queuedCore c j) = storeFrom (queuedCore c j) (storeRows e j.word rows c) :=
    storeRows_storeFrom e j.word rows (queuedCore c j) c
  have hrelease : (queuedCore c j).tokens.filter (fun r => r.owner != j.id) = [] :=
    List.filter_eq_nil_iff.2 (fun r hr => by simp [(mem_heldTokens hr).1])
  rw [finishJob_eq, hstore, hrelease, movedCore, storeRows_frame e j.word rows c]
  simp [storeFrom, joinFlags, queuedCore, hgroups, hjobs, htokens]

/-- A tile mover with nothing in its way moves at once. -/
theorem issueTile_mover (hf : TilesFree c) (hfault : firstCause (tileFaults e kind w) = none) {j : Job}
    (hj : Job.fresh c.nextId kind w c.asplit = j) (hk : ¬(j.kind = .mmul ∨ j.kind = .mmac))
    (hx : ((jobExtents j).1 ++ (jobExtents j).2).all (fun p => extentReady c p.1 p.2) = true) :
    issueTile kind w e c = .done (movedCore e c w (moverRows e c j)) := by
  have hstage : j.stage = .passes := hj ▸ rfl
  have hword : j.word = w := hj ▸ rfl
  rw [issueTile_free hf hfault hj hx, jobStep_single (c := queuedCore c j) rfl, writeJob_passes hstage,
    if_pos (allGranted_queuedCore c j), if_neg hk, finishJob_queuedCore hf, hword, deal_of_not_dealing]
  · rfl
  · rw [movedCore, storeRows_frame]
    intro x hx
    simp [storeFrom, hf.1] at hx

end

/-- Settles O11: each mover issues with nothing in its way, and its rows are those of its kind. -/
theorem tileMoversWriteTheirResult : Obligations.TileMoversWriteTheirResult := by
  intro s k x e w kind hr hg hf hfault h fa fd rnd job hx a stores
  have hf' : TilesFree (past x.core) := hf
  have moves {legal : Bool} (hl : legal = true) (hk : ¬(kind = .mmul ∨ kind = .mmac)) {word : Instr}
      (hw : exec word s = .next (issueCore s k.val legal w.hdr (issueTile kind w))) :=
    coreWord_done hr hg hl hw (issueTile_mover hf' hfault rfl hk hx)
  refine ⟨?tld, ?tst, ?tzero, ?tcvt, ?tcopy⟩
  all_goals
    rintro rfl hl
    exact moves hl (by decide) rfl

end Sys2Proof.Machine
end

section
/-! SUPPORT. Strand words as 32 bits: fields laid out and cut out again, the words of each class, and the two directions between a
word and its bits (O53). -/

namespace Sys2Proof

open Sys2Proof.Machine

/-! ### Fields laid out and cut out again -/

/-- The widths of laid-out fields. -/
def totalWidth (fs : List (Nat × Nat)) : Nat := (fs.map (·.1)).sum

theorem packFields_lt : ∀ fs : List (Nat × Nat), packFields fs < 2 ^ totalWidth fs
  | [] => Nat.one_pos
  | (w, v) :: fs => by
    have low : v % 2 ^ w < 2 ^ w := Nat.mod_lt _ (Nat.two_pow_pos w)
    have high : 2 ^ w * (packFields fs + 1) ≤ 2 ^ w * 2 ^ totalWidth fs := Nat.mul_le_mul_left _ (packFields_lt fs)
    have total : 2 ^ totalWidth ((w, v) :: fs) = 2 ^ w * 2 ^ totalWidth fs := by
      rw [← Nat.pow_add, totalWidth, totalWidth, List.map_cons, List.sum_cons]
    rw [total, packFields]
    rw [Nat.mul_add] at high
    omega

/-- Fields cut out of what they were laid out as are the fields, each cut to its width, with nothing above them. -/
theorem cutFields_packFields : ∀ fs : List (Nat × Nat),
    cutFields (fs.map (·.1)) (packFields fs) = fs.map (fun p => p.2 % 2 ^ p.1) ++ [0]
  | [] => rfl
  | (w, v) :: fs => by
    have low : v % 2 ^ w < 2 ^ w := Nat.mod_lt _ (Nat.two_pow_pos w)
    rw [packFields, List.map_cons, cutFields, Nat.add_mul_mod_self_left, Nat.mod_mod,
      Nat.add_mul_div_left _ _ (Nat.two_pow_pos w), Nat.div_eq_of_lt low, Nat.zero_add, cutFields_packFields fs]
    rfl

/-- A number with nothing above its fields is those fields laid out. -/
theorem packFields_cutFields : ∀ (ws vs : List Nat) (n : Nat), cutFields ws n = vs ++ [0] → packFields (ws.zip vs) = n
  | [], vs, n, h => by
    have hvs : vs = [] := by simpa [cutFields] using congrArg List.length h
    subst hvs
    simpa [cutFields, packFields] using h.symm
  | w :: ws, [], n, h => by
    have : ∀ (ws : List Nat) n, cutFields ws n ≠ [] := by rintro (_ | _) _ <;> simp [cutFields]
    simp [cutFields, this] at h
  | w :: ws, v :: vs, n, h => by
    obtain ⟨hv, hrest⟩ := List.cons.inj h
    rw [List.zip_cons_cons, packFields, packFields_cutFields ws vs _ hrest, ← hv, Nat.mod_mod, Nat.mod_add_div]

/-- A field cut out fits its width. -/
theorem mem_cutFields_lt : ∀ {ws : List Nat} {n w v : Nat}, (w, v) ∈ ws.zip (cutFields ws n) → v < 2 ^ w
  | [], _, _, _, h => by cases h
  | w :: ws, n, _, _, h => by
    rcases List.mem_cons.1 h with h | h
    · cases h
      exact Nat.mod_lt _ (Nat.two_pow_pos w)
    · exact mem_cutFields_lt h

theorem bitNat_eq_one (b : Bool) : (bitNat b % 2 == 1) = b := by cases b <;> rfl

theorem bitNat_beq_one {v : Nat} (h : v < 2) : bitNat (v == 1) = v := by
  have : v = 0 ∨ v = 1 := by omega
  rcases this with rfl | rfl <;> rfl

/-! ### The strand words by class -/

/-- Command `i` is a strand word of strand `j` on skein `k`, and `n` its encoding: one case for each class of Table Matrix-6. -/
inductive StrandBits (k : Skein) (j : Strand) : Instr → Nat → Prop
  | salu {fn : Nat} {f : SaluW → Instr} (h : saluOp k j fn = some f) {w : SaluW} {n : Nat} (hn : encSalu fn w = some n) :
      StrandBits k j (f w) n
  | branch (w : BranchW) : StrandBits k j (.branch k j w)
      (packStrand 2 [(3, w.cond.toNat), (3, 0), (5, w.xa.toNat), (5, w.xb.toNat), (12, w.off.toNat)])
  | varith {fn : Nat} {f : VarithW → Instr} (h : varithOp k j fn = some f) {w : VarithW} {n : Nat}
      (hn : encVarith fn w = some n) : StrandBits k j (f w) n
  | vcvt (w : VcvtW) : StrandBits k j (.vcvt k j w)
      (packStrand 5 [(4, w.fd.toNat), (4, w.fa.toNat), (3, w.rnd.toNat), (1, bitNat w.sat), (8, w.scale.toNat),
        (3, w.vd.toNat), (3, w.va.toNat), (2, 0)])
  | vperm {fn : Nat} {f : VpermW → Instr} (h : vpermOp k j fn = some f) {w : VpermW} {n : Nat}
      (hn : encVperm fn w = some n) : StrandBits k j (f w) n
  | tile {fn : Nat} {f : TileW → Instr} (h : tileOp k j fn = some f) {w : TileW} {n : Nat} (hn : encTile fn w = some n) :
      StrandBits k j (f w) n
  | mem {fn : Nat} {f : MemW → Instr} (h : memOp k j fn = some f) {w : MemW} {n : Nat} (hn : encMem fn w = some n) :
      StrandBits k j (f w) n
  | ctrl {fn : Nat} {f : CtrlW → Instr} (h : ctrlOp k j fn = some f) {w : CtrlW} {n : Nat} (hn : encCtrl fn w = some n) :
      StrandBits k j (f w) n

section
variable {k : Skein} {j : Strand} {fn : Nat}

/-- Every command that has an encoding is a strand word of one of the classes. -/
theorem strandBits_of_encodeStrand {i : Instr} {n : Nat} (h : encodeStrand i = some n) : ∃ k j, StrandBits k j i n := by
  unfold encodeStrand at h
  split at h
  case h_16 => cases h; exact ⟨_, _, .branch _⟩
  case h_37 => cases h; exact ⟨_, _, .vcvt _⟩
  case h_60 => cases h
  case h_1 | h_2 | h_3 | h_4 | h_5 | h_6 | h_7 | h_8 | h_9 | h_10 | h_11 | h_12 | h_13 | h_14 | h_15 =>
    exact ⟨_, _, .salu (by rfl) h⟩
  case h_17 | h_18 | h_19 | h_20 | h_21 | h_22 | h_23 | h_24 | h_25 | h_26 | h_27 | h_28 | h_29 | h_30 | h_31 | h_32 |
      h_33 | h_34 | h_35 | h_36 =>
    exact ⟨_, _, .varith (by rfl) h⟩
  case h_38 | h_39 | h_40 | h_41 | h_42 | h_43 | h_44 | h_45 | h_46 | h_47 | h_48 | h_49 =>
    exact ⟨_, _, .vperm (by rfl) h⟩
  case h_50 | h_51 | h_52 =>
    exact ⟨_, _, .tile (by rfl) h⟩
  case h_53 | h_54 | h_55 | h_56 =>
    exact ⟨_, _, .mem (by rfl) h⟩
  case h_57 | h_58 | h_59 =>
    exact ⟨_, _, .ctrl (by rfl) h⟩

/-! ### The functions of a class -/

theorem saluOp_some {f : SaluW → Instr} (h : saluOp k j fn = some f) (w : SaluW) :
    fn < 2 ^ 6 ∧ encodeStrand (f w) = encSalu fn w := by
  unfold saluOp at h
  split at h <;> cases h <;> exact ⟨by decide, rfl⟩

theorem varithOp_some {f : VarithW → Instr} (h : varithOp k j fn = some f) (w : VarithW) :
    fn < 2 ^ 6 ∧ encodeStrand (f w) = encVarith fn w := by
  unfold varithOp at h
  split at h <;> cases h <;> exact ⟨by decide, rfl⟩

theorem vpermOp_some {f : VpermW → Instr} (h : vpermOp k j fn = some f) (w : VpermW) :
    fn < 2 ^ 5 ∧ encodeStrand (f w) = encVperm fn w := by
  unfold vpermOp at h
  split at h <;> cases h <;> exact ⟨by decide, rfl⟩

theorem tileOp_some {f : TileW → Instr} (h : tileOp k j fn = some f) (w : TileW) :
    fn < 2 ^ 2 ∧ encodeStrand (f w) = encTile fn w := by
  unfold tileOp at h
  split at h <;> cases h <;> exact ⟨by decide, rfl⟩

theorem memOp_some {f : MemW → Instr} (h : memOp k j fn = some f) (w : MemW) :
    fn < 2 ^ 4 ∧ encodeStrand (f w) = encMem fn w := by
  unfold memOp at h
  split at h <;> cases h <;> exact ⟨by decide, rfl⟩

theorem ctrlOp_some {f : CtrlW → Instr} (h : ctrlOp k j fn = some f) (w : CtrlW) :
    fn < 2 ^ 4 ∧ encodeStrand (f w) = encCtrl fn w := by
  unfold ctrlOp at h
  split at h <;> cases h <;> exact ⟨by decide, rfl⟩

theorem encodeStrand_of_strandBits {i : Instr} {n : Nat} (h : StrandBits k j i n) : encodeStrand i = some n := by
  cases h with
  | salu h hn => exact ((saluOp_some h _).2).trans hn
  | branch w => rfl
  | varith h hn => exact ((varithOp_some h _).2).trans hn
  | vcvt w => rfl
  | vperm h hn => exact ((vpermOp_some h _).2).trans hn
  | tile h hn => exact ((tileOp_some h _).2).trans hn
  | mem h hn => exact ((memOp_some h _).2).trans hn
  | ctrl h hn => exact ((ctrlOp_some h _).2).trans hn

/-! ### From a word to its bits and back -/

@[simp] theorem packStrand_mod (cls : Nat) (fs : List (Nat × Nat)) : packStrand cls fs % 16 = cls % 16 := by
  rw [packStrand, packFields, show (2 : Nat) ^ 4 = 16 from rfl, Nat.add_mul_mod_self_left, Nat.mod_mod]

/-- The fields of a strand word's encoding, cut out at the widths of its class. -/
@[simp] theorem cutFields_packStrand (cls : Nat) {fs : List (Nat × Nat)} {ws : List Nat} (hw : fs.map (·.1) = ws) :
    cutFields (4 :: ws) (packStrand cls fs) = cls % 16 :: (fs.map (fun p => p.2 % 2 ^ p.1) ++ [0]) := by
  subst hw
  exact cutFields_packFields ((4, cls) :: fs)

/-- The bits that encode a strand word decode to it. -/
theorem decodeStrand_of_strandBits {i : Instr} {n : Nat} (h : StrandBits k j i n) :
    n < 2 ^ 32 ∧ decodeStrand k j n = some i := by
  cases h with
  | @salu fn f h w n hn =>
    obtain ⟨hfn, -⟩ := saluOp_some h w
    obtain ⟨xd, xa, src⟩ := w
    cases src <;> cases hn <;>
      exact ⟨packFields_lt _, by simp [decodeStrand, Nat.mod_eq_of_lt hfn, h, -Nat.reducePow]⟩
  | branch w =>
    exact ⟨packFields_lt _, by simp [decodeStrand, -Nat.reducePow]⟩
  | @varith fn f h w n hn =>
    obtain ⟨hfn, -⟩ := varithOp_some h w
    cases hn
    exact ⟨packFields_lt _, by simp [decodeStrand, Nat.mod_eq_of_lt hfn, h, -Nat.reducePow]⟩
  | vcvt w =>
    exact ⟨packFields_lt _, by simp [decodeStrand, bitNat_eq_one, -Nat.reducePow]⟩
  | @vperm fn f h w n hn =>
    obtain ⟨hfn, -⟩ := vpermOp_some h w
    cases hn
    exact ⟨packFields_lt _, by simp [decodeStrand, Nat.mod_eq_of_lt hfn, h, -Nat.reducePow]⟩
  | @tile fn f h w n hn =>
    obtain ⟨hfn, -⟩ := tileOp_some h w
    cases hn
    exact ⟨packFields_lt _, by simp [decodeStrand, Nat.mod_eq_of_lt hfn, h, -Nat.reducePow]⟩
  | @mem fn f h w n hn =>
    obtain ⟨hfn, -⟩ := memOp_some h w
    cases hn
    exact ⟨packFields_lt _, by simp [decodeStrand, Nat.mod_eq_of_lt hfn, h, -Nat.reducePow]⟩
  | @ctrl fn f h w n hn =>
    obtain ⟨hfn, -⟩ := ctrlOp_some h w
    cases hn
    exact ⟨packFields_lt _, by simp [decodeStrand, Nat.mod_eq_of_lt hfn, h, -Nat.reducePow]⟩

/-- Bits that cut into the fields of a class are that class and those fields laid out. -/
theorem packStrand_of_cutFields {cls n v : Nat} {ws vs : List Nat} (hc : n % 16 = cls)
    (h : cutFields (4 :: ws) n = v :: (vs ++ [0])) : packStrand cls (ws.zip vs) = n := by
  have hv : v = cls := by rw [← hc]; exact (List.cons.inj h).1.symm
  exact packFields_cutFields (4 :: ws) (cls :: vs) n (hv ▸ h)

/-- Bits that decode to a command are those of a strand word of their class. -/
theorem strandBits_of_decodeStrand {i : Instr} {n : Nat} (h : decodeStrand k j n = some i) : StrandBits k j i n := by
  unfold decodeStrand at h
  split at h
  next hc =>
    split at h
    next fn xd xa xb hcut =>
      obtain ⟨f, hf, rfl⟩ := Option.map_eq_some_iff.1 h
      refine .salu hf ?_
      rw [← packStrand_of_cutFields (vs := [fn, xd, xa, xb, 0]) hc hcut]
      simp [encSalu, packStrand, packFields]
    next => cases h
  next hc =>
    split at h
    next fn xd xa imm hcut =>
      obtain ⟨f, hf, rfl⟩ := Option.map_eq_some_iff.1 h
      refine .salu hf ?_
      rw [← packStrand_of_cutFields (vs := [fn, xd, xa, imm]) hc hcut]
      simp [encSalu, packStrand, packFields]
    next => cases h
  next hc =>
    split at h
    next cond xa xb off hcut =>
      cases h
      rw [← packStrand_of_cutFields (vs := [cond, 0, xa, xb, off]) hc hcut]
      convert StrandBits.branch (k := k) (j := j) _ using 1
      simp [packStrand, packFields]
    next => cases h
  next hc =>
    split at h
    next fmt rnd fn vd va vb vc hcut =>
      obtain ⟨f, hf, rfl⟩ := Option.map_eq_some_iff.1 h
      refine .varith hf ?_
      rw [← packStrand_of_cutFields (vs := [fmt, rnd, fn, vd, va, vb, vc, 0]) hc hcut]
      simp [encVarith, packStrand, packFields]
    next => cases h
  next hc =>
    split at h
    next fd fa rnd sat scale vd va hcut =>
      cases h
      rw [← packStrand_of_cutFields (vs := [fd, fa, rnd, sat, scale, vd, va, 0]) hc hcut]
      have hsat : sat < 2 ^ 1 := mem_cutFields_lt (ws := [4, 4, 4, 3, 1, 8, 3, 3, 2]) (n := n) (by simp [hcut])
      convert StrandBits.vcvt (k := k) (j := j) _ using 1
      simp [packStrand, packFields, bitNat_beq_one hsat]
    next => cases h
  next hc =>
    split at h
    next fmt fn vd va vb xs imm5 hcut =>
      obtain ⟨f, hf, rfl⟩ := Option.map_eq_some_iff.1 h
      refine .vperm hf ?_
      rw [← packStrand_of_cutFields (vs := [fmt, fn, vd, va, vb, xs, imm5]) hc hcut]
      simp [encVperm, packStrand, packFields]
    next => cases h
  next hc =>
    split at h
    next fmt fn tile v xs hcut =>
      obtain ⟨f, hf, rfl⟩ := Option.map_eq_some_iff.1 h
      refine .tile hf ?_
      rw [← packStrand_of_cutFields (vs := [fmt, fn, tile, v, xs, 0]) hc hcut]
      simp [encTile, packStrand, packFields]
    next => cases h
  next hc =>
    split at h
    next fn xa xd off hcut =>
      obtain ⟨f, hf, rfl⟩ := Option.map_eq_some_iff.1 h
      refine .mem hf ?_
      rw [← packStrand_of_cutFields (vs := [fn, xa, xd, off]) hc hcut]
      simp [encMem, packStrand, packFields]
    next => cases h
  next hc =>
    split at h
    next fn xd imm hcut =>
      obtain ⟨f, hf, rfl⟩ := Option.map_eq_some_iff.1 h
      refine .ctrl hf ?_
      rw [← packStrand_of_cutFields (vs := [fn, xd, imm, 0]) hc hcut]
      simp [encCtrl, packStrand, packFields]
    next => cases h
  next => cases h

end

/-- Settles O53, through the classes of strand words. -/
theorem strandWordsDecodeAsEncoded : Obligations.StrandWordsDecodeAsEncoded := by
  refine ⟨fun i n h => ?_, fun k j n i _ h => encodeStrand_of_strandBits (strandBits_of_decodeStrand h)⟩
  obtain ⟨k, j, hbits⟩ := strandBits_of_encodeStrand h
  obtain ⟨hlt, hdec⟩ := decodeStrand_of_strandBits hbits
  exact ⟨hlt, k, j, hdec⟩

end Sys2Proof
end

section
/-! SUPPORT. Sorting the lanes of a register: the order of R185 as an order of rationals within a class, and insertion into a list
already in order (O24). -/

namespace Sys2Proof.Machine

/-! ### The order of the keys (R185) -/

/-- The rational that a finite value stands for; 0 for any other. -/
def Val.toRat : Val → ℚ
  | .fin n d e => n / d * 2 ^ e
  | _ => 0

/-- A zero or a value with a positive denominator. -/
def Val.IsFinite : Val → Prop
  | .zero _ => True
  | .fin _ d _ => 0 < d
  | _ => False

/-- The sign of an exact difference is that of the difference of the rationals. -/
theorem finAdd_neg_iff (n n' e e' : Int) {d d' : Nat} (hd : 0 < d) (hd' : 0 < d') :
    (finAdd n d e (-n') d' e').1 < 0 ↔ (n / d * 2 ^ e : ℚ) < n' / d' * 2 ^ e' := by
  have scaled {m x : Int} (h : m ≤ x) : (2 : ℚ) ^ x = (2 ^ (x - m).toNat : Nat) * 2 ^ m := by
    rw [Nat.cast_pow, ← zpow_natCast, Int.toNat_of_nonneg (by omega), Nat.cast_ofNat, ← zpow_add₀ two_ne_zero,
      Int.sub_add_cancel]
  unfold finAdd
  set m := if e < e' then e else e'
  have hm : m ≤ e ∧ m ≤ e' := by grind
  have hpos : (0 : ℚ) < 2 ^ m := by positivity
  have hdq : (0 : ℚ) < d := by exact_mod_cast hd
  have hdq' : (0 : ℚ) < d' := by exact_mod_cast hd'
  rw [scaled hm.1, scaled hm.2, ← mul_assoc, ← mul_assoc, mul_lt_mul_iff_left₀ hpos, div_mul_eq_mul_div, div_mul_eq_mul_div,
    div_lt_div_iff₀ hdq hdq', ← Int.cast_lt (R := ℚ)]
  push_cast
  constructor <;> intro h <;> linarith

theorem compare_eq_some_lt (n : Int) : some (compare n 0) = some Ordering.lt ↔ n < 0 := by
  rw [Option.some.injEq, compare_lt_iff_lt]

/-- Of two finite values the comparison answers as of the rationals they stand for. -/
theorem cmp_eq_lt_iff {a b : Val} (ha : a.IsFinite) (hb : b.IsFinite) : a.cmp b = some .lt ↔ a.toRat < b.toRat := by
  have key (n n' e e' : Int) {d d' : Nat} (hd : 0 < d) (hd' : 0 < d') :
      some (compare (finAdd n d e (-n') d' e').1 0) = some Ordering.lt ↔ (n / d * 2 ^ e : ℚ) < n' / d' * 2 ^ e' := by
    rw [compare_eq_some_lt, finAdd_neg_iff n n' e e' hd hd']
  cases a with
  | nan => cases ha
  | inf s => cases ha
  | zero s =>
    cases b with
    | nan => cases hb
    | inf s => cases hb
    | zero s' => exact (key 0 0 0 0 Nat.one_pos Nat.one_pos).trans (by simp [Val.toRat])
    | fin n' d' e' => exact (key 0 n' 0 e' Nat.one_pos hb).trans (by simp [Val.toRat])
  | fin n d e =>
    cases b with
    | nan => cases hb
    | inf s => cases hb
    | zero s' => exact (key n 0 e 0 ha Nat.one_pos).trans (by simp [Val.toRat])
    | fin n' d' e' => exact key n n' e e' ha hb

theorem not_cmp_self_lt (v : Val) : v.cmp v ≠ some .lt := by
  cases v with
  | nan => simp [Val.cmp]
  | inf s => simp [Val.cmp]
  | zero s => simp [Val.cmp, finAdd]
  | fin n d e =>
    have h : (finAdd n d e (-n) d e).1 = 0 := by simp [finAdd]
    simp [Val.cmp, h]

/-- A pattern is finite, or infinite or NaN in a floating-point format. -/
theorem val_finite_or (f : Fmt) (b : Nat) :
    (f.val b).IsFinite ∨ (f.isFloat = true ∧ ((∃ s, f.val b = .inf s) ∨ f.val b = .nan)) := by
  unfold Fmt.val
  split
  · unfold Fmt.floatVal
    dsimp only
    split_ifs <;> simp_all [Val.IsFinite]
  · unfold Val.ofInt
    split <;> simp [Val.IsFinite]

section
variable {f : Fmt} {a b : Nat}

theorem sortRank_of_inf (hf : f.isFloat = true) {s : Bool} (h : f.val b = .inf s) : sortRank f b = if s then 5 else 0 := by
  cases s <;> simp [sortRank, hf, h]

theorem sortRank_of_nan (hf : f.isFloat = true) (h : f.val b = .nan) : sortRank f b = 6 := by
  simp [sortRank, hf, h]

theorem sortRank_of_finite (hf : f.isFloat = true) (h : (f.val b).IsFinite) : 1 ≤ sortRank f b ∧ sortRank f b ≤ 4 := by
  unfold sortRank
  rw [hf]
  cases hv : f.val b with
  | nan => rw [hv] at h; cases h
  | inf s => rw [hv] at h; cases h
  | zero s => cases s <;> decide
  | fin n d e =>
    change 1 ≤ (if 0 < n then 1 else 4) ∧ (if 0 < n then 1 else 4) ≤ 4
    split <;> decide

/-- A pattern in the class of an infinity or of NaN means the same. -/
theorem val_eq_of_sortRank_eq (hf : f.isFloat = true) (hb : (∃ s, f.val b = .inf s) ∨ f.val b = .nan)
    (h : sortRank f a = sortRank f b) : f.val a = f.val b := by
  have rank_b : sortRank f b = 0 ∨ sortRank f b = 5 ∨ sortRank f b = 6 := by
    rcases hb with ⟨s, hb⟩ | hb
    · cases s <;> simp [sortRank_of_inf hf hb]
    · simp [sortRank_of_nan hf hb]
  rcases val_finite_or f a with ha | ⟨-, ha⟩
  · have := sortRank_of_finite hf ha
    omega
  · rcases ha with ⟨s, ha⟩ | ha <;> rcases hb with ⟨s', hb⟩ | hb
    · rw [sortRank_of_inf hf ha, sortRank_of_inf hf hb] at h
      rw [ha, hb]
      cases s <;> cases s' <;> simp at h ⊢
    · rw [sortRank_of_inf hf ha, sortRank_of_nan hf hb] at h
      cases s <;> simp at h
    · rw [sortRank_of_nan hf ha, sortRank_of_inf hf hb] at h
      cases s' <;> simp at h
    · rw [ha, hb]

/-- Patterns of one class are both finite, or mean the same. -/
theorem finite_or_eq_of_sortRank_eq (h : sortRank f a = sortRank f b) :
    ((f.val a).IsFinite ∧ (f.val b).IsFinite) ∨ f.val a = f.val b := by
  rcases val_finite_or f a with ha | ⟨hf, ha⟩
  · rcases val_finite_or f b with hb | ⟨hf, hb⟩
    · exact .inl ⟨ha, hb⟩
    · exact .inr (val_eq_of_sortRank_eq hf hb h)
  · exact .inr (val_eq_of_sortRank_eq hf ha h.symm).symm

/-- Within a class a pattern sorts before the other as its value is the greater one. -/
theorem cmp_lt_of_sortRank_eq (h : sortRank f a = sortRank f b) :
    (f.val b).cmp (f.val a) = some .lt ↔ (f.val b).toRat < (f.val a).toRat := by
  rcases finite_or_eq_of_sortRank_eq h with ⟨ha, hb⟩ | heq
  · exact cmp_eq_lt_iff hb ha
  · simp [heq, not_cmp_self_lt]

/-- A key as R185 orders it: its class, then its value, greater values first. -/
def sortKey (f : Fmt) (b : Nat) : Nat ×ₗ ℚᵒᵈ := toLex (sortRank f b, OrderDual.toDual (f.val b).toRat)

theorem sortsBefore_iff : sortsBefore f a b = true ↔
    sortRank f a < sortRank f b ∨ (sortRank f a = sortRank f b ∧ (f.val b).cmp (f.val a) = some .lt) := by
  simp [sortsBefore]

/-- One key sorts before another as a linear order has it. -/
theorem sortsBefore_iff_lt : sortsBefore f a b = true ↔ sortKey f a < sortKey f b := by
  rw [sortsBefore_iff, sortKey, sortKey, Prod.Lex.toLex_lt_toLex]
  refine or_congr Iff.rfl (and_congr_right (fun h => ?_))
  rw [cmp_lt_of_sortRank_eq h]
  rfl

theorem sortsBefore_eq_false_iff : sortsBefore f a b = false ↔ sortKey f b ≤ sortKey f a := by
  rw [← Bool.not_eq_true, sortsBefore_iff_lt, not_lt]

end

/-! ### Insertion -/

section
variable (f : Fmt) (key : Nat → Nat)

/-- Lane `i` may stand before lane `j`: no key behind one that sorts before it, and of equal keys the lower lane first. -/
def SortedPair (i j : Nat) : Prop :=
  sortsBefore f (key j) (key i) = false ∧ (sortsBefore f (key i) (key j) = false → i < j)

/-- A lane may stand before every lane behind one that its key sorts before. -/
theorem SortedPair.of_before {x y z : Nat} (hxy : sortsBefore f (key x) (key y) = true) (hyz : SortedPair f key y z) :
    SortedPair f key x z := by
  have hlt : sortKey f (key x) < sortKey f (key z) :=
    lt_of_lt_of_le (sortsBefore_iff_lt.1 hxy) (sortsBefore_eq_false_iff.1 hyz.1)
  exact ⟨sortsBefore_eq_false_iff.2 hlt.le, fun h => absurd (sortsBefore_eq_false_iff.1 h) (not_le.2 hlt)⟩

theorem sortedPair_of_before {x y : Nat} (hxy : sortsBefore f (key x) (key y) = true) : SortedPair f key x y :=
  ⟨sortsBefore_eq_false_iff.2 (sortsBefore_iff_lt.1 hxy).le, fun h => by simp [hxy] at h⟩

theorem sortInsert_perm (x : Nat) : ∀ l : List Nat, (sortInsert f key x l).Perm (x :: l)
  | [] => List.Perm.refl _
  | y :: l => by
    unfold sortInsert
    split
    · exact List.Perm.refl _
    · exact ((sortInsert_perm x l).cons y).trans (List.Perm.swap x y l)

/-- Inserting a lane with a greater number than those of an ordered list keeps the order. -/
theorem sortInsert_pairwise {x : Nat} : ∀ {l : List Nat}, (∀ y ∈ l, y < x) → l.Pairwise (SortedPair f key) →
    (sortInsert f key x l).Pairwise (SortedPair f key)
  | [], _, _ => List.pairwise_singleton _ _
  | y :: l, hlt, hl => by
    obtain ⟨hy, htail⟩ := List.pairwise_cons.1 hl
    unfold sortInsert
    split
    next hxy =>
      refine List.pairwise_cons.2 ⟨fun z hz => ?_, hl⟩
      rcases List.mem_cons.1 hz with rfl | hz
      · exact sortedPair_of_before f key hxy
      · exact .of_before f key hxy (hy z hz)
    next hxy =>
      refine List.pairwise_cons.2 ⟨fun z hz => ?_, sortInsert_pairwise (fun z hz => hlt z (List.mem_cons_of_mem y hz)) htail⟩
      rcases List.mem_cons.1 ((sortInsert_perm f key x l).mem_iff.1 hz) with rfl | hz
      · exact ⟨Bool.not_eq_true _ ▸ hxy, fun _ => hlt y List.mem_cons_self⟩
      · exact hy z hz

/-- The lanes below `n`, inserted one after the other, are all there and in order. -/
theorem foldl_sortInsert_range (n : Nat) :
    let l := (List.range n).foldl (fun acc i => sortInsert f key i acc) []
    l.Perm (List.range n) ∧ l.Pairwise (SortedPair f key) := by
  induction n with
  | zero => exact ⟨List.Perm.refl _, List.Pairwise.nil⟩
  | succ n ih =>
    obtain ⟨hperm, hpair⟩ := ih
    rw [List.range_succ, List.foldl_append]
    refine ⟨(sortInsert_perm f key n _).trans ((hperm.cons n).trans (List.perm_append_singleton ..).symm), ?_⟩
    exact sortInsert_pairwise f key (fun y hy => List.mem_range.1 (hperm.mem_iff.1 hy)) hpair

end

/-- Settles O24: insertion in lane order keeps the order of R185. -/
theorem sortedLanesAreOrdered : Obligations.SortedLanesAreOrdered := by
  intro f keys hlen l key
  obtain ⟨hperm, hpair⟩ := foldl_sortInsert_range f key keys.length
  refine ⟨hlen ▸ hperm, fun m n i j hmn hi hj => ?_, fun a b => sortsBefore_iff⟩
  obtain ⟨hm, rfl⟩ := List.getElem?_eq_some_iff.1 hi
  obtain ⟨hn, rfl⟩ := List.getElem?_eq_some_iff.1 hj
  exact List.pairwise_iff_getElem.1 hpair m n hm hn hmn

end Sys2Proof.Machine
end

section
/-! SUPPORT. Tile registers: what a row of elements written to a tile operand reads back and what it leaves alone (O12). -/

namespace Sys2Proof.Machine

/-! ### Cells written one after the other -/

section
variable (key : Nat → Nat) (v : Nat → W32) (c : Core)

/-- Cells `key 0` to `key (n - 1)` written. -/
def putCells (n : Nat) : Core := (List.range n).foldl (fun c j => setCell c (key j) (v j)) c

theorem putCells_succ (n : Nat) : putCells key v c (n + 1) = setCell (putCells key v c n) (key n) (v n) := by
  rw [putCells, List.range_succ, List.foldl_append]
  rfl

theorem getCell_setCell (k k' : Nat) (x : W32) : getCell (setCell c k x) k' = if k' = k then x else getCell c k' :=
  nget_nput ..

theorem getCell_putCells_of_ne {k : Nat} : ∀ n : Nat, (∀ j, j < n → k ≠ key j) →
    getCell (putCells key v c n) k = getCell c k
  | 0, _ => rfl
  | n + 1, h => by
    rw [putCells_succ, getCell_setCell, if_neg (h n n.lt_succ_self)]
    exact getCell_putCells_of_ne n (fun j hj => h j (Nat.lt_succ_of_lt hj))

/-- Cells at distinct keys read back what was written. -/
theorem getCell_putCells {n : Nat} (hkey : ∀ i j, i < n → j < n → key i = key j → i = j) {j : Nat} (hj : j < n) :
    getCell (putCells key v c n) (key j) = v j := by
  induction n with
  | zero => cases hj
  | succ n ih =>
    rw [putCells_succ, getCell_setCell]
    split
    next h => rw [hkey j n hj n.lt_succ_self h]
    next h =>
      have hlt : j < n := by
        rcases Nat.lt_succ_iff_lt_or_eq.1 hj with hlt | rfl
        · exact hlt
        · exact absurd rfl h
      exact ih (fun i j hi hj => hkey i j (Nat.lt_succ_of_lt hi) (Nat.lt_succ_of_lt hj)) hlt

theorem putCells_frame (n : Nat) : ∃ tiles, putCells key v c n = { c with tiles } := by
  induction n with
  | zero => exact ⟨c.tiles, rfl⟩
  | succ n ih =>
    obtain ⟨tiles, h⟩ := ih
    rw [putCells_succ, h]
    exact ⟨_, rfl⟩

end

/-! ### Rows of an operand (R162) -/

/-- Elements at different places of an operand lie in different cells. -/
theorem elemKey_inj {tile cols i j i' j' : Nat} (hj : j < cols) (hj' : j' < cols)
    (h : elemKey tile cols i j = elemKey tile cols i' j') : i = i' ∧ j = j' := by
  unfold elemKey cellKey at h
  have hb : j / 32 < (cols + 31) / 32 := by omega
  have hb' : j' / 32 < (cols + 31) / 32 := by omega
  have hblock : i / 32 * ((cols + 31) / 32) + j / 32 = i' / 32 * ((cols + 31) / 32) + j' / 32 := by omega
  have hrow : i / 32 = i' / 32 := by
    have h1 := congrArg (· / ((cols + 31) / 32)) hblock
    simpa [Nat.mul_comm _ ((cols + 31) / 32), Nat.mul_add_div (Nat.zero_lt_of_lt hb), Nat.div_eq_of_lt hb, Nat.div_eq_of_lt hb']
      using h1
  rw [hrow] at hblock
  omega

section
variable (e : Env) (c : Core) {o : Opd} (code n i : Nat) (v : Nat → Nat)

/-- A row of a tile operand is one cell after the other. -/
theorem putRow_tile (ho : o.kind = false) : putRow e c o code n i ((List.range n).map v) =
    putCells (elemKey (tileOf o) n i) (fun j => BitVec.ofNat 32 (v j)) c n := by
  rw [putRow, ho, ← List.map_prod_left_eq_zip, List.foldl_map]
  rfl

end

/-- The rows of a tile operand of `n` columns below row `m`, written one after the other. -/
def putRows (e : Env) (c : Core) (o : Opd) (code n : Nat) (v : Nat → Nat → Nat) (m : Nat) : Core :=
  (List.range m).foldl (fun c i => putRow e c o code n i ((List.range n).map (v i))) c

section
variable (e : Env) (c : Core) {o : Opd} (code n : Nat) (v : Nat → Nat → Nat)

theorem putRows_succ (ho : o.kind = false) (m : Nat) : putRows e c o code n v (m + 1) =
    putCells (elemKey (tileOf o) n m) (fun j => BitVec.ofNat 32 (v m j)) (putRows e c o code n v m) n := by
  rw [← putRow_tile e _ code n m (v m) ho, putRows, List.range_succ, List.foldl_append]
  rfl

theorem getCell_putRows_of_ne (ho : o.kind = false) {key : Nat} : ∀ m : Nat,
    (∀ i j, i < m → j < n → key ≠ elemKey (tileOf o) n i j) → getCell (putRows e c o code n v m) key = getCell c key
  | 0, _ => rfl
  | m + 1, h => by
    rw [putRows_succ e c code n v ho, getCell_putCells_of_ne _ _ _ n (fun j hj => h m j m.lt_succ_self hj)]
    exact getCell_putRows_of_ne ho m (fun i j hi => h i j (Nat.lt_succ_of_lt hi))

theorem getCell_putRows (ho : o.kind = false) {m i j : Nat} (hi : i < m) (hj : j < n) :
    getCell (putRows e c o code n v m) (elemKey (tileOf o) n i j) = BitVec.ofNat 32 (v i j) := by
  induction m with
  | zero => cases hi
  | succ m ih =>
    rw [putRows_succ e c code n v ho]
    by_cases h : i = m
    · subst h
      exact getCell_putCells (elemKey (tileOf o) n i) _ _ (fun a b ha hb hab => (elemKey_inj ha hb hab).2) hj
    · rw [getCell_putCells_of_ne _ _ _ n (fun j' hj' hab => h (elemKey_inj hj hj' hab).1)]
      exact ih (by omega)

theorem putRows_frame (ho : o.kind = false) (m : Nat) : ∃ tiles, putRows e c o code n v m = { c with tiles } := by
  induction m with
  | zero => exact ⟨c.tiles, rfl⟩
  | succ m ih =>
    obtain ⟨tiles, h⟩ := ih
    rw [putRows_succ e c code n v ho, h]
    exact putCells_frame ..

end

/-- Settles O12, row by row and cell by cell. -/
theorem tileRowsReadBack : Obligations.TileRowsReadBack := by
  intro e c o code m n v ho ht _ _ _ _
  refine ⟨fun i j hi hj => ?_, fun key h => getCell_putRows_of_ne e c code n v ho m h, putRows_frame e c code n v ho m⟩
  have hcell := getCell_putRows e c code n v ho hi hj
  simp only [opdElem, stored, ho, ht, Bool.false_eq_true, if_false]
  exact congrArg (fun x : W32 => x.toNat % 2 ^ codeWidth code) hcell

end Sys2Proof.Machine
end

section
/-! SUPPORT. Tile tokens and strand groups: what a grant changes of the list of requests, how STRGO queues a group and its
requests, and how its strands start (O16, O17, O18). -/

namespace Sys2Proof.Machine

/-! ### Grants in issue order (R170) -/

/-- The tiles and kinds that requests name, all that a later request on a tile looks at. -/
def tokenKinds (l : List TokenReq) : List (Nat × Bool) := l.map (fun r => (r.tile, r.write))

/-- A request as it stands once the requests `before` it have been looked at. -/
def TokenReq.regrant (pick : Nat → Bool) (before : List TokenReq) (r : TokenReq) : TokenReq :=
  { r with granted := r.granted || (pick r.tile && grantable before r) }

theorem grantFrom_cons (pick : Nat → Bool) (before : List TokenReq) (r : TokenReq) (l : List TokenReq) :
    grantFrom pick before (r :: l) = r.regrant pick before :: grantFrom pick (before ++ [r.regrant pick before]) l := by
  have h : (if pick r.tile && !r.granted && grantable before r then { r with granted := true } else r) =
      r.regrant pick before := by
    cases hg : r.granted with
    | true =>
      rw [Bool.not_true, Bool.and_false, Bool.false_and, if_neg Bool.false_ne_true, TokenReq.regrant, hg, Bool.true_or, ← hg]
    | false =>
      rw [Bool.not_false, Bool.and_true, TokenReq.regrant, hg, Bool.false_or]
      split
      next hfree => rw [hfree]
      next hbusy => rw [Bool.eq_false_of_not_eq_true hbusy, ← hg]
  rw [grantFrom]
  simp only [h]

theorem grantable_congr {b b' : List TokenReq} (h : tokenKinds b = tokenKinds b') (r : TokenReq) :
    grantable b r = grantable b' r := by
  have key (b : List TokenReq) : grantable b r = (tokenKinds b).all (fun p => p.1 != r.tile || (!r.write && !p.2)) := by
    rw [tokenKinds, List.all_map]
    rfl
  rw [key, key, h]

/-- Each request is granted as what stood before it allows. -/
theorem getElem?_grantFrom (pick : Nat → Bool) : ∀ (l before before' : List TokenReq) (n : Nat),
    tokenKinds before = tokenKinds before' →
    (grantFrom pick before l)[n]? = l[n]?.map (fun r => r.regrant pick (before' ++ l.take n))
  | [], _, _, n, _ => by simp [grantFrom]
  | r :: l, before, before', 0, h => by
    simp [grantFrom_cons, TokenReq.regrant, grantable_congr h]
  | r :: l, before, before', n + 1, h => by
    have hk : tokenKinds (before ++ [r.regrant pick before]) = tokenKinds (before' ++ [r]) := by
      simpa [tokenKinds, TokenReq.regrant] using h
    rw [grantFrom_cons, List.getElem?_cons_succ, List.getElem?_cons_succ, List.take_succ_cons, getElem?_grantFrom pick l _ _ n hk]
    simp

/-- A grant changes nothing of a request but that it is granted. -/
theorem map_grantFrom (pick : Nat → Bool) : ∀ before l : List TokenReq,
    (grantFrom pick before l).map (fun r => (r.tile, r.write, r.owner)) = l.map (fun r => (r.tile, r.write, r.owner))
  | _, [] => rfl
  | before, r :: l => by
    rw [grantFrom_cons, List.map_cons, List.map_cons, map_grantFrom pick _ l]
    rfl

theorem grantTile_no_jobs {c : Core} (hj : c.jobs = []) (tile : Nat) (e : Env) :
    grantTile tile e c = { c with tokens := grantFrom (· == tile) [] c.tokens } := by
  unfold grantTile settleJobs
  simp [hj]

/-- Settles O16: with no job to settle a grant is the list of requests, each looked at in its turn. -/
theorem tileTokensAreGrantedInIssueOrder : Obligations.TileTokensAreGrantedInIssueOrder := by
  intro s k x e t hr hj
  have hget := getElem?_grantFrom (· == t.val) x.core.tokens [] []
  refine ⟨grantFrom (· == t.val) [] x.core.tokens, ?_, ?_, fun n r hn => ?_⟩
  · change execTileTokenGrant k t s = _
    rw [execTileTokenGrant, unitStep_running hr, grantTile_no_jobs hj]
  · simpa using congrArg List.length (map_grantFrom (· == t.val) [] x.core.tokens)
  · have hall : grantable (x.core.tokens.take n) r =
        (x.core.tokens.take n).all (fun b => decide (b.tile = r.tile → r.write = false ∧ b.write = false)) := by
      unfold grantable
      congr 1
      funext b
      by_cases hb : b.tile = r.tile <;> simp [hb]
    rw [hget n rfl, hn, Option.map_some, TokenReq.regrant, List.nil_append, hall]
    rfl

/-! ### STRGO and STRWAIT -/

theorem eraseDups_of_nodup : ∀ {l : List Nat}, l.Nodup → l.eraseDups = l
  | [], _ => rfl
  | a :: l, h => by
    obtain ⟨ha, hl⟩ := List.nodup_cons.1 h
    have hkeep : l.filter (fun b => !b == a) = l := List.filter_eq_self.2 (fun b hb => by
      have : b ≠ a := fun hba => ha (hba ▸ hb)
      simp [this])
    rw [List.eraseDups_cons, hkeep, eraseDups_of_nodup hl]

theorem nodup_maskTiles (m : BitVec 64) : (maskTiles m).Nodup := List.nodup_range.filter _

/-- Of masks with no tile in common, the tiles of one are none of the other's. -/
theorem maskTiles_disjoint {r w : BitVec 64} (h : (r &&& w) = 0) :
    (maskTiles r).filter (fun t => !decide (t ∈ maskTiles w)) = maskTiles r := by
  refine List.filter_eq_self.2 (fun t ht => ?_)
  obtain ⟨-, hr⟩ := List.mem_filter.1 ht
  have hand : (r &&& w).getLsbD t = false := by rw [h]; simp
  have hw : w.getLsbD t = false := by simpa [hr] using hand
  simp [maskTiles, hw]

/-- The token requests of a strand group as they stand when its STRGO has issued (R178). -/
def groupTokens (c : Core) (rmask wmask : BitVec 64) : List TokenReq :=
  grantFrom (fun _ => true) c.tokens
    ((requestTokens c c.nextId (maskTiles rmask) (maskTiles wmask)).tokens.drop c.tokens.length)

theorem map_groupTokens (c : Core) {rmask wmask : BitVec 64} (h : (rmask &&& wmask) = 0) :
    (groupTokens c rmask wmask).map (fun r => (r.tile, r.write, r.owner)) =
      (maskTiles wmask).map (fun t => (t, true, c.nextId)) ++ (maskTiles rmask).map (fun t => (t, false, c.nextId)) := by
  simp [groupTokens, map_grantFrom, requestTokens, maskTiles_disjoint h, eraseDups_of_nodup (nodup_maskTiles _),
    Function.comp_def]

theorem legalStrgo_disjoint {w : MWord} (h : legalStrgo w = true) : (strgoRead w &&& strgoWrite w) = 0 := by
  simp only [legalStrgo, Bool.and_eq_true, beq_iff_eq] at h
  exact h.2

/-- A word that meets no fault goes on. -/
theorem faultless {α : Type} {l : List (Bool × Nat)} (h : firstCause l = none) (next : Eff α) :
    (match firstCause l with
      | some n => .fault n
      | none => next) = next := by
  rw [h]

/-- A window of no bytes, or one in the launch bank that is aligned, meets no fault (Table Core-9). -/
theorem strgoFaults_none {e : Env} {base len : Nat}
    (h : len = 0 ∨ (e.res ≤ base ∧ base + len ≤ e.top ∧ base % 128 = 0 ∧ len % 4096 = 0)) :
    firstCause [(decide (len ≠ 0 ∧ (base < e.res ∨ e.top < base + len)), pfRange),
      (decide (len ≠ 0 ∧ (base % 128 ≠ 0 ∨ len % 4096 ≠ 0)), pfAlign)] = none := by
  refine firstCause_none (fun p hp => ?_)
  simp only [List.mem_cons, List.not_mem_nil, or_false] at hp
  rcases hp with rfl | rfl <;> simp only [decide_eq_false_iff_not] <;> omega

/-- Settles O17: STRGO past its faults and waits, and STRWAIT. -/
theorem strandGroupWords : Obligations.StrandGroupWords := by
  intro s k x e w hr hg c mask base len
  refine ⟨fun hl hfit hmask => ?idle, fun hl hfit hmask hwin hbusy hhaz => ?queued, fun hl hbusy => ?wait⟩
  case idle =>
    refine coreWord_done hr hg (by rw [hl]; exact hfit) rfl ?_
    exact if_pos hmask
  case queued =>
    have hbusy' : (strandsBusy c (maskStrands mask) || hazard e c [(0, e.top)] [(base, len)]) = false := by
      rw [Bool.or_eq_false_iff]
      exact ⟨hbusy, hhaz⟩
    refine ⟨groupTokens x.core (strgoRead w) (strgoWrite w), coreWord_done hr hg (by rw [hl]; exact hfit) rfl ?_,
      map_groupTokens x.core (legalStrgo_disjoint hl)⟩
    exact (if_neg hmask).trans ((faultless (strgoFaults_none hwin) _).trans (if_neg (Bool.eq_false_iff.1 hbusy')))
  case wait =>
    refine coreWord_done hr hg hl rfl ?_
    exact if_neg (Bool.eq_false_iff.1 hbusy)

/-! ### The start of a group (R173, R175) -/

section
variable (c : Core)

theorem getStr_setStr (i j : Nat) (t : StrandSt) : getStr (setStr c i t) j = if j = i then t else getStr c j := nget_nput ..

/-- Strands of a list put one after the other. -/
def putStrands (st : Nat → StrandSt) (l : List Nat) : Core := l.foldl (fun c i => setStr c i (st i)) c

theorem getStr_putStrands (st : Nat → StrandSt) (l : List Nat) (j : Nat) :
    getStr (putStrands c st l) j = if j ∈ l then st j else getStr c j := by
  induction l generalizing c with
  | nil => rfl
  | cons i l ih =>
    change getStr (putStrands (setStr c i (st i)) st l) j = _
    rw [ih, getStr_setStr]
    by_cases hl : j ∈ l
    · simp [hl]
    · by_cases hi : j = i <;> simp [hl, hi]

theorem putStrands_frame (st : Nat → StrandSt) (l : List Nat) : ∃ strands, putStrands c st l = { c with strands } := by
  induction l generalizing c with
  | nil => exact ⟨c.strands, rfl⟩
  | cons i l ih => exact ih (setStr c i (st i))

/-- Starting a group that waits for nothing marks it and puts its live strands at the entry. -/
theorem startGroup_granted {g : Group} {id : Nat} {e : Env} (hg : c.groups.find? (fun g => g.id == id) = some g)
    (hs : g.started = false) (ht : allGranted c id = true) : startGroup id e c =
      putStrands { c with groups := updFirst (fun g => g.id == id) (fun g => { g with started := true }) c.groups }
        (strandStart g) g.live := by
  unfold startGroup
  rw [hg]
  simp only [hs, ht, Bool.not_true, Bool.false_eq_true, or_self, if_false]
  rfl

end

/-- The registers of a strand that starts: x1 its number, x2 its slice, x3 the slice length (R175). -/
theorem strX_strandStart (g : Group) (i : Nat) (r : BitVec 5) : strX (strandStart g i) r =
    if r = 1 then BitVec.ofNat 32 i
    else if r = 2 then BitVec.ofNat 32 (g.window + i * (g.winLen / 32))
    else if r = 3 then BitVec.ofNat 32 (g.winLen / 32)
    else 0 := by
  have toNat_eq (n : Nat) (hn : n < 32) : r.toNat = n ↔ r = BitVec.ofNat 5 n := by
    rw [← BitVec.toNat_inj, BitVec.toNat_ofNat, Nat.mod_eq_of_lt (by omega)]
  simp only [strX, strandStart, nget_nput, toNat_eq 1 (by decide), toNat_eq 2 (by decide), toNat_eq 3 (by decide)]
  by_cases h : r = 0
  · simp [h]
  · rw [if_neg h]
    rfl

/-- Settles O18: the live strands put one after the other, each as R175 starts it. -/
theorem strandsStartWithTheirSlice : Obligations.StrandsStartWithTheirSlice := by
  intro s k x e id g hr hg hs ht
  obtain rfl : g.id = id := by simpa using List.find?_some hg
  obtain ⟨strands, hframe⟩ := putStrands_frame
    { x.core with groups := updFirst (fun h => h.id == g.id) (fun h => { h with started := true }) x.core.groups }
    (strandStart g) g.live
  refine ⟨startGroup g.id e x.core, ?_, ⟨strands, ?_⟩, fun i hi => ?_, fun i hi => ?_⟩
  · change execStrandGroupStart k g.id s = _
    rw [execStrandGroupStart, unitStep_running hr]
  · rw [startGroup_granted _ hg hs ht, hframe]
  · rw [startGroup_granted _ hg hs ht, getStr_putStrands, if_pos hi]
    exact ⟨rfl, rfl, strX_strandStart g i, fun r j => rfl⟩
  · rw [startGroup_granted _ hg hs ht, getStr_putStrands, if_neg hi]
    rfl

end Sys2Proof.Machine
end

section
/-! SUPPORT. The scalar and control words of a strand: 32-bit results as integer arithmetic, branches, the end of a strand and of
its group, and the words that read flags and constants (O19, O20). -/

namespace Sys2Proof.Machine

/-! ### Results of any width as integer arithmetic (R183) -/

section
variable {n : Nat} (a b : BitVec n)

theorem add_eq_ofInt_add : a + b = BitVec.ofInt n (a.toInt + b.toInt) := by simp [BitVec.ofInt_add]

theorem sub_eq_ofInt_sub : a - b = BitVec.ofInt n (a.toInt - b.toInt) := by
  rw [Int.sub_eq_add_neg, BitVec.ofInt_add, BitVec.ofInt_neg, BitVec.ofInt_toInt, BitVec.ofInt_toInt, BitVec.sub_eq_add_neg]

theorem mul_eq_ofInt_mul : a * b = BitVec.ofInt n (a.toInt * b.toInt) := by simp [BitVec.ofInt_mul]

theorem shiftLeft_eq_ofNat (m : Nat) : a <<< m = BitVec.ofNat n (a.toNat * 2 ^ m) :=
  BitVec.eq_of_toNat_eq (by simp [Nat.shiftLeft_eq])

theorem ushiftRight_eq_ofNat (m : Nat) : a >>> m = BitVec.ofNat n (a.toNat / 2 ^ m) := by
  rw [← Nat.shiftRight_eq_div_pow, ← BitVec.toNat_ushiftRight, BitVec.ofNat_toNat, BitVec.setWidth_eq]

theorem sshiftRight_eq_ofInt (m : Nat) : a.sshiftRight m = BitVec.ofInt n (a.toInt / 2 ^ m) := by
  have h : (a.sshiftRight m).toInt = a.toInt / 2 ^ m := by rw [BitVec.toInt_sshiftRight, Int.shiftRight_eq_div_pow]; norm_cast
  rw [← h, BitVec.ofInt_toInt]

theorem ite_slt_eq_ofInt_min : (if a.slt b then a else b) = BitVec.ofInt n (min a.toInt b.toInt) := by
  rw [BitVec.slt_eq_decide, Int.min_def]
  grind [BitVec.ofInt_toInt]

theorem ite_slt_eq_ofInt_max : (if a.slt b then b else a) = BitVec.ofInt n (max a.toInt b.toInt) := by
  rw [BitVec.slt_eq_decide, Int.max_def]
  grind [BitVec.ofInt_toInt]

theorem ite_ult_eq_ofNat_min : (if a.ult b then a else b) = BitVec.ofNat n (min a.toNat b.toNat) := by
  rw [BitVec.ult_eq_decide, Nat.min_def]
  grind [BitVec.setWidth_eq]

theorem ite_ult_eq_ofNat_max : (if a.ult b then b else a) = BitVec.ofNat n (max a.toNat b.toNat) := by
  rw [BitVec.ult_eq_decide, Nat.max_def]
  grind [BitVec.setWidth_eq]

end

section
variable (a b : W32)

/-- What S_MULHS makes of its sources. -/
def mulHighS32 : W32 := ((a.signExtend 64 * b.signExtend 64) >>> 32).truncate 32
/-- What S_MULHU makes of its sources. -/
def mulHighU32 : W32 := ((a.zeroExtend 64 * b.zeroExtend 64) >>> 32).truncate 32

/-- The upper half of a signed 64-bit product is its quotient by 2^32. -/
theorem mulHighS32_eq_ofInt : mulHighS32 a b = BitVec.ofInt 32 (a.toInt * b.toInt / 2 ^ 32) := by
  have hprod : a.signExtend 64 * b.signExtend 64 = BitVec.ofInt 64 (a.toInt * b.toInt) := (BitVec.ofInt_mul ..).symm
  rw [mulHighS32, hprod]
  apply BitVec.eq_of_toNat_eq
  simp only [BitVec.truncate_eq_setWidth, BitVec.toNat_setWidth, BitVec.toNat_ushiftRight, BitVec.toNat_ofInt,
    Nat.shiftRight_eq_div_pow]
  omega

/-- The upper half of an unsigned 64-bit product is its quotient by 2^32. -/
theorem mulHighU32_eq_ofNat : mulHighU32 a b = BitVec.ofNat 32 (a.toNat * b.toNat / 2 ^ 32) := by
  have hlt : a.toNat * b.toNat < 2 ^ 64 := Nat.mul_lt_mul'' (c := 2 ^ 32) (d := 2 ^ 32) a.isLt b.isLt
  apply BitVec.eq_of_toNat_eq
  simp [mulHighU32, Nat.shiftRight_eq_div_pow]
  omega

end

/-! ### One strand word -/

section
variable {s : State} {k : Skein} {i : Strand} {x : SkeinCtx} {e : Env} {g : Group}

/-- A strand past its word reads the registers that it had before. -/
@[simp] theorem strX_strandPast (t : StrandSt) (r : BitVec 5) : strX (strandPast t) r = strX t r := rfl

/-- A legal strand word that completes on a ready strand leaves what it makes of the core and of the strand past it. -/
theorem strandWord_done (hr : StrandReady s k i x e g) {legal : Bool} (hl : legal = true) {word : Instr}
    {f : StrEnv → Core → StrandSt → Eff (Core × StrandSt)} (hx : exec word s = .next (issueStrand s k.val i.val legal f))
    {c : Core} {t : StrandSt} (hf : f ⟨e, i.val, g⟩ x.core (strandPast (getStr x.core i.val)) = .done (c, t)) :
    exec word s = .next (withStrand s k c i t) := by
  rw [hx, issueStrand_ready hr hl, hf]

/-- The second source of a SALU or SIMM word as an integer reads it (R183). -/
theorem saluB_eq (t : StrandSt) (src : SSrc) :
    saluB t src = match src with | .reg r => strX t r | .imm v => BitVec.ofInt 32 v.toInt := by
  cases src <;> rfl

/-- A scalar word on a ready strand writes XD with its function of XA and the second source. -/
theorem saluWord_writes (hr : StrandReady s k i x e g) {w : SaluW} {word : Instr} {f : W32 → W32 → W32}
    (hx : exec word s = issueSalu s k i w f) {b : W32} (hb : saluB (getStr x.core i.val) w.src = b) {v : W32}
    (hv : f (strX (getStr x.core i.val) w.xa) b = v) :
    exec word s = .next (withStrand s k x.core i (strSetX (strandPast (getStr x.core i.val)) w.xd v)) := by
  have hsrc : saluB (strandPast (getStr x.core i.val)) w.src = b := by rw [← hb]; cases w.src <;> rfl
  rw [hx, issueSalu, issueLane_ready hr rfl, strX_strandPast, hsrc, hv]

end

/-- Settles O19: the fifteen functions as integer arithmetic, and one issue for all. -/
theorem strandScalarWords : Obligations.StrandScalarWords := by
  intro s k i x e g w hr t a b n writes
  have hb : saluB t w.src = b := saluB_eq t w.src
  clear_value b
  refine ⟨?add, ?sub, ?mul, ?mulhs, ?mulhu, ?and, ?or, ?xor, ?shl, ?shr, ?sar, ?min, ?max, ?minu, ?maxu⟩
  case add => exact saluWord_writes hr (f := fun a b => a + b) rfl hb (add_eq_ofInt_add ..)
  case sub => exact saluWord_writes hr (f := fun a b => a - b) rfl hb (sub_eq_ofInt_sub ..)
  case mul => exact saluWord_writes hr (f := fun a b => a * b) rfl hb (mul_eq_ofInt_mul ..)
  case mulhs => exact saluWord_writes hr (f := mulHighS32) rfl hb (mulHighS32_eq_ofInt ..)
  case mulhu => exact saluWord_writes hr (f := mulHighU32) rfl hb (mulHighU32_eq_ofNat ..)
  case and => exact saluWord_writes hr (f := fun a b => a &&& b) rfl hb rfl
  case or => exact saluWord_writes hr (f := fun a b => a ||| b) rfl hb rfl
  case xor => exact saluWord_writes hr (f := fun a b => a ^^^ b) rfl hb rfl
  case shl => exact saluWord_writes hr (f := fun a b => a <<< (b.toNat % 32)) rfl hb (shiftLeft_eq_ofNat ..)
  case shr => exact saluWord_writes hr (f := fun a b => a >>> (b.toNat % 32)) rfl hb (ushiftRight_eq_ofNat ..)
  case sar => exact saluWord_writes hr (f := fun a b => a.sshiftRight (b.toNat % 32)) rfl hb (sshiftRight_eq_ofInt ..)
  case min => exact saluWord_writes hr (f := fun a b => if a.slt b then a else b) rfl hb (ite_slt_eq_ofInt_min ..)
  case max => exact saluWord_writes hr (f := fun a b => if a.slt b then b else a) rfl hb (ite_slt_eq_ofInt_max ..)
  case minu => exact saluWord_writes hr (f := fun a b => if a.ult b then a else b) rfl hb (ite_ult_eq_ofNat_min ..)
  case maxu => exact saluWord_writes hr (f := fun a b => if a.ult b then b else a) rfl hb (ite_ult_eq_ofNat_max ..)

/-! ### BRANCH (Table Matrix-6) -/

/-- A branch condition as a comparison of integers. -/
theorem condOn_eq (c : BitVec 3) (a b : W32) : condOn c a b = match c.toNat with
    | 0 => decide (a.toNat = b.toNat)
    | 1 => decide (a.toNat ≠ b.toNat)
    | 2 => decide (a.toInt < b.toInt)
    | 3 => decide (b.toInt ≤ a.toInt)
    | 4 => decide (a.toNat < b.toNat)
    | 5 => decide (b.toNat ≤ a.toNat)
    | _ => true := by
  have heq : (a == b) = decide (a.toNat = b.toNat) := by simp [BEq.beq, BitVec.toNat_inj]
  have hne : (a != b) = decide (a.toNat ≠ b.toNat) := by simp [bne, heq]
  have hge : (!a.slt b) = decide (b.toInt ≤ a.toInt) := by rw [BitVec.slt_eq_decide]; grind
  have hgeu : (!a.ult b) = decide (b.toNat ≤ a.toNat) := by rw [BitVec.ult_eq_decide]; grind
  unfold condOn
  rw [hne, heq, hge, hgeu, BitVec.slt_eq_decide, BitVec.ult_eq_decide] <;> rfl

theorem strTarget_eq (pc : Nat) (w : BranchW) : strTarget pc w = (pc : Int) + w.off.toInt := by
  rw [strTarget, signed_toNat]

/-! ### The end of a strand and of its group (R172, R180) -/

/-- Changing an element of a kind and leaving the kind out is leaving the kind out. -/
theorem filter_updFirst {α : Type} {p : α → Bool} {f : α → α} (hf : ∀ x, p (f x) = true) :
    ∀ l : List α, (updFirst p f l).filter (fun x => !p x) = l.filter (fun x => !p x)
  | [] => rfl
  | x :: l => by
    cases hx : p x with
    | true => simp [updFirst, hx, hf]
    | false => simp [updFirst, hx, filter_updFirst hf l]

/-- The last strand's end takes the group away, its flags into the launch's and into what later groups see, and its tokens. -/
theorem endGroup_last (c : Core) (g : Group) :
    endGroup { c with groups := updFirst (fun h => h.id == g.id) (fun _ => g) c.groups } g =
      { c with
        groups := (c.groups.filter (fun h => h.id != g.id)).map (fun h =>
          if g.id < h.id then { h with seen := h.seen ||| g.flags } else h)
        flags := c.flags ||| g.flags
        tokens := c.tokens.filter (fun r => r.owner != g.id) } := by
  have hid (h : Group) : (if g.id < h.id then { h with seen := h.seen ||| g.flags } else h).id = h.id := by split <;> rfl
  have hrest : (updFirst (fun h : Group => h.id == g.id) (fun _ => g) c.groups).filter (fun h => h.id != g.id) =
      c.groups.filter (fun h => h.id != g.id) := filter_updFirst (fun _ => by simp) c.groups
  simp only [endGroup, releaseTokens, joinFlags, List.filter_map, Function.comp_def, hid, hrest]

/-- Settles O20, word by word; END by whether other strands of the group live. -/
theorem strandControlWords : Obligations.StrandControlWords := by
  intro s k i x e g b w hr c t p q target taken g'
  refine ⟨fun hl h0 himg => ?branch, fun hlive => ?ends, fun hlast => ?last, fun hj hg hn hm => ?rdflags, fun hl => ?ldc⟩
  case branch =>
    have hok : (legalBranch b && fitsGroup s k.val i.val (fun e _ t =>
        decide (0 ≤ strTarget t.pc b ∧ strTarget t.pc b < strImage e.acc))) = true := by
      rw [hl, fitsGroup_ready hr, strTarget_eq]
      simpa using ⟨h0, himg⟩
    have htaken : condOn b.cond p q = taken := condOn_eq b.cond p q
    change execBranch k i b s = _
    simp only [execBranch]
    rw [issueLane_ready hr hok, strX_strandPast, strX_strandPast, htaken]
    cases taken
    · rfl
    · have htarget : strTarget (strandPast t).pc.pred b = target := strTarget_eq t.pc b
      exact congrArg (fun z : Int => Host.Outcome.next (withStrand s k c i { t with pc := z.toNat })) htarget
  case ends =>
    refine strandWord_done hr rfl rfl (congrArg (fun c => Eff.done (c, StrandSt.idle)) (if_neg ?_))
    simpa using hlive
  case last =>
    refine strandWord_done hr rfl rfl (congrArg (fun c => Eff.done (c, StrandSt.idle)) ((if_pos ?_).trans (endGroup_last c g')))
    simpa using hlast
  case rdflags =>
    refine strandWord_done hr rfl rfl (if_neg ?_)
    simpa using ⟨⟨⟨hj, hg⟩, hn⟩, hm⟩
  case ldc => exact strandWord_done hr hl rfl rfl

end Sys2Proof.Machine
end

section
/-! SUPPORT. Words that move cells and bits of lane registers: cells written one by one, the packed string bit by bit, and each
word of class VPERM (O23). -/

namespace Sys2Proof.Machine

/-! ### Lane results that raise no flag -/

section
variable {t t' : StrandSt} {r : BitVec 3}

/-- A lane result says nothing of lanes past the 32. -/
theorem LaneResult.congr {v v' : Nat → Nat × Flags} (h : LaneResult t t' r v) (hv : ∀ j, j < 32 → v j = v' j) :
    LaneResult t t' r v' := by
  obtain ⟨hlane, hflags, hrest⟩ := h
  refine ⟨fun j hj => by rw [hlane j hj, hv j hj], ?_, hrest⟩
  rw [hflags, List.map_congr_left (fun j hj => congrArg Prod.snd (hv j (List.mem_range.1 hj)))]

/-- Whole cells written to a lane register and nothing else. -/
def CellsWritten (t t' : StrandSt) (r : BitVec 3) (c : Nat → W32) : Prop :=
  LaneResult t t' r (fun j => ((c j).toNat, noFlags))

theorem CellsWritten.congr {c c' : Nat → W32} (h : CellsWritten t t' r c) (hc : ∀ j, j < 32 → c j = c' j) :
    CellsWritten t t' r c' :=
  LaneResult.congr h (fun j hj => by rw [hc j hj])

theorem cellsWritten_setElems (t : StrandSt) (r : BitVec 3) (c : Nat → Nat) :
    CellsWritten t (setElems (strandPast t) r ((List.range 32).map c)) r (fun j => BitVec.ofNat 32 (c j)) := by
  have h := laneResult_setLanes t r (fun j => BitVec.ofNat 32 (c j))
  rwa [← Function.comp_def (BitVec.ofNat 32) c, ← List.map_map] at h

/-- A list of 32 patterns written to a lane register. -/
theorem cellsWritten_of_length (t : StrandSt) (r : BitVec 3) {l : List Nat} (hl : l.length = 32) :
    CellsWritten t (setElems (strandPast t) r l) r (fun j => BitVec.ofNat 32 (l.getD j 0)) := by
  have hlist : l = (List.range 32).map (fun j => l.getD j 0) :=
    List.ext_getElem (by simp [hl]) (fun j hj _ => by simp [hj])
  have h := cellsWritten_setElems t r (fun j => l.getD j 0)
  rwa [← hlist] at h

theorem length_sortLanes (f : Fmt) (keys : List Nat) : (sortLanes f keys).length = keys.length := by
  rw [sortLanes, (foldl_sortInsert_range f (fun j => keys.getD j 0) keys.length).1.length_eq, List.length_range]

/-- A lane register whose cells were not written. -/
theorem cellsWritten_past (t : StrandSt) (r : BitVec 3) : CellsWritten t (strandPast t) r (lane t r) := by
  refine ⟨fun j _ => ?_, ?_, fun _ _ _ _ => rfl, rfl, rfl, rfl⟩
  · simp
  · rw [flagUnion_map_noFlags]
    exact BitVec.or_zero.symm

theorem lane_setLane {q j : Nat} (hq : q < 32) (hj : j < 32) (r' : BitVec 3) (v : W32) :
    lane (setLane t r q v) r' j = if r' = r ∧ j = q then v else lane t r' j := by
  have hkey : 32 * r'.toNat + j = 32 * r.toNat + q ↔ r' = r ∧ j = q := by
    rw [← BitVec.toNat_inj]
    omega
  rw [lane, setLane, nget_nput]
  simp only [hkey]
  rfl

/-- One more cell written. -/
theorem CellsWritten.setLane {c : Nat → W32} (h : CellsWritten t t' r c) {q : Nat} (hq : q < 32) (v : W32) :
    CellsWritten t (setLane t' r q v) r (fun j => if j = q then v else c j) := by
  obtain ⟨hlane, hflags, hne, hx, hpc, hgroup⟩ := h
  refine ⟨fun j hj => ?_, ?_, fun r' j hr hj => ?_, hx, hpc, hgroup⟩
  · rw [lane_setLane hq hj, hlane j hj]
    by_cases hjq : j = q <;> simp [hjq]
  · rw [flagUnion_map_noFlags] at hflags ⊢
    exact hflags
  · rw [lane_setLane hq hj, if_neg (fun h => hr h.1), hne r' j hr hj]

/-- Cells from `n` on written one by one. -/
theorem cellsWritten_foldl_setLane (t : StrandSt) (r : BitVec 3) {n : Nat} (v : Nat → W32) : ∀ m : Nat, n + m ≤ 32 →
    CellsWritten t ((List.range m).foldl (fun t q => setLane t r (n + q) (v q)) (strandPast t)) r
      (fun j => if n ≤ j ∧ j < n + m then v (j - n) else lane t r j)
  | 0, _ => (cellsWritten_past t r).congr (fun j _ => (if_neg (by omega)).symm)
  | m + 1, hm => by
    rw [List.range_succ, List.foldl_append]
    refine ((cellsWritten_foldl_setLane t r v m (by omega)).setLane (by omega) (v m)).congr (fun j _ => ?_)
    by_cases hj : j = n + m
    · subst hj
      simp
    · have hiff : (n ≤ j ∧ j < n + m) ↔ (n ≤ j ∧ j < n + (m + 1)) := by omega
      simp only [if_neg hj, hiff]

end

/-! ### Packed strings (R184) -/

theorem packBits_succ (w : Nat) (f : Nat → Nat) (m : Nat) :
    packBits w ((List.range (m + 1)).map f) = 2 ^ (w * m) * f m + packBits w ((List.range m).map f) := by
  have hzip (m : Nat) : ((List.range m).map f).zip (List.range ((List.range m).map f).length) =
      (List.range m).map (fun i => (f i, i)) := by
    rw [List.length_map, List.length_range, List.map_prod_right_eq_zip]
  rw [packBits, packBits, hzip, hzip, List.foldl_map, List.foldl_map, List.range_succ, List.foldl_append]
  simp only [List.foldl_cons, List.foldl_nil]
  rw [Nat.add_comm, Nat.mul_comm]

section
variable {w : Nat} {f : Nat → Nat} (hf : ∀ i, f i < 2 ^ w)
include hf

theorem packBits_lt : ∀ m : Nat, packBits w ((List.range m).map f) < 2 ^ (w * m)
  | 0 => Nat.one_pos
  | m + 1 => by
    have hle : 2 ^ (w * m) * (f m + 1) ≤ 2 ^ (w * m) * 2 ^ w := Nat.mul_le_mul_left _ (hf m)
    have ih := packBits_lt m
    rw [packBits_succ, Nat.mul_succ w m, Nat.pow_add]
    rw [Nat.mul_succ] at hle
    omega

/-- Bit `b` of the string is bit `b mod w` of element `b / w`. -/
theorem testBit_packBits : ∀ {m b : Nat}, b < w * m →
    (packBits w ((List.range m).map f)).testBit b = (f (b / w)).testBit (b % w)
  | 0, _, hb => absurd hb (Nat.not_lt_zero _)
  | m + 1, b, hb => by
    rw [packBits_succ, Nat.testBit_two_pow_mul_add _ (packBits_lt hf m)]
    rw [Nat.mul_succ] at hb
    split
    next h => exact testBit_packBits h
    next h =>
      have hdiv : b / w = m :=
        Nat.div_eq_of_lt_le (by rw [Nat.mul_comm]; omega) (by rw [Nat.succ_mul, Nat.mul_comm]; omega)
      have hmod : b % w = b - w * m := by rw [← hdiv, Nat.mod_eq_sub_mul_div]
      rw [hdiv, hmod]

end

theorem width_le (f : Fmt) : f.width ≤ 32 := by cases f <;> decide

/-- The cells of a legal PACK or UNPACK lie in one lane register. -/
theorem legalPack_fits {w : VpermW} (h : legalPack w = true) : w.imm5.toNat + (codeFmt w.fmt.toNat).width ≤ 32 := by
  have hlt := w.imm5.isLt
  unfold legalPack at h
  split at h
  next f hf =>
    rw [codeFmt, hf, Option.getD_some]
    rw [beq_iff_eq] at h
    cases f <;> simp only [Fmt.width] at h ⊢ <;> omega
  next => cases h

/-! ### PACK and UNPACK bit by bit -/

section
variable (t : StrandSt) (w : VpermW)

/-- Cell `q` of the packed string of VA. -/
def packedCell (q : Nat) : W32 :=
  BitVec.ofNat 32 (packBits (codeFmt w.fmt.toNat).width (laneElems t w.va (codeFmt w.fmt.toNat)) / 2 ^ (32 * q))

/-- Element `j` of the packed string that stands in VA from cell IMM5 on. -/
def unpackedElem (j : Nat) : Nat :=
  packBits 32 ((List.range (codeFmt w.fmt.toNat).width).map (fun q => (lane t w.va (w.imm5.toNat + q)).toNat)) /
    2 ^ ((codeFmt w.fmt.toNat).width * j) % 2 ^ (codeFmt w.fmt.toNat).width

theorem getLsbD_packedCell {b : Nat} (hb : b < 32 * (codeFmt w.fmt.toNat).width) :
    (packedCell t w (b / 32)).getLsbD (b % 32) =
      (laneElem t w.va (codeFmt w.fmt.toNat) (b / (codeFmt w.fmt.toNat).width)).testBit (b % (codeFmt w.fmt.toNat).width) := by
  have helem (j : Nat) : laneElem t w.va (codeFmt w.fmt.toNat) j < 2 ^ (codeFmt w.fmt.toNat).width :=
    Nat.mod_lt _ (Nat.two_pow_pos _)
  have hlow : b % 32 < 32 := Nat.mod_lt _ (by decide)
  rw [packedCell, BitVec.getLsbD_ofNat, decide_eq_true hlow, Bool.true_and, Nat.testBit_div_two_pow, Nat.mod_add_div,
    laneElems_eq_map, testBit_packBits helem (by rwa [Nat.mul_comm])]

theorem testBit_unpackedElem {j d : Nat} (hj : j < 32) (hd : d < (codeFmt w.fmt.toNat).width) : (unpackedElem t w j).testBit d =
    (lane t w.va (w.imm5.toNat + ((codeFmt w.fmt.toNat).width * j + d) / 32)).getLsbD
      (((codeFmt w.fmt.toNat).width * j + d) % 32) := by
  have hin : (codeFmt w.fmt.toNat).width * j + d < 32 * (codeFmt w.fmt.toNat).width := by
    have := Nat.mul_le_mul_left (codeFmt w.fmt.toNat).width (Nat.succ_le_of_lt hj)
    rw [Nat.mul_succ] at this
    omega
  rw [unpackedElem, Nat.testBit_mod_two_pow, decide_eq_true hd, Bool.true_and, Nat.testBit_div_two_pow, Nat.add_comm d,
    testBit_packBits (fun q => (lane t w.va (w.imm5.toNat + q)).isLt) hin]
  rfl

end

/-! ### The words -/

section
variable {s : State} {k : Skein} {i : Strand} {x : SkeinCtx} {e : Env} {g : Group} {w : VpermW}

/-- A word of class VPERM that moves whole cells, each by its lane's number. -/
theorem permWord_moves (hr : StrandReady s k i x e g) (hl : legalVperm w = true) {word : Instr} {f : StrandSt → Nat → W32}
    (hx : exec word s = issuePerm s k i w f) {c : Nat → W32}
    (hc : ∀ j, j < 32 → f (strandPast (getStr x.core i.val)) j = c j) :
    ∃ t', exec word s = .next (withStrand s k x.core i t') ∧ CellsWritten (getStr x.core i.val) t' w.vd c :=
  laneWord_writes hr hl hx (CellsWritten.congr (laneResult_setLanes _ _ _) hc)

end

/-- Settles O23, from whole cells moved, cells written one by one and the packed string bit by bit. -/
theorem lanePermutationWords : Obligations.LanePermutationWords := by
  intro s k i x e g w hr hl t f va vb n xs moves
  refine ⟨?perm, ?rot, ?bcast, ?ziplo, ?ziphi, ?unzipe, ?unzipo, ?movx, ?sort, ?lane,
    fun hp => ⟨⟨?v, ?pack, ?bits, ?other⟩, ⟨?u, ?unpack, ?ubits, ?above⟩⟩⟩
  case perm => exact permWord_moves hr hl rfl (fun j _ => rfl)
  case rot => exact permWord_moves hr hl rfl (fun j _ => rfl)
  case bcast => exact permWord_moves hr hl rfl (fun j _ => rfl)
  case ziplo => exact permWord_moves hr hl rfl (fun j _ => by split <;> rfl)
  case ziphi => exact permWord_moves hr hl rfl (fun j _ => by rw [Nat.add_comm 16]; split <;> rfl)
  case unzipe =>
    refine permWord_moves hr hl rfl (fun j hj => ?_)
    split
    next h => rw [Nat.mod_eq_of_lt h]; rfl
    next h => rw [show j % 16 = j - 16 by omega]; rfl
  case unzipo =>
    refine permWord_moves hr hl rfl (fun j hj => ?_)
    split
    next h => rw [Nat.mod_eq_of_lt h]; rfl
    next h => rw [show j % 16 = j - 16 by omega]; rfl
  case movx =>
    refine laneWord_writes hr hl rfl ?_
    exact (cellsWritten_past t w.vd).setLane w.imm5.isLt xs
  case sort =>
    refine laneWord_writes hr hl rfl ?_
    rw [laneElems_strandPast]
    exact cellsWritten_of_length t w.vd (by simp [length_sortLanes])
  case lane => exact congrArg _ (issueLane_ready hr hl)
  case v => exact fun j => if n ≤ j ∧ j < n + f.width then packedCell t w (j - n) else lane t w.vd j
  case pack =>
    refine laneWord_writes hr hp rfl ?_
    exact cellsWritten_foldl_setLane t w.vd (packedCell t w) f.width (legalPack_fits hp)
  case bits =>
    intro b hb
    rw [if_pos (by omega), Nat.add_sub_cancel_left]
    exact getLsbD_packedCell t w hb
  case other =>
    intro j _ hj
    exact if_neg (by omega)
  case u => exact fun j => BitVec.ofNat 32 (unpackedElem t w j)
  case unpack =>
    refine laneWord_writes hr hp rfl ?_
    exact cellsWritten_setElems t w.vd (unpackedElem t w)
  case ubits =>
    intro j d hj hd
    rw [BitVec.getLsbD_ofNat, decide_eq_true (Nat.lt_of_lt_of_le hd (width_le f)), Bool.true_and]
    exact testBit_unpackedElem t w hj hd
  case above =>
    intro j d _ hd
    rw [BitVec.getLsbD_ofNat, unpackedElem, Nat.testBit_mod_two_pow, decide_eq_false (Nat.not_lt.2 hd), Bool.false_and,
      Bool.and_false]

end Sys2Proof.Machine
end

section
/-! SUPPORT. Tile and memory words of a strand: rows of tiles read and written, what an access of the group's window asks, and
bytes read and stored (O25). -/

namespace Sys2Proof.Machine

/-! ### Rows of tiles (R162, R176) -/

/-- Patterns written to the 32 lanes of a register raise no flag. -/
theorem laneResult_setElems (t : StrandSt) (r : BitVec 3) (c : Nat → Nat) :
    LaneResult t (setElems (strandPast t) r ((List.range 32).map c)) r (fun j => (c j, noFlags)) := by
  have h := laneResult_mapLanes t r (fun j => (c j, noFlags))
  simpa only [mapLanes, List.map_map, Function.comp_def, flagUnion_map_noFlags, strFlags_noFlags] using h

theorem cellKey_eq (tile row j : Nat) : cellKey tile row j = cellKey tile row 0 + j := by
  unfold cellKey
  omega

section
variable (tiles : NMap W32) (tile row : Nat) (f : Nat → Nat)

/-- A row of a tile with 32 patterns written to it. -/
def putTileRow : NMap W32 := nputs 0 tiles (cellKey tile row 0) (((List.range 32).map f).map (BitVec.ofNat 32))

theorem nget_putTileRow_self {j : Nat} (hj : j < 32) :
    nget 0 (putTileRow tiles tile row f) (cellKey tile row j) = BitVec.ofNat 32 (f j) := by
  rw [putTileRow, nget_nputs, dif_pos (by rw [cellKey_eq tile row j]; simp [hj])]
  simp [cellKey_eq tile row j]

theorem nget_putTileRow_ne {key : Nat} (h : ∀ j, j < 32 → key ≠ cellKey tile row j) :
    nget 0 (putTileRow tiles tile row f) key = nget 0 tiles key := by
  refine nget_nputs_outside _ _ ?_
  simp only [List.length_map, List.length_range]
  by_contra hin
  refine h (key - cellKey tile row 0) (by omega) ?_
  rw [cellKey_eq]
  omega

end

/-! ### Accesses of scratch (R177, R190) -/

section
variable {v : StrEnv} {c : Core} {a n : Nat}

/-- An aligned read inside scratch, of the window only the own slice, meets no fault and gives the bytes. -/
theorem strRead_done (ha : a % n = 0) (ht : a + n ≤ v.e.top) (hr : extentReady c a n = true)
    (hs : ∀ b, b < n → inWindow v.g (a + b) = true → inSlice v.g v.i (a + b) = true) (f : Bytes → StrandSt) :
    strRead v c a n f = .done (c, f (scratchRead v.e c a n)) := by
  have hcause : firstCause (strReadFaults v a n) = none := by
    refine firstCause_none (fun p hp => ?_)
    simp only [strReadFaults, List.mem_cons, List.not_mem_nil, or_false] at hp
    rcases hp with rfl | rfl
    · simpa [outside, ht] using hs
    · simp [ha]
  rw [strRead, hcause, hr]
  rfl

/-- An aligned store to the own slice of the launch bank meets no fault and is made. -/
theorem strWrite_done {t : StrandSt} {b : Bytes} (hb : b.length = n) (ha : a % n = 0) (hr : extentReady c a n = true)
    (hs : ∀ i, i < n → inSlice v.g v.i (a + i) = true) : strWrite v c t a b = .done (scratchWrite v.e c a b, t) := by
  subst hb
  have hin : (List.range b.length).any (fun i => !inSlice v.g v.i (a + i)) = false := by simpa using hs
  have hcause : firstCause (strWriteFaults v a b.length) = none := by
    refine firstCause_none (fun p hp => ?_)
    simp only [strWriteFaults, hin, List.mem_cons, List.not_mem_nil, or_false] at hp
    rcases hp with rfl | rfl | rfl
    · rfl
    · rfl
    · simp [ha]
  rw [strWrite, hcause, hr]
  rfl

end

/-- Four bytes of a longer read are a read of four bytes. -/
theorem fld_scratchRead (e : Env) (c : Core) (a : Nat) {n off m : Nat} (h : off + m ≤ n) :
    fld (scratchRead e c a n) off m = leNat (scratchRead e c (a + off) m) := by
  have hs : slice (scratchRead e c a n) off m = scratchRead e c (a + off) m := by
    refine List.ext_getElem (by simp [slice, scratchRead]; omega) (fun i _ _ => ?_)
    simp [slice, scratchRead, Nat.add_assoc]
  rw [fld, hs]

/-- Element `b` of strings of `n` elements joined. -/
theorem getElem?_flatMap_of_length {α β : Type} {g : α → List β} {n : Nat} (hn : 0 < n) (hg : ∀ x, (g x).length = n) :
    ∀ (l : List α) (b : Nat), (l.flatMap g)[b]? = l[b / n]?.bind (fun x => (g x)[b % n]?)
  | [], _ => by simp
  | x :: l, b => by
    rw [List.flatMap_cons, List.getElem?_append, hg]
    split
    next h => rw [Nat.div_eq_of_lt h, Nat.mod_eq_of_lt h]; rfl
    next h =>
      obtain ⟨d, rfl⟩ := Nat.exists_eq_add_of_le (Nat.not_lt.1 h)
      rw [Nat.add_sub_cancel_left, getElem?_flatMap_of_length hn hg l d, Nat.add_div_left d hn, Nat.add_mod_left]
      rfl

/-- The 128 bytes of a lane register. -/
def laneBytes (t : StrandSt) (r : BitVec 3) : Bytes := (lanes t r).flatMap (fun x => leBytes 4 x.toNat)

theorem length_laneBytes (t : StrandSt) (r : BitVec 3) : (laneBytes t r).length = 128 := by
  simp [laneBytes, lanes, List.length_flatMap, Function.comp_def]

theorem getElem_laneBytes (t : StrandSt) (r : BitVec 3) {b : Nat} (hb : b < (laneBytes t r).length) :
    (laneBytes t r)[b] = BitVec.ofNat 8 ((lane t r (b / 4)).toNat / 256 ^ (b % 4)) := by
  have hlt : b / 4 < 32 := by rw [length_laneBytes] at hb; omega
  have hmod : b % 4 < (leBytes 4 (lane t r (b / 4)).toNat).length := by rw [length_leBytes]; exact Nat.mod_lt _ (by decide)
  have hcell : (lanes t r)[b / 4]? = some (lane t r (b / 4)) := by simp [lanes, hlt]
  have hbyte := getElem?_flatMap_of_length (g := fun x : W32 => leBytes 4 x.toNat) (by decide) (fun _ => length_leBytes ..)
    (lanes t r) b
  rw [hcell, Option.bind_some, List.getElem?_eq_getElem hmod, getElem_leBytes] at hbyte
  exact (List.getElem?_eq_some_iff.1 hbyte).2

/-! ### The words -/

section
variable {s : State} {k : Skein} {i : Strand} {x : SkeinCtx} {e : Env} {g : Group}

/-- A word that reads a row of a tile leaves it in its lane register. -/
theorem tileRead_writes (hr : StrandReady s k i x e g) {legal : Bool} (hl : legal = true) {w : TileW} {word : Instr}
    {f : StrEnv → Core → StrandSt → Eff (Core × StrandSt)} (hx : exec word s = .next (issueStrand s k.val i.val legal f))
    {row : Nat}
    (hf : f ⟨e, i.val, g⟩ x.core (strandPast (getStr x.core i.val)) = .done (x.core,
      setElems (strandPast (getStr x.core i.val)) w.v (tileRow x.core w.tile row (codeFmt w.fmt.toNat)))) :
    ∃ t', exec word s = .next (withStrand s k x.core i t') ∧ LaneResult (getStr x.core i.val) t' w.v (fun j =>
      ((getCell x.core (cellKey w.tile.toNat row j)).toNat % 2 ^ (codeFmt w.fmt.toNat).width, noFlags)) :=
  ⟨_, strandWord_done hr hl hx hf, laneResult_setElems ..⟩

/-- A tile word whose tile lies in the masks it may name is legal (Table Matrix-8). -/
theorem tileWord_legal (hr : StrandReady s k i x e g) {w : TileW} (hl : legalTile w = true) {p : Group → Bool}
    (hp : p g = true) :
    (legalTile w && fitsGroup s k.val i.val (fun _ g _ => p g)) = true := by
  rw [hl, fitsGroup_ready hr, hp]
  rfl

/-- A store to the own slice reads back byte by byte and changes no other byte of scratch. -/
theorem storeWord_stores (hr : StrandReady s k i x e g) {legal : Bool} (hl : legal = true) {word : Instr}
    {f : StrEnv → Core → StrandSt → Eff (Core × StrandSt)} (hx : exec word s = .next (issueStrand s k.val i.val legal f))
    {a n : Nat} {b : Bytes} (hf : f ⟨e, i.val, g⟩ x.core (strandPast (getStr x.core i.val)) =
      strWrite ⟨e, i.val, g⟩ x.core (strandPast (getStr x.core i.val)) a b)
    (hn : b.length = n) (ha : a % n = 0) (hres : e.res ≤ a) (hready : extentReady x.core a n = true)
    (hs : ∀ y, y < n → inSlice g i.val (a + y) = true) {v : Nat → Byte} (hv : ∀ y (h : y < b.length), b[y] = v y) :
    ∃ bank, exec word s = .next (withStrand s k { x.core with bank } i (strandPast (getStr x.core i.val))) ∧
      (∀ y, y < n → scratchByte e { x.core with bank } (a + y) = v y) ∧
      ∀ y, y < a ∨ a + n ≤ y → scratchByte e { x.core with bank } y = scratchByte e x.core y := by
  refine ⟨(scratchWrite e x.core a b).bank, strandWord_done hr hl hx (hf.trans (strWrite_done hn ha hready hs)), ?_, ?_⟩
  · intro y hy
    have hlt : y < b.length := hn ▸ hy
    exact (scratchByte_scratchWrite_self e x.core b hres hlt).trans (hv y hlt)
  · intro y hy
    exact scratchByte_scratchWrite_outside e x.core b hres (hn ▸ hy)

end

/-- Settles O25, word by word. -/
theorem strandTileAndMemoryWords : Obligations.StrandTileAndMemoryWords := by
  intro s k i x e g w u hr c t f row cell a mayRead mayWrite stores
  refine ⟨fun hl => ⟨fun hm => ?trd, fun hm hrow hown => ?trdx, fun hm => ?twr⟩, fun ⟨ha, ht, hx, hs⟩ => ?ldw,
    fun ⟨ha, hres, hx, hs⟩ => ?stw, fun hl => ⟨fun ⟨ha, ht, hx, hs⟩ => ?vld, fun ⟨ha, hres, hx, hs⟩ => ?vst⟩⟩
  case trd =>
    exact tileRead_writes hr (tileWord_legal hr hl (p := fun g => inMask g.rmask w.tile || inMask g.wmask w.tile) hm) rfl rfl
  case trdx =>
    refine tileRead_writes hr (tileWord_legal hr hl (p := fun g => inMask g.rmask w.tile || inMask g.wmask w.tile) hm) rfl ?_
    refine if_neg ?_
    rintro (hlt | ⟨hw, hne⟩)
    · exact absurd hrow (Nat.not_le.2 hlt)
    · exact hne (hown hw)
  case twr =>
    refine ⟨putTileRow c.tiles w.tile.toNat i.val (laneElem t w.v f),
      strandWord_done hr (tileWord_legal hr hl (p := fun g => inMask g.wmask w.tile) hm) rfl ?_,
      fun j hj => nget_putTileRow_self _ _ _ _ hj, fun key hkey => nget_putTileRow_ne _ _ _ _ hkey⟩
    rw [laneElems_strandPast]
    rfl
  case ldw => exact strandWord_done hr rfl rfl (strRead_done (v := ⟨e, i.val, g⟩) ha ht hx hs _)
  case stw =>
    exact storeWord_stores hr rfl rfl rfl (length_leBytes ..) ha hres hx hs (fun y hy => getElem_leBytes 4 _ hy)
  case vld =>
    refine ⟨_, strandWord_done hr hl rfl (strRead_done (v := ⟨e, i.val, g⟩) ha ht hx hs _), ?_⟩
    refine LaneResult.congr (laneResult_setElems t (u.xd.truncate 3) _) (fun j hj => ?_)
    rw [fld_scratchRead e c a (by omega)]
  case vst =>
    exact storeWord_stores hr hl rfl rfl (length_laneBytes t _) ha hres hx hs (fun y hy => getElem_laneBytes t _ hy)

end Sys2Proof.Machine
end

section
/-! SUPPORT. Issue of a matrix word: the job it becomes with nothing in its way, and the passes that the folder deals to the
arrays (O13). -/

namespace Sys2Proof.Machine

/-! ### The folder and one job (R143, R146) -/

/-- The core in which a matrix job is the only one, its tokens granted, with some of its passes dealt. -/
def dealtCore (c : Core) (j : Job) (dealt : Nat) (arrays : List PassRun) : Core :=
  { queuedCore c j with jobs := [{ j with dealt }], arrays }

section
variable {c : Core} {j : Job} {d : Nat} {arrays : List PassRun} (n : Nat)

theorem deal_dealtCore_idle (h : dealing { j with dealt := d } = false) :
    deal n (dealtCore c j d arrays) = dealtCore c j d arrays :=
  deal_of_not_dealing n (fun i hi => by rwa [List.mem_singleton.1 hi])

theorem deal_dealtCore_none (hd : dealing { j with dealt := d } = true)
    (hp : nextPasses (dealtCore c j d arrays) { j with dealt := d } = none) :
    deal n (dealtCore c j d arrays) = dealtCore c j d arrays := by
  have hfind : (dealtCore c j d arrays).jobs.find? dealing = some { j with dealt := d } := List.find?_cons_of_pos hd
  cases n with
  | zero => rfl
  | succ n => simp only [deal, hfind, hp]

theorem deal_dealtCore_some (hd : dealing { j with dealt := d } = true) {ps : List PassRun}
    (hp : nextPasses (dealtCore c j d arrays) { j with dealt := d } = some ps) :
    deal (n + 1) (dealtCore c j d arrays) = deal n (dealtCore c j (d + 1) (arrays ++ ps)) := by
  have hfind : (dealtCore c j d arrays).jobs.find? dealing = some { j with dealt := d } := List.find?_cons_of_pos hd
  simp only [deal, hfind, hp]
  simp [modJob, dealtCore, updFirst]

end

/-! ### Whole passes on the lowest-numbered arrays -/

/-- The first `u` units of a job on the first `u` arrays. -/
def wholePasses (id u : Nat) : List PassRun := (List.range u).map (fun u => { array := u, job := id, pass := 5 * u })

theorem wholePasses_succ (id u : Nat) :
    wholePasses id (u + 1) = wholePasses id u ++ [{ array := u, job := id, pass := 5 * u }] := by
  simp [wholePasses, List.range_succ]

/-- With the first arrays taken the lowest-numbered free one is the next. -/
theorem find?_arrayFree {c : Core} {id u : Nat} (hu : u ≤ 4) (h : c.arrays = wholePasses id u) :
    (List.range 4).find? (arrayFree c) = if u < 4 then some u else none := by
  have hfree : arrayFree c = fun i => decide (u ≤ i) := by
    funext i
    rw [arrayFree, h, wholePasses, List.all_map, Bool.eq_iff_iff]
    simp only [List.all_eq_true, List.mem_range, Function.comp_apply, bne_iff_ne, ne_eq, decide_eq_true_eq]
    exact ⟨fun hall => Nat.not_lt.1 (fun hi => hall i hi rfl), fun hle a ha => by omega⟩
  rw [hfree]
  interval_cases u <;> rfl

section
variable {c : Core} {j : Job}

/-- The folder deals a job's units to the arrays as long as there are both, four at most. -/
theorem deal_wholePasses (hk : j.kind = .mmul ∨ j.kind = .mmac) (hu : usesMvp j.word j.asplit = false) (ha : j.asplit = 0) :
    ∀ (n u : Nat), u ≤ min 4 (unitCount j.word) → min 4 (unitCount j.word) ≤ u + n →
      deal n (dealtCore c j u (wholePasses j.id u)) =
        dealtCore c j (min 4 (unitCount j.word)) (wholePasses j.id (min 4 (unitCount j.word)))
  | 0, u, hle, hge => by rw [show u = min 4 (unitCount j.word) by omega]; rfl
  | n + 1, u, hle, hge => by
    have hsplit : ¬ j.asplit = 0xF := by rw [ha]; decide
    have hdealing : dealing { j with dealt := u } = decide (u < unitCount j.word) := by
      rw [dealing, if_neg hsplit, hu]
      rcases hk with hk | hk <;> simp [hk]
    have hnext (hlt : u < unitCount j.word) : nextPasses (dealtCore c j u (wholePasses j.id u)) { j with dealt := u } =
        if u < 4 then some [{ array := u, job := j.id, pass := 5 * u }] else none := by
      have hfind := find?_arrayFree (c := dealtCore c j u (wholePasses j.id u)) (id := j.id) (u := u) (by omega) rfl
      unfold nextPasses
      dsimp only
      rw [if_neg hsplit, if_pos hlt, hfind]
      split <;> simp [ha]
    by_cases hlt : u < unitCount j.word
    · by_cases h4 : u < 4
      · rw [deal_dealtCore_some n (by rw [hdealing, decide_eq_true hlt]) (by rw [hnext hlt, if_pos h4]), ← wholePasses_succ]
        exact deal_wholePasses hk hu ha n (u + 1) (by omega) (by omega)
      · rw [deal_dealtCore_none _ (by rw [hdealing, decide_eq_true hlt]) (by rw [hnext hlt, if_neg h4]),
          show u = min 4 (unitCount j.word) by omega]
    · rw [deal_dealtCore_idle _ (by rw [hdealing, decide_eq_false hlt]), show u = min 4 (unitCount j.word) by omega]

end

/-! ### Which passes stand on which arrays (R146, R166, R182) -/

/-- A pass of a job where the folder may put it: on a split array a pass of a quadrant that holds data, on another a
whole unit. -/
def PassPlaced (j : Job) (r : PassRun) : Prop :=
  r.job = j.id ∧ r.array < 4 ∧
    (j.asplit.getLsbD r.array = true → r.pass % 5 ≠ 0 ∧
      quadrantUsed j.word (r.pass / 5) ((r.pass % 5 - 1) / 2) ((r.pass % 5 - 1) % 2) = true) ∧
    (j.asplit.getLsbD r.array = false → r.pass % 5 = 0 ∧ r.pass / 5 < unitCount j.word)

section
variable {j : Job}

/-- A pass of quadrant `q` of unit `u` on a split array. -/
theorem passPlaced_quadrant {i u q : Nat} (hi : i < 4) (hs : j.asplit.getLsbD i = true) (hq : q < 4)
    (hused : quadrantUsed j.word u (q / 2) (q % 2) = true) : PassPlaced j { array := i, job := j.id, pass := 5 * u + 1 + q } := by
  have hmod : (5 * u + 1 + q) % 5 = q + 1 := by omega
  have hdiv : (5 * u + 1 + q) / 5 = u := by omega
  refine ⟨rfl, hi, fun _ => ?_, fun h => by rw [hs] at h; cases h⟩
  dsimp only
  rw [hmod, hdiv]
  exact ⟨by omega, hused⟩

/-- A whole unit on an array that is not split. -/
theorem passPlaced_unit {i u : Nat} (hi : i < 4) (hs : j.asplit.getLsbD i = false) (hu : u < unitCount j.word) :
    PassPlaced j { array := i, job := j.id, pass := 5 * u } :=
  ⟨rfl, hi, fun h => (by rw [hs] at h; cases h), fun _ => ⟨Nat.mul_mod_right 5 u, by dsimp only; omega⟩⟩

/-- The quadrant passes of a word are those of quadrants that hold data. -/
theorem mem_quadPasses {w : TWord} {p : Nat} (h : p ∈ quadPasses w) :
    ∃ u q, q < 4 ∧ quadrantUsed w u (q / 2) (q % 2) = true ∧ p = 5 * u + 1 + q := by
  obtain ⟨b, -, hb⟩ := List.mem_flatMap.1 h
  obtain ⟨half, -, hp⟩ := List.mem_filterMap.1 hb
  dsimp only at hp
  split at hp
  next hused =>
    cases hp
    refine ⟨b / 2 * chunks w + half / 2, 2 * (half % 2) + b % 2, by omega, ?_, by omega⟩
    rwa [show (2 * (half % 2) + b % 2) / 2 = half % 2 by omega, show (2 * (half % 2) + b % 2) % 2 = b % 2 by omega]
  next => cases hp

/-- The folder puts every pass where it may stand. -/
theorem nextPasses_placed {c : Core} {ps : List PassRun} (h : nextPasses c j = some ps) : ∀ r ∈ ps, PassPlaced j r := by
  unfold nextPasses at h
  split at h
  next hsplit =>
    split at h
    next => cases h
    next p hp =>
      obtain ⟨u, q, hq, hused, rfl⟩ := mem_quadPasses (List.mem_of_getElem? hp)
      obtain ⟨i, hi, rfl⟩ := Option.map_eq_some_iff.1 h
      have hi4 : i < 4 := List.mem_range.1 (List.mem_of_find?_eq_some hi)
      have hbit : j.asplit.getLsbD i = true := by
        rw [hsplit]
        interval_cases i <;> rfl
      intro r hr
      rw [List.mem_singleton.1 hr]
      exact passPlaced_quadrant hi4 hbit hq hused
  next =>
    split at h
    next hlt =>
      obtain ⟨i, hi, rfl⟩ := Option.map_eq_some_iff.1 h
      have hi4 : i < 4 := List.mem_range.1 (List.mem_of_find?_eq_some hi)
      intro r hr
      split at hr
      next hs =>
        obtain ⟨q, hq, rfl⟩ := List.mem_map.1 hr
        obtain ⟨hq4, hused⟩ := List.mem_filter.1 hq
        exact passPlaced_quadrant hi4 hs (List.mem_range.1 hq4) hused
      next hs =>
        rw [List.mem_singleton.1 hr]
        exact passPlaced_unit hi4 (Bool.not_eq_true _ ▸ hs) hlt
    next => cases h

/-- However far the folder deals, every pass stands where it may. -/
theorem deal_placed {c : Core} : ∀ (n d : Nat) (arrays : List PassRun), (∀ r ∈ arrays, PassPlaced j r) →
    ∃ d' arrays', deal n (dealtCore c j d arrays) = dealtCore c j d' arrays' ∧ ∀ r ∈ arrays', PassPlaced j r
  | 0, d, arrays, h => ⟨d, arrays, rfl, h⟩
  | n + 1, d, arrays, h => by
    cases hd : dealing { j with dealt := d } with
    | false => exact ⟨d, arrays, deal_dealtCore_idle _ hd, h⟩
    | true =>
      cases hp : nextPasses (dealtCore c j d arrays) { j with dealt := d } with
      | none => exact ⟨d, arrays, deal_dealtCore_none _ hd hp, h⟩
      | some ps =>
        rw [deal_dealtCore_some n hd hp]
        refine deal_placed n (d + 1) (arrays ++ ps) (fun r hr => ?_)
        rcases List.mem_append.1 hr with hr | hr
        · exact h r hr
        · exact nextPasses_placed hp r hr

end

/-! ### Issue of MMUL and MMAC -/

section
variable {c : Core} {j : Job}

/-- What the folder makes of a matrix job that has just been queued. -/
structure JobDealt (c : Core) (j : Job) (result : Core) : Prop where
  mvp : usesMvp j.word j.asplit = true → result = dealtCore c j 0 []
  whole : usesMvp j.word j.asplit = false → j.asplit = 0 →
    result = dealtCore c j (min 4 (unitCount j.word)) (wholePasses j.id (min 4 (unitCount j.word)))
  placed : usesMvp j.word j.asplit = false → ∃ d arrays, result = dealtCore c j d arrays ∧ ∀ r ∈ arrays, PassPlaced j r

theorem jobDealt_deal (hk : j.kind = .mmul ∨ j.kind = .mmac) : JobDealt c j (deal quadrants (dealtCore c j 0 [])) where
  mvp h := deal_dealtCore_idle _ (by simp [dealing, h])
  whole h ha := deal_wholePasses hk h ha quadrants 0 (by omega) (by simp [quadrants])
  placed _ := deal_placed quadrants 0 [] (by simp)

variable {e : Env} {kind : JobKind} {w : TWord}

/-- A matrix word with nothing in its way becomes the only job, and the folder deals its first passes. -/
theorem issueTile_matrix (hf : TilesFree c) (hfault : firstCause (tileFaults e kind w) = none)
    (hk : kind = .mmul ∨ kind = .mmac) (hj : Job.fresh c.nextId kind w c.asplit = j)
    (hx : ((jobExtents j).1 ++ (jobExtents j).2).all (fun p => extentReady c p.1 p.2) = true) :
    ∃ result, issueTile kind w e c = .done result ∧ JobDealt c j result := by
  have hkind : j.kind = .mmul ∨ j.kind = .mmac := hj ▸ hk
  have hstage : j.stage = .passes := hj ▸ rfl
  have hqueued : queuedCore c j = dealtCore c j 0 [] := by
    obtain ⟨-, -, -, harrays⟩ := hf
    subst hj
    rw [dealtCore, ← harrays]
    rfl
  refine ⟨_, issueTile_free hf hfault hj hx, ?_⟩
  rw [jobStep_single (c := queuedCore c j) rfl, writeJob_passes hstage, if_pos (allGranted_queuedCore c j), if_pos hkind, hqueued]
  exact jobDealt_deal hkind

end

/-- Settles O13: the word as the only job, and what the folder deals of it. -/
theorem matrixWordsQueueTheirProduct : Obligations.MatrixWordsQueueTheirProduct := by
  intro s k x e w kind hr hg hf hfault job hx m n q token queued first starts
  have hf' : TilesFree (past x.core) := hf
  have word {legal : Bool} (hl : legal = true) (hk : kind = .mmul ∨ kind = .mmac) {word : Instr}
      (hw : exec word s = .next (issueCore s k.val legal w.hdr (issueTile kind w))) : starts word (jobTiles job).1 := by
    obtain ⟨result, hissue, hdealt⟩ := issueTile_matrix (j := job) hf' hfault hk rfl hx
    have hdone := coreWord_done hr hg hl hw hissue
    have hqueued (d : Nat) (arrays : List PassRun) :
        Host.Outcome.next (withCore s k (dealtCore (past x.core) job d arrays)) = queued (jobTiles job).1 d arrays := by
      rcases hk with rfl | rfl <;> rfl
    refine ⟨fun h => ?_, fun h ha => ?_, fun h => ?_⟩
    · rw [hdone, hdealt.mvp h, hqueued]
    · rw [hdone, hdealt.whole h ha]
      exact hqueued ..
    · obtain ⟨d, arrays, hresult, hplaced⟩ := hdealt.placed h
      exact ⟨d, arrays, by rw [hdone, hresult, hqueued], hplaced⟩
  refine ⟨?mmul, ?mmac⟩
  case mmul =>
    rintro rfl hl
    exact word hl (.inl rfl) rfl
  case mmac =>
    rintro rfl hl
    exact word hl (.inr rfl) rfl

end Sys2Proof.Machine
end

section
/-! SUPPORT. Operations that leave device memory as it was (O55). -/

namespace Sys2Proof.Machine

section
variable (s : State)

/-! ### Shapes of a change -/

@[simp] theorem ite_mem (c : Prop) [Decidable c] (a b : State) : (if c then a else b).mem = if c then a.mem else b.mem :=
  apply_ite ..

/-- A fold whose steps leave memory leaves it. -/
@[simp] theorem foldl_mem {β : Type} {f : State → β → State} (hf : ∀ s b, (f s b).mem = s.mem) (l : List β) (s : State) :
    (l.foldl f s).mem = s.mem :=
  foldl_keeps State.mem f l (fun s b _ => hf s b) s

@[simp] theorem foldl_modS_mem {β : Type} (i : State → β → Nat) (f : State → β → StackSt → StackSt) (l : List β) (s : State) :
    (l.foldl (fun s b => modS s (i s b) (f s b)) s).mem = s.mem :=
  foldl_mem (fun s b => modS_mem s (i s b) (f s b)) l s

@[simp] theorem foldl_modP_mem {β : Type} (p : State → β → Nat) (f : State → β → PortSt → PortSt) (l : List β) (s : State) :
    (l.foldl (fun s b => modP s (p s b) (f s b)) s).mem = s.mem :=
  foldl_mem (fun s b => modP_mem s (p s b) (f s b)) l s

@[simp] theorem elim_mem {α : Type} {f : α → State} (hf : ∀ a, (f a).mem = s.mem) (o : Option α) : (o.elim s f).mem = s.mem := by
  cases o <;> simp [hf]

/-! ### Registers -/

@[simp] theorem rset_mem (f : RegField) (v : Nat) (i : Nat := 0) : (rset s f v i).mem = s.mem := by simp [rset]

/-! ### Host memory -/

@[simp] theorem translate_mem (t addr n : Nat) (write : Bool) : (translate s t addr n write).mem = s.mem := by simp [translate]
@[simp] theorem readHost_mem (t addr n : Nat) : (readHost s t addr n).mem = s.mem := by simp [readHost]
@[simp] theorem writeHost_mem (t addr : Nat) (b : Bytes) : (writeHost s t addr b).mem = s.mem := by simp [writeHost]

/-! ### Lanyard ports -/

@[simp] theorem portRetrain_mem (p : Nat) : (portRetrain s p).mem = s.mem := by simp [portRetrain]
@[simp] theorem violation_mem (p : Nat) : (violation s p).mem = s.mem := by simp [violation]
@[simp] theorem putFrame_mem (p kind flags sender seq : Nat) (payload : Bytes) :
    (putFrame s p kind flags sender seq payload).mem = s.mem := by
  simp [putFrame]
@[simp] theorem pumpOne_mem (p : Nat) : (pumpOne s p).mem = s.mem := by
  unfold pumpOne
  dsimp only
  split <;> simp
@[simp] theorem pump_mem (p : Nat) : (pump s p).mem = s.mem := by simp [pump]
@[simp] theorem queueFrame_mem (p kind flags sender : Nat) (payload : Bytes) :
    (queueFrame s p kind flags sender payload).mem = s.mem := by
  simp [queueFrame]
@[simp] theorem flood_mem (from_ kind sender : Nat) (payload : Bytes) : (flood s from_ kind sender payload).mem = s.mem := by
  simp [flood]
@[simp] theorem sendRequest_mem (p kind epoch : Nat) (items : List Nat) : (sendRequest s p kind epoch items).mem = s.mem := by
  simp [sendRequest]
@[simp] theorem sendFetch_mem (kind epoch : Nat) (items : List Nat) : (sendFetch s kind epoch items).mem = s.mem := by
  unfold sendFetch
  dsimp only
  split <;> simp
@[simp] theorem oweLink_mem (p : Nat) : (oweLink s p).mem = s.mem := by simp [oweLink]
@[simp] theorem frameStaged_mem (p seq u : Nat) : (frameStaged s p seq u).mem = s.mem := by simp [frameStaged]

/-! ### The journal and its records -/

@[simp] theorem noteWear_mem (n : Nat) : (noteWear s n).mem = s.mem := by simp [noteWear]
@[simp] theorem appendRecord_mem (r : JrnRecord) : (appendRecord s r).mem = s.mem := by simp [appendRecord]
@[simp] theorem closeSegment_mem : (closeSegment s).mem = s.mem := by
  unfold closeSegment
  split <;> simp
@[simp] theorem newSegment_mem : (newSegment s).mem = s.mem := by simp [newSegment]
@[simp] theorem raiseFull_mem : (raiseFull s).mem = s.mem := by simp [raiseFull]
/-- A record that is written to flash leaves memory. -/
theorem writeFlash_mem {s t : State} {r : JrnRecord} (h : writeFlash s r = some t) : t.mem = s.mem := by
  unfold writeFlash at h
  split_ifs at h <;> simp only [Option.some.injEq] at h <;> subst h <;> simp
@[simp] theorem modSplice_mem (id : Nat) (f : SpliceRec → SpliceRec) : (modSplice s id f).mem = s.mem := by simp [modSplice]
@[simp] theorem learnBody_mem (id : Nat) (body : Bytes) : (learnBody s id body).mem = s.mem := by simp [learnBody]
@[simp] theorem learnState_mem (id st : Nat) : (learnState s id st).mem = s.mem := by simp [learnState]
@[simp] theorem recordDurable_mem (from_ : Nat) (spread : Bool) (r : JrnRecord) :
    (recordDurable s from_ spread r).mem = s.mem := by
  unfold recordDurable
  split <;> simp
@[simp] theorem writeDurable_mem (w : JrnWrite) : (writeDurable s w).mem = s.mem := by
  unfold writeDurable
  split <;> simp
@[simp] theorem acceptWrite_mem (w : JrnWrite) : (acceptWrite s w).mem = s.mem := by simp [acceptWrite]
@[simp] theorem noteExhausted_mem (n : Nat) : (noteExhausted s n).mem = s.mem := by simp [noteExhausted]
@[simp] theorem stage_mem (w : JrnWrite) : (stage s w).mem = s.mem := by simp [stage]
@[simp] theorem stageOwn_mem (recs : List JrnRecord) : (stageOwn s recs).mem = s.mem := by simp [stageOwn]
@[simp] theorem recallIds_mem (ids : List Nat) : (recallIds s ids).mem = s.mem := by simp [recallIds]
@[simp] theorem recallExec_mem (launch ex : Nat) : (recallExec s launch ex).mem = s.mem := by
  unfold recallExec
  split <;> simp

/-! ### Row cache and plane maps -/

@[simp] theorem resizeCaches_mem : (resizeCaches s).mem = s.mem := by simp [resizeCaches]
@[simp] theorem cacheRead_mem (launch hint use line : Nat) : (cacheRead s launch hint use line).mem = s.mem := by simp [cacheRead]
@[simp] theorem releaseLedger_mem (launch : Nat) : (releaseLedger s launch).mem = s.mem := by simp [releaseLedger]

/-! ### Defects and degraded units -/

@[simp] theorem persistMap_mem : (persistMap s).mem = s.mem := by simp [persistMap]

/-! ### Ending and running launches again -/

@[simp] theorem pushRecord_mem (t : Nat) (r : Record) : (pushRecord s t r).mem = s.mem := by simp [pushRecord]
@[simp] theorem orphanSteps_mem (launch ex : Nat) : (orphanSteps s launch ex).mem = s.mem := by simp [orphanSteps]
@[simp] theorem dropCtx_mem (k launch ex : Nat) : (dropCtx s k launch ex).mem = s.mem := by simp [dropCtx]
@[simp] theorem dropAddends_mem (launch ex : Nat) : (dropAddends s launch ex).mem = s.mem := by simp [dropAddends]
@[simp] theorem discardExec_mem (launch ex : Nat) : (discardExec s launch ex).mem = s.mem := by
  unfold discardExec
  dsimp only
  repeat' split
  all_goals simp
@[simp] theorem discardAll_mem (launch : Nat) : (discardAll s launch).mem = s.mem := by
  unfold discardAll
  split <;> simp
@[simp] theorem endLaunch_mem (id status detail word : Nat) (cursor : Bytes) (k : Nat) :
    (endLaunch s id status detail word cursor k).mem = s.mem := by
  unfold endLaunch
  split <;> simp
@[simp] theorem event_mem (kind index : Nat) : (event s kind index).1.mem = s.mem := by
  unfold event
  dsimp only
  split <;> rfl
@[simp] theorem skeinEvent_mem (k : Nat) : (skeinEvent s k).mem = s.mem := by simp [skeinEvent]
@[simp] theorem moveUnstarted_mem (k : Nat) : (moveUnstarted s k).mem = s.mem := by simp [moveUnstarted]
@[simp] theorem retireSkein_mem (k : Nat) : (retireSkein s k).mem = s.mem := by simp [retireSkein]
@[simp] theorem addExec_mem (launch : Nat) (r : Role) (p : Place) : (addExec s launch r p).mem = s.mem := by simp [addExec]
@[simp] theorem restartExec_mem (away : Place) (launch ex : Nat) : (restartExec s away launch ex).mem = s.mem := by
  rcases exec_cases s launch ex with h | ⟨l, x, hl, hx⟩
  · rw [restartExec_none away h]
  cases hc : x.ckpts with
  | nil => rw [restartExec_replaces away hl hx hc, replaceExec, modL_mem, addExec_mem, discardExec_mem, releaseLedger_mem]
  | cons c cs => rw [restartExec_resumes away hl hx hc, resumeExec, modL_mem, modX_mem, dropAddends_mem,
      orphanSteps_mem, recallIds_mem, releaseLedger_mem]
@[simp] theorem clearSkein_mem (away : Place) (k : Nat) : (clearSkein s away k).mem = s.mem := by simp [clearSkein]
@[simp] theorem failSkein_mem (k : Nat) : (failSkein s k).mem = s.mem := by simp [failSkein]
@[simp] theorem resetSkein_mem (k : Nat) : (resetSkein s k).mem = s.mem := by simp [resetSkein]
@[simp] theorem reexecLaunch_mem (id : Nat) : (reexecLaunch s id).mem = s.mem := by
  unfold reexecLaunch
  split <;> simp
@[simp] theorem programFault_mem (k launch ex cause word : Nat) : (programFault s k launch ex cause word).mem = s.mem := by
  unfold programFault
  split <;> simp

/-! ### Issue -/

@[simp] theorem unitStep_mem (k : Nat) (f : Env → Core → Core) : (unitStep s k f).mem = s.mem := by
  unfold unitStep
  repeat' split
  all_goals simp
@[simp] theorem logWord_mem (e : Env) (code a c : Nat) (core : Core) : (logWord s e code a c core).mem = s.mem := by
  simp [logWord]

/-! ### Table entries -/

@[simp] theorem modTable_mem (h epoch : Nat) (f : Table → Table) : (modTable s h epoch f).mem = s.mem := by simp [modTable]
@[simp] theorem noteReader_mem (launch : Nat) (lost : List Nat) : (noteReader s launch lost).mem = s.mem := by simp [noteReader]
@[simp] theorem noteLost_mem (e : Env) (lost : List Nat) : (noteLost s e lost).mem = s.mem := by simp [noteLost]

/-! ### Table generations -/

@[simp] theorem markApplied_mem (ids : List Nat) : (markApplied s ids).mem = s.mem := by simp [markApplied]
@[simp] theorem relearnRec_mem (recs : List JrnRecord) (upTo : Nat) (r : JrnRecord) : (relearnRec recs upTo s r).mem = s.mem := by
  unfold relearnRec
  split <;> simp
@[simp] theorem relearn_mem (upTo : Nat) : (relearn s upTo).mem = s.mem := by simp [relearn]

/-! ### Flash -/

@[simp] theorem writeBcb_mem (b : Bcb) : (writeBcb s b).mem = s.mem := by simp [writeBcb]
@[simp] theorem writeStore_mem : (writeStore s).mem = s.mem := by simp [writeStore]

/-! ### Streams and transfers -/

@[simp] theorem failTransfer_mem (launch : Nat) (what : Transfer) : (failTransfer s launch what).mem = s.mem := by
  simp [failTransfer]
@[simp] theorem modConfig_mem (fn : Nat) (f : FnConfig → FnConfig) : (modConfig s fn f).mem = s.mem := by simp [modConfig]
@[simp] theorem sendRequests_mem (fn : Nat) : (sendRequests s fn).mem = s.mem := by
  unfold sendRequests
  split <;> simp
@[simp] theorem park_mem (fn launch : Nat) (what : Transfer) (addr : Nat) : (park s fn launch what addr).mem = s.mem := by
  simp [park]

/-! ### Stream words -/

@[simp] theorem sendUnit_mem (k n : Nat) (res : HostWrite) : (sendUnit s k n res).mem = s.mem := by
  unfold sendUnit
  dsimp only
  repeat' split
  all_goals simp

/-! ### Submission -/

@[simp] theorem modR_mem (t r : Nat) (f : RingSt → RingSt) : (modR s t r f).mem = s.mem := by simp [modR]
@[simp] theorem rejectRecord_mem (t r status detail seq : Nat) (tag : Nat) (irq : Bool) :
    (rejectRecord s t r status detail seq tag irq).mem = s.mem := by
  simp [rejectRecord]
@[simp] theorem consume_mem (t r : Nat) : (consume s t r).mem = s.mem := by simp [consume]
@[simp] theorem consumeDropped_mem (t r : Nat) : ∀ (n : Nat) (s : State), (consumeDropped t r n s).mem = s.mem
  | 0, _ => rfl
  | n + 1, s => by
    unfold consumeDropped
    dsimp only
    split <;> simp [consumeDropped_mem t r n]
@[simp] theorem cancelRange_mem (t r : Nat) : ∀ (n : Nat) (q : BitVec 32) (s : State), (cancelRange t r n q s).mem = s.mem
  | 0, _, _ => rfl
  | n + 1, q, s => by
    unfold cancelRange
    dsimp only
    rw [cancelRange_mem t r n]
    split
    · simp
    · split <;> simp
@[simp] theorem pollTail_mem (t r : Nat) (v : BitVec 32) : (pollTail s t r v).mem = s.mem := by simp [pollTail]
@[simp] theorem pollCancel_mem (t r : Nat) (v : BitVec 32) : (pollCancel s t r v).mem = s.mem := by
  unfold pollCancel
  dsimp only
  split <;> simp
@[simp] theorem pollEntry_mem (t : Nat) (b : Bytes) : (pollEntry s t b).mem = s.mem := by simp [pollEntry]
@[simp] theorem pollTenant_mem (reads : List (Nat × Bytes)) (t : Nat) : (pollTenant reads s t).mem = s.mem := by
  unfold pollTenant
  dsimp only
  repeat' split
  all_goals simp
@[simp] theorem takeTurn_mem (t r : Nat) : (takeTurn s t r).mem = s.mem := by simp [takeTurn]
@[simp] theorem rejectSlot_mem (t r : Nat) (d : Bytes) (status detail : Nat) :
    (rejectSlot s t r d status detail).mem = s.mem := by
  simp [rejectSlot]
@[simp] theorem readBlocks_mem (t : Nat) (d : Bytes) : (readBlocks s t d).mem = s.mem := by simp [readBlocks]
@[simp] theorem takeId_mem : (takeId s).mem = s.mem := by simp [takeId]

/-! ### Launches and page requests -/

@[simp] theorem skipAudit_mem (l : Launch) : (skipAudit s l).mem = s.mem := by simp [skipAudit]
@[simp] theorem startAudit_mem (l : Launch) (k : Nat) : (startAudit s l k).mem = s.mem := by simp [startAudit]
@[simp] theorem dispatchTo_mem (l : Launch) (ex : Nat) (x : Exec) (k : Nat) : (dispatchTo s l ex x k).mem = s.mem := by
  simp [dispatchTo]
@[simp] theorem dropRequest_mem (r : PageReq) : (dropRequest s r).mem = s.mem := by simp [dropRequest]
@[simp] theorem parkAt_mem (fn page : Nat) (inToo : Bool) : (parkAt s fn page inToo).mem = s.mem := by
  refine foldl_mem (fun s l => ?_) ..
  split
  · rfl
  dsimp only
  rw [foldl_mem]
  · simp
  · intro s p
    split
    · rfl
    split
    · rfl
    refine foldl_mem (fun s q => ?_) ..
    split <;> simp

/-! ### Stack controllers -/

@[simp] theorem holdAccess_mem (w : Waiter) (line : Nat) : (holdAccess w s line).mem = s.mem := by simp [holdAccess]
@[simp] theorem holdLines_mem (w : Waiter) (l : List Nat) : (holdLines s w l).mem = s.mem := by simp [holdLines]
@[simp] theorem dropAccess_mem (w : Waiter) : (dropAccess s w).mem = s.mem := by simp [dropAccess]
@[simp] theorem loseBurst_mem (burst : Nat) : (loseBurst s burst).mem = s.mem := by simp [loseBurst]
@[simp] theorem memoryDegraded_mem (st lpc : Nat) : (memoryDegraded s st lpc).mem = s.mem := by simp [memoryDegraded]
@[simp] theorem pcPermanent_mem (st lpc : Nat) : (pcPermanent s st lpc).mem = s.mem := by
  unfold pcPermanent
  split <;> simp
@[simp] theorem memoryEvent_mem (st lpc : Nat) : (memoryEvent s st lpc).mem = s.mem := by
  unfold memoryEvent
  dsimp only
  split <;> simp
@[simp] theorem correctedError_mem (st lpc burst : Nat) : (correctedError s st lpc burst).mem = s.mem := by simp [correctedError]
@[simp] theorem bcuEvent_mem (st lpc phys bank : Nat) : (bcuEvent s st lpc phys bank).mem = s.mem := by
  unfold bcuEvent
  dsimp only
  split <;> simp

/-! ### Near-bank words -/

@[simp] theorem modEntry_mem (o : StepOwner) (f : NbEntry → NbEntry) : (modEntry s o f).mem = s.mem := by
  unfold modEntry
  split <;> simp
@[simp] theorem modStep_mem (i lpc bank : Nat) (f : NbStep → NbStep) : (modStep s i lpc bank f).mem = s.mem := by simp [modStep]
@[simp] theorem toPolled_mem (i lpc : Nat) : (toPolled s i lpc).mem = s.mem := by simp [toPolled]

/-! ### Table words -/

@[simp] theorem applyAddend_mem (a : Addend) : (applyAddend s a).mem = s.mem := by simp [applyAddend]
@[simp] theorem settleTally_mem (launch ex : Nat) : (settleTally s launch ex).mem = s.mem := by simp [settleTally]

/-! ### The first steps of a retaining reset -/

@[simp] theorem startRetaining_mem (hung cause : Nat) : (startRetaining s hung cause).mem = s.mem := by simp [startRetaining]
@[simp] theorem logHang_mem (l : Launch) : (logHang s l).mem = s.mem := by
  unfold logHang
  dsimp only
  split <;> simp

/-! ### Skein and section events -/

@[simp] theorem clearResults_mem (n : Nat) : (clearResults s n).mem = s.mem := by simp [clearResults]
@[simp] theorem resetSection_mem (n : Nat) : (resetSection s n).mem = s.mem := by
  unfold resetSection
  dsimp only
  split <;> simp
@[simp] theorem settleRoutes_mem (link : Nat) : (settleRoutes s link).mem = s.mem := by simp [settleRoutes]
@[simp] theorem linkEvent_mem (link : Nat) : (linkEvent s link).mem = s.mem := by simp [linkEvent]
@[simp] theorem rerun_mem (launch ex : Nat) (x : Exec) : (rerun s launch ex x).mem = s.mem := by simp [rerun]
@[simp] theorem failTransaction_mem (launch ex : Nat) : (failTransaction s launch ex).mem = s.mem := by
  unfold failTransaction
  repeat' split
  all_goals simp

/-! ### Output integrity -/

@[simp] theorem chooseExec_mem (l : Launch) (p : Exec × Nat) (audited : Bool) : (chooseExec s l p audited).mem = s.mem := by
  simp [chooseExec]
@[simp] theorem silentError_mem (l : Launch) (execs : List (Exec × Nat)) : (silentError s l execs).mem = s.mem := by
  simp [silentError]
@[simp] theorem decideOne_mem (l : Launch) (p : Exec × Nat) : (decideOne s l p).mem = s.mem := by simp [decideOne]
@[simp] theorem decideTwo_mem (l : Launch) (p q : Exec × Nat) : (decideTwo s l p q).mem = s.mem := by simp [decideTwo]
@[simp] theorem decideMore_mem (l : Launch) (c : List (Exec × Nat)) : (decideMore s l c).mem = s.mem := by
  unfold decideMore
  dsimp only
  split <;> simp
@[simp] theorem decideLaunch_mem (l : Launch) : (decideLaunch s l).mem = s.mem := by
  unfold decideLaunch
  repeat' split
  all_goals simp

/-! ### Strands -/

@[simp] theorem issueStrand_mem (k i : Nat) (legal : Bool) (f : StrEnv → Core → StrandSt → Eff (Core × StrandSt)) :
    (issueStrand s k i legal f).mem = s.mem := by
  unfold issueStrand
  dsimp only
  repeat' split
  all_goals simp
@[simp] theorem issueLane_mem (k i : Nat) (legal : Bool) (f : StrandSt → StrandSt) : (issueLane s k i legal f).mem = s.mem := by
  simp [issueLane]

/-! ### Accord staging -/

@[simp] theorem refuseStage_mem (code id b state : Nat) : (refuseStage s code id b state).mem = s.mem := by simp [refuseStage]

/-! ### The replication group -/

@[simp] theorem enterGroup_mem : (enterGroup s).mem = s.mem := by simp [enterGroup]
@[simp] theorem resumeGroup_mem : (resumeGroup s).mem = s.mem := by simp [resumeGroup]
@[simp] theorem fallBehind_mem (epoch : Nat) : (fallBehind s epoch).mem = s.mem := by simp [fallBehind]
@[simp] theorem chainMismatch_mem (epoch : Nat) : (chainMismatch s epoch).mem = s.mem := by simp [chainMismatch]
@[simp] theorem rejoin_mem : (rejoin s).mem = s.mem := by simp [rejoin]
@[simp] theorem fetchBodies_mem (ids : List Nat) : (fetchBodies s ids).mem = s.mem := by simp [fetchBodies]
@[simp] theorem fetchManifest_mem (epoch : Nat) : (fetchManifest s epoch).mem = s.mem := by simp [fetchManifest]
@[simp] theorem startBoundary_mem (m : Bytes) : (startBoundary s m).mem = s.mem := by simp [startBoundary]
@[simp] theorem beginBoundary_mem (m : Bytes) : (beginBoundary s m).mem = s.mem := by simp [beginBoundary]
@[simp] theorem maybeBegin_mem : (maybeBegin s).mem = s.mem := by
  unfold maybeBegin
  split <;> simp
@[simp] theorem tryConfirm_mem : (tryConfirm s).mem = s.mem := by simp [tryConfirm]
@[simp] theorem issueManifest_mem (m : Bytes) : (issueManifest s m).mem = s.mem := by simp [issueManifest]
@[simp] theorem acknowledge_mem (m : Bytes) : (acknowledge s m).mem = s.mem := by simp [acknowledge]
@[simp] theorem catchUp_mem : (catchUp s).mem = s.mem := by simp [catchUp]
@[simp] theorem acceptTerm_mem (term anchor : Nat) : (acceptTerm s term anchor).mem = s.mem := by simp [acceptTerm]
@[simp] theorem takeOld_mem (m : Bytes) : (takeOld s m).mem = s.mem := by
  unfold takeOld
  split <;> simp
@[simp] theorem reissueNow_mem (m : Bytes) : (reissueNow s m).mem = s.mem := by simp [reissueNow]
@[simp] theorem holdManifest_mem (m : Bytes) : (holdManifest s m).mem = s.mem := by simp [holdManifest]
@[simp] theorem takeManifest_mem (m : Bytes) (fetched : Bool) : (takeManifest s m fetched).mem = s.mem := by simp [takeManifest]
@[simp] theorem putReport_mem (m : Nat) (b : Bytes) : (putReport s m b).mem = s.mem := by simp [putReport]
@[simp] theorem checkHead_mem : (checkHead s).mem = s.mem := by
  unfold checkHead
  repeat' split
  all_goals simp
@[simp] theorem putVote_mem (b : Bytes) : (putVote s b).mem = s.mem := by simp [putVote]
@[simp] theorem tryReissue_mem : (tryReissue s).mem = s.mem := by
  unfold tryReissue
  repeat' split
  all_goals simp
@[simp] theorem tryElect_mem (term : Nat) : (tryElect s term).mem = s.mem := by simp [tryElect]
@[simp] theorem tableInvalid_mem (h : Nat) : (tableInvalid s h).mem = s.mem := by simp [tableInvalid]

/-! ### Table registration -/

@[simp] theorem modStanding_mem (h : Nat) (f : Table → Table) : (modStanding s h f).mem = s.mem := by simp [modStanding]
@[simp] theorem touch_mem (h r : Nat) : (touch s h r).mem = s.mem := by simp [touch]
@[simp] theorem applySeq_mem (t : Table) (b : Bytes) : (applySeq s t b).mem = s.mem := by simp [applySeq]

/-! ### Epoch boundaries -/

@[simp] theorem sequence_mem (q : Queued) (rest : List Queued) : (sequence s q rest).mem = s.mem := by simp [sequence]
@[simp] theorem askBodies_mem (b : Boundary) : (askBodies s b).mem = s.mem := by simp [askBodies]
@[simp] theorem commitIfDone_mem : (commitIfDone s).mem = s.mem := by
  unfold commitIfDone
  split <;> simp
@[simp] theorem settleTable_mem (id code : Nat) : (settleTable s id code).mem = s.mem := by simp [settleTable]
@[simp] theorem nextPosition_mem (id : Nat) (refused : Bool) : (nextPosition s id refused).mem = s.mem := by simp [nextPosition]
@[simp] theorem leavePorts_mem : (leavePorts s).mem = s.mem := by simp [leavePorts]
@[simp] theorem rotate_mem (a : Accord) : (rotate s a).mem = s.mem := by simp [rotate]
@[simp] theorem refuseSwap_mem (id : Nat) : (refuseSwap s id).mem = s.mem := by simp [refuseSwap]
@[simp] theorem doSwap_mem (b : Boundary) : (doSwap s b).mem = s.mem := by
  unfold doSwap
  split <;> simp
@[simp] theorem relabel_mem (k : Nat) : (relabel s k).mem = s.mem := by simp [relabel]
@[simp] theorem stepEight_mem (b : Boundary) : (stepEight s b).mem = s.mem := by simp [stepEight]
@[simp] theorem askResync_mem : (askResync s).mem = s.mem := by simp [askResync]
@[simp] theorem cutOver_mem (b : Boundary) (head : Bytes) : (cutOver s b head).mem = s.mem := by simp [cutOver]
@[simp] theorem closeBoundary_mem : (closeBoundary s).mem = s.mem := by
  unfold closeBoundary
  split <;> simp
@[simp] theorem queueTable_mem (body : Bytes) : (queueTable s body).mem = s.mem := by simp [queueTable]

/-! ### Completion -/

@[simp] theorem writeOutputs_mem (l : Launch) (x : Exec) (from_ upTo : Nat × Nat) :
    (writeOutputs s l x from_ upTo).mem = s.mem := by
  simp [writeOutputs]
@[simp] theorem numberSplices_mem (launch ex : Nat) : (numberSplices s launch ex).mem = s.mem := by
  unfold numberSplices
  split <;> simp
@[simp] theorem stageOutcome_mem (launch : Nat) : (stageOutcome s launch).mem = s.mem := by
  unfold stageOutcome
  dsimp only
  repeat' split
  all_goals simp
@[simp] theorem putRecord_mem (t status bits launch : Nat) (body : Bytes) (irq alert written : Bool) :
    (putRecord s t status bits launch body irq alert written).mem = s.mem := by
  obtain ⟨s1, h1, f, g, h⟩ : ∃ s1 : State, s1.mem = s.mem ∧ ∃ f g, putRecord s t status bits launch body irq alert written =
      if alert then msix { modT s1 t f with launches := g } t 1 else { modT s1 t f with launches := g } := by
    refine ⟨if written then _ else _, ?_, _, _, rfl⟩
    split
    · rw [countEvent_mem, emit_mem, translate_mem]
    · rw [logErr_mem, translate_mem]
  rw [h]
  split <;> simp [h1]
@[simp] theorem writeNext_mem (t : Nat) (written : Bool) : (writeNext s t written).mem = s.mem := by
  unfold writeNext
  dsimp only
  repeat' split
  all_goals simp
@[simp] theorem resetPage_mem (t : Nat) : (resetPage s t).mem = s.mem := by simp [resetPage]
@[simp] theorem dropTenant_mem (t : Nat) : (dropTenant s t).mem = s.mem := by simp [dropTenant]
@[simp] theorem settleReset_mem (t : Nat) : (settleReset s t).mem = s.mem := by simp [settleReset]
@[simp] theorem drainTenant_mem (write : Bool) (t : Nat) : (drainTenant write s t).mem = s.mem := by simp [drainTenant]

/-! ### Memory events -/

@[simp] theorem poolLoss_mem (burst : Nat) : (poolLoss s burst).mem = s.mem := by
  unfold poolLoss
  dsimp only
  split <;> simp
@[simp] theorem burstLost_mem (burst : Nat) : (burstLost s burst).mem = s.mem := by simp [burstLost]
@[simp] theorem tableLost_mem (t : Table) (line : Nat) : (tableLost s t line).mem = s.mem := by simp [tableLost]
@[simp] theorem rebuildSubjects_mem (v : Versions) (t : Table) (bit : Nat → Nat) (rs : List Nat) :
    (rebuildSubjects s v t bit rs).mem = s.mem := by
  simp [rebuildSubjects]
@[simp] theorem lineFound_mem (line : Nat) : (lineFound s line).mem = s.mem := by simp [lineFound]
@[simp] theorem walkRebuild_mem (i : Nat) : (walkRebuild s i).mem = s.mem := by
  unfold walkRebuild
  split <;> simp

/-! ### Rebuilds -/

@[simp] theorem settleOwed_mem (a : Accord) : (settleOwed s a).mem = s.mem := by simp [settleOwed]
@[simp] theorem enterService_mem : (enterService s).mem = s.mem := by simp [enterService]
@[simp] theorem endRebuild_mem : (endRebuild s).mem = s.mem := by simp [endRebuild]
@[simp] theorem resumeBoundary_mem : (resumeBoundary s).mem = s.mem := by
  unfold resumeBoundary
  dsimp only
  split <;> simp
@[simp] theorem rebuilt_mem : (rebuilt s).mem = s.mem := by simp [rebuilt]
@[simp] theorem endResync_mem : (endResync s).mem = s.mem := by simp [endResync]

/-! ### Journal upkeep -/

@[simp] theorem endFull_mem : (endFull s).mem = s.mem := by simp [endFull]
@[simp] theorem reclaim_mem : (reclaim s).mem = s.mem := by simp [reclaim]
@[simp] theorem noteFull_mem (l : List JrnRecord) : (noteFull l s).mem = s.mem := by
  unfold noteFull
  split <;> simp
@[simp] theorem checkSegment_mem (g : Segment) : (checkSegment s g).mem = s.mem := by simp [checkSegment]
@[simp] theorem readDrydown_mem : (readDrydown s).mem = s.mem := by simp [readDrydown]
/-- `placeImage` unfolded as a function. Its equation for given arguments is not one the kernel checks by itself: it would evaluate
the image to see which case the match takes. -/
theorem placeImage_def : placeImage = delta% placeImage := rfl

@[simp] theorem placeImage_mem (epoch : Nat) (head : Bytes) (tables : List ArenaTable) (carried : List (Nat × Nat × Bytes)) :
    (placeImage s epoch head tables carried).mem = s.mem := by
  have h := congrFun (congrFun (congrFun (congrFun (congrFun placeImage_def s) epoch) head) tables) carried
  beta_reduce at h
  obtain ⟨base, hbase⟩ : ∃ f, f = freeBase := ⟨_, rfl⟩
  rw [← hbase] at h
  dsimp only at h
  rw [h]
  split <;> simp
@[simp] theorem setExport_mem (state done : Nat) : (setExport s state done).mem = s.mem := by simp [setExport]
@[simp] theorem sealNamed_mem (image : Bool) (sel : Nat) : (sealNamed s image sel).mem = s.mem := by simp [sealNamed]
@[simp] theorem failArena_mem (reason : Nat) : (failArena s reason).mem = s.mem := by simp [failArena]
@[simp] theorem loadArena_mem (req touch parts : Bytes) : (loadArena s req touch parts).mem = s.mem := by
  unfold loadArena
  dsimp only
  repeat' split
  all_goals simp

/-! ### Lanyard frames -/

@[simp] theorem retrainPort_mem (p : Nat) : (retrainPort s p).mem = s.mem := by
  unfold retrainPort
  split <;> simp
@[simp] theorem linkError_mem (p : Nat) : (linkError s p).mem = s.mem := by simp [linkError]
@[simp] theorem frameDone_mem (r : Rcv) : (frameDone s r).mem = s.mem := by simp [frameDone]
@[simp] theorem malformed_mem (r : Rcv) : (malformed s r).mem = s.mem := by simp [malformed]
@[simp] theorem takeChunk_mem (epoch term count index : Nat) (b : Bytes) (fetched : Bool) :
    (takeChunk s epoch term count index b fetched).mem = s.mem := by
  simp [takeChunk]
@[simp] theorem holdConfirm_mem (b : Bytes) : (holdConfirm s b).mem = s.mem := by simp [holdConfirm]
@[simp] theorem serveBodies_mem (r : Rcv) (epoch : Nat) (ids : List Nat) : (serveBodies s r epoch ids).mem = s.mem := by
  unfold serveBodies
  split
  · split
    · rfl
    · simp
  · exact foldl_mem (fun s id => by split <;> simp) ..

/-! ### Persistent records -/

@[simp] theorem writePersist_mem (clean cause : Nat) : (writePersist s clean cause).mem = s.mem := by simp [writePersist]
@[simp] theorem confirmClean_mem (clean : Nat) : (confirmClean clean s).mem = s.mem := by simp [confirmClean]
@[simp] theorem settlePersist_mem : (settlePersist s).mem = s.mem := by simp [settlePersist]

/-! ### Boot -/

@[simp] theorem enterRecovery_mem : (enterRecovery s).mem = s.mem := by simp [enterRecovery]
@[simp] theorem loadFirmware_mem : (loadFirmware s).mem = s.mem := by simp [loadFirmware]
@[simp] theorem trainStack_mem (find : BootFind) (fenced : NSet) (i : Nat) : (trainStack find fenced s i).mem = s.mem := by
  simp [trainStack]
@[simp] theorem retrainStack_mem (find : BootFind) (i : Nat) : (retrainStack find s i).mem = s.mem := by simp [retrainStack]
@[simp] theorem loadBudget_mem : (loadBudget s).mem = s.mem := by simp [loadBudget]
@[simp] theorem readClass_mem (find : BootFind) : (readClass find s).mem = s.mem := by simp [readClass]
@[simp] theorem selfTest_mem (find : BootFind) : (selfTest find s).mem = s.mem := by simp [selfTest]
@[simp] theorem loadMaps_mem : (loadMaps s).mem = s.mem := by simp [loadMaps]
@[simp] theorem mapRoutes_mem : (mapRoutes s).mem = s.mem := by simp [mapRoutes]
@[simp] theorem keepNumber_mem (n : Nat) : (keepNumber s n).mem = s.mem := by simp [keepNumber]
@[simp] theorem loadSkeins_mem : (loadSkeins s).mem = s.mem := by simp [loadSkeins]
@[simp] theorem loadPorts_mem : (loadPorts s).mem = s.mem := by simp [loadPorts]
@[simp] theorem mapPhase_mem (find : BootFind) : (mapPhase find s).mem = s.mem := by simp [mapPhase]
@[simp] theorem remapPhase_mem (find : BootFind) : (remapPhase find s).mem = s.mem := by simp [remapPhase]
@[simp] theorem returnToGroup_mem : (returnToGroup s).mem = s.mem := by simp [returnToGroup]
@[simp] theorem joinGroup_mem : (joinGroup s).mem = s.mem := by simp [joinGroup]
@[simp] theorem numberIds_mem : (numberIds s).mem = s.mem := by simp [numberIds]
@[simp] theorem loadSequencer_mem : (loadSequencer s).mem = s.mem := by
  unfold loadSequencer
  split <;> simp
@[simp] theorem undoApply_mem : (undoApply s).mem = s.mem := by simp [undoApply]
@[simp] theorem enterHold_mem (schema : Nat) : (enterHold s schema).mem = s.mem := by simp [enterHold]
@[simp] theorem standingConds_mem : (standingConds s).mem = s.mem := by simp [standingConds]
@[simp] theorem becomeReady_mem : (becomeReady s).mem = s.mem := by simp [becomeReady]
@[simp] theorem recallKnown_mem : (recallKnown s).mem = s.mem := by simp [recallKnown]
@[simp] theorem findModref_mem (find : BootFind) : (findModref find s).mem = s.mem := by simp [findModref]

/-! ### What a reset clears -/

@[simp] theorem flushStaged_mem : (flushStaged s).mem = s.mem := by
  refine (foldl_mem (fun s r => ?_) ..).trans rfl
  split
  · exact writeFlash_mem ‹_›
  · rfl
@[simp] theorem dropOutcomes_mem : (dropOutcomes s).mem = s.mem := by simp [dropOutcomes]
@[simp] theorem recallRest_mem : (recallRest s).mem = s.mem := foldl_mem (fun s l => by split <;> simp) ..
@[simp] theorem drainAll_mem (flr : Bool) : (drainAll flr s).mem = s.mem := by simp [drainAll]
@[simp] theorem endSteps_mem : (endSteps s).mem = s.mem := by simp [endSteps]
@[simp] theorem keepRegs_mem : (keepRegs s).mem = s.mem := by simp [keepRegs]
@[simp] theorem resetUnits_mem (pcie flr : Bool) (cause level : Nat) : (resetUnits pcie flr cause level s).mem = s.mem := by
  simp [resetUnits]
@[simp] theorem endTenant_mem (t : Nat) : (endTenant s t).mem = s.mem := by simp [endTenant]
@[simp] theorem tenantReset_mem (t : Nat) : (tenantReset s t).mem = s.mem := by simp [tenantReset]

/-! ### Clocks -/

@[simp] theorem stepBy_mem (ns : Int) : (stepBy s ns).mem = s.mem := by simp [stepBy]
@[simp] theorem correct_mem (ns : Int) : (correct s ns).mem = s.mem := by simp [correct]
@[simp] theorem setQuality_mem (q : BitVec 2) : (setQuality s q).mem = s.mem := by simp [setQuality]
@[simp] theorem lock_mem : (lock s).mem = s.mem := by simp [lock]
@[simp] theorem loseLock_mem : (loseLock s).mem = s.mem := by simp [loseLock]
@[simp] theorem setSource_mem (v : Nat) : (setSource s v).mem = s.mem := by simp [setSource]
@[simp] theorem ppsEdge_mem (e : Nat) : (ppsEdge s e).mem = s.mem := by
  unfold ppsEdge
  split <;> simp
@[simp] theorem timeSet_mem (ns : BitVec 64) : (timeSet s ns).mem = s.mem := by
  unfold timeSet
  split <;> simp
@[simp] theorem holdDown_mem (p : Nat) : (holdDown s p).mem = s.mem := by simp [holdDown]

/-! ### Scoped resets -/

@[simp] theorem reservedTarget_mem (level : Nat) (target : BitVec 8) : (reservedTarget s level target).mem = s.mem := by
  simp [reservedTarget]
@[simp] theorem rstSkein_mem (target : BitVec 8) : (rstSkein s target).mem = s.mem := by simp [rstSkein]
@[simp] theorem rstSection_mem (target : BitVec 8) : (rstSection s target).mem = s.mem := by simp [rstSection]
@[simp] theorem rstTenant_mem (target : BitVec 8) : (rstTenant s target).mem = s.mem := by simp [rstTenant]

/-! ### Firmware -/

@[simp] theorem priControl_mem (fn : Nat) (on reset : Bool) (alloc : Nat) : (priControl s fn on reset alloc).mem = s.mem := by
  simp [priControl]
@[simp] theorem setPending_mem (p : Bool) : (setPending s p).mem = s.mem := by simp [setPending]
@[simp] theorem fwActivate_mem : (fwActivate s).mem = s.mem := by simp [fwActivate]
@[simp] theorem fwCommit_mem : (fwCommit s).mem = s.mem := by simp [fwCommit]
@[simp] theorem writeSlot_mem (slot : Nat) (b : Bytes) : (writeSlot s slot b).mem = s.mem := by simp [writeSlot]
@[simp] theorem fwStart_mem : (fwStart s).mem = s.mem := by simp [fwStart]
@[simp] theorem refuseHold_mem (id : Nat) : (refuseHold s id).mem = s.mem := by simp [refuseHold]
@[simp] theorem confirm_mem : (confirm s).mem = s.mem := by simp [confirm]
@[simp] theorem rebuild_mem : (rebuild s).mem = s.mem := by simp [rebuild]

/-! ### Media -/

@[simp] theorem modMedia_mem (k : Nat) (f : Media → Media) : (modMedia s k f).mem = s.mem := by simp [modMedia]

/-! ### Power -/

@[simp] theorem recallUnstaged_mem : (recallUnstaged s).mem = s.mem := foldl_mem (fun s l => by split <;> simp) ..
@[simp] theorem takeWarning_mem : (takeWarning s).mem = s.mem := by simp [takeWarning]
@[simp] theorem writeStagedRecords_mem (t : Nat) : (writeStagedRecords s t).mem = s.mem := by simp [writeStagedRecords]
@[simp] theorem flushSequence_mem : (flushSequence s).mem = s.mem := by
  simp only [flushSequence, closeSegment_mem]
  cases h : writeFlash (flushStaged s) _ with
  | none => simp
  | some t => simp [writeFlash_mem h]
@[simp] theorem report_mem (mj : Nat) : (report s mj).mem = s.mem := by simp [report]
@[simp] theorem readSensor_mem (sensor : Sensor) (c : Int) : (readSensor s sensor c).mem = s.mem := by
  unfold readSensor
  split <;> simp
@[simp] theorem setDerates_mem (d : NSet) : (setDerates s d).mem = s.mem := by simp [setDerates]
@[simp] theorem startDerates_mem (sensor : Sensor) (c : Int) : (startDerates s sensor c).mem = s.mem := by simp [startDerates]

/-! ### Register reads -/

@[simp] theorem latch_mem (off : Nat) : (latch s off).mem = s.mem := by
  unfold latch
  split <;> simp
@[simp] theorem bar0Read_mem (fn off size : Nat) : (bar0Read s fn off size).mem = s.mem := by
  unfold bar0Read
  split <;> simp

/-! ### Register writes -/

@[simp] theorem enableRing_mem (t r : Nat) : (enableRing s t r).mem = s.mem := by simp [enableRing]
@[simp] theorem disableRing_mem (t r : Nat) : (disableRing s t r).mem = s.mem := by simp [disableRing]
@[simp] theorem enableCq_mem (t : Nat) : (enableCq s t).mem = s.mem := by simp [enableCq]
@[simp] theorem disableCq_mem (t : Nat) : (disableCq s t).mem = s.mem := by simp [disableCq]
/-- `setLock` unfolded as a function: see `placeImage_def`. -/
theorem setLock_def : setLock = delta% setLock := rfl

@[simp] theorem setLock_mem : (setLock s).mem = s.mem := by
  have h := congrFun setLock_def s
  beta_reduce at h
  obtain ⟨overlap, ho⟩ : ∃ f, f = setupOverlap := ⟨_, rfl⟩
  rw [← ho] at h
  rw [h]
  split <;> simp
@[simp] theorem disableField_mem (w : RegWrite) (x : RegField × Nat) : (disableField w s x).mem = s.mem := by
  unfold disableField
  repeat' split
  all_goals simp
@[simp] theorem noteWrite_mem (w : RegWrite) (n : WriteNote) : (noteWrite w s n).mem = s.mem := by
  unfold noteWrite
  dsimp only
  split <;> simp
@[simp] theorem windowRange_mem (fn off : Nat) : (windowRange s fn off).mem = s.mem := by simp [windowRange]

/-! ### The idle step -/

@[simp] theorem runCounters_mem : (runCounters s).mem = s.mem := by simp [runCounters]
@[simp] theorem tick_mem : (tick s).mem = s.mem := by simp [tick]
end

end Sys2Proof.Machine
end

section
/-! SUPPORT. Operations that write device memory keep its canonical form (R195, O55). -/

namespace Sys2Proof.Machine

section
variable {s : State}

/-- A change that leaves memory keeps its form. -/
theorem wf_of_mem_eq {t : State} (h : Memory.wf s.mem = true) (e : t.mem = s.mem) : Memory.wf t.mem = true := e ▸ h

/-! ### Lines flushed and read -/

theorem foldl_flushLine_wf (h : Memory.wf s.mem = true) (l : List Nat) : Memory.wf (l.foldl flushLine s).mem = true :=
  foldl_mem_wf _ (fun _ line h => flushLine_wf h line) l h

theorem hostRead_wf (h : Memory.wf s.mem = true) (fn : Nat) (addrs : List Nat) : Memory.wf (hostRead s fn addrs).mem = true := by
  unfold hostRead bar2Bytes
  simp [h, apply_ite (Memory.wf ·), foldl_flushLine_wf]

theorem serveEntry_wf (h : Memory.wf s.mem = true) (o : StepOwner) : Memory.wf (serveEntry s o).mem = true := by
  unfold serveEntry
  split
  · simp [foldl_flushLine_wf h]
  · exact h

theorem takeEntry_wf (h : Memory.wf s.mem = true) (o : StepOwner) : Memory.wf (takeEntry s o).mem = true := by
  unfold takeEntry
  split
  · exact h
  · dsimp only
    split
    · exact serveEntry_wf h o
    · simp [h]

theorem serveAccess_wf (h : Memory.wf s.mem = true) (w : Waiter) : Memory.wf (serveAccess s w).mem = true := by
  unfold serveAccess
  split
  · exact h
  · exact serveEntry_wf (wf_of_mem_eq h (dropAccess_mem ..)) _
  · exact hostRead_wf (wf_of_mem_eq h (dropAccess_mem ..)) ..

/-! ### Near-bank steps -/

theorem stepIssue_wf (h : Memory.wf s.mem = true) (i k word entry : Nat) : Memory.wf (stepIssue s i k word entry).mem = true := by
  unfold stepIssue
  split
  · exact h
  dsimp only
  split
  · exact h
  split
  · exact h
  split
  · exact takeEntry_wf h _
  split
  · simp [flushWhere_wf h]
  · exact h

theorem freeBank_wf (h : Memory.wf s.mem = true) (i lpc bank : Nat) : Memory.wf (freeBank s i lpc bank).mem = true :=
  foldl_mem_wf _ (fun _ w h => serveAccess_wf h w) _ (flushWhere_wf (s := modS s i _) h _ _)

theorem elim_takeEntry_wf (h : Memory.wf s.mem = true) (o : Option StepOwner) :
    Memory.wf (o.elim s (takeEntry s)).mem = true := by
  cases o with
  | none => exact h
  | some o => exact takeEntry_wf h o

theorem stepEffect_wf (h : Memory.wf s.mem = true) (i : Nat) (x : NbStep) (res : StepEnd) :
    Memory.wf (stepEffect s i x res).mem = true := by
  unfold stepEffect
  split <;> simp [h, elim_takeEntry_wf]

theorem stepEnd_wf (h : Memory.wf s.mem = true) (i : Nat) (x : NbStep) (res : StepEnd) :
    Memory.wf (stepEnd s i x res).mem = true := by
  unfold stepEnd
  split
  · exact freeBank_wf h ..
  split
  · exact h
  · exact freeBank_wf (stepEffect_wf h i x res) ..

/-! ### Splices (Table Tables-5) -/

/-- Every state that applying a splice leaves has property P. -/
def Applied.Leaves (P : State → Prop) : Applied → Prop
  | .done s | .refused s => P s
  | .waits => True

theorem flushTable_wf (h : Memory.wf s.mem = true) (d : Bytes) : Memory.wf (flushTable s d).mem = true :=
  foldl_mem_wf _ (fun _ i h => flushWhere_wf h i _) _ h

theorem foldl_writeClear_wf {β : Type} (h : Memory.wf s.mem = true) (a : β → Nat) (b : β → Bytes) (l : List β) :
    Memory.wf (l.foldl (fun s x => writeClear s (a x) (b x)) s).mem = true :=
  foldl_mem_wf _ (fun _ _ h => writeClear_wf h ..) l h

theorem applyRow_wf (h : Memory.wf s.mem = true) (t : Table) (b : Bytes) : Memory.wf (applyRow s t b).mem = true := by
  simp [applyRow, foldl_writeClear_wf h]

theorem applyCell_wf (h : Memory.wf s.mem = true) (t : Table) (r : Nat) (v : Val) : Memory.wf (applyCell s t r v).mem = true := by
  simp [applyCell, writeClear_wf h]

theorem applyTally_wf (h : Memory.wf s.mem = true) (i : Nat) (b : Bytes) : Memory.wf (applyTally s i b).mem = true := by
  refine foldl_mem_wf _ (fun s j h => ?_) _ h
  split
  · exact applyCell_wf h ..
  · exact h

/-- A base-note image placed with a registration leaves memory. -/
theorem registrationImage_mem {t : State} {epoch : Nat} {head d : Bytes} (h : registrationImage s epoch head d = some t) :
    t.mem = s.mem := by
  obtain ⟨_, _, rfl⟩ := Option.map_eq_some_iff.1 h
  rw [stageOwn_mem, noteWear_mem]

theorem registrationImage_leaves (h : Memory.wf s.mem = true) (epoch : Nat) (head d : Bytes) :
    ((registrationImage s epoch head d).elim Applied.waits Applied.done).Leaves (fun t => Memory.wf t.mem = true) := by
  cases hr : registrationImage s epoch head d with
  | none => trivial
  | some t => exact wf_of_mem_eq h (registrationImage_mem hr)

theorem applyRegister_leaves (h : Memory.wf s.mem = true) (epoch : Nat) (head b : Bytes) :
    (applyRegister s epoch head b).Leaves (fun t => Memory.wf t.mem = true) := by
  unfold applyRegister
  extract_lets d digest s1 t s2 t' s2'
  have hf : Memory.wf s1.mem = true := flushTable_wf h d
  clear_value s1
  split
  · exact wf_of_mem_eq h (tableInvalid_mem ..)
  split
  · refine registrationImage_leaves ?_ epoch head _
    exact zeroRange_wf hf ..
  split
  · refine zeroRange_wf (wf_of_mem_eq hf ?_) ..
    rw [stopAdmit_mem, tableInvalid_mem]
  · exact wf_of_mem_eq hf (tableInvalid_mem ..)

theorem applyData_leaves (h : Memory.wf s.mem = true) (b : Bytes) :
    (applyData s b).Leaves (fun t => Memory.wf t.mem = true) := by
  unfold applyData
  split
  · exact h
  split
  · exact h
  split
  · simp [Applied.Leaves, h]
  split
  · trivial
  split
  · exact applyTally_wf h ..
  · dsimp only; split <;> simp [Applied.Leaves, h]
  · exact applyRow_wf h ..

theorem flushTouched_wf (h : Memory.wf s.mem = true) (b : Bytes) : Memory.wf (flushTouched s b).mem = true := by
  unfold flushTouched
  split
  · exact h
  · exact foldl_mem_wf _ (fun _ _ h => flushLine_wf h _) _ h

theorem flipPlane_wf (h : Memory.wf s.mem = true) (d : Bytes) (r : Nat) : Memory.wf (flipPlane s d r).mem = true :=
  memWrite_wf h _ _

theorem fold_wf (h : Memory.wf s.mem = true) : Memory.wf (fold s).mem = true :=
  foldl_mem_wf _ (fun _ _ h => foldl_mem_wf _ (fun _ r h => flipPlane_wf h _ r) _ h) _ h

theorem applyOne_leaves (h : Memory.wf s.mem = true) (b : Boundary) (body : Bytes) :
    (applyOne s b body).Leaves (fun t => Memory.wf t.mem = true) := by
  unfold applyOne
  split
  · exact applyRegister_leaves h ..
  · unfold applyRetire
    split <;> exact h
  · exact applyData_leaves h _

theorem applyNext_wf (h : Memory.wf s.mem = true) : Memory.wf (applyNext s).mem = true := by
  unfold applyNext
  split
  · exact h
  split
  · split
    · exact h
    rename_i body _
    have ha := applyOne_leaves (flushTouched_wf h body) (by assumption) body
    split
    · exact h
    · rename_i he
      rw [he] at ha
      exact wf_of_mem_eq ha (by simp)
    · rename_i he
      rw [he] at ha
      exact wf_of_mem_eq ha (by simp)
  · exact h

/-! ### Lines, tables and accords laid in memory -/

theorem foldl_memWrite_wf {β : Type} (h : Memory.wf s.mem = true) (a : β → Nat) (b : β → Bytes) (l : List β) :
    Memory.wf (l.foldl (fun s x => memWrite s (a x) (b x)) s).mem = true :=
  foldl_mem_wf _ (fun _ _ h => memWrite_wf h ..) l h

theorem reconLine_wf (h : Memory.wf s.mem = true) {v : Versions} {t : Table} {line : Nat} {u : State}
    (hu : reconLine s v t line = some u) : Memory.wf u.mem = true := by
  unfold reconLine at hu
  dsimp only at hu
  split at hu
  all_goals
    obtain ⟨w, _, rfl⟩ := Option.map_eq_some_iff.1 hu
    rw [rebuildSubjects_mem]
  · exact foldl_memWrite_wf h ..
  · exact foldl_memWrite_wf (memWrite_wf h ..) ..

theorem rebuildLine_wf (h : Memory.wf s.mem = true) {t : Table} {line : Nat} {copy : Option Bytes} {u : State}
    (hu : rebuildLine s t line copy = some u) : Memory.wf u.mem = true := by
  unfold rebuildLine at hu
  split at hu
  · rw [← Option.some.inj hu, lineFound_mem]
    exact memWrite_wf h ..
  · obtain ⟨v, _, hv⟩ := Option.bind_eq_some_iff.1 hu
    obtain ⟨r, hr, rfl⟩ := Option.map_eq_some_iff.1 hv
    rw [lineFound_mem]
    exact reconLine_wf h hr

theorem layTable_wf (h : Memory.wf s.mem = true) (d : Bytes) (t : ArenaTable) (epoch : Nat) :
    Memory.wf (layTable s d t epoch).mem = true := by
  refine foldl_mem_wf _ (fun s p h => ?_) _ (zeroRange_wf h _ _)
  split
  · exact h
  split
  · exact foldl_writeClear_wf h ..
  · exact writeClear_wf h ..

theorem takeRecon_wf (h : Memory.wf s.mem = true) (q : Recon) : Memory.wf (takeRecon s q).mem = true := by
  rw [takeRecon, relearn_mem]
  exact foldl_mem_wf _ (fun _ _ h => layTable_wf h ..) _ h

theorem stagedImage_wf (h : Memory.wf s.mem = true) : Memory.wf (stagedImage s).1.mem = true := by
  unfold stagedImage
  dsimp only
  split
  · exact foldl_flushLine_wf h _
  · exact h

theorem copyImage_wf (h : Memory.wf s.mem = true) (i : Nat) (a : Option Accord) : Memory.wf (copyImage s i a).mem = true := by
  cases a with
  | none => exact h
  | some a => exact memWrite_wf h ..

theorem fillStaged_wf (h : Memory.wf s.mem = true) (a : Accord) : Memory.wf (fillStaged s a).mem = true := by
  rw [fillStaged, stageOwn_mem, writeStore_mem]
  exact copyImage_wf h ..

theorem stageImage_wf (h : Memory.wf s.mem = true) (b : Bytes) : Memory.wf (stageImage s b).mem = true := by
  unfold stageImage
  dsimp only
  split
  · simp [h]
  split
  · simp [h]
  split
  · simp [h]
  split
  · simp [h]
  split
  · simp [fillStaged_wf h]
  · simp [h]

/-! ### Lines from partners -/

theorem serveLines_wf (h : Memory.wf s.mem = true) (r : Rcv) (request epoch : Nat) (lines : List Nat) :
    Memory.wf (serveLines s r request epoch lines).mem = true := by
  refine foldl_mem_wf _ (fun s a h => ?_) _ h
  rw [queueFrame_mem]
  split
  · exact flushLine_wf h _
  · exact h

theorem takeLine_wf (h : Memory.wf s.mem = true) (a : Nat) (b : Bytes) : Memory.wf (takeLine s a b).mem = true := by
  unfold takeLine
  dsimp only
  split
  · exact h
  · rw [foldl_mem (fun _ _ => reexecLaunch_mem ..)]
    exact memWrite_wf h ..

theorem takeResync_wf (h : Memory.wf s.mem = true) (a : Nat) (b : Bytes) : Memory.wf (takeResync s a b).mem = true := by
  unfold takeResync
  split
  · exact h
  · dsimp only
    split <;> simp [writeClear_wf h]

/-! ### Boot and reset -/

theorem finishBoundary_wf (h : Memory.wf s.mem = true) : Memory.wf (finishBoundary s).mem = true := by
  unfold finishBoundary
  split
  · exact h
  split
  · exact h
  split
  · simp [h]
  · rw [closeBoundary_mem]
    exact foldl_mem_wf _ (fun _ _ h => applyNext_wf h) _ (wf_of_mem_eq h (by simp))

theorem finishStore_wf (h : Memory.wf s.mem = true) : Memory.wf (finishStore s).mem = true := by
  rw [finishStore, becomeReady_mem, settlePersist_mem, returnToGroup_mem, numberIds_mem]
  exact finishBoundary_wf (wf_of_mem_eq h (by simp))

theorem putSlots_wf (h : Memory.wf s.mem = true) (l : List (Option Accord)) : Memory.wf (putSlots s l).mem = true :=
  foldl_mem_wf _ (fun _ _ h => copyImage_wf h ..) _ h

theorem storePhase_wf (h : Memory.wf s.mem = true) : Memory.wf (storePhase s).mem = true := by
  unfold storePhase
  dsimp only
  split
  · exact finishStore_wf (putSlots_wf h _)
  split
  · simp [h]
  split
  · simp [h]
  split
  · exact finishStore_wf (putSlots_wf h _)
  split
  · exact finishStore_wf (wf_of_mem_eq (putSlots_wf h _) (writeStore_mem _))
  · simp [h]

theorem chooseSlot_mem {t : State} (h : chooseSlot s = some t) : t.mem = s.mem := by
  unfold chooseSlot at h
  dsimp only at h
  split at h
  · cases h
  · rw [← Option.some.inj h]
    simp

theorem fullBoot_wf (h : Memory.wf s.mem = true) (find : BootFind) : Memory.wf (fullBoot find s).mem = true := by
  unfold fullBoot
  split
  · simp [h]
  · refine storePhase_wf ?_
    rw [closeSegment_mem, mapPhase_mem, foldl_mem (fun _ _ => trainStack_mem ..)]
    rfl

theorem flushAll_endSteps_wf (h : Memory.wf s.mem = true) : Memory.wf (flushAll (endSteps s)).mem = true :=
  flushAll_wf (wf_of_mem_eq h (endSteps_mem s))

theorem finishRetaining_wf (h : Memory.wf s.mem = true) (find : BootFind) (cause : Nat) :
    Memory.wf (finishRetaining find cause s).mem = true := by
  refine storePhase_wf ?_
  rw [remapPhase_mem, resetUnits_mem, writePersist_mem]
  exact flushAll_endSteps_wf (wf_of_mem_eq h (drainAll_mem ..))

theorem retainingReset_wf (h : Memory.wf s.mem = true) (find : BootFind) (cause : Nat) :
    Memory.wf (retainingReset find cause s).mem = true := by
  unfold retainingReset
  split
  · exact h
  · exact finishRetaining_wf (wf_of_mem_eq h (startRetaining_mem ..)) ..

theorem activationReset_wf (h : Memory.wf s.mem = true) (find : BootFind) : Memory.wf (activationReset find s).mem = true := by
  have h1 : Memory.wf (flushStaged (flushAll (endSteps (drainAll false (startRetaining s 0 6))))).mem = true :=
    wf_of_mem_eq (flushAll_endSteps_wf (wf_of_mem_eq h (by simp))) (flushStaged_mem _)
  have h2 : Memory.wf (resetUnits true false 6 7 (writePersist (flushStaged (flushAll (endSteps (drainAll false
      (startRetaining s 0 6))))) find.clean.toNat 6)).mem = true := wf_of_mem_eq h1 (by simp)
  unfold activationReset
  dsimp only
  split
  · simpa using h2
  · rename_i hs
    refine storePhase_wf (wf_of_mem_eq h2 ?_)
    rw [mapPhase_mem, foldl_mem (fun _ _ => retrainStack_mem ..), readClass_mem, loadFirmware_mem, chooseSlot_mem hs]

theorem fullReset_wf (cause : Nat) (s : State) : Memory.wf (fullReset cause s).mem = true := reset_mem_wf

theorem enterRetention_wf (h : Memory.wf s.mem = true) (cause : Nat) : Memory.wf (enterRetention cause s).mem = true := by
  refine wf_of_mem_eq (s := flushAll (endSteps (flushStaged (recallRest (dropOutcomes s))))) (flushAll_endSteps_wf ?_) ?_
  · exact wf_of_mem_eq h (by simp)
  · simp [enterRetention]

theorem leaveRetention_wf (h : Memory.wf s.mem = true) (find : BootFind) : Memory.wf (leaveRetention find s).mem = true := by
  refine storePhase_wf (wf_of_mem_eq h ?_)
  rw [remapPhase_mem]
  simp

theorem pcieReset_wf (h : Memory.wf s.mem = true) (cause : Nat) : Memory.wf (pcieReset cause s).mem = true := by
  have h0 : Memory.wf (if rget s Reg.timeSrc = 1 then loseLock s else s).mem = true := by split <;> simp [h]
  unfold pcieReset
  dsimp only
  split
  · exact h0
  split
  · exact fullReset_wf ..
  split
  · refine enterRetention_wf ?_ _
    exact h0
  · exact h0

theorem rstFull_wf (h : Memory.wf s.mem = true) : Memory.wf (rstFull s).mem = true := by
  unfold rstFull
  split
  · exact fullReset_wf ..
  · simp [h]

theorem acceptHold_wf (h : Memory.wf s.mem = true) (l : List (Option Accord)) : Memory.wf (acceptHold s l).mem = true := by
  refine finishStore_wf ?_
  rw [writeStore_mem]
  exact putSlots_wf (by exact h) l

theorem removePower_wf (s : State) : Memory.wf (removePower s).mem = true := fullReset_wf 7 s

theorem rstCtrl_wf (h : Memory.wf s.mem = true) (level target : Nat) : Memory.wf (rstCtrl s level target).mem = true := by
  unfold rstCtrl
  split
  · simp [h]
  · simp [h]
  · simp [h]
  · simp [h]
  · exact rstFull_wf h
  · exact h

theorem bar2Store_wf (h : Memory.wf s.mem = true) (fn : Nat) (addrs : List Nat) (data : Bytes) :
    Memory.wf (bar2Store s fn addrs data).mem = true :=
  foldl_mem_wf _ (fun _ _ h => wcWrite_wf h ..) _ h

/-! ### Issue -/

/-- Every state that the outcome of a word leaves has property P. -/
def Eff.Leaves {α : Type} (P : α → Prop) : Eff α → Prop
  | .parked a | .done a => P a
  | .wait | .fault _ => True

section
variable {P : NMap Byte → Prop} {k i : Nat} {legal : Bool}

/-- What is true of memory before a word and of what its outcome leaves is true after it. -/
theorem issueWord_keeps (h : P s.mem) {hd : Hdr} {f : Env → State → Core → Issued}
    (hf : ∀ e c, (f e s c).Leaves (fun p => P p.1.mem)) : P (issueWord s k legal hd f).mem := by
  unfold issueWord
  split
  · exact h
  split
  · exact h
  rename_i x _ _ e _
  split
  · exact h
  split
  · rwa [failSkein_mem]
  dsimp only
  have stop (cause word : Nat) (b : Bool) : P (if b = true then programFault s k x.launch x.ex cause word else s).mem := by
    split
    · rwa [programFault_mem]
    · exact h
  split
  · exact stop ..
  split
  · exact stop ..
  split
  · exact h
  · split
    all_goals
      rename_i he
      have hl := hf e { x.core with hold := none, pc := x.core.pc + 1, words := x.core.words + 1 }
      rw [he] at hl
    · exact h
    · exact hl
    · exact stop ..
    · exact hl
    · exact hl

theorem issueCore_keeps (h : P s.mem) {hd : Hdr} {f : Env → Core → Eff Core} : P (issueCore s k legal hd f).mem :=
  issueWord_keeps h (fun e c => by split <;> trivial)

@[simp] theorem issueCore_mem (s : State) (hd : Hdr) (f : Env → Core → Eff Core) : (issueCore s k legal hd f).mem = s.mem :=
  issueCore_keeps (P := (· = s.mem)) rfl
end

/-! ### What a command answers -/

/-- The state that a command answers, if it answers one, has canonical memory. -/
def ResultWf : Result → Prop
  | .next s => Memory.wf s.mem = true
  | _ => True

@[simp] theorem resultWf_next (s : State) : ResultWf (.next s) ↔ Memory.wf s.mem = true := Iff.rfl
end

end Sys2Proof.Machine
end

section
/-! SUPPORT. Every command keeps device memory in its canonical form (O55). -/

namespace Sys2Proof.Machine

section
variable {s : State}

/-! ### Outcomes of words -/

/-- Every state that a word's outcome leaves has canonical memory. -/
def Issued.LeavesWf (o : Issued) : Prop := o.Leaves (fun p => Memory.wf p.1.mem = true)

@[simp] theorem leavesWf_wait : Issued.LeavesWf .wait := trivial
@[simp] theorem leavesWf_fault (n : Nat) : Issued.LeavesWf (.fault n) := trivial
@[simp] theorem leavesWf_done (t : State) (c : Option Core) : Issued.LeavesWf (.done (t, c)) ↔ Memory.wf t.mem = true := Iff.rfl
@[simp] theorem leavesWf_parked (t : State) (c : Option Core) :
    Issued.LeavesWf (.parked (t, c)) ↔ Memory.wf t.mem = true := Iff.rfl

theorem leavesWf_ite {p : Prop} [Decidable p] {a b : Issued} (ha : a.LeavesWf) (hb : b.LeavesWf) :
    (if p then a else b).LeavesWf := by
  split
  · exact ha
  · exact hb

theorem issueWord_wf (h : Memory.wf s.mem = true) {k : Nat} {legal : Bool} {hd : Hdr} {f : Env → State → Core → Issued}
    (hf : ∀ e c, Issued.LeavesWf (f e s c)) : ResultWf (.next (issueWord s k legal hd f)) :=
  issueWord_keeps (P := fun m => Memory.wf m = true) h hf

@[simp] theorem streamInvalid_leavesWf (e : Env) (c : Core) (n : Nat) (m : Flags) :
    (streamInvalid s e c n m).LeavesWf ↔ Memory.wf s.mem = true := by simp [streamInvalid]

@[simp] theorem mediaInvalid_leavesWf (e : Env) (c : Core) (m : Flags) :
    (mediaInvalid s e c m).LeavesWf ↔ Memory.wf s.mem = true := by simp [mediaInvalid]

@[simp] theorem arenaAbsent_leavesWf (e : Env) (n r : Nat) : (arenaAbsent s e n r).LeavesWf ↔ Memory.wf s.mem = true := by
  simp [arenaAbsent]

@[simp] theorem deadTable_leavesWf (e : Env) : (deadTable s e).LeavesWf ↔ Memory.wf s.mem = true := by simp [deadTable]

theorem onStream_leavesWf (h : Memory.wf s.mem = true) {n : Nat} {f : Env → State → Core → Stream → Issued} {e : Env} {c : Core}
    (hf : ∀ st, (f e s c st).LeavesWf) : (onStream n f e s c).LeavesWf := by
  unfold onStream
  split
  · simpa using h
  · exact hf _

theorem afterRead_leavesWf {known : List (Bool × Nat)} {ready late : Bool} {f : Issued} (hf : f.LeavesWf) :
    (afterRead known ready late f).LeavesWf := by
  unfold afterRead
  split
  · simp
  split
  · simp
  split
  · simp
  · exact hf

theorem afterBanks_leavesWf (h : Memory.wf s.mem = true) {e : Env} {maps rows : List Nat} {f : State → Issued}
    (hf : ∀ t, Memory.wf t.mem = true → (f t).LeavesWf) : (afterBanks s e maps rows f).LeavesWf := by
  unfold afterBanks
  dsimp only
  split
  · simp
  split
  · exact hf _ (by simpa using h)
  · simpa using h

/-! ### Stream words -/

theorem execStmopen_wf (h : Memory.wf s.mem = true) (k : Skein) (w : MWord) : ResultWf (execStmopen k w s) := by
  refine issueWord_wf h (fun e c => ?_)
  split
  · simp
  dsimp only
  split
  · simpa using h
  split
  · simp
  · simpa using h

theorem execStmrearm_wf (h : Memory.wf s.mem = true) (k : Skein) (w : MWord) : ResultWf (execStmrearm k w s) := by
  refine issueWord_wf h (fun e c => onStream_leavesWf h (fun st => ?_))
  dsimp only
  split <;> simpa using h

theorem execStmclose_wf (h : Memory.wf s.mem = true) (k : Skein) (w : MWord) : ResultWf (execStmclose k w s) := by
  refine issueWord_wf h (fun e c => onStream_leavesWf h (fun st => ?_))
  split
  · simp
  · simpa using h

theorem execStmcancel_wf (h : Memory.wf s.mem = true) (k : Skein) (w : MWord) : ResultWf (execStmcancel k w s) := by
  refine issueWord_wf h (fun e c => onStream_leavesWf h (fun st => ?_))
  exact leavesWf_ite (by simp) (by simpa using h)

theorem execStmwait_wf (h : Memory.wf s.mem = true) (k : Skein) (w : MWord) : ResultWf (execStmwait k w s) := by
  refine issueWord_wf h (fun e c => onStream_leavesWf h (fun st => ?_))
  dsimp only
  split
  · simp
  split
  · simpa using h
  · exact leavesWf_ite (by simp) (by simpa using h)

/-! ### Table words -/

theorem nbResolve_wf (w : MWord) (e : Env) (word : Nat) (src : Source) (g : NbGather) (x : Nat × Nat)
    (h : Memory.wf g.s.mem = true) : Memory.wf (nbResolve w e word src g x).s.mem = true := by
  unfold nbResolve
  dsimp only
  split
  · exact h
  · exact h
  · split
    · exact h
    · split
      · exact h
      split
      · dsimp only
        rw [foldl_mem (fun _ _ => cacheRead_mem ..), noteLost_mem]
        exact foldl_flushLine_wf h _
      · simpa using h

theorem foldl_nbResolve_wf (w : MWord) (e : Env) (word : Nat) (src : Source) (l : List (Nat × Nat)) {g : NbGather}
    (h : Memory.wf g.s.mem = true) : Memory.wf (l.foldl (nbResolve w e word src) g).s.mem = true :=
  List.foldlRecOn (motive := fun g => Memory.wf g.s.mem = true) l _ h (fun g hg x _ => nbResolve_wf w e word src g x hg)

theorem nbIssue_leavesWf (h : Memory.wf s.mem = true) (kind : NbKind) (w : MWord) (e : Env) (c : Core) :
    (nbIssue kind w e s c).LeavesWf := by
  unfold nbIssue
  dsimp only
  split
  · simp
  · simp
  refine leavesWf_ite (by simpa using h) (leavesWf_ite (by simp) ?_)
  split
  · simp
  refine leavesWf_ite (by simpa using h) (leavesWf_ite (by simpa using h) (leavesWf_ite (by simp) ?_))
  refine afterBanks_leavesWf h (fun t ht => ?_)
  split
  · simpa using ht
  · exact foldl_nbResolve_wf w e _ _ _ ht

theorem execNbgp_wf (h : Memory.wf s.mem = true) (k : Skein) (w : MWord) : ResultWf (execNbgp k w s) :=
  issueWord_wf h (nbIssue_leavesWf h .gp w)

theorem execNbdot_wf (h : Memory.wf s.mem = true) (k : Skein) (w : MWord) : ResultWf (execNbdot k w s) :=
  issueWord_wf h (nbIssue_leavesWf h .dot w)

theorem execNbsa_wf (h : Memory.wf s.mem = true) (k : Skein) (w : MWord) : ResultWf (execNbsa k w s) :=
  issueWord_wf h (nbIssue_leavesWf h .sa w)

theorem execNbcopy_wf (h : Memory.wf s.mem = true) (k : Skein) (w : MWord) : ResultWf (execNbcopy k w s) :=
  issueWord_wf h (nbIssue_leavesWf h .copy w)

theorem execTally_wf (h : Memory.wf s.mem = true) (k : Skein) (w : MWord) : ResultWf (execTally k w s) := by
  refine issueWord_wf h (fun e c => afterRead_leavesWf ?_)
  refine leavesWf_ite (by simp) ?_
  simpa using h

theorem execTalrd_wf (h : Memory.wf s.mem = true) (k : Skein) (w : MWord) : ResultWf (execTalrd k w s) := by
  refine issueWord_wf h (fun e c => afterRead_leavesWf (leavesWf_ite (by simp) (leavesWf_ite (by simpa using h) ?_)))
  refine afterBanks_leavesWf h (fun t ht => ?_)
  dsimp only
  split
  · simpa using ht
  · rw [leavesWf_done, foldl_mem (fun s g => by split <;> simp), foldl_mem (fun _ _ => cacheRead_mem ..)]
    exact ht

theorem execRowrd_wf (h : Memory.wf s.mem = true) (k : Skein) (w : MWord) : ResultWf (execRowrd k w s) := by
  refine issueWord_wf h (fun e c => ?_)
  dsimp only
  split
  · simp
  · simp
  refine leavesWf_ite (by simpa using h) (leavesWf_ite (by simp) ?_)
  split
  · simp
  refine leavesWf_ite (by simpa using h) (afterBanks_leavesWf h (fun t ht => ?_))
  split
  · simpa using ht
  · rw [leavesWf_done, foldl_mem (fun _ _ => cacheRead_mem ..), foldl_mem (fun s g => by split <;> simp)]
    exact ht

theorem execSeqf_wf (h : Memory.wf s.mem = true) (k : Skein) (w : MWord) : ResultWf (execSeqf k w s) := by
  refine issueWord_wf h (fun e c => ?_)
  split
  · simp
  dsimp only
  split
  · simpa using h
  refine leavesWf_ite (by simpa using h) (leavesWf_ite (by simpa using h) (afterBanks_leavesWf h (fun t ht => ?_)))
  split
  · simpa using ht
  · exact ht
  · rw [leavesWf_done, foldl_mem (fun _ _ => cacheRead_mem ..), noteLost_mem]
    exact ht

theorem execSplice_wf (h : Memory.wf s.mem = true) (k : Skein) (w : MWord) : ResultWf (execSplice k w s) := by
  refine issueWord_wf h (fun e c => afterRead_leavesWf (leavesWf_ite (by simp) ?_))
  refine leavesWf_ite (by simpa using h) (leavesWf_ite (by simp) ?_)
  rw [leavesWf_done]
  split <;> simpa using h

/-! ### Ending, checkpoint and media words -/

theorem execCkpt_wf (h : Memory.wf s.mem = true) (k : Skein) (w : MWord) : ResultWf (execCkpt k w s) := by
  refine issueWord_wf h (fun e c => leavesWf_ite (by simp) ?_)
  dsimp only
  split
  · exact h
  · exact leavesWf_ite h (by simpa using h)

theorem execEndl_wf (h : Memory.wf s.mem = true) (k : Skein) (w : SWord) : ResultWf (execEndl k w s) :=
  issueWord_wf h (fun e c => leavesWf_ite (by simp) (by simpa using h))

theorem execFrameOpen_wf (h : Memory.wf s.mem = true) (k : Skein) (w : MWord) : ResultWf (execFrameOpen k w s) :=
  issueWord_wf h (fun e c => leavesWf_ite (by simpa using h) h)

theorem execFrameNext_wf (h : Memory.wf s.mem = true) (k : Skein) (w : MWord) : ResultWf (execFrameNext k w s) := by
  refine issueWord_wf h (fun e c => ?_)
  split
  · simpa using h
  split
  · simp
  refine leavesWf_ite (by simp) ?_
  split
  · exact h
  · exact leavesWf_ite (by simp) (by simpa using h)

theorem execFrameRead_wf (h : Memory.wf s.mem = true) (k : Skein) (w : MWord) : ResultWf (execFrameRead k w s) := by
  refine issueWord_wf h (fun e c => ?_)
  dsimp only
  split
  · refine leavesWf_ite (by simpa using h) ?_
    split
    · simp
    refine leavesWf_ite (by simp) ?_
    split
    · simp
    · exact h
  · simpa using h

theorem execFrameClose_wf (h : Memory.wf s.mem = true) (k : Skein) (w : MWord) : ResultWf (execFrameClose k w s) := by
  refine issueWord_wf h (fun e c => ?_)
  split
  · simpa using h
  · exact h

/-! ### Frames on a Lanyard port -/

theorem ite_wf {p : Prop} [Decidable p] {t u : State} (ht : Memory.wf t.mem = true) (hu : Memory.wf u.mem = true) :
    Memory.wf (if p then t else u).mem = true := by
  split
  · exact ht
  · exact hu

theorem receive_wf (h : Memory.wf s.mem = true) {p kind : Nat} {b : Bytes} {f : State → Rcv → State}
    (hf : ∀ t r, Memory.wf t.mem = true → Memory.wf (f t r).mem = true) : Memory.wf (receive s p kind b f).mem = true := by
  unfold receive
  dsimp only
  refine ite_wf h (ite_wf (ite_wf (by simpa using h) h) (ite_wf (by simpa using h) (ite_wf h (ite_wf (by simpa using h) ?_))))
  split
  · simpa using h
  · exact hf _ _ (by simpa using h)

theorem inSequence_wf (h : Memory.wf s.mem = true) {kind : Nat} {r : Rcv} {f : State → Rcv → State}
    (hf : ∀ t r, Memory.wf t.mem = true → Memory.wf (f t r).mem = true) : Memory.wf (inSequence s kind r f).mem = true := by
  unfold inSequence
  dsimp only
  refine ite_wf (ite_wf (by simpa using h) (by simpa using h)) (ite_wf (by simpa using h) (hf _ _ (by simpa using h)))

theorem sequenced_wf (h : Memory.wf s.mem = true) {p kind : Nat} {b : Bytes} {f : State → Rcv → State}
    (hf : ∀ t r, Memory.wf t.mem = true → Memory.wf (f t r).mem = true) : ResultWf (.next (sequenced s p kind b f)) :=
  receive_wf h (fun _ _ ht => inSequence_wf ht hf)

theorem firstTime_wf (h : Memory.wf s.mem = true) {r : Rcv} {kind sender epoch term : Nat} {f : State → State}
    (hf : ∀ t, Memory.wf t.mem = true → Memory.wf (f t).mem = true) :
    Memory.wf (firstTime s r kind sender epoch term f).mem = true := by
  unfold firstTime
  refine ite_wf (by simpa using h) ?_
  rw [frameDone_mem]
  exact hf _ (by simpa using h)

theorem execSpliceFrame_wf (h : Memory.wf s.mem = true) (p : Port) (b : Bytes) : ResultWf (execSpliceFrame p b s) := by
  refine sequenced_wf h (fun t r ht => ?_)
  split <;> simpa using ht

theorem execStateFrame_wf (h : Memory.wf s.mem = true) (p : Port) (b : Bytes) : ResultWf (execStateFrame p b s) := by
  refine sequenced_wf h (fun t r ht => ite_wf (by simpa using ht) ?_)
  rw [stage_mem, foldl_mem (fun _ _ => violation_mem ..)]
  exact ht

theorem execManifestFrame_wf (h : Memory.wf s.mem = true) (p : Port) (b : Bytes) : ResultWf (execManifestFrame p b s) := by
  refine sequenced_wf h (fun t r ht => ite_wf (by simpa using ht) ?_)
  split
  · simpa using ht
  dsimp only
  refine ite_wf ?_ (ite_wf (by simpa using ht) (firstTime_wf (by simpa using ht) (fun u hu => by simpa using hu)))
  rw [frameDone_mem]
  exact ite_wf (by simpa using ht) (by simpa using ht)

theorem execManifestAckFrame_wf (h : Memory.wf s.mem = true) (p : Port) (b : Bytes) :
    ResultWf (execManifestAckFrame p b s) := by
  refine sequenced_wf h (fun t r ht => ite_wf (by simpa using ht) (firstTime_wf ht (fun u hu => ite_wf ?_ hu)))
  rw [tryConfirm_mem]
  exact hu

theorem execConfirmFrame_wf (h : Memory.wf s.mem = true) (p : Port) (b : Bytes) : ResultWf (execConfirmFrame p b s) := by
  refine sequenced_wf h (fun t r ht => ite_wf (by simpa using ht)
    (ite_wf ?_ (ite_wf (by simpa using ht) (firstTime_wf ht (fun u hu => ?_)))))
  · rw [frameDone_mem]
    exact ite_wf (by simpa using ht) ht
  · simpa using hu

theorem execReportFrame_wf (h : Memory.wf s.mem = true) (p : Port) (b : Bytes) : ResultWf (execReportFrame p b s) :=
  sequenced_wf h (fun t r ht => ite_wf (by simpa using ht) (firstTime_wf ht (fun u hu => by simpa using hu)))

theorem execVoteFrame_wf (h : Memory.wf s.mem = true) (p : Port) (b : Bytes) : ResultWf (execVoteFrame p b s) :=
  sequenced_wf h (fun t r ht => ite_wf (by simpa using ht) (firstTime_wf ht (fun u hu => by simpa using hu)))

theorem execLinkFrame_wf (h : Memory.wf s.mem = true) (p : Port) (b : Bytes) : ResultWf (execLinkFrame p b s) := by
  refine receive_wf h (fun t r ht => ?_)
  dsimp only
  simpa using ht

theorem execFetchFrame_wf (h : Memory.wf s.mem = true) (p : Port) (b : Bytes) : ResultWf (execFetchFrame p b s) :=
  sequenced_wf h (fun t r ht => ite_wf (by simpa using ht)
    (ite_wf (by simpa using ht) (serveLines_wf (by simpa using ht) ..)))

theorem foldl_takeResync_wf (h : Memory.wf s.mem = true) (l : List Nat) (a : Nat → Nat) (b : Nat → Bytes) :
    Memory.wf (l.foldl (fun s i => takeResync (takeLine s (a i) (b i)) (a i) (b i)) s).mem = true :=
  foldl_mem_wf _ (fun _ _ h => takeResync_wf (takeLine_wf h ..) ..) l h

theorem execRebuildFrame_wf (h : Memory.wf s.mem = true) (p : Port) (b : Bytes) : ResultWf (execRebuildFrame p b s) := by
  refine sequenced_wf h (fun t r ht => ?_)
  refine ite_wf (by simpa using ht) (ite_wf (by simpa using ht) (ite_wf (by simpa using ht) (foldl_takeResync_wf ?_ _ _ _)))
  simpa using ht

/-! ### Commands with several branches, none of which writes memory -/

theorem execStreamDataArrival_wf (h : Memory.wf s.mem = true) (k : Skein) (stream : Fin 32) (first count : Nat) :
    ResultWf (execStreamDataArrival k stream first count s) := by
  unfold execStreamDataArrival
  simp only [resultWf_next]
  repeat' split
  all_goals simpa using h

theorem execDescriptorFetch_wf (h : Memory.wf s.mem = true) (t : Tenant) (r : Ring) (seq : BitVec 32) (slot : Option Bytes) :
    ResultWf (execDescriptorFetch t r seq slot s) := by
  unfold execDescriptorFetch
  simp only [resultWf_next]
  repeat' split
  all_goals simpa using h

theorem execAdmission_wf (h : Memory.wf s.mem = true) (t : Tenant) (r : Ring) (lcb : Option Bytes) (replay : Option Bytes) :
    ResultWf (execAdmission t r lcb replay s) := by
  unfold execAdmission
  simp only [resultWf_next]
  repeat' split
  all_goals simpa using h

theorem execAdmissionBind_wf (h : Memory.wf s.mem = true) (t : Tenant) (r : Ring) : ResultWf (execAdmissionBind t r s) := by
  unfold execAdmissionBind
  simp only [resultWf_next]
  repeat' split
  all_goals simpa using h

theorem execDispatch_wf (h : Memory.wf s.mem = true) (launch : Nat) (ex : Nat) (k : Skein) :
    ResultWf (execDispatch launch ex k s) := by
  unfold execDispatch
  simp only [resultWf_next]
  repeat' split
  all_goals simpa using h

theorem execHoldCopyUnit_wf (h : Memory.wf s.mem = true) (launch : Nat) (buf : Fin 8) (unit : HostRead) :
    ResultWf (execHoldCopyUnit launch buf unit s) := by
  unfold execHoldCopyUnit
  simp only [resultWf_next]
  repeat' split
  all_goals simpa using h

theorem execHostAccessError_wf (h : Memory.wf s.mem = true) (launch : Nat) (buf : Fin 8) :
    ResultWf (execHostAccessError launch buf s) := by
  unfold execHostAccessError
  simp only [resultWf_next]
  split <;> simpa using h

theorem execResidentRegionLoaded_wf (h : Memory.wf s.mem = true) (k : Skein) (launch : Nat) :
    ResultWf (execResidentRegionLoaded k launch s) := by
  unfold execResidentRegionLoaded
  simp only [resultWf_next]
  split <;> simpa using h

theorem execPreloadOpen_wf (h : Memory.wf s.mem = true) (k : Skein) (launch : Nat) (ex : Nat) :
    ResultWf (execPreloadOpen k launch ex s) := by
  unfold execPreloadOpen
  simp only [resultWf_next]
  repeat' split
  all_goals simpa using h

theorem execLaunchEntry_wf (h : Memory.wf s.mem = true) (k : Skein) : ResultWf (execLaunchEntry k s) := by
  unfold execLaunchEntry
  simp only [resultWf_next]
  split <;> simpa using h

theorem execPageResponse_wf (h : Memory.wf s.mem = true) (fn : Tenant) (group : Nat) (ans : PageAnswer) :
    ResultWf (execPageResponse fn group ans s) := by
  unfold execPageResponse
  simp only [resultWf_next]
  split <;> simpa using h

theorem execPriTimeout_wf (h : Memory.wf s.mem = true) (fn : Tenant) (page : Nat) : ResultWf (execPriTimeout fn page s) := by
  unfold execPriTimeout
  simp only [resultWf_next]
  split <;> simpa using h

theorem execAtsTranslationCompletion_wf (h : Memory.wf s.mem = true) (fn : Tenant) (at_ : HostPage) (present : Option (Nat × Bool)) :
    ResultWf (execAtsTranslationCompletion fn at_ present s) := by
  unfold execAtsTranslationCompletion
  simp only [resultWf_next]
  split <;> simpa using h

theorem execTallyApply_wf (h : Memory.wf s.mem = true) (st : Stack) : ResultWf (execTallyApply st s) := by
  unfold execTallyApply
  simp only [resultWf_next]
  split <;> simpa using h

theorem execFlitDoubleError_wf (h : Memory.wf s.mem = true) (link : Fin 294) (errors : FlitErrors) :
    ResultWf (execFlitDoubleError link errors s) := by
  unfold execFlitDoubleError
  simp only [resultWf_next]
  split <;> simpa using h

theorem execWaitBound_wf (h : Memory.wf s.mem = true) (site : WaitSite) (number : Fin 160) (cls : Fin 5) :
    ResultWf (execWaitBound site number cls s) := by
  unfold execWaitBound
  simp only [resultWf_next]
  split <;> simpa using h

theorem execIntegrityCheck_wf (h : Memory.wf s.mem = true) (launch : Nat) (ex : Nat) :
    ResultWf (execIntegrityCheck launch ex s) := by
  unfold execIntegrityCheck
  simp only [resultWf_next]
  repeat' split
  all_goals simpa using h

theorem execSpliceSequence_wf (h : Memory.wf s.mem = true) : ResultWf (execSpliceSequence s) := by
  unfold execSpliceSequence
  simp only [resultWf_next]
  split <;> simpa using h

theorem execBoundaryGatherDone_wf (h : Memory.wf s.mem = true) : ResultWf (execBoundaryGatherDone s) := by
  unfold execBoundaryGatherDone
  simp only [resultWf_next]
  split <;> simpa using h

theorem execBoundaryLimitExpiry_wf (h : Memory.wf s.mem = true) : ResultWf (execBoundaryLimitExpiry s) := by
  unfold execBoundaryLimitExpiry
  simp only [resultWf_next]
  split <;> simpa using h

theorem execTableCtrlRegister_wf (h : Memory.wf s.mem = true) (block : HostRead) : ResultWf (execTableCtrlRegister block s) := by
  unfold execTableCtrlRegister
  simp only [resultWf_next]
  split <;> simpa using h

theorem execSealForm_wf (h : Memory.wf s.mem = true) (work : SealWork) : ResultWf (execSealForm work s) := by
  unfold execSealForm
  simp only [resultWf_next]
  repeat' split
  all_goals simpa using h

theorem execWatchdogExpiry_wf (h : Memory.wf s.mem = true) (launch : Nat) : ResultWf (execWatchdogExpiry launch s) := by
  unfold execWatchdogExpiry
  simp only [resultWf_next]
  split <;> simpa using h

theorem execPatrolScrub_wf (h : Memory.wf s.mem = true) (st : Stack) (burst : Nat) (check : BurstCheck) :
    ResultWf (execPatrolScrub st burst check s) := by
  unfold execPatrolScrub
  simp only [resultWf_next]
  repeat' split
  all_goals simpa using h

theorem execPcRebuildDone_wf (h : Memory.wf s.mem = true) (st : Stack) : ResultWf (execPcRebuildDone st s) := by
  unfold execPcRebuildDone
  simp only [resultWf_next]
  split <;> simpa using h

theorem execPcRetrainEnd_wf (h : Memory.wf s.mem = true) (st : Stack) (res : RetrainEnd) :
    ResultWf (execPcRetrainEnd st res s) := by
  unfold execPcRetrainEnd
  simp only [resultWf_next]
  split <;> simpa using h

theorem execJournalRecordAccept_wf (h : Memory.wf s.mem = true) : ResultWf (execJournalRecordAccept s) := by
  unfold execJournalRecordAccept
  simp only [resultWf_next]
  split <;> simpa using h

theorem execDrydownDone_wf (h : Memory.wf s.mem = true) : ResultWf (execDrydownDone s) := by
  unfold execDrydownDone
  simp only [resultWf_next]
  repeat' split
  all_goals simpa using h

theorem execExportDone_wf (h : Memory.wf s.mem = true) (res : HostWrite) : ResultWf (execExportDone res s) := by
  unfold execExportDone
  simp only [resultWf_next]
  repeat' split
  all_goals simpa using h

theorem execArenaLoadDone_wf (h : Memory.wf s.mem = true) (request touch parts : HostRead) :
    ResultWf (execArenaLoadDone request touch parts s) := by
  unfold execArenaLoadDone
  simp only [resultWf_next]
  repeat' split
  all_goals simpa using h

theorem execPortEnable_wf (h : Memory.wf s.mem = true) (p : Port) (enable : Bool) : ResultWf (execPortEnable p enable s) := by
  unfold execPortEnable
  simp only [resultWf_next]
  split <;> simpa using h

theorem execRetryEpisodeFailure_wf (h : Memory.wf s.mem = true) (p : Port) : ResultWf (execRetryEpisodeFailure p s) := by
  unfold execRetryEpisodeFailure
  simp only [resultWf_next]
  split <;> simpa using h

theorem execReplicationTimeout_wf (h : Memory.wf s.mem = true) (p : Port) (seq : Nat) :
    ResultWf (execReplicationTimeout p seq s) := by
  unfold execReplicationTimeout
  simp only [resultWf_next]
  split <;> simpa using h

theorem execPtmDialogue_wf (h : Memory.wf s.mem = true) (correction : Option Int) : ResultWf (execPtmDialogue correction s) := by
  unfold execPtmDialogue
  simp only [resultWf_next]
  repeat' split
  all_goals simpa using h

theorem execHoldoverExit_wf (h : Memory.wf s.mem = true) (ref : Ref) (ppm : Int) : ResultWf (execHoldoverExit ref ppm s) := by
  unfold execHoldoverExit
  simp only [resultWf_next]
  repeat' split
  all_goals simpa using h

theorem execFwUpdateDone_wf (h : Memory.wf s.mem = true) (image : HostRead) : ResultWf (execFwUpdateDone image s) := by
  unfold execFwUpdateDone
  simp only [resultWf_next]
  repeat' split
  all_goals simpa using h

theorem execGetMeasurements_wf (h : Memory.wf s.mem = true) (index : BitVec 8) : ResultWf (execGetMeasurements index s) := by
  unfold execGetMeasurements
  simp only [resultWf_next]
  split <;> simpa using h

theorem execMediaContextGrant_wf (h : Memory.wf s.mem = true) (k : Skein) : ResultWf (execMediaContextGrant k s) := by
  unfold execMediaContextGrant
  simp only [resultWf_next]
  split <;> simpa using h

theorem execFrameDecodeDone_wf (h : Memory.wf s.mem = true) (k : Skein) (engine : Fin 4) :
    ResultWf (execFrameDecodeDone k engine s) := by
  unfold execFrameDecodeDone
  simp only [resultWf_next]
  repeat' split
  all_goals simpa using h

/-! ### Near-bank steps and the stack controllers -/

theorem execNbStepIssue_wf (h : Memory.wf s.mem = true) (st : Stack) (k : Skein) (word entry : Nat) :
    ResultWf (execNbStepIssue st k word entry s) := stepIssue_wf h ..

theorem execNbReadyFrame_wf (h : Memory.wf s.mem = true) (st : Stack) (lpc : Fin 30) (bank : Fin 16) (res : StepEnd) :
    ResultWf (execNbReadyFrame st lpc bank res s) := by
  refine ite_wf h ?_
  split
  · exact stepEnd_wf h ..
  · simpa using h

theorem execNbStatusPoll_wf (h : Memory.wf s.mem = true) (st : Stack) (lpc : Fin 30) (bank : Fin 16) (ended : Bool) (res : StepEnd) :
    ResultWf (execNbStatusPoll st lpc bank ended res s) := by
  unfold execNbStatusPoll
  rw [resultWf_next]
  split
  · refine ite_wf (stepEnd_wf h ..) ?_
    split
    · simpa using h
    · exact ite_wf (stepEnd_wf (by simpa using h) ..) h
  · exact h

theorem execNbStepTimeout_wf (h : Memory.wf s.mem = true) (st : Stack) (lpc : Fin 30) (bank : Fin 16) :
    ResultWf (execNbStepTimeout st lpc bank s) := by
  unfold execNbStepTimeout
  rw [resultWf_next]
  split
  · refine ite_wf h ?_
    rw [bcuEvent_mem, modStep_mem]
    exact elim_takeEntry_wf h _
  · exact h

theorem execNbAbortTimeout_wf (h : Memory.wf s.mem = true) (st : Stack) (lpc : Fin 30) (bank : Fin 16) :
    ResultWf (execNbAbortTimeout st lpc bank s) := by
  unfold execNbAbortTimeout
  rw [resultWf_next]
  split
  · exact ite_wf (freeBank_wf (by simpa using h) ..) h
  · exact h

theorem execWcIdleFlush_wf (h : Memory.wf s.mem = true) (st : Stack) (line : Nat) : ResultWf (execWcIdleFlush st line s) := by
  unfold execWcIdleFlush
  rw [resultWf_next]
  split
  · exact ite_wf (flushLine_wf h line) h
  · exact h

theorem execLineRebuildDone_wf (h : Memory.wf s.mem = true) (line : Nat) (copy : Option Bytes) :
    ResultWf (execLineRebuildDone line copy s) := by
  refine ite_wf h ?_
  split
  · exact h
  dsimp only
  split
  · rename_i hr
    rw [foldl_mem (fun _ _ => reexecLaunch_mem ..)]
    exact rebuildLine_wf (by exact h) hr
  · rw [foldl_mem (fun _ _ => endLaunch_mem ..), tableLost_mem]
    exact h

theorem execPcRetrain_wf (h : Memory.wf s.mem = true) (st : Stack) (lpc : Fin 30) (cause : RetrainCause) :
    ResultWf (execPcRetrain st lpc cause s) :=
  ite_wf h (by rw [modS_mem]; exact flushWhere_wf h ..)

theorem execTableRebuildDone_wf (h : Memory.wf s.mem = true) : ResultWf (execTableRebuildDone s) := by
  refine ite_wf h ?_
  split
  · rw [rebuilt_mem]
    exact takeRecon_wf h _
  · have hl : Memory.wf (stopAdmit (s.tables.foldl (fun s t => tableLost s t 0) s) stopRebuild).mem = true := by
      rw [stopAdmit_mem, foldl_mem (fun _ _ => tableLost_mem ..)]
      exact h
    exact ite_wf (by rw [askResync_mem]; exact hl) hl

/-! ### Epoch boundaries and the journal -/

theorem execBoundaryDrainDone_wf (h : Memory.wf s.mem = true) : ResultWf (execBoundaryDrainDone s) := by
  unfold execBoundaryDrainDone
  rw [resultWf_next]
  split
  · exact h
  · refine ite_wf h ?_
    rw [commitIfDone_mem, modB_mem]
    exact fold_wf (by exact h)

theorem execSpliceApply_wf (h : Memory.wf s.mem = true) : ResultWf (execSpliceApply s) := applyNext_wf h

theorem writeAll_mem {t : State} : ∀ {l : List JrnRecord} {s : State}, writeAll l s = some t → t.mem = s.mem
  | [], s, h => by simp [writeAll] at h; simp [h]
  | r :: l, s, h => by
    obtain ⟨u, hu, ht⟩ := Option.bind_eq_some_iff.mp h
    rw [writeAll_mem ht, writeFlash_mem hu]

theorem writeWaiting_mem {w : JrnWrite} {t : State} (h : writeWaiting s w = some t) : t.mem = s.mem := by
  obtain ⟨u, hu, rfl⟩ := Option.map_eq_some_iff.mp h
  rw [reclaim_mem, writeDurable_mem, writeAll_mem hu]

theorem findSome_writeWaiting_mem (l : List JrnWrite) : ((l.findSome? (writeWaiting s)).getD s).mem = s.mem := by
  cases hl : l.findSome? (writeWaiting s) with
  | none => rfl
  | some t =>
    obtain ⟨w, -, hw⟩ := List.exists_of_findSome?_eq_some hl
    exact writeWaiting_mem hw

theorem execFlashWriteDone_wf (h : Memory.wf s.mem = true) : ResultWf (execFlashWriteDone s) := by
  unfold execFlashWriteDone
  rw [resultWf_next]
  split
  · refine ite_wf h ?_
    split
    · rename_i hw
      rw [writeWaiting_mem hw]
      exact h
    · rw [findSome_writeWaiting_mem, noteFull_mem]
      exact h
  · dsimp only
    split
    · simpa using h
    split
    · simpa using h
    · rename_i hw
      rw [reclaim_mem, noteFull_mem, writeFlash_mem hw, noteFull_mem]
      exact h

theorem damageCheck_mem (sel : Nat) : (damageCheck s sel).1.mem = s.mem := by
  unfold damageCheck
  split
  · rfl
  · simp

theorem execExportStart_wf (h : Memory.wf s.mem = true) : ResultWf (execExportStart s) := by
  have hs (b : Bool) (sel : Nat) : Memory.wf (sealNamed s b sel).mem = true := by simpa using h
  have hd (b : Bool) (sel : Nat) :
      Memory.wf (if b = true then (sealNamed s b sel, false) else damageCheck (sealNamed s b sel) sel).1.mem = true := by
    split
    · exact hs ..
    · rw [damageCheck_mem]
      exact hs ..
  refine ite_wf h ?_
  dsimp only
  split
  · simpa using h
  · exact ite_wf (hd ..) (ite_wf (hd ..) (hd ..))

theorem execPowerFailFlushDone_wf (h : Memory.wf s.mem = true) (linkUp : Bool) : ResultWf (execPowerFailFlushDone linkUp s) :=
  ite_wf h (removePower_wf _)

/-! ### Skeins, clocks, resets and boot -/

theorem countSkeinEvents_mem (k : Nat) : ∀ (n : Nat) (s : State), (countSkeinEvents k n s).1.mem = s.mem
  | 0, _ => rfl
  | n + 1, s => by
    unfold countSkeinEvents
    dsimp only
    split
    · exact event_mem ..
    · rw [countSkeinEvents_mem k n, event_mem]

theorem execSkeinSelfTestDone_wf (h : Memory.wf s.mem = true) (k : Skein) (passed : Bool) :
    ResultWf (execSkeinSelfTestDone k passed s) := by
  have hc (n : Nat) : Memory.wf (countSkeinEvents k.val n s).1.mem = true := by rw [countSkeinEvents_mem]; exact h
  refine ite_wf h (ite_wf (by simpa using h) (ite_wf ?_ ?_))
  · rw [retireSkein_mem]
    exact hc _
  · rw [modK_mem]
    exact hc _

/-- A trip is logged, and logged again where it makes the clock unstable. -/
theorem tripLogged_wf (h : Memory.wf s.mem = true) {p : Prop} [Decidable p] (c c' t t' a a' b b' : Nat) :
    Memory.wf (if p then logErr s c t a b else logErr (logErr s c t a b) c' t' a' b').mem = true :=
  ite_wf (by simpa using h) (by simpa using h)

theorem execClockMonitorTrip_wf (h : Memory.wf s.mem = true) (ref : Ref) : ResultWf (execClockMonitorTrip ref s) := by
  unfold execClockMonitorTrip
  rw [resultWf_next]
  cases ref with
  | modref => exact tripLogged_wf (by exact h) ..
  | pcie => exact pcieReset_wf (tripLogged_wf (by exact h) ..) 3
  | lny p =>
    dsimp only
    rw [holdDown_mem]
    exact tripLogged_wf (by exact h) ..
  | tbclk =>
    dsimp only
    refine ite_wf ?_ (tripLogged_wf (by exact h) ..)
    rw [loseLock_mem]
    exact tripLogged_wf (by exact h) ..
  | tbpps => exact tripLogged_wf (by exact h) ..

theorem execPllLockFailure_wf (h : Memory.wf s.mem = true) (pll : Pll) : ResultWf (execPllLockFailure pll s) := by
  cases pll with
  | skeinSection n => simpa [execPllLockFailure] using h
  | stack i => simpa [execPllLockFailure] using h
  | frontEnd => exact fullReset_wf ..

theorem execPerstAssert_wf (h : Memory.wf s.mem = true) : ResultWf (execPerstAssert s) := pcieReset_wf h 1
theorem execHotReset_wf (h : Memory.wf s.mem = true) : ResultWf (execHotReset s) := pcieReset_wf h 2
theorem execDlDown_wf (h : Memory.wf s.mem = true) : ResultWf (execDlDown s) := pcieReset_wf h 3

theorem execPerstDeassert_wf (h : Memory.wf s.mem = true) (find : BootFind) : ResultWf (execPerstDeassert find s) :=
  ite_wf h (ite_wf (leaveRetention_wf h find) (ite_wf (fullBoot_wf h find) h))

theorem execPfFlr_wf (h : Memory.wf s.mem = true) (find : BootFind) : ResultWf (execPfFlr find s) := retainingReset_wf h find 4

theorem execRstRetaining_wf (h : Memory.wf s.mem = true) (find : BootFind) : ResultWf (execRstRetaining find s) :=
  ite_wf h (ite_wf (activationReset_wf h find) (retainingReset_wf h find 6))

theorem execRstFull_wf (h : Memory.wf s.mem = true) : ResultWf (execRstFull s) := rstFull_wf h

theorem execHangResetProceed_wf (h : Memory.wf s.mem = true) (find : BootFind) : ResultWf (execHangResetProceed find s) := by
  unfold execHangResetProceed
  rw [resultWf_next]
  split
  · exact h
  · have hd (b : Bool) : Memory.wf (drainAll b s).mem = true := by simpa using h
    exact ite_wf h (ite_wf (hd _) (ite_wf (activationReset_wf (hd _) find) (finishRetaining_wf (hd _) find _)))

theorem execResetLimitOverrun_wf (h : Memory.wf s.mem = true) (what : Overrun) : ResultWf (execResetLimitOverrun what s) := by
  unfold execResetLimitOverrun
  rw [resultWf_next]
  split
  · exact ite_wf (by simpa using h) h
  · exact ite_wf (by simpa using h) h
  · split
    · exact h
    · exact ite_wf h (fullReset_wf ..)

theorem execPowerOn_wf (h : Memory.wf s.mem = true) (find : BootFind) : ResultWf (execPowerOn find s) :=
  ite_wf (fullBoot_wf h find) h

theorem execBootLimitExpiry_wf (h : Memory.wf s.mem = true) : ResultWf (execBootLimitExpiry s) := by
  refine ite_wf h ?_
  split
  · simpa using h
  · exact fullReset_wf ..

theorem execHoldLoadStart_wf (h : Memory.wf s.mem = true) (image : HostRead) : ResultWf (execHoldLoadStart image s) := by
  refine ite_wf h ?_
  split
  · split
    · exact ite_wf (acceptHold_wf h _) (by simpa using h)
    · simpa using h
  · simpa using h

/-! ### The host's windows and registers -/

theorem configEffect_wf (h : Memory.wf s.mem = true) (fn : Nat) (op : ConfigOp) :
    Memory.wf (configEffect s fn op).mem = true := by
  cases op with
  | pfBar2 full => exact ite_wf h h
  | numVfs n => exact ite_wf h h
  | d3hot | pageRequests on reset alloc | requestSizes payload readReq relaxed => simpa [configEffect] using h
  | other | feature f | bar n | aerCounts => exact h

theorem execConfigRequest_wf (h : Memory.wf s.mem = true) (fn : Tenant) (op : ConfigOp) : ResultWf (execConfigRequest fn op s) :=
  ite_wf (by simpa using h) (configEffect_wf (by simpa using h) ..)

theorem execBar2Read_wf (h : Memory.wf s.mem = true) (fn : Tenant) (off : BitVec 38) (len : Nat) :
    ResultWf (execBar2Read fn off len s) :=
  ite_wf h (ite_wf (by simpa using h) (ite_wf (by simpa using h) (ite_wf (by simpa using h) (hostRead_wf h ..))))

theorem execBar2Write_wf (h : Memory.wf s.mem = true) (fn : Tenant) (off : BitVec 38) (data : Bytes) :
    ResultWf (execBar2Write fn off data s) := by
  refine ite_wf h (ite_wf (by simpa using h) ?_)
  dsimp only
  split
  · simpa using h
  · exact bar2Store_wf h ..

theorem after_wf (h : Memory.wf s.mem = true) {r : Result} (hr : ResultWf r) : Memory.wf (after s r).mem = true := by
  cases r with
  | next t => exact hr
  | _ => exact h

theorem execAccordStageStart_wf (h : Memory.wf s.mem = true) : ResultWf (execAccordStageStart s) := by
  have hi := stagedImage_wf h
  unfold execAccordStageStart
  rw [resultWf_next]
  dsimp only
  split
  · simpa using h
  · exact stageImage_wf hi _

theorem storeField_mem (w : RegWrite) (p : State × WriteNote) (x : RegField × Nat) : (storeField w p x).1.mem = p.1.mem := by
  unfold storeField
  dsimp only
  split
  · rfl
  split
  · rfl
  split
  · rfl
  split
  · split <;> rfl
  split
  · rfl
  · simp

theorem foldl_storeField_mem (w : RegWrite) : ∀ (l : List (RegField × Nat)) (p : State × WriteNote),
    (l.foldl (storeField w) p).1.mem = p.1.mem
  | [], _ => rfl
  | x :: l, p => by rw [List.foldl_cons, foldl_storeField_mem w l, storeField_mem]

theorem actOn_wf (h : Memory.wf s.mem = true) (w : RegWrite) (f : RegField) (i v : Nat) :
    Memory.wf (actOn w s f i v).mem = true := by
  unfold actOn
  dsimp only
  split
  case h_1 => exact ite_wf h (by simpa using h)
  case h_2 => split <;> simpa using h
  case h_3 => simpa using h
  case h_4 => exact after_wf h (execAccordStageStart_wf h)
  case h_5 => exact ite_wf (after_wf h (by simpa [execTableCtrlRetire] using h)) h
  case h_6 => exact ite_wf (by simpa using h) (by simpa using h)
  case h_7 =>
    split
    · refine after_wf h ?_
      split
      · simpa [execRelease] using h
      · simpa [execRetrain] using h
    · exact h
  case h_8 =>
    split
    · exact ite_wf h (after_wf h (execPortEnable_wf h ..))
    · exact h
  case h_9 => exact ite_wf h (ite_wf (by simpa using h) (by simpa using h))
  case h_10 => exact after_wf h (execExportStart_wf h)
  case h_11 => exact after_wf h (by simpa [execArenaLoad] using h)
  case h_12 => exact ite_wf h (by simpa using h)
  case h_13 => simpa using h
  case h_14 => exact rstCtrl_wf h ..
  case h_15 => exact h
  case h_16 => exact ite_wf (by simpa using h) h
  case h_17 => exact ite_wf (by simpa using h) h
  case h_18 => exact h

theorem actField_wf (h : Memory.wf s.mem = true) (w : RegWrite) (x : RegField × Nat) : Memory.wf (actField w s x).mem = true :=
  ite_wf h (actOn_wf h ..)

theorem writeWord_wf (h : Memory.wf s.mem = true) (w : RegWrite) : Memory.wf (writeWord w s).mem = true := by
  refine ite_wf (ite_wf h (by simpa using h)) (foldl_mem_wf _ (fun _ _ h => actField_wf h ..) _ ?_)
  rw [noteWrite_mem, foldl_storeField_mem, foldl_mem (fun _ _ => disableField_mem ..)]
  exact h

theorem execRegisterWrite_wf (h : Memory.wf s.mem = true) (fn : Tenant) (off : BitVec 25) (size : Nat) (value : BitVec 64) :
    ResultWf (execRegisterWrite fn off size value s) := by
  unfold execRegisterWrite bar0Write
  rw [resultWf_next]
  split
  · exact h
  · exact ite_wf h (ite_wf (by simpa using h) (ite_wf h (writeWord_wf h _)))

/-! ### Every command -/

theorem issueCore_wf (h : Memory.wf s.mem = true) {k : Nat} {legal : Bool} {hd : Hdr} {f : Env → Core → Eff Core} :
    ResultWf (.next (issueCore s k legal hd f)) := issueCore_keeps (P := fun m => Memory.wf m = true) h

theorem issueStrand_wf (h : Memory.wf s.mem = true) {k i : Nat} {legal : Bool}
    {f : StrEnv → Core → StrandSt → Eff (Core × StrandSt)} : ResultWf (.next (issueStrand s k i legal f)) := by simpa using h

theorem exec_wf (h : Memory.wf s.mem = true) (c : Instr) : ResultWf (exec c s) := by
  cases c with
  | nop k w | add k w | sub k w | mul k w | mulhs k w | mulhu k w | and k w | or k w | xor k w | shl k w | shr k w | sar k w
    | min k w | max k w | minu k w | maxu k w | cmpeq k w | cmplt k w | cmpltu k w | pand k w | por k w | pnot k w | lds k w
    | sts k w | ldc k w | br k w | bri k w | call k w | loop k w | fence k w | rdflags k w | mmul k w | mmac k w | asplit k w
    | tld k w | tst k w | tzero k w | tcvt k w | tcopy k w | strgo k w | strwait k w =>
    exact issueCore_wf h
  | sAdd k j w | sSub k j w | sMul k j w | sMulhs k j w | sMulhu k j w | sAnd k j w | sOr k j w | sXor k j w | sShl k j w
    | sShr k j w | sSar k j w | sMin k j w | sMax k j w | sMinu k j w | sMaxu k j w | vcurve k j w | trd k j w | twr k j w
    | trdx k j w | ldw k j w | stw k j w | vld k j w | vst k j w | strandEnd k j w | strandRdflags k j w | strandLdc k j w
    | perm k j w | rot k j w | bcast k j w | ziplo k j w | ziphi k j w | unzipe k j w | unzipo k j w | branch k j w
    | vadd k j w | vsub k j w | vmul k j w | vfma k j w | vdiv k j w | vsqrt k j w | vmin k j w | vmax k j w | vabs k j w
    | vneg k j w | vcmpeq k j w | vcmplt k j w | vcmple k j w | vcmpun k j w | vsel k j w | vdot k j w | vsum k j w
    | vrmin k j w | vrmax k j w | vcvt k j w | pack k j w | unpack k j w | sort k j w | movx k j w | lane k j w =>
    exact issueStrand_wf h
  | ckpt k w => exact execCkpt_wf h ..
  | endl k w => exact execEndl_wf h ..
  | stmopen k w => exact execStmopen_wf h ..
  | stmrearm k w => exact execStmrearm_wf h ..
  | stmclose k w => exact execStmclose_wf h ..
  | stmcancel k w => exact execStmcancel_wf h ..
  | stmwait k w => exact execStmwait_wf h ..
  | nbgp k w => exact execNbgp_wf h ..
  | nbdot k w => exact execNbdot_wf h ..
  | nbsa k w => exact execNbsa_wf h ..
  | nbcopy k w => exact execNbcopy_wf h ..
  | tally k w => exact execTally_wf h ..
  | talrd k w => exact execTalrd_wf h ..
  | rowrd k w => exact execRowrd_wf h ..
  | splice k w => exact execSplice_wf h ..
  | seqf k w => exact execSeqf_wf h ..
  | frameOpen k w => exact execFrameOpen_wf h ..
  | frameNext k w => exact execFrameNext_wf h ..
  | frameRead k w => exact execFrameRead_wf h ..
  | frameClose k w => exact execFrameClose_wf h ..
  | descriptorFetch t r seq slot => exact execDescriptorFetch_wf h ..
  | admission t r lcb replay => exact execAdmission_wf h ..
  | admissionBind t r => exact execAdmissionBind_wf h ..
  | dispatch launch ex k => exact execDispatch_wf h ..
  | holdCopyUnit launch buf unit => exact execHoldCopyUnit_wf h ..
  | residentRegionLoaded k launch => exact execResidentRegionLoaded_wf h ..
  | preloadOpen k launch ex => exact execPreloadOpen_wf h ..
  | launchEntry k => exact execLaunchEntry_wf h ..
  | streamDataArrival k stream first count => exact execStreamDataArrival_wf h ..
  | pageResponse fn group ans => exact execPageResponse_wf h ..
  | priTimeout fn page => exact execPriTimeout_wf h ..
  | hostAccessError launch buf => exact execHostAccessError_wf h ..
  | nbStepIssue st k word entry => exact execNbStepIssue_wf h ..
  | nbReadyFrame st lpc bank res => exact execNbReadyFrame_wf h ..
  | nbStatusPoll st lpc bank ended res => exact execNbStatusPoll_wf h ..
  | nbStepTimeout st lpc bank => exact execNbStepTimeout_wf h ..
  | nbAbortTimeout st lpc bank => exact execNbAbortTimeout_wf h ..
  | tallyApply st => exact execTallyApply_wf h ..
  | wcIdleFlush st line => exact execWcIdleFlush_wf h ..
  | patrolScrub st burst check => exact execPatrolScrub_wf h ..
  | lineRebuildDone line data => exact execLineRebuildDone_wf h ..
  | pcRebuildDone st => exact execPcRebuildDone_wf h ..
  | pcRetrain st lpc cause => exact execPcRetrain_wf h ..
  | skeinSelfTestDone k passed => exact execSkeinSelfTestDone_wf h ..
  | flitDoubleError link errors => exact execFlitDoubleError_wf h ..
  | waitBound site number cls => exact execWaitBound_wf h ..
  | integrityCheck launch ex => exact execIntegrityCheck_wf h ..
  | sealForm work => exact execSealForm_wf h ..
  | watchdogExpiry launch => exact execWatchdogExpiry_wf h ..
  | hangResetProceed find => exact execHangResetProceed_wf h ..
  | spliceSequence => exact execSpliceSequence_wf h
  | boundaryGatherDone => exact execBoundaryGatherDone_wf h
  | boundaryDrainDone => exact execBoundaryDrainDone_wf h
  | spliceApply => exact execSpliceApply_wf h
  | boundaryLimitExpiry => exact execBoundaryLimitExpiry_wf h
  | spliceFrame p frame => exact execSpliceFrame_wf h ..
  | stateFrame p frame => exact execStateFrame_wf h ..
  | manifestFrame p frame => exact execManifestFrame_wf h ..
  | manifestAckFrame p frame => exact execManifestAckFrame_wf h ..
  | confirmFrame p frame => exact execConfirmFrame_wf h ..
  | reportFrame p frame => exact execReportFrame_wf h ..
  | voteFrame p frame => exact execVoteFrame_wf h ..
  | fetchFrame p frame => exact execFetchFrame_wf h ..
  | rebuildFrame p frame => exact execRebuildFrame_wf h ..
  | linkFrame p frame => exact execLinkFrame_wf h ..
  | retryEpisodeFailure p => exact execRetryEpisodeFailure_wf h ..
  | replicationTimeout p seq => exact execReplicationTimeout_wf h ..
  | journalRecordAccept => exact execJournalRecordAccept_wf h
  | flashWriteDone => exact execFlashWriteDone_wf h
  | drydownDone => exact execDrydownDone_wf h
  | exportStart => exact execExportStart_wf h
  | exportDone res => exact execExportDone_wf h ..
  | arenaLoadDone request touch parts => exact execArenaLoadDone_wf h ..
  | powerFailFlushDone linkUp => exact execPowerFailFlushDone_wf h ..
  | clockMonitorTrip ref => exact execClockMonitorTrip_wf h ..
  | holdoverExit ref ppm => exact execHoldoverExit_wf h ..
  | pllLockFailure pll => exact execPllLockFailure_wf h ..
  | ptmDialogue correction => exact execPtmDialogue_wf h ..
  | perstAssert => exact execPerstAssert_wf h
  | hotReset => exact execHotReset_wf h
  | dlDown => exact execDlDown_wf h
  | perstDeassert find => exact execPerstDeassert_wf h ..
  | pfFlr find => exact execPfFlr_wf h ..
  | rstRetaining find => exact execRstRetaining_wf h ..
  | rstFull => exact execRstFull_wf h
  | resetLimitOverrun what => exact execResetLimitOverrun_wf h ..
  | powerOn find => exact execPowerOn_wf h ..
  | bootLimitExpiry => exact execBootLimitExpiry_wf h
  | configRequest fn op => exact execConfigRequest_wf h ..
  | fwUpdateDone image => exact execFwUpdateDone_wf h ..
  | getMeasurements index => exact execGetMeasurements_wf h ..
  | holdLoadStart image => exact execHoldLoadStart_wf h ..
  | accordStageStart => exact execAccordStageStart_wf h
  | tableCtrlRegister block => exact execTableCtrlRegister_wf h ..
  | registerWrite fn off size value => exact execRegisterWrite_wf h ..
  | bar2Read fn off len => exact execBar2Read_wf h ..
  | bar2Write fn off data => exact execBar2Write_wf h ..
  | mediaContextGrant k => exact execMediaContextGrant_wf h ..
  | frameDecodeDone k engine => exact execFrameDecodeDone_wf h ..
  | pcRetrainEnd st res => exact execPcRetrainEnd_wf h ..
  | atsTranslationCompletion fn page present => exact execAtsTranslationCompletion_wf h ..
  | portEnable p enable => exact execPortEnable_wf h ..
  | tableRebuildDone => exact execTableRebuildDone_wf h
  | tileTokenGrant k tile | arrayPassDone k job pass | mvpChunkDone k job m n chunk =>
    simpa [exec, execTileTokenGrant, execArrayPassDone, execMvpChunkDone] using h
  | strandGroupStart k group =>
    simpa [exec, execStrandGroupStart] using h
  | doorbellPoll reads =>
    simpa [exec, execDoorbellPoll] using h
  | outUnitSend k stream res =>
    simpa [exec, execOutUnitSend] using h
  | atsInvalidation fn page count =>
    simpa [exec, execAtsInvalidation] using h
  | poolRingPartial src k word bag | nbResultDelivery k word =>
    simpa [exec, execPoolRingPartial, execNbResultDelivery] using h
  | skeinFault k ev | sectionFault n =>
    simpa [exec, execSkeinFault, execSectionFault] using h
  | outcomeStage launch | completionWrite t written | msixSend t | msixUnmask t entry =>
    simpa [exec, execOutcomeStage, execCompletionWrite, execMsixSend, execMsixUnmask] using h
  | anchorClose | boundaryRecordDurable | tableCtrlRetire =>
    simpa [exec, execAnchorClose, execBoundaryRecordDurable, execTableCtrlRetire] using h
  | portTrained p lanes r | helloSend p nonce | helloFrame p frame | linkSend p | goBack p | anchorTimeout | laneEvent p lane
    | release p | retrain p =>
    simpa [exec, execPortTrained, execHelloSend, execHelloFrame, execLinkSend, execGoBack, execAnchorTimeout, execLaneEvent,
      execRelease, execRetrain] using h
  | drydownStart | arenaLoad request =>
    simpa [exec, execDrydownStart, execArenaLoad] using h
  | powerFailWarning | inputPowerRestore | holdupReport milliJoule | capacitanceTest milliJoule | holdupMonitorSilent
    | powerLimitExceeded watt | powerLimitRecovery watt | pwrbrkAssert | pwrbrkRelease | thermalDerate sensor celsius
    | thermalDerateEnd sensor celsius | thermalTrip sensor celsius =>
    simpa [exec, execPowerFailWarning, execInputPowerRestore, execHoldupReport, execCapacitanceTest, execHoldupMonitorSilent,
      execPowerLimitExceeded, execPowerLimitRecovery, execPwrbrkAssert, execPwrbrkRelease, execThermalDerate,
      execThermalDerateEnd, execThermalTrip] using h
  | odoMismatch keepSecond | tbppsEdge offset | tbppsMissing | holdoverMaxExpiry | clkTimeSet ns =>
    simpa [exec, execOdoMismatch, execTbppsEdge, execTbppsMissing, execHoldoverMaxExpiry, execClkTimeSet] using h
  | vfFlr t | d3hotToD0 fn | rstSkein target | rstSection target | rstTenant target | rstArm =>
    simpa [exec, execVfFlr, execD3hotToD0, execRstSkein, execRstSection, execRstTenant, execRstArm] using h
  | activate | revert | commitSvn | cancel | fwUpdateStart | pldmFwUpdate slotB image | confirm | rebuild =>
    simpa [exec, execActivate, execRevert, execCommitSvn, execCancel, execFwUpdateStart, execPldmFwUpdate, execConfirm,
      execRebuild] using h
  | sqEnable t r | cqEnable t | setupLock =>
    simpa [exec, execSqEnable, execCqEnable, execSetupLock] using h
  | feEpochRead | jrnArenaEpochRead | clkTimeRead | regAccess fn off size =>
    simpa [exec, execFeEpochRead, execJrnArenaEpochRead, execClkTimeRead, execRegAccess] using h
  | poisonedWrite fn | pcieLinkUp rate width =>
    simpa [exec, execPoisonedWrite, execPcieLinkUp] using h
  | engineFailure engine =>
    simpa [exec, execEngineFailure] using h
  | selfRefreshExcursion st =>
    simpa [exec, execSelfRefreshExcursion] using h

end

/-- Settles O55. Most commands leave device memory alone; the others write it through operations that keep the form: a flush, a
cleared or written range, a near-bank step, a splice, a rebuild, a boot or a reset. -/
theorem stepKeepsDeviceMemoryCanonical : Obligations.StepKeepsDeviceMemoryCanonical := by
  intro s t h hs
  have hw : ResultWf (step s) := by
    unfold step
    split
    · rw [resultWf_next, tick_mem]
      exact h
    · exact exec_wf (by exact h) _
  rw [hs] at hw
  exact hw

end Sys2Proof.Machine
end

section
/-! SUPPORT. Places of device memory: the striped view as mixed-radix digits of an address, the direct view as bit fields, and the
places of a bank-resident table's rows (O58). -/

namespace Sys2Proof.Machine

/-! ### The striped view (R195) -/

/-- The place lies inside the 8 stacks, 30 pseudo-channels, 16 banks and 49,152 rows of 1 KiB. -/
structure Loc.InRange (p : Loc) : Prop where
  stack : p.stack < 8
  lpc : p.lpc < 30
  bank : p.bank < 16
  row : p.row < 49152
  byte : p.byte < 1024

theorem stripedLoc_inRange {a : Nat} (h : a < dpaLimit) : (stripedLoc a).InRange := by
  unfold dpaLimit at h
  constructor <;> dsimp only [stripedLoc] <;> omega

/-- The two digits of a number below 16 change places. -/
theorem bankDigits (w : Nat) : (4 * (w % 4) + w / 4 % 4) % 4 = w / 4 % 4 ∧ (4 * (w % 4) + w / 4 % 4) / 4 = w % 4 := by omega

/-- Two remainders and what is left make a number up again. -/
theorem sixteenDigits (w : Nat) : 16 * (w / 16) + 4 * (w / 4 % 4) + w % 4 = w := by omega

theorem stripedOf_stripedLoc (a : Nat) : stripedOf (stripedLoc a) = a := by
  have hbyte (v : Nat) : (256 * (v % 4) + a % 256) / 256 = v % 4 ∧ (256 * (v % 4) + a % 256) % 256 = a % 256 := by omega
  dsimp only [stripedOf, stripedLoc]
  rw [(bankDigits _).1, (bankDigits _).2, (hbyte _).1, (hbyte _).2, Nat.div_add_mod, sixteenDigits, Nat.div_add_mod,
    Nat.div_add_mod, Nat.div_add_mod]

/-- An address's digits from the byte within its line upwards are those that it was made of. -/
theorem stripedLoc_stripedOf {p : Loc} (h : p.InRange) : stripedLoc (stripedOf p) = p := by
  obtain ⟨hs, hl, hb, hr, hy⟩ := h
  obtain ⟨stack, lpc, bank, row, byte⟩ := p
  dsimp only at hs hl hb hr hy
  dsimp only [stripedLoc, stripedOf]
  generalize hv : 4 * row + byte / 256 = v
  generalize hw : 16 * v + 4 * (bank % 4) + bank / 4 = w
  generalize hq : 30 * w + lpc = q
  have hline : (256 * (8 * q + stack) + byte % 256) / 256 = 8 * q + stack ∧
      (256 * (8 * q + stack) + byte % 256) % 256 = byte % 256 := by omega
  have hstack : (8 * q + stack) / 8 = q ∧ (8 * q + stack) % 8 = stack := by omega
  have hlpc : q / 30 = w ∧ q % 30 = lpc := by omega
  have hquad : w / 4 = 4 * v + bank % 4 ∧ w % 4 = bank / 4 := by omega
  have hbank : w / 16 = v ∧ 4 * (w % 4) + w / 4 % 4 = bank := by omega
  have hrow : v / 4 = row ∧ 256 * (v % 4) + byte % 256 = byte := by omega
  rw [hline.1, hline.2, hstack.1, hstack.2, hlpc.1, hlpc.2, hbank.1, hbank.2, hrow.1, hrow.2]

theorem stripedOf_lt {p : Loc} (h : p.InRange) : stripedOf p < dpaLimit := by
  obtain ⟨hs, hl, hb, hr, hy⟩ := h
  simp only [stripedOf, dpaLimit]
  omega

/-! ### The direct view (R196, R197) -/

theorem dpaStriped_direct {p : Loc} (h : p.InRange) :
    dpaStriped (2 ^ 47 + p.stack * 2 ^ 35 + p.lpc * 2 ^ 30 + p.bank * 2 ^ 26 + p.row * 2 ^ 10 + p.byte) = some (stripedOf p) := by
  obtain ⟨hs, hl, hb, hr, hy⟩ := h
  obtain ⟨stack, lpc, bank, row, byte⟩ := p
  dsimp only at hs hl hb hr hy ⊢
  generalize ha : 2 ^ 47 + stack * 2 ^ 35 + lpc * 2 ^ 30 + bank * 2 ^ 26 + row * 2 ^ 10 + byte = a
  have hbyte : bits a 9 0 = byte := by simp only [bits]; omega
  have hrow : bits a 25 10 = row := by simp only [bits]; omega
  have hbank : bits a 29 26 = bank := by simp only [bits]; omega
  have hlpc : bits a 34 30 = lpc := by simp only [bits]; omega
  have hstack : bits a 37 35 = stack := by simp only [bits]; omega
  have hrest : bits a 46 38 = 0 := by simp only [bits]; omega
  have hdirect : ¬ a < 2 ^ 47 := by omega
  have hview : a < 2 ^ 48 := by omega
  simp only [dpaStriped, if_neg hdirect, hbyte, hrow, hbank, hlpc, hstack, hrest]
  exact if_pos ⟨hview, trivial, hr, hl⟩

theorem dpaStriped_pastStriped {a : Nat} (h : dpaLimit ≤ a) (hv : a < 2 ^ 47) : dpaStriped a = none := by
  rw [dpaStriped, if_pos hv, if_neg (Nat.not_lt.mpr h)]

/-! ### Rows of a bank-resident table (R198) -/

/-- The turn of a bank among the 480 of its stack, from its three digits. -/
theorem turnDigits (h : Nat) : 120 * (h / 120) + 4 * (h / 4 % 30) + h % 4 = h := by omega

/-- Rows of one bank follow each other at a distance of 3,840. -/
theorem rowLoc_bank {sz base i j : Nat} (hs : (rowLoc sz base i).stack = (rowLoc sz base j).stack)
    (hl : (rowLoc sz base i).lpc = (rowLoc sz base j).lpc) (hb : (rowLoc sz base i).bank = (rowLoc sz base j).bank) :
    i % 3840 = j % 3840 := by
  dsimp only [rowLoc] at hs hl hb
  have hi : i % 3840 / 8 < 480 := by omega
  have hj : j % 3840 / 8 < 480 := by omega
  have hturn : i % 3840 / 8 = j % 3840 / 8 := by
    rw [← turnDigits (i % 3840 / 8), ← turnDigits (j % 3840 / 8), hl]
    omega
  omega

/-- A row lies inside one DRAM row. -/
theorem rowLoc_byte_le {sz : Nat} (hz : 0 < sz) (hd : sz ∣ 1024) (base i : Nat) : (rowLoc sz base i).byte + sz ≤ 1024 := by
  obtain ⟨per, hper⟩ := hd
  have hper' : 1024 / sz = per := by rw [hper, Nat.mul_div_cancel_left _ hz]
  have hpos : 0 < per := by
    rcases Nat.eq_zero_or_pos per with rfl | h
    · omega
    · exact h
  have hlt := Nat.mod_lt (i / 3840) hpos
  dsimp only [rowLoc]
  rw [hper']
  calc i / 3840 % per * sz + sz = (i / 3840 % per + 1) * sz := by ring
    _ ≤ per * sz := Nat.mul_le_mul_right _ hlt
    _ = 1024 := by rw [hper, Nat.mul_comm]

/-- Two rows of one bank in one DRAM row lie one after the other. -/
theorem rowLoc_disjoint {sz base i j : Nat} (hbank : i % 3840 = j % 3840) (hrow : (rowLoc sz base i).row = (rowLoc sz base j).row)
    (hne : i ≠ j) :
    (rowLoc sz base i).byte + sz ≤ (rowLoc sz base j).byte ∨ (rowLoc sz base j).byte + sz ≤ (rowLoc sz base i).byte := by
  have hdiv : i / 3840 / (1024 / sz) = j / 3840 / (1024 / sz) := by
    dsimp only [rowLoc] at hrow
    omega
  have hmod : i / 3840 % (1024 / sz) ≠ j / 3840 % (1024 / sz) := by
    intro hmod
    have h : i / 3840 = j / 3840 := by
      rw [← Nat.div_add_mod (i / 3840) (1024 / sz), hdiv, hmod, Nat.div_add_mod]
    omega
  dsimp only [rowLoc]
  rw [← Nat.succ_mul, ← Nat.succ_mul]
  rcases Nat.lt_or_gt_of_ne hmod with h | h
  · exact .inl (Nat.mul_le_mul_right _ h)
  · exact .inr (Nat.mul_le_mul_right _ h)

/-- Settles O58: an address's digits are its place, and a table's row index is its bank, its DRAM row and its turn in that row. -/
theorem deviceAddressesAreOneToOne : Obligations.DeviceAddressesAreOneToOne := by
  refine ⟨fun a ha => ?_, fun p hs hl hb hr hy => ?_, fun a h hv => dpaStriped_pastStriped h hv, fun e base i j h6 h10 => ?_⟩
  · obtain ⟨hs, hl, hb, hr, hy⟩ := stripedLoc_inRange ha
    exact ⟨stripedOf_stripedLoc a, hs, hl, hb, hr, hy⟩
  · have h : p.InRange := ⟨hs, hl, hb, hr, hy⟩
    exact ⟨stripedLoc_stripedOf h, stripedOf_lt h, dpaStriped_direct h⟩
  · have hbyte := rowLoc_byte_le (Nat.two_pow_pos e) (Nat.pow_dvd_pow 2 h10) base i
    refine ⟨?stack, ?lpc, ?bank, hbyte, fun hne => ?_⟩
    case stack | lpc | bank => dsimp only [rowLoc]; omega
    by_contra hsame
    simp only [not_or, not_not] at hsame
    obtain ⟨hs, hl, hb, hr, hij, hji⟩ := hsame
    exact (rowLoc_disjoint (rowLoc_bank hs hl hb) hr hne).elim hij hji

end Sys2Proof.Machine
end

section
/-! SUPPORT. Tally words: scratch extents free for fewer accesses, a word whose operands are there, and what TALLY, TALRD of the own
area and TALLY_APPLY do (O31). -/

namespace Sys2Proof.Machine

/-! ### Faults and waits -/

theorem firstCause_eq_none {l : List (Bool × Nat)} : firstCause l = none ↔ ∀ p ∈ l, p.1 = false := by
  refine ⟨fun h => ?_, firstCause_none⟩
  induction l with
  | nil => simp
  | cons p l ih =>
    cases hp : p.1 with
    | true => simp [firstCause, hp] at h
    | false =>
      have hl : firstCause l = none := by simpa [firstCause, hp] using h
      simpa [hp] using ih hl

theorem anyLine_mono {l m n : List Extent} (h : m ⊆ n) (hl : anyLine l n = false) : anyLine l m = false := by
  simp only [anyLine, List.any_eq_false, Bool.not_eq_true] at hl ⊢
  exact fun x hx y hy => hl x hx y (h hy)

/-- Fewer accesses meet no more of the words in flight. -/
theorem hazard_mono {e : Env} {c : Core} {rd wr rd' wr' : List Extent} (h : hazard e c rd wr = false) (hrd : rd' ⊆ rd)
    (hwr : wr' ⊆ wr) : hazard e c rd' wr' = false := by
  simp only [hazard, Bool.or_eq_false_iff, List.any_eq_false, Bool.not_eq_true] at h ⊢
  obtain ⟨hjobs, hgroups⟩ := h
  refine ⟨fun j hj => ?_, fun g hg => ?_⟩
  · obtain ⟨⟨hw, hww⟩, hrw⟩ := hjobs j hj
    exact ⟨⟨anyLine_mono hrd hw, anyLine_mono hwr hww⟩, anyLine_mono hwr hrw⟩
  · obtain ⟨⟨hw, hww⟩, hall⟩ := hgroups g hg
    exact ⟨⟨anyLine_mono hrd hw, anyLine_mono hwr hww⟩, anyLine_mono hwr hall⟩

/-- A word whose operands in scratch are there and that meets no fault goes on. -/
theorem afterRead_goes {known : List (Bool × Nat)} {ready late : Bool} (hk : ∀ p ∈ known, p.1 = false) (hr : ready = true)
    (hl : late = false) (f : Issued) : afterRead known ready late f = f := by
  have hlate : firstCause ((late, pfRange) :: known) = none := firstCause_none (by simpa [hl] using hk)
  simp [afterRead, firstCause_none hk, hr, hlate]

/-- A word that reads no line through the controller waits for no bank. -/
theorem afterBanks_nil (s : State) (e : Env) (f : State → Issued) :
    afterBanks s e [] [] f = f (dropAccess s (.word e.l.id e.ex)) := rfl

/-- A legal word that completes on a ready skein leaves the state and the core that its unit answers. -/
theorem word_done {s t : State} {k : Skein} {x : SkeinCtx} {e : Env} (hr : Ready s k x e) {h : Hdr}
    (hg : guardOn x.core h = true) {legal : Bool} (hl : legal = true) {f : Env → State → Core → Issued} {c : Core}
    (hf : f e s (past x.core) = .done (t, some c)) : issueWord s k.val legal h f = withCore t k c := by
  rw [issueWord_ready hr hl hg, hf]

section
variable {s : State} {k : Skein} {x : SkeinCtx} {e : Env} {w : MWord}

theorem cellBeyond_inside {c : Core} (h : ∀ i ∈ tallyCells w e c, i < dTally e.l.desc) : cellBeyond w e c = false := by
  simpa [cellBeyond] using h

/-! ### A word's operands are those of the core before it -/

theorem hazard_past (e : Env) (c : Core) (rd wr : List Extent) : hazard e (past c) rd wr = hazard e c rd wr := rfl
theorem extentReady_past (c : Core) (a n : Nat) : extentReady (past c) a n = extentReady c a n := rfl
theorem scratchRead_past (e : Env) (c : Core) (a n : Nat) : scratchRead e (past c) a n = scratchRead e c a n := rfl
theorem tallyIndexExtent_past (w : MWord) (c : Core) : tallyIndexExtent w (past c) = tallyIndexExtent w c := rfl
theorem tallyFaults_past (w : MWord) (e : Env) (c : Core) : tallyFaults w e (past c) = tallyFaults w e c := rfl
theorem tallyCells_past (w : MWord) (e : Env) (c : Core) : tallyCells w e (past c) = tallyCells w e c := rfl
theorem cellBeyond_past (w : MWord) (e : Env) (c : Core) : cellBeyond w e (past c) = cellBeyond w e c := rfl

/-! ### Cells of the own area (R217) -/

theorem noteReader_nil (s : State) (launch : Nat) : noteReader s launch [] = s := rfl

theorem addends_dropAccess (s : State) (a : Waiter) (i : Nat) : (getS (dropAccess s a) i).addends = (getS s i).addends := by
  refine foldl_keeps (fun s => (getS s i).addends) _ _ (fun s j _ => ?_) s
  by_cases h : i = j
  · rw [h, getS_modS_self]
  · rw [getS_modS_ne s _ h]

theorem launches_dropAccess (s : State) (a : Waiter) : (dropAccess s a).launches = s.launches :=
  foldl_keeps State.launches _ _ (fun _ _ _ => modS_launches ..) s

theorem foldl_kept {β : Type} (s : State) (l : List β) : l.foldl (fun s _ => s) s = s := foldl_keeps id _ l (fun _ _ _ => rfl) s

/-- The word's wait for a bank touches no cell. -/
theorem ownCell_dropAccess (s : State) (e : Env) (a : Waiter) (i : Nat) : ownCell (dropAccess s a) e i = ownCell s e i := by
  simp only [ownCell, findL, addends_dropAccess, launches_dropAccess]

/-! ### TALLY, TALRD and TALLY_APPLY -/

/-- The accesses of a tally word in order, aligned, inside scratch, free and there. -/
structure TallyReady (e : Env) (c : Core) (w : MWord) (size : Nat) : Prop where
  aligned : (getX64 c w.sb).toNat % size = 0
  inside : (getX64 c w.sb).toNat + tallyCount w * size ≤ e.top
  index : firstCause (tallyFaults w e c) = none
  cells : ∀ i ∈ tallyCells w e c, i < dTally e.l.desc
  operand : extentReady c (getX64 c w.sb).toNat (tallyCount w * size) = true
  indexes : extentReady c (tallyIndexExtent w c).1 (tallyIndexExtent w c).2 = true

theorem tally_adds (hr : Ready s k x e) (hg : guardOn x.core w.hdr = true) {kind : AddKind} (hl : legalTally w = true)
    (hkind : addKind (tallyCode w) = some kind) (h : TallyReady e x.core w kind.size)
    (hz : hazard e x.core [((getX64 x.core w.sb).toNat, tallyCount w * kind.size), tallyIndexExtent w x.core] [] = false) :
    exec (.tally k w) s = .next (withCore
      (((tallyCells w e x.core).zip ((List.range (tallyCount w)).map
          (fun i => leNat (scratchRead e x.core ((getX64 x.core w.sb).toNat + i * kind.size) kind.size)))).foldl
        (fun s p => modS s (p.1 / 4 % 8) (fun st =>
          { st with addends := st.addends ++ [{ launch := e.l.id, ex := e.ex, cell := p.1, kind, value := p.2 }] })) s)
      k (past x.core)) := by
  refine congrArg Host.Outcome.next (word_done hr hg hl ?_)
  rw [hkind]
  simp only [Option.getD_some, hazard_past, extentReady_past, scratchRead_past, tallyIndexExtent_past, tallyFaults_past,
    tallyCells_past, cellBeyond_past, getX64_past]
  have hx : hazard e x.core [tallyIndexExtent w x.core] [] = false := hazard_mono hz (by simp) (by simp)
  refine (afterRead_goes ?_ ?_ (cellBeyond_inside h.cells) _).trans (if_neg ?_)
  · simpa [outside, h.aligned, Nat.not_lt.mpr h.inside] using firstCause_eq_none.mp h.index
  · simp [hx, h.indexes]
  · simp [hz, h.indexes, h.operand]

theorem talrd_reads (hr : Ready s k x e) (hg : guardOn x.core w.hdr = true) {code : ReadCode} (hl : legalTalrd w = true)
    (htable : tallyTable w = false) (hcode : ReadCode.ofCode (tallyCode w) = some code) {size : Nat}
    (hsize : (if code = .int64 then 8 else 4) = size) (h : TallyReady e x.core w size)
    (hres : e.res ≤ (getX64 x.core w.sb).toNat)
    (hz : hazard e x.core [tallyIndexExtent w x.core] [((getX64 x.core w.sb).toNat, tallyCount w * size)] = false) :
    let r := (tallyCells w e x.core).map (fun i => cellRead (ownCell s e i) code (codeRnd w.hdr.rnd.toNat))
    exec (.talrd k w) s = .next (withCore (dropAccess s (.word e.l.id e.ex)) k
      { scratchWrite e (past x.core) (getX64 x.core w.sb).toNat (r.flatMap (fun v => leBytes size v.1)) with
        flags := x.core.flags ||| (flagUnion (r.map (·.2)) &&& w.hdr.fmask) }) := by
  refine congrArg Host.Outcome.next (word_done hr hg (by simp [hl, htable]) ?_)
  rw [hcode]
  simp only [Option.getD_some, hsize, hazard_past, extentReady_past, tallyIndexExtent_past, tallyFaults_past,
    tallyCells_past, cellBeyond_past, getX64_past]
  have hx : hazard e x.core [tallyIndexExtent w x.core] [] = false := hazard_mono hz (by simp) (by simp)
  refine (afterRead_goes ?_ ?_ ?_ _).trans ((if_neg ?_).trans ?_)
  · simpa [outside, intoResident, htable, h.aligned, Nat.not_lt.mpr h.inside, Nat.not_lt.mpr hres] using
      firstCause_eq_none.mp h.index
  · simp [hx, h.indexes]
  · simp [htable, cellBeyond_inside h.cells]
  · simp [hz, h.indexes, h.operand]
  · simp only [htable, Bool.false_eq_true, if_false, Option.any_none, Option.elim_none, afterBanks_nil, ownCell_dropAccess]
    split
    case h_1 hfound =>
      obtain ⟨i, -, hi⟩ := List.mem_map.mp (List.of_mem_zip (List.mem_of_find?_eq_some hfound)).1
      have := List.find?_some hfound
      simp [← hi] at this
    case h_2 =>
      simp only [List.foldl_nil, List.foldl_map, List.map_map, noteLost, noteReader_nil]
      rw [foldl_kept]
      rfl

/-- A tally unit's oldest addend of a cell in a lost burst is dropped, and its launch runs again. -/
theorem tallyApply_lost {p : Stack} {a : Addend} {rest : List Addend} (h : (getS s p.val).addends = a :: rest)
    (hlost : smem s.lostBursts (Config.tallyBurst a.launch a.ex a.cell) = true) :
    exec (.tallyApply p) s = .next (reexecLaunch (modS s p.val (fun q => { q with addends := rest })) a.launch) := by
  change execTallyApply p s = _
  rw [execTallyApply, h]
  simp only [hlost, if_true]

end

/-- Settles O31, word by word; TALLY_APPLY by whether the oldest addend's burst is lost. -/
theorem tallyWords : Obligations.TallyWords := by
  refine fun s k x e w => ⟨fun hr hg => ⟨?tally, ?talrd⟩, fun st a rest h => ⟨tallyApply_cons h, tallyApply_lost h⟩⟩
  case tally =>
    intro kind hl hkind len ha htop hf hin hz hrb hri
    exact tally_adds hr hg hl hkind ⟨ha, htop, hf, hin, hrb, hri⟩ hz
  case talrd =>
    intro code hl htable hcode size len ha hres htop hf hin hz hrb hri
    exact talrd_reads hr hg hl htable hcode rfl ⟨ha, htop, hf, hin, hrb, hri⟩ hres hz

end Sys2Proof.Machine
end

section
/-! SUPPORT. Write-combining buffers: what a flushed entry leaves of memory, burst by burst (O39). -/

namespace Sys2Proof.Machine

/-! ### Bytes that a mask gives (R208) -/

/-- The bytes that a partial function gives below `n`, with their addresses from a base on. -/
def maskedBytes (f : Nat → Option Byte) (base n : Nat) : List (Nat × Byte) :=
  (List.range n).filterMap (fun i => (f i).map (fun v => (base + i, v)))

theorem maskedBytes_succ (f : Nat → Option Byte) (base n : Nat) :
    maskedBytes f base (n + 1) = maskedBytes f base n ++ ((f n).map (fun v => (base + n, v))).toList := by
  rw [maskedBytes, List.range_succ, List.filterMap_append, ← maskedBytes]
  cases hf : f n <;> simp [hf]

theorem maskedBytes_length (f : Nat → Option Byte) (base n : Nat) :
    (maskedBytes f base n).length = n ↔ ∀ i < n, (f i).isSome = true := by
  have h := List.filterMap_length_eq_length (l := List.range n) (f := fun i => (f i).map (fun v => (base + i, v)))
  rw [List.length_range] at h
  rw [maskedBytes, h]
  simp

theorem maskedBytes_full {f : Nat → Option Byte} {n : Nat} (hf : ∀ i < n, (f i).isSome = true) (base : Nat) :
    (maskedBytes f base n).map (·.2) = (List.range n).map (fun i => (f i).getD 0) := by
  rw [maskedBytes, List.map_filterMap, ← List.filterMap_eq_map]
  refine List.filterMap_congr (fun i hi => ?_)
  obtain ⟨v, hv⟩ := Option.isSome_iff_exists.mp (hf i (List.mem_range.mp hi))
  simp [hv]

/-- Writing masked bytes one by one changes just those. -/
theorem nget_foldl_masked (f : Nat → Option Byte) (m : NMap Byte) (base a : Nat) : ∀ n : Nat,
    nget 0 ((maskedBytes f base n).foldl (fun m p => nput 0 m p.1 p.2) m) a =
      if base ≤ a ∧ a < base + n then (f (a - base)).getD (nget 0 m a) else nget 0 m a
  | 0 => by
    rw [if_neg (by omega)]
    rfl
  | n + 1 => by
    have ih := nget_foldl_masked f m base a n
    rw [maskedBytes_succ, List.foldl_append]
    by_cases ha : a = base + n
    · rw [if_neg (by omega)] at ih
      rw [if_pos (by omega), show a - base = n by omega]
      cases f n with
      | none => exact ih
      | some v => simp [ha]
    · have hrange : (base ≤ a ∧ a < base + n) ↔ (base ≤ a ∧ a < base + (n + 1)) := by omega
      simp only [hrange] at ih
      rw [← ih]
      cases f n with
      | none => rfl
      | some v => exact nget_nput_ne ha

/-- Writing masked bytes as one string, where the mask is full, changes just those. -/
theorem nget_nputs_full {f : Nat → Option Byte} {n : Nat} (hf : ∀ i < n, (f i).isSome = true) (m : NMap Byte) (base a : Nat) :
    nget 0 (nputs 0 m base ((maskedBytes f base n).map (·.2))) a =
      if base ≤ a ∧ a < base + n then (f (a - base)).getD (nget 0 m a) else nget 0 m a := by
  rw [maskedBytes_full hf, nget_nputs]
  by_cases ha : base ≤ a ∧ a < base + n
  · obtain ⟨v, hv⟩ := Option.isSome_iff_exists.mp (hf (a - base) (by omega))
    simp [ha, hv]
  · simp [ha]

/-! ### One burst of an entry -/

/-- Every byte of a burst of an entry is masked. -/
def burstFull (w : WcEntry) (b : Nat) : Bool := (List.range 32).all (fun i => (nget none w.data (32 * b + i)).isSome)

/-- The bytes of a burst that an entry masks, with their addresses. -/
def burstBytes (w : WcEntry) (b : Nat) : List (Nat × Byte) :=
  maskedBytes (fun i => nget none w.data (32 * b + i)) (256 * w.line + 32 * b) 32

/-- The flush of one burst. -/
def flushBurst (w : WcEntry) (s : State) (b : Nat) : State :=
  if (burstBytes w b).isEmpty then s
  else if (burstBytes w b).length = 32 then
    { s with mem := nputs 0 s.mem (256 * w.line + 32 * b) ((burstBytes w b).map (·.2)),
             lostBursts := sdel s.lostBursts ((256 * w.line + 32 * b) / 32) }
  else if smem s.lostBursts ((256 * w.line + 32 * b) / 32) then logErr s Err.burstLostWrite noTenant (256 * w.line + 32 * b) w.fn
  else { s with mem := (burstBytes w b).foldl (fun m p => nput 0 m p.1 p.2) s.mem }

theorem flushEntry_eq (s : State) (w : WcEntry) : flushEntry s w = (List.range 8).foldl (flushBurst w) s := rfl

theorem burstFull_iff (w : WcEntry) (b : Nat) :
    burstFull w b = true ↔ ∀ i < 32, (nget none w.data (32 * b + i)).isSome = true := by
  simp [burstFull]

theorem burstBytes_length (w : WcEntry) (b : Nat) : (burstBytes w b).length = 32 ↔ burstFull w b = true :=
  (maskedBytes_length ..).trans (burstFull_iff w b).symm

/-- Memory with the masked bytes of a burst written. -/
def burstRead (w : WcEntry) (m : NMap Byte) (b a : Nat) : Byte :=
  if a / 256 = w.line ∧ a % 256 / 32 = b then (nget none w.data (a % 256)).getD (nget 0 m a) else nget 0 m a

theorem burstRead_eq (w : WcEntry) (m : NMap Byte) {b : Nat} (hb : b < 8) (a : Nat) :
    (if 256 * w.line + 32 * b ≤ a ∧ a < 256 * w.line + 32 * b + 32
      then (nget none w.data (32 * b + (a - (256 * w.line + 32 * b)))).getD (nget 0 m a)
      else nget 0 m a) = burstRead w m b a := by
  have hrange : (256 * w.line + 32 * b ≤ a ∧ a < 256 * w.line + 32 * b + 32) ↔
      (a / 256 = w.line ∧ a % 256 / 32 = b) := by omega
  by_cases h : 256 * w.line + 32 * b ≤ a ∧ a < 256 * w.line + 32 * b + 32
  · rw [burstRead, if_pos h, if_pos (hrange.mp h), show 32 * b + (a - (256 * w.line + 32 * b)) = a % 256 by omega]
  · rw [burstRead, if_neg h, if_neg (hrange.not.mp h)]

theorem nget_foldl_burstBytes (w : WcEntry) (m : NMap Byte) {b : Nat} (hb : b < 8) (a : Nat) :
    nget 0 ((burstBytes w b).foldl (fun m p => nput 0 m p.1 p.2) m) a = burstRead w m b a := by
  rw [← burstRead_eq w m hb]
  exact nget_foldl_masked (fun i => nget none w.data (32 * b + i)) m _ a 32

theorem nget_nputs_burstBytes {w : WcEntry} {b : Nat} (hf : burstFull w b = true) (m : NMap Byte) (hb : b < 8) (a : Nat) :
    nget 0 (nputs 0 m (256 * w.line + 32 * b) ((burstBytes w b).map (·.2))) a = burstRead w m b a := by
  rw [← burstRead_eq w m hb]
  exact nget_nputs_full ((burstFull_iff w b).mp hf) m _ a

/-- What a burst's flush leaves: its masked bytes are written, unless the burst is lost and not every byte is masked; then its
bytes stay. No other burst is lost or found, and no stack changes. -/
theorem flushBurst_cases (w : WcEntry) (s : State) {b : Nat} (hb : b < 8) :
    (∀ a, nget 0 (flushBurst w s b).mem a = if burstFull w b = true ∨ smem s.lostBursts (8 * w.line + b) = false
      then burstRead w s.mem b a else nget 0 s.mem a) ∧
    (∀ x, x ≠ 8 * w.line + b → smem (flushBurst w s b).lostBursts x = smem s.lostBursts x) ∧
    (flushBurst w s b).hbmStacks = s.hbmStacks := by
  have hburst : (256 * w.line + 32 * b) / 32 = 8 * w.line + b := by omega
  unfold flushBurst
  rw [hburst]
  split
  case isTrue hempty =>
    refine ⟨fun a => ?_, fun _ _ => rfl, rfl⟩
    rw [← nget_foldl_burstBytes w s.mem hb a, List.isEmpty_iff.mp hempty, List.foldl_nil, ite_self]
  case isFalse =>
    split
    case isTrue hlength =>
      have hfull := (burstBytes_length w b).mp hlength
      refine ⟨fun a => ?_, fun x hx => ?_, rfl⟩
      · rw [if_pos (.inl hfull)]
        exact nget_nputs_burstBytes hfull s.mem hb a
      · simp [smem, sdel, hx]
    case isFalse hlength =>
      have hpart := (burstBytes_length w b).not.mp hlength
      split
      case isTrue hlost => exact ⟨fun a => by simp [hpart, hlost], fun _ _ => by simp, by simp⟩
      case isFalse hkept =>
        refine ⟨fun a => ?_, fun _ _ => rfl, rfl⟩
        rw [if_pos (.inr (by simpa using hkept))]
        exact nget_foldl_burstBytes w s.mem hb a

/-! ### A whole entry -/

/-- What the flush of an entry's bursts below `n` leaves. -/
structure BurstsFlushed (w : WcEntry) (n : Nat) (s t : State) : Prop where
  mem : ∀ a, nget 0 t.mem a =
    if a / 256 = w.line ∧ a % 256 / 32 < n ∧ (burstFull w (a % 256 / 32) = true ∨ smem s.lostBursts (a / 32) = false)
    then (nget none w.data (a % 256)).getD (nget 0 s.mem a) else nget 0 s.mem a
  lost : ∀ b, n ≤ b → smem t.lostBursts (8 * w.line + b) = smem s.lostBursts (8 * w.line + b)
  unchanged : t.hbmStacks = s.hbmStacks

theorem burstsFlushed (w : WcEntry) (s : State) : ∀ n ≤ 8, BurstsFlushed w n s ((List.range n).foldl (flushBurst w) s)
  | 0, _ => ⟨fun a => by simp, fun _ _ => rfl, rfl⟩
  | n + 1, hn => by
    obtain ⟨hmem, hlost, hstacks⟩ := burstsFlushed w s n (by omega)
    obtain ⟨bmem, blost, bstacks⟩ := flushBurst_cases w ((List.range n).foldl (flushBurst w) s) (show n < 8 by omega)
    rw [List.range_succ, List.foldl_append, List.foldl_cons, List.foldl_nil]
    refine ⟨fun a => ?_, fun b hb => ?_, bstacks.trans hstacks⟩
    · rw [bmem, hlost n (Nat.le_refl n)]
      by_cases ha : a / 256 = w.line ∧ a % 256 / 32 = n
      · obtain ⟨hline, hlast⟩ := ha
        have hburst : a / 32 = 8 * w.line + n := by omega
        have hbefore : nget 0 ((List.range n).foldl (flushBurst w) s).mem a = nget 0 s.mem a := by
          rw [hmem, if_neg (fun ⟨_, h, _⟩ => by omega)]
        simp only [burstRead, hline, hlast, hbefore, hburst, true_and, and_self, if_true, Nat.lt_succ_self]
      · have hlt : (a / 256 = w.line ∧ a % 256 / 32 < n + 1) ↔ (a / 256 = w.line ∧ a % 256 / 32 < n) := by omega
        rw [burstRead, if_neg ha, ite_self, hmem]
        exact if_congr (by rw [← and_assoc, ← hlt, and_assoc]) rfl rfl
    · rw [blost _ (by omega), hlost b (by omega)]

/-- Every masked byte of an entry reaches memory unless its burst is lost and only partly masked. -/
theorem flushEntry_mem (s : State) (w : WcEntry) (a : Nat) : nget 0 (flushEntry s w).mem a =
    if a / 256 = w.line ∧ (burstFull w (a % 256 / 32) = true ∨ smem s.lostBursts (a / 32) = false)
    then (nget none w.data (a % 256)).getD (nget 0 s.mem a) else nget 0 s.mem a := by
  rw [flushEntry_eq, (burstsFlushed w s 8 (Nat.le_refl 8)).mem]
  simp [show a % 256 / 32 < 8 by omega]

theorem flushEntry_hbmStacks (s : State) (w : WcEntry) : (flushEntry s w).hbmStacks = s.hbmStacks :=
  (burstsFlushed w s 8 (Nat.le_refl 8)).unchanged

end Sys2Proof.Machine
end

section
/-! SUPPORT. The idle flush of a line, the patrol scrub, and the ends of rebuilds and retrains (O39). -/

namespace Sys2Proof.Machine

/-! ### Idle flush (R207, R229) -/

section
variable {s : State} {st : Stack} {w : WcEntry} {l1 l2 : List WcEntry}

/-- The only entry of its line is found. -/
theorem find?_line (hne : ∀ v, v ∈ l1 ++ l2 → v.line ≠ w.line) :
    (l1 ++ w :: l2).find? (fun v => v.line == w.line) = some w := by
  rw [List.find?_append, List.find?_eq_none.mpr (fun v hv => by simpa using hne v (List.mem_append_left _ hv))]
  simp

theorem filter_line (hne : ∀ v, v ∈ l1 ++ l2 → v.line ≠ w.line) :
    (l1 ++ w :: l2).filter (fun v => v.line == w.line) = [w] := by
  rw [List.filter_append, List.filter_cons_of_pos (by simp),
    List.filter_eq_nil_iff.mpr (fun v hv => by simpa using hne v (List.mem_append_left _ hv)),
    List.filter_eq_nil_iff.mpr (fun v hv => by simpa using hne v (List.mem_append_right _ hv)), List.nil_append]

theorem filter_otherLines (hne : ∀ v, v ∈ l1 ++ l2 → v.line ≠ w.line) :
    (l1 ++ w :: l2).filter (fun v => !(v.line == w.line)) = l1 ++ l2 := by
  rw [List.filter_append, List.filter_cons_of_neg (by simp), ← List.filter_append]
  exact List.filter_eq_self.mpr (fun v hv => by simpa using hne v hv)

/-- An entry of another line is not marked. -/
theorem map_otherLines {l : List WcEntry} (hne : ∀ v, v ∈ l → v.line ≠ w.line) (f : WcEntry → WcEntry) :
    l.map (fun v => if v.line == w.line then f v else v) = l :=
  (List.map_congr_left (fun v hv => if_neg (by simpa using hne v hv))).trans (List.map_id' l)

theorem wcIdleFlush_flushes (hwc : (getS s st.val).wc = l1 ++ w :: l2) (hne : ∀ v, v ∈ l1 ++ l2 → v.line ≠ w.line)
    (hst : w.line % 8 = st.val) (hidle : w.since + 2000 ≤ s.clk.elapsed) :
    exec (.wcIdleFlush st w.line) s = .next (flushLine s w.line) := by
  change execWcIdleFlush st w.line s = _
  rw [execWcIdleFlush, hwc, find?_line hne]
  simp [hidle, hst]

/-- Of a busy bank the entry waits for the end of the step. -/
theorem flushLine_busy (hwc : (getS s st.val).wc = l1 ++ w :: l2) (hne : ∀ v, v ∈ l1 ++ l2 → v.line ≠ w.line)
    (hst : w.line % 8 = st.val) (hbusy : lineBusy s w.line = true) :
    (flushLine s w.line).mem = s.mem ∧ (getS (flushLine s w.line) st.val).wc = l1 ++ { w with due := true } :: l2 := by
  have hnow (v : WcEntry) : (v.line == w.line && !lineBusy s v.line) = false := by
    by_cases h : v.line = w.line <;> simp [h, hbusy]
  simp only [flushLine, flushWhere, hst, hnow, Bool.not_false, List.filter_false, List.foldl_nil, List.filter_true]
  refine ⟨rfl, ?_⟩
  rw [getS_modS_self]
  dsimp only
  rw [hwc, List.map_append, List.map_cons, map_otherLines (fun v hv => hne v (List.mem_append_left _ hv)),
    map_otherLines (fun v hv => hne v (List.mem_append_right _ hv)), if_pos (by simp)]

/-- Of a free bank the entry is gone, and flushed. -/
theorem flushLine_free (hwc : (getS s st.val).wc = l1 ++ w :: l2) (hne : ∀ v, v ∈ l1 ++ l2 → v.line ≠ w.line)
    (hst : w.line % 8 = st.val) (hfree : lineBusy s w.line = false) :
    ∃ f, flushLine s w.line = flushEntry (modS s st.val f) w ∧ (f (getS s st.val)).wc = l1 ++ l2 := by
  have hnow (v : WcEntry) : (v.line == w.line && !lineBusy s v.line) = (v.line == w.line) := by
    by_cases h : v.line = w.line <;> simp [h, hfree]
  simp only [flushLine, flushWhere, hst, hnow, hwc, filter_line hne, List.foldl_cons, List.foldl_nil]
  refine ⟨_, rfl, ?_⟩
  dsimp only
  rw [hwc, filter_otherLines hne, map_otherLines hne]

end

/-! ### Patrol scrub (R213, R221, R222) -/

theorem patrolScrub_eq {s : State} {st : Stack} {burst : Nat} (hin : 32 * burst < dpaLimit)
    (hst : (stripedLoc (32 * burst)).stack = st.val) (hfree : lineBusy s (burst / 8) = false) (c : BurstCheck) :
    exec (.patrolScrub st burst c) s = .next (match c with
      | .clean => s
      | .corrected => correctedError s st.val (stripedLoc (32 * burst)).lpc burst
      | .uncorrectable => burstLost s burst) := by
  change execPatrolScrub st burst c s = _
  have hskip : ¬(32 * burst ≥ dpaLimit ∨ (stripedLoc (32 * burst)).stack ≠ st.val ∨ lineBusy s (burst / 8) = true) := by
    simp [hst, hfree, hin]
  rw [execPatrolScrub, if_neg hskip]
  cases c with
  | clean | uncorrectable => rfl
  | corrected => rw [hst]

/-! ### Lines rebuilt from the versions (R223, R631) -/

theorem allSome_eq_some {α : Type} : ∀ {l : List (Option α)} {w : List α}, allSome l = some w → l = w.map some
  | [], w, h => by
    cases h
    rfl
  | none :: l, w, h => by simp [allSome] at h
  | some x :: l, w, h => by
    obtain ⟨w', hw', rfl⟩ : ∃ w', allSome l = some w' ∧ x :: w' = w := Option.map_eq_some_iff.mp h
    rw [allSome_eq_some hw', List.map_cons]

/-- A run of an element's bytes lies in one line. -/
def InLine (x : Nat × Bytes) : Prop := x.1 % 256 + x.2.length ≤ 256

theorem stripedOf_mod (p : Loc) : stripedOf p % 256 = p.byte % 256 := by
  dsimp only [stripedOf]
  omega

/-- A multiple of a power of two and what follows it, up to that power, lie in one line. -/
theorem multiple_inLine (c k : Nat) : c * 2 ^ k % 256 + min (2 ^ k) 256 ≤ 256 := by
  rcases Nat.le_total k 8 with hk | hk
  · have hline : 256 = 2 ^ k * 2 ^ (8 - k) := by rw [← Nat.pow_add, Nat.add_sub_cancel' hk]
    have hlt := Nat.mod_lt c (Nat.two_pow_pos (8 - k))
    calc c * 2 ^ k % 256 + min (2 ^ k) 256 ≤ 2 ^ k * c % (2 ^ k * 2 ^ (8 - k)) + 2 ^ k := by
          rw [Nat.mul_comm c, ← hline]
          omega
      _ = 2 ^ k * (c % 2 ^ (8 - k) + 1) := by rw [Nat.mul_mod_mul_left, Nat.mul_succ]
      _ ≤ 2 ^ k * 2 ^ (8 - k) := Nat.mul_le_mul_left _ hlt
      _ = 256 := hline.symm
  · have hz : c * 2 ^ k % 256 = 0 := Nat.mod_eq_zero_of_dvd ((Nat.pow_dvd_pow 2 hk).mul_left c)
    omega

/-- A piece of a row lies in one line. -/
theorem rowRuns_inLine {d : Bytes} {plane r : Nat} {x : Nat × Nat} (hx : x ∈ rowRuns d plane r) : x.1 % 256 + x.2 ≤ 256 := by
  obtain ⟨i, -, rfl⟩ := List.mem_map.mp hx
  dsimp only
  rw [stripedOf_mod, Nat.add_mul_mod_self_left]
  exact multiple_inLine _ _

theorem cellAddr_mod {d : Bytes} (hd : tData d % 64 = 0) (plane r : Nat) : cellAddr d plane r % 64 = 0 := by
  have hplane : plane * tallyPlane (tCount d) % 64 = 0 := by
    rw [tallyPlane, roundUp, ← Nat.mul_assoc]
    exact Nat.mod_eq_zero_of_dvd (Dvd.dvd.mul_left (by decide) _)
  unfold cellAddr
  omega

theorem elementRuns_inLine {t : Table} (hd : tData t.desc % 64 = 0) {plane r : Nat} {a : ArenaTable} {x : Nat × Bytes}
    (hx : x ∈ elementRuns t plane r a) : InLine x := by
  unfold elementRuns at hx
  split at hx
  · obtain ⟨y, hy, rfl⟩ := List.mem_map.mp hx
    have hrun := rowRuns_inLine (List.of_mem_zip hy).1
    simp only [InLine, slice, List.length_take]
    omega
  · have hcell := cellAddr_mod hd plane r
    cases List.mem_singleton.mp hx
    simp only [InLine, length_fit]
    omega
  · cases hx

theorem elementWrites_inLine {v : Versions} {t : Table} (hd : tData t.desc % 64 = 0) {p r : Nat} {l : List (Nat × Bytes)}
    (h : elementWrites v t p r = some l) {x : Nat × Bytes} (hx : x ∈ l) : InLine x := by
  unfold elementWrites at h
  split at h
  · cases h
    exact (List.mem_append.mp hx).elim (elementRuns_inLine hd) (elementRuns_inLine hd)
  · cases h

theorem mem_flatten_inLine {v : Versions} {t : Table} (hd : tData t.desc % 64 = 0) {p : Nat → Nat} {rs : List Nat}
    {w : List (List (Nat × Bytes))} (h : allSome (rs.map (fun r => elementWrites v t (p r) r)) = some w) :
    ∀ x ∈ w.flatten, InLine x := by
  intro x hx
  obtain ⟨l, hl, hxl⟩ := List.mem_flatten.mp hx
  have hmem : some l ∈ rs.map (fun r => elementWrites v t (p r) r) := allSome_eq_some h ▸ List.mem_map_of_mem hl
  obtain ⟨r, -, hr⟩ := List.mem_map.mp hmem
  exact elementWrites_inLine hd hr hxl

/-- A change of the tables alone. -/
theorem rebuildSubjects_keeps (s : State) (v : Versions) (t : Table) (bit : Nat → Nat) (rs : List Nat) :
    (rebuildSubjects s v t bit rs).lostBursts = s.lostBursts ∧ (rebuildSubjects s v t bit rs).launches = s.launches ∧
    (rebuildSubjects s v t bit rs).mem = s.mem := by
  unfold rebuildSubjects
  split <;> exact ⟨rfl, rfl, rfl⟩

theorem foldl_memWrite_keeps (s : State) (l : List (Nat × Bytes)) :
    (l.foldl (fun s x => memWrite s x.1 x.2) s).lostBursts = s.lostBursts ∧
    (l.foldl (fun s x => memWrite s x.1 x.2) s).launches = s.launches :=
  ⟨foldl_keeps State.lostBursts (fun s x => memWrite s x.1 x.2) l (fun _ _ _ => rfl) s,
    foldl_keeps State.launches (fun s x => memWrite s x.1 x.2) l (fun _ _ _ => rfl) s⟩

theorem foldl_memWrite_outside (s : State) {l : List (Nat × Bytes)} {a : Nat} (h : ∀ x ∈ l, a < x.1 ∨ x.1 + x.2.length ≤ a) :
    nget 0 (l.foldl (fun s x => memWrite s x.1 x.2) s).mem a = nget 0 s.mem a :=
  foldl_keeps (fun s => nget 0 s.mem a) _ l (fun _ x hx => nget_nputs_outside x.2 x.1 (h x hx)) s

/-- The rebuild of a line finds and loses no burst and leaves every launch. -/
theorem reconLine_keeps {s u : State} {v : Versions} {t : Table} {line : Nat} (h : reconLine s v t line = some u) :
    u.lostBursts = s.lostBursts ∧ u.launches = s.launches := by
  unfold reconLine at h
  dsimp only at h
  split at h
  all_goals
    obtain ⟨w, -, rfl⟩ := Option.map_eq_some_iff.mp h
    rw [(rebuildSubjects_keeps ..).1, (rebuildSubjects_keeps ..).2.1, (foldl_memWrite_keeps ..).1, (foldl_memWrite_keeps ..).2]
  · exact ⟨rfl, rfl⟩
  · exact ⟨memWrite_lostBursts .., memWrite_launches ..⟩

/-- The rebuild of a data line writes no other line. -/
theorem reconLine_outside {s u : State} {v : Versions} {t : Table} {line : Nat} (h : reconLine s v t line = some u)
    (hmap : mapElements t line = []) (hd : tData t.desc % 64 = 0) {a : Nat} (ha : a / 256 ≠ line) :
    nget 0 u.mem a = nget 0 s.mem a := by
  unfold reconLine at h
  rw [hmap] at h
  obtain ⟨w, hw, rfl⟩ := Option.map_eq_some_iff.mp h
  rw [(rebuildSubjects_keeps ..).2.2]
  refine foldl_memWrite_outside s (fun x hx => ?_)
  obtain ⟨hxw, hline⟩ := List.mem_filter.mp hx
  have hin := mem_flatten_inLine hd hw x hxw
  have hx1 : x.1 / 256 = line := by simpa using hline
  unfold InLine at hin
  omega

/-! ### The ends of a line's rebuild -/

section
variable {s : State} {line : Nat} {t : Table}

/-- The state whose readers of a line wait no longer. -/
def readersTaken (s : State) (line : Nat) : State := { s with lostReaders := s.lostReaders.filter (fun r => r.1 != line) }

/-- A lost line of a table, in a free bank, has its bytes again. -/
theorem lineRebuildDone_some (hlost : lineLost s line = true) (hfree : lineBusy s line = false)
    (ht : tableHolding s (256 * line) = some t) {copy : Option Bytes} {u : State}
    (hu : rebuildLine (readersTaken s line) t line copy = some u) :
    exec (.lineRebuildDone line copy) s = .next (((s.lostReaders.filter (fun r => r.1 == line)).map (·.2)).foldl reexecLaunch u) := by
  change execLineRebuildDone line copy s = _
  have hu' : rebuildLine (takeReaders s line).1 t line copy = some u := hu
  simp only [execLineRebuildDone, hlost, hfree, ht, hu', Bool.not_true, Bool.false_eq_true, or_self, if_false]
  rfl

/-- A lost line of a table, in a free bank, that cannot be rebuilt loses the table. -/
theorem lineRebuildDone_none (hlost : lineLost s line = true) (hfree : lineBusy s line = false)
    (ht : tableHolding s (256 * line) = some t) {copy : Option Bytes} (hu : rebuildLine (readersTaken s line) t line copy = none) :
    exec (.lineRebuildDone line copy) s = .next (((s.lostReaders.filter (fun r => r.1 == line)).map (·.2)).foldl
      (fun s id => endLaunch s id Status.memoryLost 0 0 [] 0) (tableLost (readersTaken s line) t line)) := by
  change execLineRebuildDone line copy s = _
  have hu' : rebuildLine (takeReaders s line).1 t line copy = none := hu
  simp only [execLineRebuildDone, hlost, hfree, ht, hu', Bool.not_true, Bool.false_eq_true, or_self, if_false]
  rfl

/-- Without a replica's copy a line comes from the versions. -/
theorem rebuildLine_versions {s : State} {copy : Option Bytes} (h : inGroup s = false ∨ copy = none) :
    rebuildLine s t line copy = ((versions s).bind (fun v => reconLine s v t line)).map (fun s => lineFound s line) := by
  unfold rebuildLine
  split
  · rename_i hg
    simp [hg] at h
  · rw [Option.map_bind]
    rfl

theorem mem_lineFound {u : State} (hu : u.lostBursts = s.lostBursts) (x : Nat) :
    x ∈ (lineFound u line).lostBursts ↔ x ∈ s.lostBursts ∧ x / 8 ≠ line := by
  simp [lineFound, hu]

/-- A replica's copy is the line's content. -/
theorem copied_mem {b : Bytes} (hb : b.length = 256) (a : Nat) :
    nget 0 (memWrite s (256 * line) (fit 256 b)).mem a = if a / 256 = line then b.getD (a % 256) 0 else nget 0 s.mem a := by
  have hfit : fit 256 b = b := hb ▸ fit_self b
  have hrange : (256 * line ≤ a ∧ a < 256 * line + b.length) ↔ a / 256 = line := by omega
  rw [hfit, memWrite]
  dsimp only
  rw [nget_nputs]
  by_cases h : a / 256 = line
  · rw [dif_pos (hrange.mpr h), if_pos h, List.getD_eq_getElem _ _ (by omega)]
    congr 1
    omega
  · rw [dif_neg (hrange.not.mpr h), if_neg h]

theorem lineRebuildDone_copy (hlost : lineLost s line = true) (hfree : lineBusy s line = false)
    (ht : tableHolding s (256 * line) = some t) (hg : inGroup s = true) (b : Bytes) :
    exec (.lineRebuildDone line (some b)) s = .next (((s.lostReaders.filter (fun r => r.1 == line)).map (·.2)).foldl reexecLaunch
      (lineFound (memWrite (readersTaken s line) (256 * line) (fit 256 b)) line)) := by
  have hg' : inGroup (readersTaken s line) = true := hg
  exact lineRebuildDone_some hlost hfree ht (by simp only [rebuildLine, hg'])

theorem lineRebuildDone_found (hlost : lineLost s line = true) (hfree : lineBusy s line = false)
    (ht : tableHolding s (256 * line) = some t) {copy : Option Bytes} (hcopy : inGroup s = false ∨ copy = none) {v : Versions}
    {u : State} (hv : versions (readersTaken s line) = some v) (hu : reconLine (readersTaken s line) v t line = some u) :
    exec (.lineRebuildDone line copy) s =
      .next (((s.lostReaders.filter (fun r => r.1 == line)).map (·.2)).foldl reexecLaunch (lineFound u line)) := by
  have hcopy' : inGroup (readersTaken s line) = false ∨ copy = none := hcopy
  exact lineRebuildDone_some hlost hfree ht (by rw [rebuildLine_versions hcopy', hv, Option.bind_some, hu, Option.map_some])

theorem lineRebuildDone_tableLost (hlost : lineLost s line = true) (hfree : lineBusy s line = false)
    (ht : tableHolding s (256 * line) = some t) {copy : Option Bytes} (hcopy : inGroup s = false ∨ copy = none)
    (hnone : (versions (readersTaken s line)).bind (fun v => reconLine (readersTaken s line) v t line) = none) :
    exec (.lineRebuildDone line copy) s = .next (((s.lostReaders.filter (fun r => r.1 == line)).map (·.2)).foldl
      (fun s id => endLaunch s id Status.memoryLost 0 0 [] 0) (tableLost (readersTaken s line) t line)) := by
  have hcopy' : inGroup (readersTaken s line) = false ∨ copy = none := hcopy
  exact lineRebuildDone_none hlost hfree ht (by rw [rebuildLine_versions hcopy', hnone, Option.map_none])

end

/-! ### Rebuilds and retrains of pseudo-channels (R226, R543, R544) -/

@[simp] theorem persistMap_hbmStacks (s : State) : (persistMap s).hbmStacks = s.hbmStacks := by
  unfold persistMap
  dsimp only
  split
  · rfl
  · split <;> rfl

section
variable {s : State} {st : Stack}

/-- At its end a rebuild gives the logical number to the spare. -/
theorem pcRebuildDone_maps {r : PcRebuild} {rest : List PcRebuild} (hr : (getS s st.val).rebuild = r :: rest)
    (hend : pcLines ≤ r.cursor) : ∃ t, exec (.pcRebuildDone st) s = .next t ∧
      (getS t st.val).pcMap = updAt (fun _ => r.target) (getS s st.val).pcMap r.lpc ∧ (getS t st.val).rebuild = rest := by
  refine ⟨persistMap (modS s st.val (fun q =>
    { q with pcMap := updAt (fun _ => r.target) q.pcMap r.lpc, rebuild := rest })), ?_, ?_⟩
  · change execPcRebuildDone st s = _
    rw [execPcRebuildDone, hr]
    simp only [Nat.not_lt.mpr hend, if_false]
  · rw [getS, persistMap_hbmStacks, ← getS, getS_modS_self]
    exact ⟨rfl, rfl⟩

theorem pcRebuildDone_runs {r : PcRebuild} {rest : List PcRebuild} (hr : (getS s st.val).rebuild = r :: rest)
    (hend : r.cursor < pcLines) : exec (.pcRebuildDone st) s = .next s := by
  change execPcRebuildDone st s = _
  rw [execPcRebuildDone, hr]
  simp only [hend, if_true]

theorem pcRetrain_starts {lpc : Fin 30} {cause : RetrainCause} (hnone : (getS s st.val).retraining = none)
    (hrebuild : (getS s st.val).rebuild.any (fun r => r.lpc == lpc.val) = false)
    (hsteps : (getS s st.val).steps.any (fun y => y.lpc == lpc.val) = false) (hdue : retrainDue s st.val lpc.val cause = true) :
    exec (.pcRetrain st lpc cause) s = .next (modS (flushWhere s st.val (fun w => (stripedLoc (256 * w.line)).lpc == lpc.val))
      st.val (fun q => { q with retraining := some (lpc.val, cause) })) := by
  change execPcRetrain st lpc cause s = _
  simp only [execPcRetrain, hnone, hrebuild, hsteps, hdue, Option.isSome_none, Bool.not_true, Bool.false_eq_true, or_self,
    if_false]

theorem pcRetrainEnd_passed {lpc : Nat} {cause : RetrainCause} (hq : (getS s st.val).retraining = some (lpc, cause)) :
    exec (.pcRetrainEnd st .passed) s = .next (modS s st.val (fun q =>
      { q with retraining := none, trained := nput 0 q.trained lpc s.clk.elapsed })) := by
  change execPcRetrainEnd st .passed s = _
  rw [execPcRetrainEnd, hq]
  rfl

theorem pcRetrainEnd_notPassed {lpc : Nat} {cause : RetrainCause} (hq : (getS s st.val).retraining = some (lpc, cause))
    {res : RetrainEnd} (hres : res ≠ .passed) : exec (.pcRetrainEnd st res) s = .next (memoryEvent (modS s st.val (fun q =>
      { q with
        retraining := none
        trained := nput 0 q.trained lpc
          ((s.clk.elapsed : Int) + 1000000000 - (rget s Reg.retrainPeriod st.val * 1000000000 : Nat)) })) st.val lpc) := by
  change execPcRetrainEnd st res s = _
  rw [execPcRetrainEnd, hq]
  simp only [hres, if_false]

theorem selfRefreshExcursion_clears (h : (getS s st.val).selfRefresh = true) :
    exec (.selfRefreshExcursion st) s = .next (modS s st.val (fun q => { q with clean := false })) := by
  change execSelfRefreshExcursion st s = _
  rw [execSelfRefreshExcursion, if_pos h]

end

/-! ### Tables rebuilt from the journal (R387) -/

theorem foldl_fe {β : Type} {f : State → β → State} (hf : ∀ s b, (f s b).fe = s.fe) (l : List β) (s : State) :
    (l.foldl f s).fe = s.fe := foldl_keeps State.fe f l (fun s b _ => hf s b) s

theorem modSplice_fe (s : State) (id : Nat) (f : SpliceRec → SpliceRec) : (modSplice s id f).fe = s.fe := rfl
theorem learnBody_fe (s : State) (id : Nat) (b : Bytes) : (learnBody s id b).fe = s.fe := rfl
theorem learnState_fe (s : State) (id st : Nat) : (learnState s id st).fe = s.fe := rfl
theorem markApplied_fe (s : State) (ids : List Nat) : (markApplied s ids).fe = s.fe :=
  foldl_fe (fun _ _ => modSplice_fe ..) ids s

theorem relearnRec_fe (recs : List JrnRecord) (upTo : Nat) (s : State) (r : JrnRecord) : (relearnRec recs upTo s r).fe = s.fe := by
  unfold relearnRec
  split
  · exact learnBody_fe ..
  · exact foldl_fe (fun _ _ => learnState_fe ..) _ s
  · split
    · exact markApplied_fe ..
    · rfl
  · rfl

/-- What the chip learns again of splices moves no epoch. -/
theorem relearn_fe (s : State) (upTo : Nat) : (relearn s upTo).fe = s.fe := by
  unfold relearn
  dsimp only
  rw [foldl_fe (relearnRec_fe _ _), foldl_fe (fun s x => by split <;> rfl)]

theorem tableRebuildDone_ok {s : State} {q : Recon} (hdue : rebuildDue s = true) (hq : flashRecon s (rebuildTarget s) = .ok q) :
    exec .tableRebuildDone s = .next (rebuilt (takeRecon s q)) := by
  change execTableRebuildDone s = _
  simp only [execTableRebuildDone, hdue, hq, Bool.not_true, Bool.false_eq_true, if_false]

/-- The chip stands at the epoch and the head that the journal gives. -/
theorem takeRecon_fe (s : State) (q : Recon) :
    (takeRecon s q).fe.epoch = BitVec.ofNat 64 q.epoch ∧ (takeRecon s q).fe.head = q.head := by
  rw [takeRecon, relearn_fe]
  exact ⟨rfl, rfl⟩

/-! ### The statement -/

/-- Settles O39, controller by controller. -/
theorem stackControllersKeepTheirBytes : Obligations.StackControllersKeepTheirBytes := by
  refine ⟨?idle, ?scrub, ?line, ?channel, fun s q hdue hq => ⟨tableRebuildDone_ok hdue hq, takeRecon_fe s q⟩⟩
  case idle =>
    intro s st w l1 l2 hwc hne hst hidle
    have hx := wcIdleFlush_flushes hwc hne hst hidle
    refine ⟨fun hbusy => ⟨_, hx, flushLine_busy hwc hne hst hbusy⟩, fun hfree => ⟨_, hx, ?_⟩⟩
    obtain ⟨f, hflush, hgone⟩ := flushLine_free hwc hne hst hfree
    rw [hflush]
    refine ⟨?_, fun a => flushEntry_mem (modS s st.val f) w a⟩
    rw [getS, flushEntry_hbmStacks, ← getS, getS_modS_self]
    exact hgone
  case scrub =>
    intro s st burst hin hst hfree lpc counted
    have hx (c : BurstCheck) := patrolScrub_eq hin hst hfree c
    refine ⟨hx _, hx _, fun hg hpool hemd => (hx _).trans ?_⟩
    simp only [burstLost, loseBurst, hg, hpool, hemd, hst, Bool.false_eq_true, false_and, or_self, if_false]
    rfl
  case line =>
    intro s line t hlost hfree ht readers s1 found
    refine ⟨fun hg b hb => ?_, fun copy hcopy v u hv hu => ?_,
      fun copy hcopy => lineRebuildDone_tableLost hlost hfree ht hcopy⟩
    · exact ⟨lineFound (memWrite s1 (256 * line) (fit 256 b)) line, fun a => copied_mem hb a, ⟨mem_lineFound rfl, rfl⟩, rfl,
        lineRebuildDone_copy hlost hfree ht hg b⟩
    · obtain ⟨hbursts, hlaunches⟩ := reconLine_keeps hu
      exact ⟨fun hmap hd a ha => reconLine_outside hu hmap hd ha, ⟨mem_lineFound hbursts, hlaunches⟩,
        lineRebuildDone_found hlost hfree ht hcopy hv hu⟩
  case channel =>
    intro s st q
    exact ⟨fun r rest hr => ⟨pcRebuildDone_maps hr, pcRebuildDone_runs hr⟩, fun lpc cause => pcRetrain_starts,
      fun lpc cause hq => ⟨pcRetrainEnd_passed hq, fun res => pcRetrainEnd_notPassed hq⟩, selfRefreshExcursion_clears⟩

end Sys2Proof.Machine
end

section
/-! SUPPORT. Near-bank words: how many entries an index list has, what one index adds to the word, the range of the stream that the
word takes, and the issue of the word (O29). -/

namespace Sys2Proof.Machine

/-! ### The index list (R240) -/

theorem length_nbIndexes (b : Bytes) (n : Nat) : (nbIndexes b n).length = n := by simp [nbIndexes]

theorem length_nbBags (kind : NbKind) : ∀ (l : List (Nat × Bool)) (bag : Nat), (nbBags kind bag l).length = l.length
  | [], _ => rfl
  | (_, _) :: l, _ => congrArg (· + 1) (length_nbBags kind l _)

/-- Index and bag of each entry of a word. -/
def nbIndexList (kind : NbKind) (w : MWord) (e : Env) (c : Core) : List (Nat × Nat) :=
  nbBags kind 0 (nbIndexes (scratchRead e c (getX64 c w.sa).toNat (8 * nbCount w)) (nbCount w))

theorem length_nbIndexList (kind : NbKind) (w : MWord) (e : Env) (c : Core) : (nbIndexList kind w e c).length = nbCount w :=
  (length_nbBags ..).trans (length_nbIndexes ..)

/-! ### Resolving (R241, R242) -/

/-- One index adds its entry, with its row and its bag, unless the arena lacks its row. -/
theorem nbResolve_cases (w : MWord) (e : Env) (word : Nat) (src : Source) (g : NbGather) (x : Nat × Nat) :
    (nbResolve w e word src g x).absent ≠ none ∨
    (nbResolve w e word src g x).absent = g.absent ∧
      ∃ n : NbEntry, (n.row, n.bag) = x ∧ (nbResolve w e word src g x).list = g.list ++ [n] := by
  unfold nbResolve
  dsimp only
  split
  case h_1 => exact .inr ⟨rfl, _, rfl, rfl⟩
  case h_2 => exact .inl (Option.some_ne_none _)
  case h_3 =>
    cases src with
    | arena a => exact .inr ⟨rfl, _, rfl, rfl⟩
    | live t =>
      dsimp only
      split
      · exact .inr ⟨rfl, _, rfl, rfl⟩
      · split
        · exact .inr ⟨rfl, _, rfl, rfl⟩
        · exact .inr ⟨rfl, _, rfl, rfl⟩

/-- A list whose every row is there adds one entry per index, in order. -/
theorem nbResolve_entries (w : MWord) (e : Env) (word : Nat) (src : Source) : ∀ (l : List (Nat × Nat)) (g : NbGather),
    (l.foldl (nbResolve w e word src) g).absent = none → g.absent = none ∧
      (l.foldl (nbResolve w e word src) g).list.map (fun n => (n.row, n.bag)) = g.list.map (fun n => (n.row, n.bag)) ++ l
  | [], _, h => ⟨h, by simp⟩
  | x :: l, g, h => by
    obtain ⟨hnone, hmap⟩ := nbResolve_entries w e word src l (nbResolve w e word src g x) h
    obtain habsent | ⟨habsent, n, hn, hlist⟩ := nbResolve_cases w e word src g x
    · exact absurd hnone habsent
    · refine ⟨habsent ▸ hnone, ?_⟩
      rw [List.foldl_cons, hmap, hlist]
      simp [hn]

/-! ### The range of the stream (R303, R304) -/

theorem roundUp_zero : roundUp 0 256 = 0 := rfl

/-- Only NBGP's results depend on its bags. -/
theorem nbResults_bags {kind : NbKind} (h : kind ≠ .gp) (bags bags' entries elems : Nat) :
    nbResults kind bags entries elems = nbResults kind bags' entries elems := by
  cases kind with
  | gp => exact absurd rfl h
  | dot | sa | copy => rfl

/-- Stream `st` is open as NB stream `n` and has room for `size` bytes. -/
structure NbRoom (c : Core) (n : Nat) (st : Stream) (size : Nat) : Prop where
  isOpen : getStream c n = some st
  dir : st.desc.dir = 3
  fits : rangesEnd st + roundUp size 256 ≤ st.q + st.desc.ringLen

theorem NbRoom.takes {c : Core} {n : Nat} {st : Stream} {size : Nat} (h : NbRoom c n st size) : streamTakes c n size = true := by
  simp [streamTakes, rangeFits, h.isOpen, h.dir, h.fits]

theorem NbRoom.zero {c : Core} {n : Nat} {st : Stream} {size : Nat} (h : NbRoom c n st size) : NbRoom c n st 0 :=
  ⟨h.isOpen, h.dir, by rw [roundUp_zero]; exact Nat.le_trans (Nat.le_add_right ..) h.fits⟩

/-- The room asked for before the bags are known. -/
theorem NbRoom.takesEarly {kind : NbKind} {c : Core} {n : Nat} {st : Stream} {code bags entries elems : Nat}
    (h : NbRoom c n st (elemSide code (nbResults kind bags entries elems))) :
    streamTakes c n (if kind = .gp then 0 else elemSide code (nbResults kind 0 entries elems)) = true := by
  split
  case isTrue => exact h.zero.takes
  case isFalse hk => rw [nbResults_bags hk 0 bags]; exact h.takes

/-! ### Issue -/

/-- A word none of whose lines is lost or in a busy bank goes on. -/
theorem afterBanks_goes {s : State} {maps rows : List Nat} (hmaps : ∀ l ∈ maps, lineLost s l = false)
    (hfree : ∀ l ∈ maps ++ rows, lineBusy s l = false) (e : Env) (f : State → Issued) :
    afterBanks s e maps rows f = f (dropAccess s (.word e.l.id e.ex)) := by
  have hlost : maps.any (lineLost s) = false := by simpa using hmaps
  have hbanks : linesFree s (maps ++ rows) = true := List.all_eq_true.mpr (fun l hl => by simp [hfree l hl])
  simp only [afterBanks, hlost, hbanks, Bool.false_eq_true, if_false, if_true]

/-- The elements of a row of the table a word names. -/
def nbElems (w : MWord) (e : Env) : Nat := ((schemaOf e.acc (parHandle w)).map tElems).getD 0

/-- The bags of an index list. -/
def nbBagCount (idx : List (Nat × Nat)) : Nat := (idx.getLast?.map (·.2 + 1)).getD 0

/-- Bytes of a word's results. -/
def nbSize (kind : NbKind) (w : MWord) (e : Env) (c : Core) : Nat :=
  elemSide w.hdr.fd.toNat (nbResults kind (nbBagCount (nbIndexList kind w e c)) (nbCount w) (nbElems w e))

/-- A word's index list resolved. -/
def nbGathered (kind : NbKind) (w : MWord) (e : Env) (s : State) (c : Core) (src : Source) : NbGather :=
  (nbIndexList kind w e c).foldl (nbResolve w e c.nextId src)
    { s := dropAccess s (.word e.l.id e.ex), list := [], beyond := false, absent := none }

/-- `n` elements of a word's operand format at the address a register holds. -/
def nbOperand (w : MWord) (e : Env) (c : Core) (r : BitVec 6) (n : Nat) : List Nat :=
  unpackElems (codeFmt w.hdr.fb.toNat) n (scratchRead e c (getX64 c r).toNat (elemSide w.hdr.fb.toNat n))

/-- The word as it joins those in flight. -/
def nbInFlight (kind : NbKind) (w : MWord) (e : Env) (s : State) (c : Core) (src : Source) (st : Stream) : NbWord :=
  let g := nbGathered kind w e s c src
  { id := c.nextId, kind, word := w, fmt := tFmt src.desc, entries := g.list, bags := nbBagCount (nbIndexList kind w e c),
    vec := nbOperand w e c w.sb (nbVecLen kind w (nbElems w e)), bias := nbOperand w e c w.sc (nbBiasLen kind w (nbElems w e)),
    stream := parStream w, start := rangesEnd st, len := roundUp (nbSize kind w e c) 256, home := [],
    flags := flagIf g.beyond flNV }

/-- A core that a word joins, with the next range of its stream. -/
def nbJoined (w : MWord) (c : Core) (st : Stream) (n : NbWord) : Core :=
  setStream { c with nextId := c.nextId + 1, nb := c.nb ++ [n] } (parStream w)
    (some { st with ranges := st.ranges ++ [{ start := n.start, len := n.len, done := false }] })

/-- Nothing keeps a near-bank word from its rows: no fault, no word in flight, no full queue, a table that is there and room in
its stream. -/
structure NbReady (kind : NbKind) (w : MWord) (e : Env) (s : State) (c : Core) (src : Source) (st : Stream) : Prop where
  source : sourceOf s e (parHandle w) = some src
  faults : firstCause (nbFaults kind w e c (nbElems w e) true) = none
  free : hazard e c (nbExtents kind w c (nbElems w e)) [] = false
  there : (nbExtents kind w c (nbElems w e)).all (fun y => extentReady c y.1 y.2) = true
  room : NbRoom c (parStream w) st (nbSize kind w e c)
  live : sourceDead src = false
  queues : ∀ i, i < 8 → nbQueueFull c i = false
  present : (nbGathered kind w e s c src).absent = none
  maps : ∀ line ∈ src.maps ((nbIndexList kind w e c).map (·.1)), lineLost s line = false ∧ lineBusy s line = false

section
variable {kind : NbKind} {w : MWord} {e : Env} {s : State} {src : Source} {st : Stream}

theorem NbReady.noQueueFull {c : Core} (h : NbReady kind w e s c src st) :
    ((List.range 8).any fun i => (nbIndexList kind w e c).any (fun x => x.1 % 8 == i) && nbQueueFull c i) = false := by
  simp only [List.any_eq_false, List.mem_range]
  intro i hi
  simp [h.queues i hi]

/-- A word that nothing keeps from its rows joins those in flight. -/
theorem nbIssue_joins {c : Core} (h : NbReady kind w e s c src st) : nbIssue kind w e s c =
    .done ((nbGathered kind w e s c src).s, some (nbJoined w c st (nbInFlight kind w e s c src st))) := by
  have hbanks := afterBanks_goes (s := s) (rows := []) (fun l hl => (h.maps l hl).1)
    (fun l hl => (h.maps l (by simpa using hl)).2)
  have hearly := h.room.takesEarly
  have hroom := h.room.takes
  have hqueue := h.noQueueFull
  have hopen := h.room.isOpen
  obtain ⟨hsource, hfaults, hfree, hthere, -, hlive, -, hpresent, -⟩ := h
  simp only [nbGathered, nbSize, nbIndexList, nbBagCount, nbElems] at hbanks hearly hroom hqueue hfaults hfree hthere hpresent
  simp only [nbIssue, hsource, Option.isSome_some, hfaults, hearly, hfree, hthere, hopen, hroom, hlive, hqueue, hbanks, hpresent,
    Bool.not_true, Bool.false_eq_true, Bool.or_self, if_false]
  rfl

/-- A legal near-bank word of a ready skein that nothing keeps from its rows joins those in flight. -/
theorem nbWord_joins {k : Skein} {x : SkeinCtx} (hr : Ready s k x e) (hg : guardOn x.core w.hdr = true)
    (h : NbReady kind w e s (past x.core) src st) {legal : Bool} (hl : legal = true) (hfits : nbHandleOk s k.val w = true) :
    issueWord s k.val (legal && nbHandleOk s k.val w) w.hdr (nbIssue kind w) =
      withCore (nbGathered kind w e s (past x.core) src).s k
        (nbJoined w (past x.core) st (nbInFlight kind w e s (past x.core) src st)) :=
  word_done hr hg (by rw [hl, hfits]; rfl) (nbIssue_joins h)

end

/-- Settles O29: the index list resolved entry by entry, and one issue for the four words. -/
theorem nearBankWordsResolveTheirRows : Obligations.NearBankWordsResolveTheirRows := by
  intro s k x e w kind src st hr hg elems ext idx bags start len vec g hsrc hfaults hfree hthere hopen hdir hfits hlive hqueues
    hpresent hmaps word joins
  have hlen : idx.length = nbCount w := length_nbIndexList kind w e x.core
  have hsize : nbSize kind w e (past x.core) = elemSide w.hdr.fd.toNat (nbResults kind bags idx.length elems) := by
    rw [hlen]; rfl
  have hready : NbReady kind w e s (past x.core) src st :=
    ⟨hsrc, hfaults, hfree, hthere, ⟨hopen, hdir, hsize ▸ hfits⟩, hlive, hqueues, hpresent, hmaps⟩
  have hword : nbInFlight kind w e s (past x.core) src st = word := by
    unfold nbInFlight
    rw [hsize]
    rfl
  have hjoins {legal : Bool} (hl : legal = true) (hk : nbHandleOk s k.val w = true) :
      Host.Outcome.next (issueWord s k.val (legal && nbHandleOk s k.val w) w.hdr (nbIssue kind w)) = joins := by
    rw [nbWord_joins hr hg hready hl hk, hword]
    rfl
  refine ⟨(nbResolve_entries w e x.core.nextId src idx _ hpresent).2, ?gp, ?dot, ?sa, ?copy⟩
  all_goals
    rintro rfl hl hk
    exact hjoins hl hk

end Sys2Proof.Machine
end

section
/-! SUPPORT. Near-bank steps: how a step ends on each path, when a poll, a timeout and an abort act, what a step starts with, and
what partials and complete words leave in their core (O30). -/

namespace Sys2Proof.Machine

/-! ### Where a step runs, and its end (R237, R238, R250, R255 to R258) -/

theorem stepAt_place {s : State} {i lpc bank : Nat} {y : NbStep} (h : stepAt s i lpc bank = some y) : y.lpc = lpc ∧ y.bank = bank := by
  simpa using List.find?_some h

theorem stepEnd_aborted {y : NbStep} (h : y.aborted ≠ none) (s : State) (i : Nat) (res : StepEnd) :
    stepEnd s i y res = freeBank s i y.lpc y.bank :=
  if_pos (Option.isSome_iff_ne_none.mpr h)

theorem stepEnd_runs {y : NbStep} (h : y.aborted = none) {res : StepEnd} (hres : endFits y res = true) (s : State) (i : Nat) :
    stepEnd s i y res = freeBank (stepEffect s i y res) i y.lpc y.bank := by
  simp [stepEnd, h, hres]

section
variable {s : State} {st : Stack} {lpc : Fin 30} {bank : Fin 16} {y : NbStep}

theorem nbReadyFrame_ends (hy : stepAt s st.val lpc.val bank.val = some y) (hr : (getS s st.val).ready = true) (res : StepEnd) :
    exec (.nbReadyFrame st lpc bank res) s = .next (stepEnd s st.val y res) := by
  change execNbReadyFrame st lpc bank res s = _
  simp [execNbReadyFrame, hy, hr]

/-- A frame for a bank that computes nothing (R260). -/
theorem nbReadyFrame_stray (hy : stepAt s st.val lpc.val bank.val = none) (hr : (getS s st.val).ready = true) (res : StepEnd) :
    exec (.nbReadyFrame st lpc bank res) s = .next (toPolled s st.val lpc.val) := by
  change execNbReadyFrame st lpc bank res s = _
  simp [execNbReadyFrame, hy, hr]

/-! ### Polls (R238, R260) -/

theorem nbStatusPoll_ends (hy : stepAt s st.val lpc.val bank.val = some y)
    (h : (getS s st.val).ready = false ∨ y.aborted ≠ none) (res : StepEnd) :
    exec (.nbStatusPoll st lpc bank true res) s = .next (stepEnd s st.val y res) := by
  have hcond : !(getS s st.val).ready ∨ y.aborted.isSome := by simpa [Option.isSome_iff_ne_none] using h
  change execNbStatusPoll st lpc bank true res s = _
  simp only [execNbStatusPoll, hy, if_pos hcond]

/-- In ready mode a poll of a running step compares the time since NB-STATUS first showed its end. -/
theorem nbStatusPoll_checks (hy : stepAt s st.val lpc.val bank.val = some y) (ha : y.aborted = none)
    (hr : (getS s st.val).ready = true) (res : StepEnd) :
    exec (.nbStatusPoll st lpc bank true res) s = .next (match y.ended with
      | none => modStep s st.val lpc.val bank.val (fun z => { z with ended := some s.clk.elapsed })
      | some t => if t + 1280 ≤ s.clk.elapsed then stepEnd (toPolled s st.val lpc.val) st.val y res else s) := by
  have hcond : ¬ (!(getS s st.val).ready ∨ y.aborted.isSome) := by simp [ha, hr]
  change execNbStatusPoll st lpc bank true res s = _
  simp only [execNbStatusPoll, hy, if_neg hcond]
  rfl

/-! ### Timeouts (R258) -/

theorem nbStepTimeout_aborts (hy : stepAt s st.val lpc.val bank.val = some y) (ha : y.aborted = none)
    (ht : y.since + 1280 ≤ s.clk.elapsed) :
    exec (.nbStepTimeout st lpc bank) s = .next (bcuEvent (modStep (y.owner.elim s (takeEntry s)) st.val lpc.val bank.val
      (fun z => { z with aborted := some s.clk.elapsed, owner := none })) st.val lpc.val y.phys bank.val) := by
  have hcond : ¬ (y.aborted.isSome ∨ s.clk.elapsed < y.since + stepLimit) := by simp [ha, stepLimit, ht]
  change execNbStepTimeout st lpc bank s = _
  simp only [execNbStepTimeout, hy, if_neg hcond]

theorem nbStepTimeout_early (hy : stepAt s st.val lpc.val bank.val = some y) (ht : s.clk.elapsed < y.since + 1280) :
    exec (.nbStepTimeout st lpc bank) s = .next s := by
  change execNbStepTimeout st lpc bank s = _
  simp only [execNbStepTimeout, hy, if_pos (Or.inr (show s.clk.elapsed < y.since + stepLimit from ht))]

theorem nbAbortTimeout_acts (hy : stepAt s st.val lpc.val bank.val = some y) {t : Nat} (ha : y.aborted = some t)
    (ht : t + 640 ≤ s.clk.elapsed) : exec (.nbAbortTimeout st lpc bank) s =
      .next (freeBank (memoryEvent s st.val lpc.val) st.val lpc.val bank.val) := by
  change execNbAbortTimeout st lpc bank s = _
  simp [execNbAbortTimeout, hy, ha, abortLimit, ht]

theorem nbAbortTimeout_early (hy : stepAt s st.val lpc.val bank.val = some y) {t : Nat} (ha : y.aborted = some t)
    (ht : s.clk.elapsed < t + 640) : exec (.nbAbortTimeout st lpc bank) s = .next s := by
  change execNbAbortTimeout st lpc bank s = _
  simp [execNbAbortTimeout, hy, ha, abortLimit, Nat.not_le.mpr ht]

end

/-! ### Changing an entry -/

theorem updFirst_congr {α : Type} {p : α → Bool} {f g : α → α} {a : α} : ∀ {l : List α}, l.find? p = some a → f a = g a →
    updFirst p f l = updFirst p g l
  | x :: l, h, hfg => by
    rw [List.find?_cons] at h
    unfold updFirst
    cases hp : p x with
    | true =>
      obtain rfl : x = a := by simpa [hp] using h
      simp [hfg]
    | false => simp [updFirst_congr (l := l) (by simpa [hp] using h) hfg]

theorem updAt_congr {α : Type} {f g : α → α} {a : α} : ∀ {l : List α} {n : Nat}, l[n]? = some a → f a = g a →
    updAt f l n = updAt g l n
  | x :: l, 0, h, hfg => by
    obtain rfl : x = a := by simpa using h
    simp [updAt, hfg]
  | x :: l, n + 1, h, hfg => congrArg (x :: ·) (updAt_congr (l := l) (by simpa using h) hfg)

/-- Only what a change makes of the entry that is there counts. -/
theorem modEntry_congr {s : State} {o : StepOwner} {en : NbEntry} {f g : NbEntry → NbEntry} (hen : entryOf s o = some en)
    (hfg : f en = g en) : modEntry s o f = modEntry s o g := by
  simp only [entryOf, wordOf, Option.bind_eq_some_iff] at hen
  obtain ⟨n, ⟨x, ⟨k, ⟨ex, ⟨l, hl, hex⟩, hk⟩, hx⟩, hn⟩, hentry⟩ := hen
  have hskein : ((findL s o.launch).bind (fun l => getX l o.ex)).bind (·.skein) = some k := by simp [hl, hex, hk]
  have hwords : updFirst (fun m => m.id == o.word) (fun m => { m with entries := updAt f m.entries o.entry }) x.core.nb =
      updFirst (fun m => m.id == o.word) (fun m => { m with entries := updAt g m.entries o.entry }) x.core.nb :=
    updFirst_congr hn (by rw [updAt_congr hentry hfg])
  unfold getK at hx
  simp only [modEntry, hskein, modK, nmod]
  rw [updFirst_congr hx]
  simp only [modNb, hwords]

/-- Launches and skeins: all that says which entries there are. -/
def holders (s : State) : List Launch × NMap SkeinSt := (s.launches, s.skeins)

theorem entryOf_congr {s t : State} (h : holders t = holders s) (o : StepOwner) : entryOf t o = entryOf s o := by
  obtain ⟨hlaunches, hskeins⟩ := Prod.mk.inj h
  simp only [entryOf, wordOf, findL, getK, hlaunches, hskeins]

theorem holders_flushBurst (w : WcEntry) (s : State) (b : Nat) : holders (flushBurst w s b) = holders s := by
  unfold flushBurst
  split
  · rfl
  · split
    · rfl
    · split
      · simp [holders]
      · rfl

/-- Flushes move no execution. -/
theorem holders_flushWhere (s : State) (i : Nat) (p : WcEntry → Bool) : holders (flushWhere s i p) = holders s :=
  foldl_keeps holders flushEntry _ (fun s w _ => foldl_keeps holders (flushBurst w) _ (fun s b _ => holders_flushBurst w s b) s) _

/-! ### The start of a step (R219, R232 to R234, R250, R252) -/

/-- Stack `i` once the combining entries of an entry's DRAM row are flushed. -/
def rowFlushed (s : State) (i : Nat) (en : NbEntry) : State :=
  flushWhere s i (fun w =>
    let q := stripedLoc (256 * w.line)
    q.lpc == en.lpc && q.bank == en.bank && q.row == en.dramRow)

/-- The step that an entry starts in state `s`. -/
def startedStep (s : State) (o : StepOwner) (en : NbEntry) : NbStep :=
  { lpc := en.lpc, bank := en.bank, phys := rowPhys s (entryLoc en), row := en.dramRow, byte := en.byte, size := en.size,
    owner := some o, since := s.clk.elapsed, aborted := none, ended := none }

/-- The state in which an entry's step runs: the row flushed, its lost lines noted for the launch, the step in its bank. -/
def stepStarted (s : State) (i : Nat) (o : StepOwner) (en : NbEntry) : State :=
  modS (noteReader (rowFlushed s i en) o.launch (locLost (rowFlushed s i en) (entryLoc en) en.size)) i
    (fun q => { q with steps := q.steps ++ [startedStep s o en] })

/-- A step's start moves no execution. -/
theorem holders_stepStarted (s : State) (i : Nat) (o : StepOwner) (en : NbEntry) : holders (stepStarted s i o en) = holders s :=
  holders_flushWhere ..

/-- An entry's bank can start its step: the entry waits, its BCU serves, its place is free and no access waits at its bank. -/
structure StepFree (s : State) (i : Nat) (en : NbEntry) : Prop where
  stack : en.stack = i
  waits : en.phase = .waiting
  place : stepFits s i en.lpc en.bank true = true
  unfenced : rowFenced s (entryLoc en) = false
  held : ∀ a ∈ (getS s i).held, a.bank ≠ 16 * en.lpc + en.bank
  trained : (getS s i).retraining = none

theorem stepIssue_starts {s : State} {k i word entry : Nat} {x : SkeinCtx} {o : StepOwner} {en : NbEntry}
    (hx : running s k = some x) (ho : { launch := x.launch, ex := x.ex, word, entry } = o) (hen : entryOf s o = some en)
    (h : StepFree s i en) :
    stepIssue s i k word entry = modEntry (stepStarted s i o en) o (fun n =>
      { n with phase := .computing, bytes := rowRead (rowFlushed s i en) (entryLoc en) en.size }) := by
  have hwaits : ¬ (en.stack ≠ i ∨ en.phase ≠ .waiting ∨ (getS s i).retraining.any (fun r => r.1 == en.lpc)) := by
    simp [h.stack, h.waits, h.trained]
  have hfree : stepFits s i en.lpc en.bank true ∧ (getS s i).held.all (fun a => a.bank != 16 * en.lpc + en.bank) :=
    ⟨h.place, by simpa using h.held⟩
  have hstill : entryOf (stepStarted s i o en) o = some en := (entryOf_congr (holders_stepStarted ..) o).trans hen
  rw [modEntry_congr hstill (g := fun n =>
    { n with phase := .computing, bytes := rowRead (rowFlushed s i en) (entryLoc en) n.size }) rfl]
  simp only [stepIssue, hx, ho, hen, if_neg hwaits, h.unfenced, if_pos hfree, Bool.false_eq_true, if_false]
  rw [← ho]
  rfl

/-! ### Partials and results (R243, R248, R249) -/

theorem poolPartial_reaches {c : Core} {n : NbWord} {src bag : Nat} (hn : c.nb.find? (fun m => m.id == n.id) = some n)
    (hk : n.kind = .gp) (hsome : ∃ z ∈ n.entries, z.bag = bag ∧ z.stack = src)
    (hdone : ∀ z ∈ n.entries, z.bag = bag → z.stack = src → z.phase = .done) (hhome : src ≠ homeStack n bag) (e : Env) :
    poolPartial src n.id bag e c = modNb c n.id (fun n => { n with home := sadd n.home (8 * bag + src) }) := by
  have hmine : (n.entries.filter (fun z => z.bag == bag && z.stack == src)).isEmpty = false := by simpa using hsome
  have hall : (n.entries.filter (fun z => z.bag == bag && z.stack == src)).all (·.phase == .done) = true := by
    simpa [List.all_filter, ← not_and_or, or_iff_not_imp_left] using hdone
  simp only [poolPartial, hn]
  exact if_pos ⟨hk, by simp [hmine], hall, hhome⟩

/-- Ring bytes are bytes of the launch bank. -/
theorem ringWrite_bank (e : Env) (c : Core) (st : Stream) (b : Nat) (data : Bytes) :
    ringWrite e c st b data = { c with bank := (ringWrite e c st b data).bank } :=
  List.foldlRecOn (motive := fun d : Core => d = { c with bank := d.bank }) (data.zip (List.range data.length)) _ rfl
    (fun _ hd _ _ => by rw [hd])

theorem joinFlags_noGroups {c : Core} (h : c.groups = []) (owner : Nat) (f : Flags) : joinFlags c owner f = addFlags c f := by
  simp only [joinFlags, h, List.map_nil, addFlags]

/-- An NB stream with the range that starts at `start` delivered. -/
def rangeDelivered (q : Stream) (start : Nat) : Stream :=
  advanceRanges { q with ranges := q.ranges.map (fun r => if r.start = start then { r with done := true } else r) }

theorem nbDeliver_complete {c : Core} {n : NbWord} {q : Stream} (hn : c.nb.find? (fun m => m.id == n.id) = some n)
    (hq : getStream c n.stream = some q) (hc : nbComplete n = true) (hr : ∃ r ∈ q.ranges, r.start = n.start ∧ r.done = false)
    (hg : c.groups = []) (e : Env) :
    nbDeliver n.id e c = setStream
      { ringWrite e c q n.start (fit n.len (packElems (codeFmt n.word.hdr.fd.toNat) ((nbValues n).map (·.1)))) with
        flags := c.flags ||| ((n.flags ||| flagUnion ((nbValues n).map (·.2))) &&& n.word.hdr.fmask)
        nb := c.nb.filter (fun z => z.stream != n.stream || decide ((rangeDelivered q n.start).w < z.start + z.len)) }
      n.stream (some (rangeDelivered q n.start)) := by
  have hany : q.ranges.any (fun r => r.start == n.start && !r.done) = true := by simpa using hr
  have hgroups (b : Nat) (data : Bytes) : (ringWrite e c q b data).groups = [] := by rw [ringWrite_bank]; exact hg
  simp only [nbDeliver, hn, hq, hc, hany, Bool.not_true, Bool.or_self, Bool.false_eq_true, if_false,
    joinFlags_noGroups (hgroups _ _)]
  rw [ringWrite_bank]
  rfl

/-- Settles O30: the paths of a step's end, then the polls, the timeouts, the start of a step, partials and results. -/
theorem nearBankStepsServeTheirEntries : Obligations.NearBankStepsServeTheirEntries := by
  intro s st lpc bank y hy now free served byController failed ends
  obtain ⟨hlpc, hbank⟩ := stepAt_place hy
  have runs {ended : StepEnd → Instr} (ha : y.aborted = none) (h : ∀ res, exec (ended res) s = .next (stepEnd s st.val y res)) :
      ends ended := by
    have hfits (res : StepEnd) (hres : endFits y res = true) : exec (ended res) s = .next (free (stepEffect s st.val y res)) := by
      rw [h, stepEnd_runs ha hres]
    refine ⟨hfits .done rfl, hfits .residue rfl, fun n hn => ?_⟩
    have hn' : decide (32 * n < y.size) = true := decide_eq_true hn
    exact ⟨hfits (.corrected n) hn', hfits (.uncorrectable n true) hn', hfits (.uncorrectable n false) hn'⟩
  refine ⟨fun ha hr => runs ha (nbReadyFrame_ends hy hr), fun ha hr => runs ha (nbStatusPoll_ends hy (.inl hr)), ?aborted, ?poll,
    ?timeout, ?abort, fun t p b res hr hnone => nbReadyFrame_stray hnone hr res, ?core⟩
  case aborted =>
    intro ha res
    have hfree := stepEnd_aborted ha s st.val res
    exact ⟨(nbStatusPoll_ends hy (.inr ha) res).trans (congrArg _ hfree),
      fun hr => (nbReadyFrame_ends hy hr res).trans (congrArg _ hfree)⟩
  case poll =>
    intro ha hr res
    have hpoll := nbStatusPoll_checks hy ha hr res
    refine ⟨fun hnone => ?_, fun t ht hlate => ?_, fun t ht hearly => ?_⟩
    · rw [hpoll, hnone]
    · rw [hpoll, ht]
      exact congrArg _ (if_pos hlate)
    · rw [hpoll, ht]
      exact congrArg _ (if_neg (Nat.not_le.mpr hearly))
  case timeout => exact fun ha => ⟨nbStepTimeout_aborts hy ha, nbStepTimeout_early hy⟩
  case abort => exact fun t ha => ⟨nbAbortTimeout_acts hy ha, nbAbortTimeout_early hy ha⟩
  case core =>
    intro k x e n i en t hrun
    refine ⟨fun hen hstack hwaits hplace hfence hheld htrain => ?_, fun hn bag => ⟨fun hk hsome hdone hhome => ?_,
      fun q hq hc hr hg => ?_⟩⟩
    · exact congrArg Host.Outcome.next
        (stepIssue_starts hrun.1 rfl hen ⟨hstack, hwaits, hplace, hfence, hheld, htrain⟩)
    · exact congrArg Host.Outcome.next
        ((unitStep_running hrun _).trans (congrArg _ (poolPartial_reaches hn hk hsome hdone hhome e)))
    · exact congrArg Host.Outcome.next ((unitStep_running hrun _).trans (congrArg _ (nbDeliver_complete hn hq hc hr hg e)))

end Sys2Proof.Machine
end

section
/-! SUPPORT. The state right after a full device reset (O57). -/

namespace Sys2Proof.Machine

/-- Settles O57: the state after a full device reset, field by field. -/
theorem resetLeavesTheSpecifiedState : Obligations.ResetLeavesTheSpecifiedState := by
  refine ⟨rfl, rfl, rfl, rfl, rfl, rfl, rfl, rfl, rfl, rfl, rfl, rfl, rfl, fun p _ => rfl, rfl, rfl, rfl, rfl, fun f i => rfl⟩

end Sys2Proof.Machine
end

section
/-! SUPPORT. SPLICE: the first bytes of an extent are free and there where the whole extent is, and what becomes of the body that the word
reads (O34). -/

namespace Sys2Proof.Machine

/-! ### A read of the first bytes of an extent -/

theorem sameLine_of_le {x : Extent} {a m n : Nat} (hm : m ≤ n) (h : sameLine x (a, n) = false) : sameLine x (a, m) = false := by
  have hdiv : (a + m - 1) / 256 ≤ (a + n - 1) / 256 := Nat.div_le_div_right (by omega)
  simp only [sameLine, Bool.and_eq_false_iff, decide_eq_false_iff_not] at h ⊢
  omega

theorem anyLine_of_le {l : List Extent} {a m n : Nat} (hm : m ≤ n) (h : anyLine l [(a, n)] = false) :
    anyLine l [(a, m)] = false := by
  simp only [anyLine, List.any_cons, List.any_nil, Bool.or_false, List.any_eq_false, Bool.not_eq_true] at h ⊢
  exact fun x hx => sameLine_of_le hm (h x hx)

/-- The first bytes of an extent meet no more of the words in flight than the whole of it. -/
theorem hazard_of_le {e : Env} {c : Core} {a m n : Nat} (hm : m ≤ n) (h : hazard e c [(a, n)] [] = false) :
    hazard e c [(a, m)] [] = false := by
  simp only [hazard, Bool.or_eq_false_iff, List.any_eq_false, Bool.not_eq_true] at h ⊢
  obtain ⟨hjobs, hgroups⟩ := h
  refine ⟨fun j hj => ?_, fun g hg => ?_⟩
  · obtain ⟨⟨hw, hww⟩, hrw⟩ := hjobs j hj
    exact ⟨⟨anyLine_of_le hm hw, hww⟩, hrw⟩
  · obtain ⟨⟨hw, hww⟩, hall⟩ := hgroups g hg
    exact ⟨⟨anyLine_of_le hm hw, hww⟩, hall⟩

theorem extentReady_of_le {c : Core} {a m n : Nat} (hm : m ≤ n) (h : extentReady c a n = true) : extentReady c a m = true := by
  simp only [extentReady, List.all_eq_true, Bool.or_eq_true, decide_eq_true_eq, List.mem_range] at h ⊢
  intro st hst
  obtain (hbelow | habove) | hbytes := h st hst
  · exact .inl (.inl (by omega))
  · exact .inl (.inr habove)
  · exact .inr (fun i hi => hbytes i (by omega))

/-! ### SPLICE (R270, R271) -/

/-- The bytes of scratch a SPLICE reads: the 24 of the header, and the payload where its length is a legal one. -/
def spliceLen (e : Env) (c : Core) (w : MWord) : Nat :=
  let p := leNat (scratchRead e c ((getX64 c w.sa).toNat + 4) 4)
  if p ≤ 1032 then 24 + roundUp p 8 else 24

/-- The body a SPLICE reads. -/
def spliceBody (e : Env) (c : Core) (w : MWord) : Bytes := scratchRead e c (getX64 c w.sa).toNat (spliceLen e c w)

/-- The body fits a table that the launch may name. -/
def spliceGood (s : State) (e : Env) (b : Bytes) : Bool :=
  match sourceOf s e (fld b 0 2) with
  | some src => spliceFits src.desc b
  | none => false

theorem spliceGood_eq (s : State) (e : Env) (b : Bytes) :
    spliceGood s e b = (sourceOf s e (fld b 0 2)).any (fun src => spliceFits src.desc b) := by
  unfold spliceGood
  cases sourceOf s e (fld b 0 2) <;> rfl

/-- The execution's splices leave the chip: it is a primary one of a launch that is no replay (R26, R476). -/
def splicesLeave (s : State) (e : Env) : Bool :=
  ((findL s e.l.id).bind (fun l => getX l e.ex)).any (fun x => x.role == .primary) && !dIsReplay e.l.desc

/-- The execution of a word keeps a body as its next splice. -/
def splicedBy (s : State) (e : Env) (b : Bytes) : State :=
  modX s e.l.id e.ex (fun y => { y with splices := y.splices ++ [{ body := b, id := none }] })

/-- The state in which a body has joined the splice queue. -/
def queuedBy (s : State) (q : Queued) : State := { s with fe := { s.fe with queue := s.fe.queue ++ [q] } }

/-- What becomes of a body that a SPLICE has read. -/
def spliceEmits (s : State) (e : Env) (c : Core) (b : Bytes) : Issued :=
  if !spliceGood s e b then .done (logWord s e Err.spliceInvalid e.l.id 0 c, some (addFlags c flNV))
  else if splicesLeave s e && decide (spliceQueueLimit ≤ s.fe.queue.length) then .wait
  else .done (if splicesLeave s e then queuedBy (splicedBy s e b) { launch := e.l.id, ex := e.ex, index := c.emission, body := b }
    else splicedBy s e b, some { c with emission := c.emission + 1 })

/-- Nothing keeps a SPLICE from reading its body. -/
structure SpliceReady (e : Env) (c : Core) (w : MWord) : Prop where
  aligned : (getX64 c w.sa).toNat % 8 = 0
  inside : (getX64 c w.sa).toNat + spliceLen e c w ≤ e.top
  free : hazard e c [((getX64 c w.sa).toNat, spliceLen e c w)] [] = false
  there : extentReady c (getX64 c w.sa).toNat (spliceLen e c w) = true

section
variable {s : State} {k : Skein} {x : SkeinCtx} {e : Env} {w : MWord}

theorem header_le_spliceLen (e : Env) (c : Core) (w : MWord) : 24 ≤ spliceLen e c w := by
  unfold spliceLen
  dsimp only
  split <;> omega

/-- A SPLICE whose body is there goes on by what its body is. -/
theorem splice_done (hr : Ready s k x e) (hg : guardOn x.core w.hdr = true) (hl : legalSplice w = true)
    (h : SpliceReady e x.core w) {t : State} {c : Core}
    (hdone : spliceEmits s e (past x.core) (spliceBody e x.core w) = .done (t, some c)) :
    exec (.splice k w) s = .next (withCore t k c) := by
  obtain ⟨haligned, hinside, hfree, hthere⟩ := h
  have hhead := header_le_spliceLen e x.core w
  refine congrArg Host.Outcome.next (word_done hr hg hl ?_)
  simp only [hazard_past, extentReady_past, scratchRead_past, getX64_past]
  refine (afterRead_goes ?_ ?_ ?_ _).trans ((if_neg ?_).trans hdone)
  · have hout : outside e (getX64 x.core w.sa).toNat 24 = false := decide_eq_false (by omega)
    simp [hout, haligned]
  · rw [hazard_of_le hhead hfree, extentReady_of_le hhead hthere]
    rfl
  · rw [Bool.and_eq_false_imp]
    intro hp
    have hlen : spliceLen e x.core w = 24 + roundUp (leNat (scratchRead e x.core ((getX64 x.core w.sa).toNat + 4) 4)) 8 :=
      if_pos (of_decide_eq_true hp)
    exact decide_eq_false (by omega)
  · have hwaits : (hazard e x.core [((getX64 x.core w.sa).toNat, spliceLen e x.core w)] [] ||
        !extentReady x.core (getX64 x.core w.sa).toNat (spliceLen e x.core w)) = false := by rw [hfree, hthere]; rfl
    exact Bool.eq_false_iff.mp hwaits

/-- A good body becomes a splice, in the queue too where the execution's splices leave the chip. -/
theorem spliceEmits_good {c : Core} {b : Bytes} (hgood : spliceGood s e b = true)
    (hroom : splicesLeave s e = true → s.fe.queue.length < 4096) :
    spliceEmits s e c b = .done (if splicesLeave s e then
        queuedBy (splicedBy s e b) { launch := e.l.id, ex := e.ex, index := c.emission, body := b }
      else splicedBy s e b, some { c with emission := c.emission + 1 }) := by
  have hfits : (splicesLeave s e && decide (spliceQueueLimit ≤ s.fe.queue.length)) = false := by
    rw [Bool.and_eq_false_imp]
    exact fun hleave => decide_eq_false (Nat.not_le.mpr (hroom hleave))
  simp [spliceEmits, hgood, hfits]

theorem spliceEmits_bad {c : Core} {b : Bytes} (hbad : spliceGood s e b = false) :
    spliceEmits s e c b = .done (logWord s e Err.spliceInvalid e.l.id 0 c, some (addFlags c flNV)) := by
  simp [spliceEmits, hbad]

end

/-- Settles O34, by whether the body fits. -/
theorem spliceWordEmits : Obligations.SpliceWordEmits := by
  intro s k x e w hr hg hl c a p n b good primary ha hin hfree hthere
  have hready : SpliceReady e x.core w := ⟨ha, hin, hfree, hthere⟩
  have hgood : spliceGood s e (spliceBody e x.core w) = good := spliceGood_eq ..
  exact ⟨fun h hroom => splice_done hr hg hl hready (spliceEmits_good (hgood.trans h) hroom),
    fun h => splice_done hr hg hl hready (spliceEmits_bad (hgood.trans h))⟩

end Sys2Proof.Machine
end

section
/-! SUPPORT. ROWRD and SEQF: what a word's wait for a bank leaves of a table's rows and subjects, when a read lies past the count, and the
issue of the two words (O33). -/

namespace Sys2Proof.Machine

/-! ### What a word's wait for a bank leaves alone -/

/-- A wait that is over changes the stacks alone. -/
theorem dropAccess_eq (s : State) (a : Waiter) : dropAccess s a = { s with hbmStacks := (dropAccess s a).hbmStacks } :=
  List.foldlRecOn (motive := fun t : State => t = { s with hbmStacks := t.hbmStacks }) (List.range 8) _ rfl
    (fun t ht i _ => by rw [ht]; rfl)

theorem gotRow_hbmStacks (s : State) (m : NMap StackSt) (e : Env) (src : Source) (r : Nat) :
    gotRow { s with hbmStacks := m } e src r = gotRow s e src r := rfl

theorem gotSubject_hbmStacks (s : State) (m : NMap StackSt) (e : Env) (src : Source) (r : Nat) :
    gotSubject { s with hbmStacks := m } e src r = gotSubject s e src r := rfl

theorem gotRow_dropAccess (s : State) (a : Waiter) (e : Env) (src : Source) (r : Nat) :
    gotRow (dropAccess s a) e src r = gotRow s e src r := by
  rw [dropAccess_eq, gotRow_hbmStacks]

theorem gotSubject_dropAccess (s : State) (a : Waiter) (e : Env) (src : Source) (r : Nat) :
    gotSubject (dropAccess s a) e src r = gotSubject s e src r := by
  rw [dropAccess_eq, gotSubject_hbmStacks]

/-! ### What a read gives (R242, R284) -/

theorem gotRow_eq_beyond {s : State} {e : Env} {src : Source} {r : Nat} :
    gotRow s e src r = .beyond ↔ tCount src.desc ≤ r := by
  unfold gotRow
  split
  case isTrue h => exact iff_of_true rfl h
  case isFalse h =>
    refine iff_of_false ?_ h
    cases src with
    | live t => exact nofun
    | arena t => dsimp only; split <;> exact nofun

theorem gotSubject_beyond {src : Source} {r : Nat} (h : tCount src.desc ≤ r) (s : State) (e : Env) :
    gotSubject s e src r = .beyond := if_pos h

/-! ### Banks -/

/-- The lines a table word reads: none of the plane map's is lost, none at all lies in a busy bank. -/
structure LinesFree (s : State) (maps lines : List Nat) : Prop where
  maps : ∀ line ∈ maps, lineLost s line = false ∧ lineBusy s line = false
  lines : ∀ line ∈ lines, lineBusy s line = false

theorem afterBanks_free {s : State} {maps lines : List Nat} (h : LinesFree s maps lines) (e : Env) (f : State → Issued) :
    afterBanks s e maps lines f = f (dropAccess s (.word e.l.id e.ex)) :=
  afterBanks_goes (fun l hl => (h.maps l hl).1)
    (fun l hl => (List.mem_append.mp hl).elim (fun hl => (h.maps l hl).2) (h.lines l)) e f

/-! ### ROWRD (R284) -/

/-- The index list of a ROWRD in scratch. -/
def rowList (w : MWord) (c : Core) : Extent := ((getX64 c w.sa).toNat, 8 * nbCount w)

/-- The rows a ROWRD names. -/
def rowsNamed (w : MWord) (e : Env) (c : Core) : List Nat :=
  (nbIndexes (scratchRead e c (rowList w c).1 (rowList w c).2) (nbCount w)).map (·.1)

/-- Each row that a ROWRD names, as the launch reads it. -/
def rowsGot (s : State) (e : Env) (src : Source) (rows : List Nat) : List (Nat × Got Bytes) := rows.map (fun r => (r, gotRow s e src r))

/-- A test for reads past the count is one for indexes past it. -/
theorem any_rowsGot {f : Nat × Got Bytes → Bool} (hf : ∀ r g, f (r, g) = true ↔ g = .beyond) (s : State) (e : Env) (src : Source)
    (rows : List Nat) : (rowsGot s e src rows).any f = rows.any (fun r => decide (tCount src.desc ≤ r)) := by
  rw [rowsGot, List.any_map]
  congr 1
  funext r
  rw [Bool.eq_iff_iff, Function.comp_apply, hf, gotRow_eq_beyond, decide_eq_true_iff]

theorem rowrd_faults {w : MWord} {e : Env} {c : Core} (ha : (rowList w c).1 % 8 = 0) (hin : (rowList w c).1 + (rowList w c).2 ≤ e.top) :
    firstCause (nbFaults .copy w e c 0 true) = none := by
  have hin' : ¬ e.top < (rowList w c).1 + (rowList w c).2 := Nat.not_lt.mpr hin
  simp only [rowList] at ha hin'
  refine firstCause_none ?_
  have h0 : elemSide w.hdr.fb.toNat 0 = 0 := by
    unfold elemSide
    split
    · rename_i f _; cases f <;> rfl
    · rfl
  simp [nbFaults, nbExtents, nbVecLen, nbBiasLen, outside, ha, hin', h0]

/-- The bytes that the rows' reads give: zeros past the count. -/
def rowsBytes (src : Source) (got : List (Nat × Got Bytes)) : Bytes :=
  got.flatMap (fun p => match p.2 with
    | .value b _ => b
    | _ => zeros (tSize src.desc))

/-- The lost lines that the rows' reads met are noted for the launch. -/
def rowsNoted (e : Env) (got : List (Nat × Got Bytes)) (s : State) : State :=
  got.foldl (fun s p => match p.2 with
    | .value _ lost => noteLost s e lost
    | _ => s) s

/-- Lines read through the row cache. -/
def linesCached (e : Env) (hint use : Nat) (lines : List Nat) (s : State) : State :=
  lines.foldl (fun s l => cacheRead s e.l.id hint use l) s

section
variable {s : State} {k : Skein} {x : SkeinCtx} {e : Env} {w : MWord} {src : Source} {st : Stream}

/-- What a ROWRD or a SEQF needs beside its operands: a table that is there, and the room of `n` elements in an open NB stream. -/
structure TableReady (s : State) (e : Env) (c : Core) (w : MWord) (src : Source) (st : Stream) : Prop where
  source : sourceOf s e (parHandle w) = some src
  live : sourceDead src = false
  isOpen : getStream c (parStream w) = some st
  room : rangeFits st (nbCount w * tSize src.desc) = true

/-- The index list of a ROWRD is in order: inside scratch, free and there. -/
structure RowListReady (e : Env) (c : Core) (w : MWord) : Prop where
  aligned : (rowList w c).1 % 8 = 0
  inside : (rowList w c).1 + (rowList w c).2 ≤ e.top
  free : hazard e c [rowList w c] [] = false
  there : extentReady c (rowList w c).1 (rowList w c).2 = true

theorem rowrd_reads (hr : Ready s k x e) (hg : guardOn x.core w.hdr = true) (hl : legalRowrd w = true)
    (hfits : nbHandleOk s k.val w = true) (ht : TableReady s e x.core w src st) (hx : RowListReady e x.core w)
    (hpresent : ∀ p ∈ rowsGot s e src (rowsNamed w e x.core), p.2 ≠ .absent)
    (hbanks : LinesFree s (src.maps (rowsNamed w e x.core)) (rowsLines s e (rowsNamed w e x.core) src)) :
    let rows := rowsNamed w e x.core
    let got := rowsGot s e src rows
    exec (.rowrd k w) s = .next (withCore
      (linesCached e (parHint w) (parUse w) (rowsLines s e rows src) (rowsNoted e got (dropAccess s (.word e.l.id e.ex)))) k
      (addFlags (deliverRange e (past x.core) (parStream w) st (rowsBytes src got)) (flagIf (rows.any (fun r => decide (tCount src.desc ≤ r))) flNV))) := by
  intro rows got
  obtain ⟨hsrc, hlive, hopen, hroom⟩ := ht
  obtain ⟨ha, hin, hfree, hthere⟩ := hx
  have hfaults : firstCause (nbFaults .copy w e (past x.core) 0 true) = none := rowrd_faults (c := past x.core) ha hin
  have htakes : streamTakes (past x.core) (parStream w) (nbCount w * tSize src.desc) = true := by
    rw [streamTakes, show getStream (past x.core) (parStream w) = some st from hopen]
    exact hroom
  have hopen' : getStream (past x.core) (parStream w) = some st := hopen
  simp only [rowList] at hfree hthere
  refine congrArg Host.Outcome.next (word_done hr hg (by rw [hl, hfits]; rfl) ?_)
  simp only [hsrc, Option.isSome_some, hfaults, htakes, hazard_past, extentReady_past, scratchRead_past, getX64_past, hfree, hthere,
    hopen', hlive, Bool.not_true, Bool.or_self, Bool.false_eq_true, if_false]
  refine (afterBanks_free hbanks e _).trans ?_
  simp only [gotRow_dropAccess]
  split
  case h_1 p hp =>
    have habsent := hpresent p (List.mem_of_find?_eq_some hp)
    have htest := List.find?_some hp
    obtain ⟨r, g⟩ := p
    cases g with
    | absent => exact absurd rfl habsent
    | value | beyond => exact absurd htest Bool.false_ne_true
  case h_2 =>
    have hany := any_rowsGot (f := fun p => match p.2 with | .beyond => true | _ => false) (fun r g => by cases g <;> simp) s e src rows
    rw [← hany]
    rfl

/-- The lines of a subject's sequence data. -/
def subjectLines (src : Source) (r : Nat) : List Nat :=
  match src with
  | .live t => Config.subjectLines t.desc r
  | .arena _ => []

/-- What a SEQF leaves in its core that reads a version. -/
def seqGiven (e : Env) (c : Core) (w : MWord) (src : Source) (st : Stream) (v : SeqVer) (f : Flags) : Core :=
  addFlags (setX64 (deliverRange e c (parStream w) st
    (windowEvents v (tSize src.desc) (getX64 c w.sb).toNat (nbCount w))) w.sd (BitVec.ofNat 64 v.events.length)) f

/-- A SEQF once it waits for no bank: what the launch reads of the subject decides. -/
def seqReads (s : State) (e : Env) (c : Core) (w : MWord) (src : Source) (st : Stream) : Issued :=
  let r := (getX64 c w.sa).toNat
  match gotSubject s e src r with
  | .absent => arenaAbsent s e (parHandle w) r
  | .beyond => .done (s, some (seqGiven e c w src st ⟨0, []⟩ flNV))
  | .value v lost => .done (linesCached e 0 0 (subjectLines src r) (noteLost s e lost), some (seqGiven e c w src st v noFlags))

theorem seqReads_beyond {c : Core} (h : tCount src.desc ≤ (getX64 c w.sa).toNat) :
    seqReads s e c w src st = .done (s, some (seqGiven e c w src st ⟨0, []⟩ flNV)) := by
  simp only [seqReads, gotSubject_beyond h]

theorem seqReads_value {c : Core} {v : SeqVer} {lost : List Nat} (h : gotSubject s e src (getX64 c w.sa).toNat = .value v lost) :
    seqReads s e c w src st = .done (linesCached e 0 0 (subjectLines src (getX64 c w.sa).toNat) (noteLost s e lost),
      some (seqGiven e c w src st v noFlags)) := by
  simp only [seqReads, h]

/-- A SEQF of a table that is there, with room for its result and no busy bank, goes on by what it reads. -/
theorem seqf_done (hr : Ready s k x e) (hg : guardOn x.core w.hdr = true) (hl : legalSeqf w = true)
    (hfits : fitsAccord s k.val (fun e _ => schemaKind e.acc (parHandle w) 3) = true) (ht : TableReady s e x.core w src st)
    (hbanks : LinesFree s (src.maps [(getX64 x.core w.sa).toNat]) (subjectLines src (getX64 x.core w.sa).toNat)) {t : State} {c : Core}
    (hdone : seqReads (dropAccess s (.word e.l.id e.ex)) e (past x.core) w src st = .done (t, some c)) :
    exec (.seqf k w) s = .next (withCore t k c) := by
  obtain ⟨hsrc, hlive, hopen, hroom⟩ := ht
  have hopen' : getStream (past x.core) (parStream w) = some st := hopen
  refine congrArg Host.Outcome.next (word_done hr hg (by rw [hl, hfits]; rfl) ?_)
  simp only [hsrc, hopen', hroom, hlive, getX64_past, Bool.not_true, Bool.false_eq_true, if_false]
  unfold seqReads at hdone
  exact (afterBanks_free hbanks e _).trans hdone

end

/-- Settles O33: the rows of a ROWRD one by one, and a SEQF by what its subject's read gives. -/
theorem rowAndSequenceReads : Obligations.RowAndSequenceReads := by
  intro s k x e w src st hr hg hsrc hlive hopen hroom c ix s0 mayRead rows got absent
  have ht : TableReady s e x.core w src st := ⟨hsrc, hlive, hopen, hroom⟩
  refine ⟨fun hl hfits ha hin hfree hthere hpresent hmay => ?_, fun hl hfits hmay => ⟨fun hr' => ?_, fun v lost hv => ?_⟩⟩
  · refine rowrd_reads hr hg hl hfits ht ⟨ha, hin, hfree, hthere⟩ (fun p hp habsent => ?_) ⟨hmay.1, hmay.2⟩
    have := List.any_eq_false.mp hpresent p hp
    simp [absent, habsent] at this
  · exact seqf_done hr hg hl hfits ht ⟨hmay.1, hmay.2⟩ (seqReads_beyond hr')
  · exact seqf_done hr hg hl hfits ht ⟨hmay.1, hmay.2⟩ (seqReads_value ((gotSubject_dropAccess ..).trans hv))

end Sys2Proof.Machine
end

section
/-! SUPPORT. Epoch boundaries: what frames and journal records leave alone, the drain with its fold, the steps of a boundary in progress, and
what closing one leaves of epoch, head and tables (O43). -/

namespace Sys2Proof.Machine

/-! ### SPLICE_SEQUENCE (R267, R285) -/

/-- The front splice of a launch leaves the queue once nothing waits before its record and the journal takes it. -/
theorem spliceSequence_launch {s : State} {q : Queued} {rest : List Queued} (hq : s.fe.queue = q :: rest) (hwait : s.jrn.waiting = []) (htakes : s.jrn.covered = 0 ∨
      acceptable s { recs := [{ kind := 0x01, body := spliceRecord (nextSpliceId s) q.body }], frame := none } = true) :
    exec .spliceSequence s = .next (sequence s q rest) := by
  have hgoes : ¬ (!s.jrn.waiting.isEmpty ∨ (0 < s.jrn.covered.toNat ∧
      !acceptable s { recs := [{ kind := 0x01, body := spliceRecord (nextSpliceId s) q.body }], frame := none })) := by
    rcases htakes with h | h
    · simp [hwait, h]
    · simp [hwait, h]
  change execSpliceSequence s = _
  simp only [execSpliceSequence, hq, if_neg hgoes]

/-! ### ANCHOR_CLOSE (R423, R424, R426) -/

/-- What must hold for boundaries to take place, as far as issuing and beginning one need it. -/
structure ClosesNow (s : State) : Prop where
  noBoundary : s.boundary = none
  noReissue : s.group.reissue = none
  standsWithGroup : s.group.behind = 0
  owesNoSwap : s.group.owedSwap = none

theorem closesNow_of_mayClose {s : State} (h : mayClose s = true) : ClosesNow s := by
  simp only [mayClose, Bool.and_eq_true, Option.isNone_iff_eq_none, beq_iff_eq] at h
  obtain ⟨⟨⟨⟨⟨⟨⟨⟨⟨-, hboundary⟩, -⟩, -⟩, hreissue⟩, hbehind⟩, hswap⟩, -⟩, -⟩, -⟩ := h
  exact ⟨hboundary, hreissue, hbehind, hswap⟩

/-- The next close of an anchor is due a period from now. -/
def nextClose (s : State) : State :=
  { s with group := { s.group with closeDue := s.clk.elapsed + 1000 * rget s Reg.epochPeriod } }

theorem anchorClose_issues {s : State} (hmay : mayClose s = true) (hdue : s.group.closeDue ≤ s.clk.elapsed)
    (hlast : s.fe.epoch.toNat ≠ lastEpoch) (hanchor : isAnchor s = true) :
    exec .anchorClose s = .next (issueManifest (nextClose s) (closeManifest (nextClose s))) := by
  have hre := (closesNow_of_mayClose hmay).noReissue
  change execAnchorClose s = _
  simp [execAnchorClose, hre, hanchor, hmay, Nat.not_lt.mpr hdue, hlast, nextClose]

/-! ### A chip without a group -/

theorem isAnchor_alone {s : State} (h : inGroup s = false) : isAnchor s = true := by simp [isAnchor, anchorNow, h]

theorem needed_alone {s : State} (h : inGroup s = false) : needed s = 1 := by simp [needed, h]

/-- A chip without a group sends no record on. -/
theorem flood_alone {s : State} (h : inGroup s = false) (from_ kind sender : Nat) (payload : Bytes) :
    flood s from_ kind sender payload = s := by simp [flood, h]

theorem foldl_flood_alone {s : State} (h : inGroup s = false) (kind : Nat) (l : List Bytes) :
    l.foldl (fun s c => flood s 8 kind (ownMember s) c) s = s :=
  List.foldlRecOn (motive := fun t : State => t = s) l _ rfl (fun t ht c _ => by rw [ht, flood_alone h])

theorem manEpoch_manifestBytes (epoch term anchor present : Nat) (swap : Option (Nat × Bytes)) (m : Bytes) (ids : List Nat) :
    manEpoch (manifestBytes epoch term anchor present swap m ids) = epoch % 2 ^ 64 := by
  unfold manEpoch manifestBytes
  simp only [List.append_assoc]
  rw [← List.append_assoc, fld_at _ _ _ (length_beBytes 8 _) (length_leBytes 8 _), leNat_leBytes]
  rfl

theorem manifestBytes_ne_nil (epoch term anchor present : Nat) (swap : Option (Nat × Bytes)) (m : Bytes) (ids : List Nat) :
    manifestBytes epoch term anchor present swap m ids ≠ [] := by
  unfold manifestBytes
  simp [beBytes, leBytes]

theorem closeManifest_ne_nil (s : State) : closeManifest s ≠ [] := manifestBytes_ne_nil _ _ _ _ _ _ _

theorem manEpoch_closeManifest {s : State} (h : s.fe.epoch.toNat ≠ lastEpoch) :
    manEpoch (closeManifest s) = s.fe.epoch.toNat + 1 := by
  have := s.fe.epoch.isLt
  unfold lastEpoch at h
  rw [closeManifest, manEpoch_manifestBytes, Nat.mod_eq_of_lt (by omega)]

/-- A journalled record without an effect of its own leaves all but the journal, the error log and its messages. -/
theorem stageOwn_manifest (s : State) (m : Bytes) : (stageOwn s [{ kind := 0x03, body := m }]).boundary = s.boundary ∧
    (stageOwn s [{ kind := 0x03, body := m }]).fe = s.fe := by
  unfold stageOwn stage
  split
  · exact ⟨rfl, rfl⟩
  · unfold noteExhausted
    split
    · exact ⟨rfl, rfl⟩
    · simp

theorem foldl_modSplice_keeps {γ : Type} (g : State → γ) (f : SpliceRec → SpliceRec) (hg : ∀ s id, g (modSplice s id f) = g s)
    (ids : List Nat) (s : State) : g (ids.foldl (fun s id => modSplice s id f) s) = g s :=
  foldl_keeps g _ ids (fun s id _ => hg s id) s

/-- The boundary of a manifest, as it begins on a chip that does not lag its group. -/
def begun (s : State) (m : Bytes) : Boundary :=
  { step := .gather, manifest := m, ids := manIds m, swap := manSwap m, position := 0, refused := [],
    due := s.clk.elapsed + 1000 * rget s Reg.boundaryLimit, asked := 0 }

theorem begun_fields (s : State) (m : Bytes) : (begun s m).step = .gather ∧ (begun s m).manifest = m ∧
    (begun s m).ids = manIds (begun s m).manifest ∧ (begun s m).due = s.clk.elapsed + 1000 * rget s Reg.boundaryLimit :=
  ⟨rfl, rfl, rfl, rfl⟩

theorem startBoundary_standing {s : State} (h : s.group.behind = 0) (m : Bytes) :
    (startBoundary s m).boundary = some (begun s m) ∧ (startBoundary s m).fe = s.fe := by
  have hbehind : (s.group.behind != 0) = false := by simp [h]
  simp only [startBoundary, hbehind, Bool.false_eq_true, if_false]
  exact ⟨rfl, foldl_modSplice_keeps State.fe _ (fun _ _ => rfl) (manIds m) s⟩

theorem beginBoundary_standing {s : State} (h : s.group.behind = 0) (m : Bytes) :
    (beginBoundary s m).boundary = some (begun s m) ∧ (beginBoundary s m).fe = s.fe := by
  obtain ⟨hboundary, hfe⟩ := stageOwn_manifest (startBoundary s m) m
  obtain ⟨hboundary', hfe'⟩ := startBoundary_standing h m
  exact ⟨hboundary.trans hboundary', hfe.trans hfe'⟩

/-- A chip without a group that has issued a manifest and confirmed it by itself. -/
def confirmedAlone (s : State) (m : Bytes) : State :=
  { s with group := { s.group with issuing := [], acks := [ownMember s], manifest := m, confirm := some (manEpoch m, sha256 m) } }

/-- A manifest that the chip holds and has confirmed begins its boundary. -/
theorem maybeBegin_confirmedAlone {s : State} (h : ClosesNow s) {m : Bytes} (hm : m ≠ [])
    (he : manEpoch m = s.fe.epoch.toNat + 1) : maybeBegin (confirmedAlone s m) = beginBoundary (confirmedAlone s m) m := by
  have hbegins : (confirmedAlone s m).boundary.isNone ∧ (confirmedAlone s m).group.owedSwap.isNone ∧ !m.isEmpty ∧
      manEpoch m = (confirmedAlone s m).fe.epoch.toNat + 1 ∧ manEpoch m = manEpoch m ∧ sha256 m = sha256 m :=
    ⟨by simp [confirmedAlone, h.noBoundary], by simp [confirmedAlone, h.owesNoSwap], by simpa using hm, he, rfl, rfl⟩
  exact if_pos hbegins

/-- The manifest that a chip without a group issues for the next set begins its boundary at once (R425, R426). -/
theorem issueManifest_alone {s : State} (hgroup : inGroup s = false) (h : ClosesNow s) {m : Bytes} (hm : m ≠ [])
    (he : manEpoch m = s.fe.epoch.toNat + 1) : issueManifest s m = beginBoundary (confirmedAlone s m) m := by
  have hnext : manEpoch m = nextSet s := by simp [he, nextSet, h.noBoundary]
  let issued : State := { s with group := { s.group with issuing := m, acks := [ownMember s], manifest := m } }
  have halone : inGroup issued = false := hgroup
  have hconfirms : isAnchor issued ∧ !issued.group.issuing.isEmpty ∧ needed issued ≤ issued.group.acks.length :=
    ⟨isAnchor_alone halone, by simpa [issued] using hm, by rw [needed_alone halone]; exact Nat.le_refl 1⟩
  have hheld : manEpoch issued.group.issuing = nextSet issued := hnext
  calc issueManifest s m = tryConfirm issued := by
        unfold issueManifest
        simp only [if_pos hnext]
        rw [foldl_flood_alone halone]
    _ = maybeBegin (confirmedAlone s m) := by
        unfold tryConfirm
        simp only [if_pos hconfirms, if_pos hheld]
        rw [flood_alone (by exact hgroup)]
        rfl
    _ = beginBoundary (confirmedAlone s m) m := maybeBegin_confirmedAlone h hm he

/-- The close of a chip without a group begins a boundary, in the epoch it stands in. -/
theorem anchorClose_alone {s : State} (hmay : mayClose s = true) (hdue : s.group.closeDue ≤ s.clk.elapsed)
    (hlast : s.fe.epoch.toNat ≠ lastEpoch) (hgroup : inGroup s = false) :
    ∃ t, exec .anchorClose s = .next t ∧ t.boundary = some (begun s (closeManifest (nextClose s))) ∧ t.fe = s.fe := by
  have hcloses : ClosesNow (nextClose s) := by
    obtain ⟨hboundary, hre, hbehind, hswap⟩ := closesNow_of_mayClose hmay
    exact ⟨hboundary, hre, hbehind, hswap⟩
  have hissues := issueManifest_alone (s := nextClose s) (m := closeManifest (nextClose s)) hgroup hcloses
    (closeManifest_ne_nil _) (manEpoch_closeManifest (s := nextClose s) hlast)
  obtain ⟨hboundary, hfe⟩ := beginBoundary_standing (s := confirmedAlone (nextClose s) (closeManifest (nextClose s)))
    hcloses.standsWithGroup (closeManifest (nextClose s))
  exact ⟨_, (anchorClose_issues hmay hdue hlast (isAnchor_alone hgroup)).trans (congrArg _ hissues), hboundary, hfe⟩

/-! ### Steps 2 to 5 of a boundary in progress -/

section
variable {s : State} {b : Boundary}

theorem gather_matches (hb : s.boundary = some b) (hstep : b.step = .gather) (hall : (bodiesOf s b.ids).length = b.ids.length)
    (hm : bodiesDigest (bodiesOf s b.ids) = manM b.manifest) :
    exec .boundaryGatherDone s = .next { s with boundary := some { b with step := .drain } } := by
  change execBoundaryGatherDone s = _
  simp [execBoundaryGatherDone, hb, hstep, gathered, hall, hm, modB]

/-- A round that leaves bodies missing or wrong asks the next port. -/
theorem gather_asks (hb : s.boundary = some b) (hstep : b.step = .gather) (hmissing : gathered s b = false)
    (hasks : (bodiesOf s b.ids).length = b.ids.length ∨ 0 < b.asked) :
    exec .boundaryGatherDone s = .next (askBodies s b) := by
  change execBoundaryGatherDone s = _
  simp only [execBoundaryGatherDone, hb, hstep, hmissing, if_pos hasks, ne_eq, not_true_eq_false, Bool.false_eq_true, if_false]

theorem gather_waits (hb : s.boundary = some b) (hall : (bodiesOf s b.ids).length ≠ b.ids.length) (hasked : b.asked = 0) :
    exec .boundaryGatherDone s = .next s := by
  have hmissing : gathered s b = false := by simp [gathered, hall]
  change execBoundaryGatherDone s = _
  simp [execBoundaryGatherDone, hb, hmissing, hall, hasked]

/-- The listed bodies are forgotten. -/
def dropBodies (s : State) (ids : List Nat) : State := ids.foldl (fun s id => modSplice s id (fun r => { r with body := none })) s

theorem dropBodies_boundary (s : State) (ids : List Nat) : (dropBodies s ids).boundary = s.boundary :=
  foldl_modSplice_keeps State.boundary _ (fun _ _ => rfl) ids s

theorem askBodies_whole (hb : s.boundary = some b) (hall : (bodiesOf s b.ids).length = b.ids.length) :
    askBodies s b = fetchBodies { dropBodies s b.ids with boundary := some { b with asked := b.asked + 1 } }
      (lacking (dropBodies s b.ids) b.ids) := by
  have hdropped := dropBodies_boundary s b.ids
  simp only [askBodies, if_pos hall]
  rw [← dropBodies, modB, hdropped, hb, Option.map_some]

theorem askBodies_part (hb : s.boundary = some b) (hall : (bodiesOf s b.ids).length ≠ b.ids.length) :
    askBodies s b = fetchBodies { s with boundary := some { b with asked := b.asked + 1 } } (lacking s b.ids) := by
  simp only [askBodies, if_neg hall, modB, hb, Option.map_some]

theorem spliceApply_done (hb : s.boundary = some b) (hstep : b.step = .apply) {id : Nat} {body : Bytes}
    (hid : b.ids[b.position]? = some id) (hbody : (findSplice s id).bind (·.body) = some body) {u : State}
    (hu : applyOne (flushTouched s body) b body = .done u) :
    exec .spliceApply s = .next (commitIfDone (nextPosition u id false)) := by
  change execSpliceApply s = _
  simp only [execSpliceApply, applyNext, hb, hstep, hid, hbody, hu]

/-- A refused splice other than a SEQ-APPEND is noted as SPLICE-REFUSED. -/
theorem spliceApply_refused (hb : s.boundary = some b) (hstep : b.step = .apply) {id : Nat} {body : Bytes}
    (hid : b.ids[b.position]? = some id) (hbody : (findSplice s id).bind (·.body) = some body) {u : State}
    (hu : applyOne (flushTouched s body) b body = .refused u) (hkind : bKind body ≠ 5) : exec .spliceApply s =
      .next (commitIfDone (nextPosition (logErr u Err.spliceRefused 0xFF id b.position) id true)) := by
  have hseq : (bKind body == 5) = false := beq_false_of_ne hkind
  change execSpliceApply s = _
  simp only [execSpliceApply, applyNext, hb, hstep, hid, hbody, hu, hseq, Bool.false_and, Bool.false_eq_true, if_false]
  rfl

end


/-! ### The fold of step 4 (R265, R276) -/

/-- Every young element's plane flipped. -/
def flipped (s : State) : State := s.tables.foldl (fun s t => t.young.foldl (fun s r => flipPlane s t.desc r) s) s

/-- A table past the fold. -/
def Table.folded (t : Table) : Table :=
  { t with young := [], pending := [], subjects := nmap Subject.empty (fun q => { q with inSet := 0 }) t.subjects }

/-- Flips change memory alone. -/
theorem foldl_flipPlane_eq (d : Bytes) (l : List Nat) (s : State) : l.foldl (fun s r => flipPlane s d r) s =
    { s with mem := (l.foldl (fun s r => flipPlane s d r) s).mem } :=
  List.foldlRecOn (motive := fun t : State => t = { s with mem := t.mem }) l _ rfl (fun t ht r _ => by rw [ht]; rfl)

theorem flipped_eq (s : State) : flipped s = { s with mem := (flipped s).mem } :=
  List.foldlRecOn (motive := fun t : State => t = { s with mem := t.mem }) s.tables _ rfl
    (fun t ht x _ => by rw [foldl_flipPlane_eq, ht])

theorem fold_eq (s : State) : fold s = { flipped s with tables := s.tables.map Table.folded } := by
  have htables : (flipped s).tables = s.tables := by rw [flipped_eq]
  change { flipped s with tables := (flipped s).tables.map Table.folded } = _
  rw [htables]

theorem fold_tables (s : State) : (fold s).tables = s.tables.map Table.folded := by rw [fold_eq]
theorem fold_boundary (s : State) : (fold s).boundary = s.boundary := by rw [fold_eq, flipped_eq]
theorem fold_mem (s : State) : (fold s).mem = (flipped s).mem := by rw [fold_eq]

theorem planeBit_of_byte {s : State} {d : Bytes} {r : Nat} {v : Byte} (h : memRead s (tMap d + r / 8) 1 = [v]) :
    planeBit s d r = if v.getLsbD (r % 8) then 1 else 0 := by
  unfold planeBit
  rw [h]
  have : fld [v] 0 1 = v.toNat := by simp [fld, slice, leNat]
  rw [this]
  rfl

/-- A flip turns the plane bit of its element over. -/
theorem planeBit_flipPlane (s : State) (d : Bytes) (r : Nat) : planeBit (flipPlane s d r) d r = 1 - planeBit s d r := by
  obtain ⟨v, hv⟩ : ∃ v, memRead s (tMap d + r / 8) 1 = [v] := ⟨_, rfl⟩
  have hread : memRead (flipPlane s d r) (tMap d + r / 8) 1 = [v ^^^ BitVec.ofNat 8 (2 ^ (r % 8))] := by
    have hflip : flipPlane s d r = memWrite s (tMap d + r / 8) [v ^^^ BitVec.ofNat 8 (2 ^ (r % 8))] := by
      simp only [flipPlane, hv, List.map_cons, List.map_nil]
    rw [hflip]
    exact memRead_memWrite s _ [v ^^^ BitVec.ofNat 8 (2 ^ (r % 8))]
  have hlt : r % 8 < 8 := Nat.mod_lt r (by decide)
  have hbit : (BitVec.ofNat 8 (2 ^ (r % 8))).getLsbD (r % 8) = true := by
    rw [BitVec.getLsbD_ofNat, Nat.testBit_two_pow_self, decide_eq_true hlt, Bool.and_self]
  rw [planeBit_of_byte hread, planeBit_of_byte hv, BitVec.getLsbD_xor, hbit]
  cases v.getLsbD (r % 8) <;> rfl

theorem planeBit_congr {s t : State} (h : t.mem = s.mem) (d : Bytes) (r : Nat) : planeBit t d r = planeBit s d r := by
  unfold planeBit memRead
  rw [h]

/-- The fold of one young element turns its plane bit over. -/
theorem planeBit_fold_single {s : State} {x : Table} {r : Nat} (htables : s.tables = [x]) (hyoung : x.young = [r]) :
    planeBit (fold s) x.desc r = 1 - planeBit s x.desc r := by
  rw [planeBit_congr (fold_mem s), flipped, htables, List.foldl_cons, List.foldl_nil, hyoung, List.foldl_cons, List.foldl_nil,
    planeBit_flipPlane]

/-! ### BOUNDARY_DRAIN_DONE (R57, R276, R632) -/

/-- The tables that launches of the current epoch or later may still read. -/
def standingOn (s : State) : List Table := s.tables.filter (fun x => x.retired.all (fun e => decide (s.fe.epoch.toNat < e)))

/-- The state past the drain: the tables that are gone dropped, the fold made, the listed splices next. -/
def drainedTo (s : State) (b : Boundary) : State :=
  { fold { s with tables := standingOn s } with boundary := some { b with step := .apply, position := 0, refused := [] } }

theorem boundTo_false {s : State} {c : Nat} (h : ∀ l ∈ s.launches, l.epoch = c → l.stage = .finished) : boundTo s c = false := by
  simp only [boundTo, List.any_eq_false, Bool.and_eq_true, beq_iff_eq, bne_iff_ne, not_and, not_not]
  exact h

/-- Step 5 goes on while listed splices are left. -/
theorem commitIfDone_unfinished {s : State} {b : Boundary} (hb : s.boundary = some b) (h : b.position < b.ids.length) :
    commitIfDone s = s := by
  simp only [commitIfDone, hb, if_pos (Or.inr h)]

theorem drainDone {s : State} {b : Boundary} (hb : s.boundary = some b) (hstep : b.step = .drain) (hids : b.ids ≠ [])
    (hgone : s.fe.epoch = 0 ∨ ∀ l, l ∈ s.launches → l.epoch = s.fe.epoch.toNat - 1 → l.stage = .finished)
    (hdry : s.jrn.drydown = none) (hlost : foldLost s = false) (hbusy : foldBusy s = false) :
    exec .boundaryDrainDone s = .next (drainedTo s b) := by
  have hbound : ¬ (boundTo s (s.fe.epoch.toNat - 1) ∧ 0 < s.fe.epoch.toNat) := by
    rcases hgone with h | h
    · simp [h]
    · simp [boundTo_false h]
  have hgoes : ¬ (b.step ≠ .drain ∨ boundTo s (s.fe.epoch.toNat - 1) ∧ 0 < s.fe.epoch.toNat ∨
      s.jrn.drydown.any (fun d => d.2 && decide (d.1 < s.fe.epoch.toNat)) ∨ foldLost s ∨ foldBusy s) := by
    simp [hstep, hbound, hdry, hlost, hbusy]
  have hfold : (fold { s with tables := standingOn s }).boundary = some b := (fold_boundary _).trans hb
  have hmod : modB (fold { s with tables := standingOn s }) (fun b => { b with step := .apply, position := 0, refused := [] }) =
      drainedTo s b := by
    rw [modB, hfold, Option.map_some, drainedTo]
  change execBoundaryDrainDone s = _
  unfold execBoundaryDrainDone
  split
  case h_1 hnone => exact absurd (hb.symm.trans hnone) (Option.some_ne_none b)
  case h_2 b' hb' =>
    obtain rfl : b = b' := Option.some.inj (hb.symm.trans hb')
    dsimp only
    rw [if_neg hgoes]
    refine congrArg Host.Outcome.next ((congrArg commitIfDone hmod).trans ?_)
    exact commitIfDone_unfinished (b := { b with step := .apply, position := 0, refused := [] }) rfl (List.length_pos_iff.mpr hids)

theorem drainedTo_tables (s : State) (b : Boundary) : (drainedTo s b).tables = (standingOn s).map Table.folded := fold_tables _

/-- The drain of one young element's table turns its plane bit over. -/
theorem planeBit_drainedTo {s : State} {b : Boundary} {x : Table} {r : Nat} (htables : s.tables = [x]) (hyoung : x.young = [r])
    (hretired : x.retired = none) : planeBit (drainedTo s b) x.desc r = 1 - planeBit s x.desc r := by
  have hstands : standingOn s = [x] := by simp [standingOn, htables, hretired]
  exact planeBit_fold_single (s := { s with tables := standingOn s }) hstands hyoung

/-! ### What frames leave alone -/

/-- All but the ports, what has been sent, and what waits for the journal. -/
def besideFrames (s : State) : State := { s with ports := [], out := [], jrn := { s.jrn with waiting := [] } }

section
variable (s : State)

theorem besideFrames_modP (p : Nat) (f : PortSt → PortSt) : besideFrames (modP s p f) = besideFrames s := rfl

theorem besideFrames_portRetrain (p : Nat) : besideFrames (portRetrain s p) = besideFrames s := rfl

theorem besideFrames_putFrame (p kind flags sender seq : Nat) (payload : Bytes) :
    besideFrames (putFrame s p kind flags sender seq payload) = besideFrames s := by
  unfold putFrame
  dsimp only
  split <;> rfl

theorem besideFrames_pumpOne (p : Nat) : besideFrames (pumpOne s p) = besideFrames s := by
  unfold pumpOne
  dsimp only
  split
  · rfl
  · simp only [apply_ite besideFrames, besideFrames_putFrame, besideFrames_modP, ite_self]

theorem besideFrames_queueFrame (p kind flags sender : Nat) (payload : Bytes) :
    besideFrames (queueFrame s p kind flags sender payload) = besideFrames s := by
  unfold queueFrame
  split
  · exact foldl_keeps besideFrames _ _ (fun s _ _ => besideFrames_pumpOne s p) _
  · rfl

theorem besideFrames_flood (from_ kind sender : Nat) (payload : Bytes) :
    besideFrames (flood s from_ kind sender payload) = besideFrames s := by
  unfold flood
  split
  · refine foldl_keeps besideFrames _ _ (fun s p _ => ?_) s
    split
    · rfl
    · exact besideFrames_queueFrame s ..
  · rfl

/-- All but what a FETCH changes. -/
def besideFetches (s : State) : State :=
  { besideFrames s with group := { s.group with fetchId := 0, asked := [], fetches := [], turn := 0 } }

theorem besideFetches_congr {s t : State} (h : besideFrames t = besideFrames s) : besideFetches t = besideFetches s :=
  congrArg (fun s : State => { s with group := { s.group with fetchId := 0, asked := [], fetches := [], turn := 0 } }) h

theorem besideFetches_sendRequest (p kind epoch : Nat) (items : List Nat) :
    besideFetches (sendRequest s p kind epoch items) = besideFetches s :=
  (besideFetches_congr (besideFrames_queueFrame ..)).trans rfl

theorem besideFetches_sendFetch (kind epoch : Nat) (items : List Nat) :
    besideFetches (sendFetch s kind epoch items) = besideFetches s := by
  unfold sendFetch
  dsimp only
  split
  · rfl
  · exact foldl_keeps besideFetches _ _ (fun s l _ => besideFetches_sendRequest s ..) _

theorem besideFetches_fetchBodies (ids : List Nat) : besideFetches (fetchBodies s ids) = besideFetches s := by
  unfold fetchBodies
  split
  · rfl
  · exact besideFetches_sendFetch ..

end

/-! ### BOUNDARY_LIMIT_EXPIRY (R288, R427) -/

/-- Whether the chip stands with its group, and its global state. -/
def standingOf (s : State) : Nat × GlobalSt := (s.group.behind, s.glb)

theorem standingOf_askBodies (s : State) (b : Boundary) : standingOf (askBodies s b) = standingOf s := by
  have hasked (t : State) (ids : List Nat) : standingOf (fetchBodies (modB t (fun b => { b with asked := b.asked + 1 })) ids) =
      standingOf t := (congrArg standingOf (besideFetches_fetchBodies (modB t _) ids) :)
  unfold askBodies
  dsimp only
  rw [hasked]
  split
  · exact foldl_modSplice_keeps standingOf _ (fun _ _ => rfl) b.ids s
  · rfl

theorem standingOf_fallBehind {s : State} (h : s.group.behind = 0) (epoch : Nat) : standingOf (fallBehind s epoch) =
    (1, { s.glb with conds := s.glb.conds ||| BitVec.twoPow 8 condBoundary, stopped := sadd s.glb.stopped condBoundary }) := by
  simp [fallBehind, h, standingOf, stopAdmit, raiseCond]

theorem limitExpiry {s : State} {b : Boundary} (hb : s.boundary = some b) (hstep : b.step = .gather) (hmissing : gathered s b = false)
    (hdue : b.due ≤ s.clk.elapsed) :
    exec .boundaryLimitExpiry s = .next (askBodies (fallBehind s (manEpoch b.manifest)) b) := by
  change execBoundaryLimitExpiry s = _
  simp [execBoundaryLimitExpiry, hb, hstep, hmissing, Nat.not_lt.mpr hdue]


/-! ### What leaves epoch, head and tables alone -/

/-- The epoch the chip stands in, its chain head and its tables. -/
def epochOf (s : State) : BitVec 64 × Bytes × List Table := (s.fe.epoch, s.fe.head, s.tables)

section
variable (s : State)

theorem epochOf_of_besideFetches {s t : State} (h : besideFetches t = besideFetches s) : epochOf t = epochOf s :=
  (congrArg epochOf h :)

theorem epochOf_weave (w : WeaveSt) : epochOf { s with weave := w } = epochOf s := rfl
theorem epochOf_counter (n : Nat) : epochOf { s with fe := { s.fe with counter := n } } = epochOf s := rfl
theorem epochOf_portRetrain (p : Nat) : epochOf (portRetrain s p) = epochOf s := rfl
theorem epochOf_modSplice (id : Nat) (f : SpliceRec → SpliceRec) : epochOf (modSplice s id f) = epochOf s := rfl
theorem epochOf_learnState (id st : Nat) : epochOf (learnState s id st) = epochOf s := rfl
theorem epochOf_modS (i : Nat) (f : StackSt → StackSt) : epochOf (modS s i f) = epochOf s := rfl
theorem epochOf_putReport (m : Nat) (b : Bytes) : epochOf (putReport s m b) = epochOf s := rfl
theorem epochOf_enterGroup : epochOf (enterGroup s) = epochOf s := rfl
theorem epochOf_frameStaged (p seq u : Nat) : epochOf (frameStaged s p seq u) = epochOf s := rfl
theorem epochOf_msix (fn e : Nat) : epochOf (msix s fn e) = epochOf s := by simp [epochOf]
theorem epochOf_logErr (code tenant a b : Nat) : epochOf (logErr s code tenant a b) = epochOf s := by simp [epochOf]

theorem epochOf_flood (from_ kind sender : Nat) (payload : Bytes) : epochOf (flood s from_ kind sender payload) = epochOf s :=
  epochOf_of_besideFetches (besideFetches_congr (besideFrames_flood ..))

theorem epochOf_fetchBodies (ids : List Nat) : epochOf (fetchBodies s ids) = epochOf s :=
  epochOf_of_besideFetches (besideFetches_fetchBodies ..)

theorem epochOf_sendFetch (kind epoch : Nat) (items : List Nat) : epochOf (sendFetch s kind epoch items) = epochOf s :=
  epochOf_of_besideFetches (besideFetches_sendFetch ..)

theorem epochOf_fetchManifest (epoch : Nat) : epochOf (fetchManifest s epoch) = epochOf s := epochOf_sendFetch ..

/-! ### The journal -/

theorem epochOf_recordDurable (from_ : Nat) (spread : Bool) (r : JrnRecord) :
    epochOf (recordDurable s from_ spread r) = epochOf s := by
  unfold recordDurable
  split
  · dsimp only
    split
    · exact epochOf_flood ..
    · rfl
  · exact (epochOf_flood ..).trans (foldl_keeps epochOf _ _ (fun s e _ => epochOf_learnState s _ _) s)
  · split <;> rfl
  all_goals rfl

theorem epochOf_writeDurable (w : JrnWrite) : epochOf (writeDurable s w) = epochOf s := by
  have hrecs := foldl_keeps epochOf (fun s r => recordDurable s ((w.frame.map (·.1)).getD 8) w.spread r) w.recs
    (fun s r _ => epochOf_recordDurable s ..) s
  unfold writeDurable
  dsimp only
  split
  · exact (epochOf_frameStaged ..).trans hrecs
  · exact hrecs

theorem epochOf_noteExhausted (n : Nat) : epochOf (noteExhausted s n) = epochOf s := by
  unfold noteExhausted
  split
  · rfl
  · exact epochOf_logErr ..

theorem epochOf_stageOwn (recs : List JrnRecord) : epochOf (stageOwn s recs) = epochOf s := by
  unfold stageOwn stage
  split
  · exact epochOf_writeDurable ..
  · exact epochOf_noteExhausted ..

/-! ### The group -/

theorem epochOf_fallBehind (epoch : Nat) : epochOf (fallBehind s epoch) = epochOf s := by
  unfold fallBehind
  split
  · rfl
  · exact epochOf_logErr ..

theorem epochOf_chainMismatch (epoch : Nat) : epochOf (chainMismatch s epoch) = epochOf s := by
  unfold chainMismatch
  split
  · rfl
  · exact epochOf_logErr ..

theorem epochOf_checkHead : epochOf (checkHead s) = epochOf s := by
  unfold checkHead
  split
  · rfl
  · split
    · split
      · exact epochOf_chainMismatch ..
      · rfl
    · rfl

theorem epochOf_rejoin : epochOf (rejoin s) = epochOf s := by
  unfold rejoin
  split <;> rfl

theorem epochOf_startBoundary (m : Bytes) : epochOf (startBoundary s m) = epochOf s := by
  have hlisted := foldl_modSplice_keeps epochOf (fun r => { r with listed := true }) (fun _ _ => rfl) (manIds m) s
  unfold startBoundary
  dsimp only
  split
  · exact (epochOf_fetchBodies ..).trans hlisted
  · exact hlisted

theorem epochOf_maybeBegin : epochOf (maybeBegin s) = epochOf s := by
  unfold maybeBegin
  split
  · rfl
  · dsimp only
    split
    · exact (epochOf_stageOwn ..).trans (epochOf_startBoundary ..)
    · rfl

theorem epochOf_tryConfirm : epochOf (tryConfirm s) = epochOf s := by
  unfold tryConfirm
  dsimp only
  split
  · exact (epochOf_maybeBegin _).trans (epochOf_flood ..)
  · rfl

theorem epochOf_issueManifest (m : Bytes) : epochOf (issueManifest s m) = epochOf s :=
  (epochOf_tryConfirm _).trans (foldl_keeps epochOf _ _ (fun s _ _ => epochOf_flood s ..) _)

theorem epochOf_tryReissue : epochOf (tryReissue s) = epochOf s := by
  unfold tryReissue
  split
  · rfl
  · split
    · rfl
    · split
      · split
        · exact epochOf_issueManifest ..
        · exact epochOf_fetchManifest ..
      · exact epochOf_fetchManifest ..

theorem epochOf_catchUp : epochOf (catchUp s) = epochOf s := by
  unfold catchUp
  split
  · refine (epochOf_fetchManifest ..).trans ?_
    split
    · exact epochOf_fallBehind ..
    · rfl
  · rfl

/-! ### Step 8 -/

theorem epochOf_writeStore : epochOf (writeStore s) = epochOf s := by
  unfold writeStore
  dsimp only
  split <;> rfl

theorem epochOf_resizeCaches : epochOf (resizeCaches s) = epochOf s :=
  foldl_keeps epochOf _ _ (fun s i _ => epochOf_modS s i _) s

theorem epochOf_leavePorts : epochOf (leavePorts s) = epochOf s := by
  unfold leavePorts
  split
  · rfl
  · exact foldl_keeps epochOf _ _ (fun s p _ => epochOf_portRetrain s p) s

theorem epochOf_rotate (a : Accord) : epochOf (rotate s a) = epochOf s := by
  have hstored (t : State) (r : JrnRecord) : epochOf (stageOwn (writeStore (resizeCaches t)) [r]) = epochOf t :=
    (epochOf_stageOwn ..).trans ((epochOf_writeStore _).trans (epochOf_resizeCaches t))
  unfold rotate
  dsimp only
  refine (epochOf_leavePorts _).trans ?_
  split
  · exact hstored ..
  · exact (epochOf_enterGroup _).trans ((epochOf_counter ..).trans (hstored ..))

theorem epochOf_refuseSwap (id : Nat) : epochOf (refuseSwap s id) = epochOf s :=
  (epochOf_logErr ..).trans (epochOf_writeStore _)

theorem epochOf_doSwap (b : Boundary) : epochOf (doSwap s b) = epochOf s := by
  unfold doSwap
  split
  · rfl
  · exact epochOf_rotate ..
  · split
    · exact epochOf_refuseSwap ..
    · exact (epochOf_fallBehind ..).trans (epochOf_logErr ..)

theorem epochOf_relabel (k : Nat) : epochOf (relabel s k) = epochOf s := by
  unfold relabel
  dsimp only
  split <;> rfl

/-- The weave's changes at step 8. -/
def weaveSwapped (s : State) : State :=
  if s.weave.pendingSwap.isEmpty then s
  else { s with weave := { s.weave with pendingSwap := [], swapped := swappedPairs s.weave.pendingSwap s.weave.swapped } }

theorem epochOf_weaveSwapped : epochOf (weaveSwapped s) = epochOf s := by
  unfold weaveSwapped
  split
  · rfl
  · exact epochOf_weave ..

theorem epochOf_stepEight (b : Boundary) : epochOf (stepEight s b) = epochOf s :=
  (epochOf_weaveSwapped _).trans ((foldl_keeps epochOf relabel (List.range 128) (fun s k _ => epochOf_relabel s k) (doSwap s b)).trans
    (epochOf_doSwap s b))

/-! ### Step 9 (R57, R276, R278) -/

theorem epochOf_askResync : epochOf (askResync s) = epochOf s := by
  unfold askResync
  dsimp only
  split
  · rfl
  · exact epochOf_sendFetch ..

theorem epochOf_markApplied (ids : List Nat) : epochOf (markApplied s ids) = epochOf s :=
  foldl_modSplice_keeps epochOf _ (fun _ _ => rfl) ids s

/-- The tables of a new epoch: what the boundary touched is young. -/
def renewed (l : List Table) : List Table := l.map (fun t => { t with young := t.pending, pending := [] })

theorem epochOf_cutOver (b : Boundary) (head : Bytes) : epochOf (cutOver s b head) = (s.fe.epoch + 1, head, renewed s.tables) := by
  unfold cutOver
  dsimp only
  rw [epochOf_tryReissue, epochOf_catchUp, epochOf_maybeBegin, epochOf_rejoin, epochOf_checkHead, epochOf_askResync, epochOf_msix,
    epochOf_flood, epochOf_putReport]
  rfl

end

/-- With its record durable the boundary closes: the next epoch, the chain of its manifest, the pending sets young. -/
theorem closeBoundary_epochOf {s : State} {b : Boundary} (hb : s.boundary = some b) (hstep : b.step = .record)
    (hdone : recordDone s = true) : epochOf (closeBoundary s) = (s.fe.epoch + 1, nextHead s b, renewed s.tables) := by
  have hgoes : ¬ (b.step ≠ .record ∨ !recordDone s) := by simp [hstep, hdone]
  have hkept : epochOf (stepEight (markApplied s b.ids) b) = epochOf s := (epochOf_stepEight ..).trans (epochOf_markApplied ..)
  obtain ⟨hepoch, hrest⟩ := Prod.mk.inj hkept
  obtain ⟨-, htables⟩ := Prod.mk.inj hrest
  simp only [closeBoundary, hb, if_neg hgoes]
  rw [epochOf_cutOver, hepoch, htables]

/-- Settles O43, event by event. -/
theorem boundariesCloseApplyAndCutOver : Obligations.BoundariesCloseApplyAndCutOver := by
  refine ⟨?sequence, ?close, fun s b hb => ⟨?gather, ?part, ?drain, ?apply, ?record, ?limit⟩⟩
  case sequence =>
    intro s q rest hq hlaunch hwait id r htakes left
    rw [spliceSequence_launch hq hwait htakes, sequence, if_neg hlaunch]
    rfl
  case close =>
    intro s hmay hdue hlast closing
    have hclosing : closing = nextClose s := rfl
    clear_value closing
    subst hclosing
    refine ⟨anchorClose_issues hmay hdue hlast, fun hgroup => ?_⟩
    obtain ⟨t, ht, hboundary, hfe⟩ := anchorClose_alone hmay hdue hlast hgroup
    obtain ⟨hstep, hmanifest, hids, hdue'⟩ := begun_fields s (closeManifest (nextClose s))
    exact ⟨t, _, ht, hboundary, hstep, hmanifest, hids, hdue', by rw [hfe]⟩
  case gather =>
    intro hstep hall
    refine ⟨gather_matches hb hstep hall, fun hm => ?_⟩
    have hmissing : gathered s b = false := by simp [gathered, hm]
    exact (gather_asks hb hstep hmissing (.inl hall)).trans (congrArg _ (askBodies_whole hb hall))
  case part =>
    intro hstep hall
    have hmissing : gathered s b = false := by simp [gathered, hall]
    split
    case isTrue hasked => exact gather_waits hb hall hasked
    case isFalse hasked =>
      exact (gather_asks hb hstep hmissing (.inr (Nat.pos_of_ne_zero hasked))).trans (congrArg _ (askBodies_part hb hall))
  case drain =>
    intro hstep hids hgone hdry hlost hbusy
    refine ⟨drainedTo s b, drainDone hb hstep hids hgone hdry hlost hbusy, rfl, fun x hx => ?_,
      fun x r htables hyoung hretired => planeBit_drainedTo htables hyoung hretired, ?_⟩
    · rw [drainedTo_tables] at hx
      obtain ⟨y, -, rfl⟩ := List.mem_map.mp hx
      exact ⟨rfl, rfl⟩
    · rw [drainedTo_tables, List.map_map]
      rfl
  case apply =>
    intro id body hstep hid hbody
    exact ⟨fun u => spliceApply_done hb hstep hid hbody, fun u => spliceApply_refused hb hstep hid hbody⟩
  case record =>
    intro hstep hdone
    obtain ⟨hepoch, hrest⟩ := Prod.mk.inj (closeBoundary_epochOf hb hstep hdone)
    obtain ⟨hhead, htables⟩ := Prod.mk.inj hrest
    exact ⟨closeBoundary s, rfl, hepoch, hhead, htables⟩
  case limit =>
    intro hstep hmissing hdue hbehind
    have hstands := (standingOf_askBodies (fallBehind s (manEpoch b.manifest)) b).trans (standingOf_fallBehind hbehind _)
    obtain ⟨hbehind', hglb⟩ := Prod.mk.inj hstands
    refine ⟨_, limitExpiry hb hstep hmissing hdue, hbehind', ?_, ?_⟩
    · rw [hglb]
      simp [condBoundary]
    · rw [hglb]
      exact smem_sadd_self ..

end Sys2Proof.Machine
end

section
/-! SUPPORT. Staging, table commands, rings, the set-up lock, BAR0 and BAR2 accesses and the PCIe link (O51). -/

namespace Sys2Proof.Machine

/-! ### Staging and table commands (R273, R281, R629) -/

theorem accordStageStart_image {s : State} {b : Bytes} (h : (stagedImage s).2 = some b) :
    exec .accordStageStart s = .next (stageImage (stagedImage s).1 b) := by
  change execAccordStageStart s = _
  simp only [execAccordStageStart, h]

theorem accordStageStart_noImage {s : State} (h : (stagedImage s).2 = none) :
    exec .accordStageStart s = .next (refuseStage s Err.accordInvalid 0 otherCheck 3) := by
  change execAccordStageStart s = _
  simp only [execAccordStageStart, h]

theorem queueTable_asks {s : State} (hroom : s.fe.queue.length < 4096) (hstate : s.fe.tableState ≠ 1) (body : Bytes) :
    queueTable s body = { s with fe := { s.fe with
      queue := s.fe.queue ++ [{ launch := 0, ex := 0, index := 0, body := body }], tableState := 1 } } :=
  if_neg (by simpa [spliceQueueLimit] using ⟨hroom, hstate⟩)

theorem tableCtrlRegister_failed {s : State} (hstate : s.fe.tableState ≠ 1) :
    exec (.tableCtrlRegister .failed) s = .next { s with fe := { s.fe with tableState := 3 } } :=
  congrArg Host.Outcome.next (if_neg hstate)

/-! ### Rings and the set-up lock (R323, R324, R593) -/

theorem served_phase {p : Phase} (h : p = 5 ∨ p = 6) : inRange 5 6 p.toNat = true := by
  rcases h with rfl | rfl <;> rfl

theorem sqEnable_starts {s : State} {t : Tenant} {r : Ring} (hphase : s.glb.phase = 5 ∨ s.glb.phase = 6)
    (hreset : (getT s t.val).resetting = false) (hoff : (getR (getT s t.val) r.val).enabled = false) :
    let start := BitVec.ofNat 32 (rget s (Reg.sqStart r.val) t.val)
    exec (.sqEnable t r) s = .next (modR s t.val r.val (fun _ => { RingSt.off with
      enabled := true, consumed := start, tail := start, cancel := start, base := rget s (Reg.sqBase r.val) t.val,
      size := 2 ^ rget s (Reg.sqLog r.val) t.val })) :=
  congrArg Host.Outcome.next (if_neg (by simp [hoff, hreset, served_phase hphase]))

theorem cqEnable_starts {s : State} {t : Tenant} (hphase : s.glb.phase = 5 ∨ s.glb.phase = 6)
    (hreset : (getT s t.val).resetting = false) (hoff : (getT s t.val).cqOn = false) :
    let start := BitVec.ofNat 32 (rget s Reg.cqStart t.val)
    exec (.cqEnable t) s = .next (modT s t.val (fun c => { c with
      cqOn := true, cqNext := start, cqSeen := start, cqBase := rget s Reg.cqBase t.val,
      cqSize := 2 ^ rget s Reg.cqLog t.val })) :=
  congrArg Host.Outcome.next (if_neg (by simp [hoff, hreset, served_phase hphase]))

theorem setupLock_unlocked {s : State} (h : s.glb.locked = false) : exec .setupLock s = .next (setLock s) :=
  congrArg Host.Outcome.next (if_neg (by simp [h]))

/-- What the set-up lock does, by the overlap that `f` finds: `setLock` unfolded, with `setupOverlap` in a variable's place
(`setLock_def`). -/
theorem setLock_eq (s : State) : ∃ f : State → Option (Nat × Nat), f = setupOverlap ∧ setLock s = match f s with
    | some d => logErr s Err.setupOverlap noTenant d.1 d.2
    | none => { s with glb := { s.glb with locked := true } } := by
  have h := congrFun setLock_def s
  beta_reduce at h
  obtain ⟨f, hf⟩ : ∃ f, f = setupOverlap := ⟨_, rfl⟩
  rw [← hf] at h
  exact ⟨f, hf, h⟩

theorem setLock_locks {s : State} (h : setupOverlap s = none) : setLock s = { s with glb := { s.glb with locked := true } } := by
  obtain ⟨f, rfl, hlock⟩ := setLock_eq s
  rw [hlock, h]

theorem setLock_overlap {s : State} {d : Nat × Nat} (h : setupOverlap s = some d) :
    setLock s = logErr s Err.setupOverlap noTenant d.1 d.2 := by
  obtain ⟨f, rfl, hlock⟩ := setLock_eq s
  rw [hlock, h]

/-! ### BAR0 reads (R586 to R590) -/

section
variable {s : State}

/-- An aligned 8-byte read of the PF's that is served. -/
theorem bar0Read_served (hserved : bar0Served s 0 = true) (hhang : s.fe.hang = none) {off : Nat} (hoff : off % 8 = 0) :
    bar0Read s 0 off 8 = emit (latch s off) (.completion 0 (some (leBytes 8 (readWord (latch s off) off % 2 ^ 64)))) := by
  have hbase : off / 8 * 8 = off := Nat.div_mul_cancel (Nat.dvd_of_mod_eq_zero hoff)
  have haligned : aligned off 8 = true := by simp [aligned, hoff]
  simp only [bar0Read, pfOffset, if_true, hserved, hhang, haligned, hbase, hoff, Option.isSome_none, Bool.not_true, Bool.false_eq_true,
    if_false, Nat.mul_zero, Nat.pow_zero, Nat.div_one, Nat.reduceMul]

theorem bar0Read_unserved (hserved : bar0Served s 0 = false) (off size : Nat) :
    bar0Read s 0 off size = emit s (.completion 0 none) := by
  simp [bar0Read, pfOffset, hserved]

/-- A register without writable fields reads its read-only part. -/
theorem readWord_readOnly {off mask v : Nat} (hfields : (fieldsAt off).isEmpty = true) (hro : roWord s off = some (mask, v)) :
    readWord s off = v := by
  rw [readWord, List.isEmpty_iff.mp hfields, hro]
  rfl

theorem fields_feEpoch : (fieldsAt 0x100000).isEmpty = true := by decide
theorem fields_arenaEpoch : (fieldsAt 0x700120).isEmpty = true := by decide
theorem fields_time : (fieldsAt 0xA00000).isEmpty = true := by decide

theorem roWord_feEpoch (s : State) : roWord s 0x100000 = some (ones 64, s.fe.epoch.toNat) := rfl
theorem roWord_arenaEpoch (s : State) : roWord s 0x700120 = some (ones 64, s.jrn.arena.epoch.toNat) := rfl
theorem roWord_time (s : State) : roWord s 0xA00000 = some (ones 64, s.clk.time.toNat) := rfl

theorem latch_feEpoch (s : State) : latch s 0x100000 = { s with fe := { s.fe with headLatch := s.fe.head } } := rfl
theorem latch_arenaEpoch (s : State) :
    latch s 0x700120 = { s with jrn := { s.jrn with arena := { s.jrn.arena with headLatch := s.jrn.arena.head } } } := rfl
theorem latch_time (s : State) : latch s 0xA00000 = { s with clk := { s.clk with qualityLatch := s.clk.quality } } := rfl

/-- A served read of a register of one 64-bit read-only value completes with it. -/
theorem bar0Read_value (hserved : bar0Served s 0 = true) (hhang : s.fe.hang = none) {off mask : Nat} {v : BitVec 64}
    (hoff : off % 8 = 0) (hfields : (fieldsAt off).isEmpty = true) (hro : roWord (latch s off) off = some (mask, v.toNat)) :
    bar0Read s 0 off 8 = emit (latch s off) (.completion 0 (some (leBytes 8 v.toNat))) := by
  rw [bar0Read_served hserved hhang hoff, readWord_readOnly hfields hro, Nat.mod_eq_of_lt v.isLt]

end

/-! ### BAR0 writes of one plain field (R10 to R14, R589) -/

/-- An aligned 8-byte write of the PF's. -/
def wholeWrite (off v : Nat) : RegWrite := { off, first := 0, bits := 64, data := v, tenant := noTenant }

/-- The register at `off` is copy `i` of a field from bit 0 on that stores what is written, and `v` fits it. -/
structure PlainField (s : State) (off : Nat) (f : RegField) (i v : Nat) : Prop where
  fields : fieldsAt off = [(f, i)]
  noReadOnly : roWord s off = none
  low : f.lo = 0
  pos : 1 ≤ f.width
  width : f.width ≤ 64
  fits : v < 2 ^ f.width
  stores : acts f = false
  old : rget s f i < 2 ^ f.width

theorem fieldVal_plain {f : RegField} (h : acts f = false) (s : State) (i : Nat) : fieldVal s f i = rget s f i := by
  unfold fieldVal
  split
  case h_5 => rfl
  case h_1 hf => simp [acts, hf] at h
  all_goals rename_i hact _
  all_goals simp [acts, hact] at h

theorem disableField_plain {f : RegField} (h : acts f = false) (w : RegWrite) (s : State) (i : Nat) : disableField w s (f, i) = s := by
  unfold disableField
  split
  · split
    case h_3 => rfl
    all_goals rename_i hact
    all_goals dsimp only at hact
    all_goals simp [acts, hact] at h
  · rfl

theorem actField_plain {f : RegField} (h : acts f = false) (w : RegWrite) (s : State) (i : Nat) : actField w s (f, i) = s := by
  simp [actField, h]

theorem ones_or {v n : Nat} (h : v < 2 ^ n) : ones n ||| v = ones n := by
  refine Nat.eq_of_testBit_eq (fun j => ?_)
  rw [Nat.testBit_or, ones, Nat.testBit_two_pow_sub_one]
  by_cases hj : j < n
  · simp [hj]
  · simp [hj, Nat.testBit_lt_two_pow (Nat.lt_of_lt_of_le h (Nat.pow_le_pow_right (by decide) (Nat.not_lt.mp hj)))]

section
variable {s : State} {off i v : Nat} {f : RegField}

theorem PlainField.covers (h : PlainField s off f i v) : (wholeWrite off v).covers f = true := by
  have hlow := h.low
  have hpos := h.pos
  simp [RegWrite.covers, wholeWrite, hlow]
  omega

/-- The write carries every bit of the field. -/
theorem PlainField.value (h : PlainField s off f i v) : (wholeWrite off v).value f (fieldVal s f i) = v := by
  have hn : min f.width 64 = f.width := Nat.min_eq_left h.width
  rw [fieldVal_plain h.stores]
  simp [RegWrite.value, wholeWrite, h.low, hn, Nat.mod_eq_of_lt h.old, Nat.mod_eq_of_lt h.fits]

theorem PlainField.noReserved (h : PlainField s off f i v) : reservedBits s (wholeWrite off v) = false := by
  simp [reservedBits, wholeWrite, h.fields, h.noReadOnly, h.low, ones_or h.fits]

/-- A write of a register with one plain field stores it or notes why not. -/
theorem PlainField.writeWord (h : PlainField s off f i v) : writeWord (wholeWrite off v) s =
    (let r := storeField (wholeWrite off v) (s, { locked := false, reserved := false, busy := none }) (f, i)
     noteWrite (wholeWrite off v) r.1 r.2) := by
  have hlisted : listed s off = true := by simp [listed, h.fields]
  have hfields : fieldsAt (wholeWrite off v).off = [(f, i)] := h.fields
  have hlisted' : listed s (wholeWrite off v).off = true := hlisted
  simp only [Machine.writeWord, hfields, hlisted', List.foldl_cons, List.foldl_nil, disableField_plain h.stores, h.noReserved,
    actField_plain h.stores, Bool.not_true, Bool.false_eq_true, if_false]

/-- A legal value that is new changes the field alone. -/
theorem PlainField.write_stores (h : PlainField s off f i v) (hopen : f.acc ≠ .rwl ∨ s.glb.locked = false)
    (hlegal : legalValue s f i v = true) (hbusy : busyRing s f i = none) (hnew : v ≠ rget s f i) :
    Machine.writeWord (wholeWrite off v) s = rset s f v i := by
  have hlocked : ¬ (f.acc = .rwl ∧ s.glb.locked) := by
    rcases hopen with h | h <;> simp [h]
  have hold : fieldVal s f i = rget s f i := fieldVal_plain h.stores s i
  have hval := h.value
  rw [hold] at hval
  rw [h.writeWord]
  simp [storeField, h.covers, hold, hval, hlocked, hbusy, hlegal, h.stores, hnew, noteWrite]

/-- A locked field keeps its value: the write is a LOCKED-WRITE entry. -/
theorem PlainField.write_locked (h : PlainField s off f i v) (hacc : f.acc = .rwl) (hlocked : s.glb.locked = true) :
    Machine.writeWord (wholeWrite off v) s = logErr s Err.lockedWrite 0xFF off v := by
  have hstore : storeField (wholeWrite off v) (s, { locked := false, reserved := false, busy := none }) (f, i) =
      (s, { locked := true, reserved := false, busy := none }) := by
    simp [storeField, h.covers, hacc, hlocked]
  rw [h.writeWord, hstore]
  simp [noteWrite, RegWrite.at_, shownValue, wholeWrite, noTenant]

end

theorem bar0Write_whole {s : State} (hserved : bar0Served s 0 = true) (hhang : s.fe.hang = none) {off : Nat} (hoff : off % 8 = 0)
    (v : BitVec 64) : bar0Write s 0 off 8 v.toNat = writeWord (wholeWrite off v.toNat) s := by
  have hbase : off / 8 * 8 = off := Nat.div_mul_cancel (Nat.dvd_of_mod_eq_zero hoff)
  have haligned : aligned off 8 = true := by simp [aligned, hoff]
  have hdata : v.toNat % 18446744073709551616 = v.toNat := Nat.mod_eq_of_lt v.isLt
  simp [bar0Write, pfOffset, hserved, hhang, haligned, operatorOnly, hoff, hbase, wholeWrite, fnTenant, hdata]

/-! ### BAR2 (R207, R210, R366, R368) -/

section
variable {s : State} {off n : Nat}

/-- In the full view an offset is the device address. -/
theorem bar2Dpa_fullView (hfull : s.hst.fullView = true) (hview : rget s Reg.bar2View = 0) (off : Nat) : bar2Dpa s 0 off = off := by
  simp [bar2Dpa, usesFullView, hfull, hview]

theorem dpaStriped_low (h : off < dpaLimit) : dpaStriped off = some off := by
  have hlow : off < 2 ^ 47 := Nat.lt_trans h (by decide)
  simp only [dpaStriped, hlow, h, if_true]

theorem bar2Addrs_fullView (hfull : s.hst.fullView = true) (hview : rget s Reg.bar2View = 0) (hend : off + n ≤ dpaLimit) :
    bar2Addrs s 0 off n = (List.range n).map (fun i => off + i) := by
  rw [bar2Addrs, ← List.filterMap_eq_map]
  refine List.filterMap_congr (fun i hi => ?_)
  have hlow : off + i < dpaLimit := by
    have := List.mem_range.mp hi
    omega
  simp [bar2Dpa_fullView hfull hview, dpaStriped_low hlow]

theorem inBar2_fullView (hfull : s.hst.fullView = true) (hend : off + n ≤ dpaLimit) : inBar2 s 0 off n = true := by
  have hlow : off + n ≤ 2 ^ 38 := Nat.le_trans hend (by decide)
  simp [inBar2, usesFullView, hfull]
  exact hlow

/-- Without failed pseudo-channels the full view reads everywhere. -/
theorem bar2InRange_read (hfull : s.hst.fullView = true) (hview : rget s Reg.bar2View = 0) (hend : off + n ≤ dpaLimit)
    (hfailed : s.defects.failed = []) : bar2InRange s 0 off n false = true := by
  have hgrant : windowGranted s 0 = true := by simp [windowGranted, usesFullView, hfull]
  rw [bar2InRange, hgrant, Bool.true_and, List.all_eq_true]
  intro i hi
  have hlow : off + i < dpaLimit := by
    have := List.mem_range.mp hi
    omega
  simp [byteInReach, bar2Dpa_fullView hfull hview, dpaStriped_low hlow, hfailed, usesFullView, hfull, smem]

theorem linesFree_idle (h : ∀ i, (getS s i).steps = []) (l : List Nat) : linesFree s l = true := by
  simp [linesFree, lineBusy, bankBusy, h]

/-- Flushing a stack that combines nothing changes no byte. -/
theorem flushWhere_empty (h : ∀ i, (getS s i).wc = []) (i : Nat) (p : WcEntry → Bool) :
    (flushWhere s i p).mem = s.mem ∧ (flushWhere s i p).lostBursts = s.lostBursts ∧ (flushWhere s i p).out = s.out ∧
      ∀ j, (getS (flushWhere s i p) j).wc = [] := by
  simp only [flushWhere, h i, List.filter_nil, List.foldl_nil]
  refine ⟨rfl, rfl, rfl, fun j => ?_⟩
  by_cases hj : j = i
  · simp [hj, h i]
  · rw [getS_modS_ne (h := hj), h]

/-- Nor does flushing the lines of a read. -/
theorem foldl_flushLine_empty (l : List Nat) : ∀ s : State, (∀ i, (getS s i).wc = []) →
    (l.foldl flushLine s).mem = s.mem ∧ (l.foldl flushLine s).lostBursts = s.lostBursts ∧ (l.foldl flushLine s).out = s.out := by
  induction l with
  | nil => exact fun _ _ => ⟨rfl, rfl, rfl⟩
  | cons line l ih =>
    intro s h
    obtain ⟨hmem, hlost, hout, hempty⟩ := flushWhere_empty h (line % 8) (fun w => w.line == line)
    obtain ⟨hmem', hlost', hout'⟩ := ih (flushLine s line) hempty
    exact ⟨hmem'.trans hmem, hlost'.trans hlost, hout'.trans hout⟩

/-- The bytes read of memory that nothing combines for and no burst is lost in. -/
theorem bar2Bytes_plain (hwc : ∀ i, (getS s i).wc = []) (hlost : s.lostBursts = []) (l : List Nat) :
    (bar2Bytes s l).2 = l.map (nget 0 s.mem) ∧ (bar2Bytes s l).1.mem = s.mem ∧ (bar2Bytes s l).1.out = s.out := by
  obtain ⟨hmem, hbursts, hout⟩ := foldl_flushLine_empty ((l.map (· / 256)).eraseDups) s hwc
  refine ⟨?_, hmem, hout⟩
  have hfst : (l.zip (List.range l.length)).map (·.1) = l := List.map_fst_zip (by simp)
  calc (bar2Bytes s l).2 = (l.zip (List.range l.length)).map (fun p => nget 0 s.mem p.1) := by
        simp [bar2Bytes, storedByte, hbursts, hlost, hmem, smem]
    _ = ((l.zip (List.range l.length)).map (·.1)).map (nget 0 s.mem) := (List.map_map ..).symm
    _ = l.map (nget 0 s.mem) := by rw [hfst]

theorem bar2Read_bytes (hserved : bar2Served s = true) (hhang : s.fe.hang = none) (hfull : s.hst.fullView = true)
    (hview : rget s Reg.bar2View = 0) {off : BitVec 38} (hend : off.toNat + n ≤ dpaLimit) (hfailed : s.defects.failed = [])
    (hlost : s.lostBursts = []) (hidle : ∀ i, (getS s i).wc = [] ∧ (getS s i).steps = []) :
    ∃ t, exec (.bar2Read 0 off n) s = .next t ∧
      t.out = .completion 0 (some ((List.range n).map (fun i => nget 0 s.mem (off.toNat + i)))) :: s.out ∧ t.mem = s.mem := by
  have hread : exec (.bar2Read 0 off n) s = .next (hostRead s 0 ((List.range n).map (fun i => off.toNat + i))) := by
    change execBar2Read 0 off n s = _
    simp [execBar2Read, inBar2_fullView hfull hend, hserved, hhang, bar2InRange_read hfull hview hend hfailed,
      bar2Addrs_fullView hfull hview hend]
  obtain ⟨hbytes, hmem, hout⟩ := bar2Bytes_plain (fun i => (hidle i).1) hlost ((List.range n).map (fun i => off.toNat + i))
  refine ⟨_, hread, ?_⟩
  simp only [hostRead, linesFree_idle (fun i => (hidle i).2), if_true, emit, hbytes, hmem, hout, List.map_map]
  exact ⟨rfl, trivial⟩

theorem bar2Write_inRange (hserved : bar2Served s = true) (hhang : s.fe.hang = none) (hfull : s.hst.fullView = true)
    (hview : rget s Reg.bar2View = 0) {off : BitVec 38} {data : Bytes} (hend : off.toNat + data.length ≤ dpaLimit)
    (hrange : bar2InRange s 0 off.toNat data.length true = true) :
    exec (.bar2Write 0 off data) s = .next (
      match ((List.range data.length).map (fun i => off.toNat + i)).findSome? (tableHolding s) with
      | some t => logErr s Err.tableWrite 0xFF off.toNat (tHandle t.desc)
      | none => bar2Store s 0 ((List.range data.length).map (fun i => off.toNat + i)) data) := by
  change execBar2Write 0 off data s = _
  simp only [execBar2Write, Fin.val_zero, Fin.isValue, inBar2_fullView hfull hend, hserved, hhang, hrange, bar2Addrs_fullView hfull hview hend,
    bar2Dpa_fullView hfull hview, Option.isSome_none, Bool.not_true, Bool.false_eq_true, or_self, if_false]
  rfl

theorem eraseDups_const {a : Nat} {l : List Nat} (hne : l ≠ []) (h : ∀ x ∈ l, x = a) : l.eraseDups = [a] := by
  cases l with
  | nil => exact absurd rfl hne
  | cons x l =>
    obtain rfl : x = a := h x (.head l)
    rw [List.eraseDups_cons, List.filter_eq_nil_iff.mpr, List.eraseDups_nil]
    intro y hy
    simp [h y (.tail x hy)]

/-- A write inside one line goes to the combining buffer whole. -/
theorem bar2Store_oneLine {data : Bytes} (hne : data ≠ []) (hline : off % 256 + data.length ≤ 256) :
    bar2Store s 0 ((List.range data.length).map (fun i => off + i)) data = wcWrite s 0 (off / 256) (off % 256) data := by
  have hpos : 0 < data.length := List.length_pos_iff.mpr hne
  have hsame : ∀ i, i < data.length → (off + i) / 256 = off / 256 := fun i hi => by omega
  have hlines : ((((List.range data.length).map (fun i => off + i)).map (· / 256)).eraseDups) = [off / 256] := by
    refine eraseDups_const (by simpa using hne) (fun x hx => ?_)
    simp only [List.map_map, List.mem_map, List.mem_range, Function.comp_apply] at hx
    obtain ⟨i, hi, rfl⟩ := hx
    exact hsame i hi
  have hall : (((List.range data.length).map (fun i => off + i)).zip data).filter (fun p => p.1 / 256 == off / 256) =
      ((List.range data.length).map (fun i => off + i)).zip data := by
    refine List.filter_eq_self.mpr (fun p hp => ?_)
    obtain ⟨hp, -⟩ := List.of_mem_zip hp
    simp only [List.mem_map, List.mem_range] at hp
    obtain ⟨i, hi, h⟩ := hp
    simp [← h, hsame i hi]
  have hfst : (((List.range data.length).map (fun i => off + i)).zip data).map (·.1) = (List.range data.length).map (fun i => off + i) :=
    List.map_fst_zip (by simp)
  have hsnd : (((List.range data.length).map (fun i => off + i)).zip data).map (·.2) = data := List.map_snd_zip (by simp)
  have hhead : ((List.range data.length).map (fun i => off + i)).headD 0 = off := by
    obtain ⟨k, hk⟩ := Nat.exists_eq_succ_of_ne_zero hpos.ne'
    simp [hk, List.range_succ_eq_map]
  simp only [bar2Store, hlines, hall, hfst, hsnd, hhead, List.foldl_cons, List.foldl_nil]

end

/-! ### Poisoned writes and the link (R393, Table Host-6) -/

theorem poisonedWrite_config (s : State) (fn : Tenant) (g : Nat) :
    fnConfig (modConfig s fn.val (fun c => { c with uncorrectable := c.uncorrectable + 1 })) g =
      if g = fn.val then { fnConfig s fn.val with uncorrectable := (fnConfig s fn.val).uncorrectable + 1 } else fnConfig s g := by
  simp only [fnConfig, modConfig, nget_nmod]

/-- The link's condition follows the link. -/
theorem linkCond (s : State) (good : Bool) :
    ((if good then clearCond s condLink else raiseCond s condLink).glb.conds.getLsbD 0) = !good ∧
    (if good then clearCond s condLink else raiseCond s condLink).hst = s.hst := by
  cases good <;> simp [clearCond, raiseCond, condLink]

/-- Settles O51: the registers and rings by the equation of each command, a write by what one plain field makes of it, BAR2 by
the offset being the device address in the full view. -/
theorem registersAndWindows : Obligations.RegistersAndWindows := by
  unfold Obligations.RegistersAndWindows
  refine ⟨fun s => ⟨fun b => accordStageStart_image, accordStageStart_noImage, fun hroom hstate => ?table⟩,
    fun s t r hphase hreset => ⟨sqEnable_starts hphase hreset, cqEnable_starts hphase hreset⟩,
    fun s hopen => ⟨fun h => ?locks, fun d h => ?overlaps⟩,
    fun s hserved hhang => ⟨?epoch, ?arenaEpoch, ?time, fun off hoff => ?read, ?write⟩,
    fun s fn off hserved hfn => ?unserved,
    fun s off hserved hhang hfull hview => ⟨fun n hend hfailed hlost hidle =>
      bar2Read_bytes hserved hhang hfull hview hend hfailed hlost hidle,
      fun data t hend hne hrange => ⟨fun htable => ?extent, fun hfree hline => ?stored⟩⟩,
    fun s fn rate width => ⟨?poisoned, ?linkUp⟩⟩
  case table =>
    exact ⟨fun b => congrArg Host.Outcome.next (queueTable_asks hroom hstate _), congrArg Host.Outcome.next (queueTable_asks hroom hstate _),
      tableCtrlRegister_failed hstate⟩
  case locks => rw [setupLock_unlocked hopen, setLock_locks h]
  case overlaps =>
    rw [setupLock_unlocked hopen, setLock_overlap h]
    rfl
  case epoch =>
    refine ⟨_, congrArg Host.Outcome.next (bar0Read_value hserved hhang (off := 0x100000) rfl fields_feEpoch (roWord_feEpoch _)), ?_⟩
    rw [latch_feEpoch]
    exact ⟨rfl, rfl⟩
  case arenaEpoch =>
    refine ⟨_, congrArg Host.Outcome.next (bar0Read_value hserved hhang (off := 0x700120) rfl fields_arenaEpoch (roWord_arenaEpoch _)), ?_⟩
    rw [latch_arenaEpoch]
    exact ⟨rfl, rfl⟩
  case time =>
    refine ⟨_, congrArg Host.Outcome.next (bar0Read_value hserved hhang (off := 0xA00000) rfl fields_time (roWord_time _)), ?_⟩
    rw [latch_time]
    exact ⟨rfl, rfl⟩
  case read => exact congrArg Host.Outcome.next (bar0Read_served hserved hhang hoff)
  case write =>
    intro off v f i hoff hfields hro hlow hpos hwidth hfits hacts hold hoperator
    have hplain : PlainField s off.toNat f i v.toNat := ⟨hfields, hro, hlow, hpos, hwidth, hfits, hacts, hold⟩
    have hwrite : exec (.registerWrite 0 off 8 v) s = .next (writeWord (wholeWrite off.toNat v.toNat) s) :=
      congrArg Host.Outcome.next (bar0Write_whole hserved hhang hoff v)
    rw [hwrite]
    exact ⟨fun hopen hlegal hbusy hnew => by rw [hplain.write_stores hopen hlegal hbusy hnew],
      fun hacc hlocked => by rw [hplain.write_locked hacc hlocked]⟩
  case unserved =>
    obtain rfl : fn = 0 := Fin.ext hfn
    exact congrArg Host.Outcome.next (bar0Read_unserved hserved _ _)
  case extent =>
    have hfirst : ((List.range data.length).map (fun i => off.toNat + i)).findSome? (tableHolding s) = some t := by
      obtain ⟨k, hk⟩ := Nat.exists_eq_succ_of_ne_zero (List.length_pos_iff.mpr hne).ne'
      simp [hk, List.range_succ_eq_map, htable]
    rw [bar2Write_inRange hserved hhang hfull hview hend hrange, hfirst]
  case stored =>
    have hnone : ((List.range data.length).map (fun i => off.toNat + i)).findSome? (tableHolding s) = none := by
      simpa [List.findSome?_eq_none_iff] using hfree
    rw [bar2Write_inRange hserved hhang hfull hview hend hrange, hnone]
    exact congrArg Host.Outcome.next (bar2Store_oneLine hne hline)
  case poisoned =>
    refine ⟨_, rfl, ?_, rfl, fun g hg => ?_⟩
    · rw [poisonedWrite_config, if_pos rfl]
    · rw [poisonedWrite_config, if_neg hg]
  case linkUp =>
    obtain ⟨hcond, hhst⟩ := linkCond _ (linkGood rate width)
    refine ⟨_, rfl, ?_, ?_, ?_, hcond⟩
    all_goals rw [hhst]
    exact if_congr (by simp [inRange]) rfl rfl

end Sys2Proof.Machine
end

section
/-! SUPPORT. Stream words: a word that names an open stream or a closed one, what a stream word asks of its core, and what STMWAIT and
STMCANCEL leave (O26, O27). -/

namespace Sys2Proof.Machine

/-! ### A word and the stream it names (R310) -/

section
variable {e : Env} {s : State} {c : Core} {n : Nat}

theorem onStream_open {st : Stream} (h : getStream c n = some st) (f : Env → State → Core → Stream → Issued) :
    onStream n f e s c = f e s c st := by
  simp only [onStream, h]

theorem onStream_closed (h : getStream c n = none) (f : Env → State → Core → Stream → Issued) :
    onStream n f e s c = streamInvalid s e c n := by
  simp only [onStream, h]

/-- A near-bank stream that is not open takes no range (R304). -/
theorem streamTakes_closed (h : getStream c n = none) (size : Nat) : streamTakes c n size = false := by
  simp [streamTakes, h]

/-- A test against the accord of a ready skein's launch. -/
theorem fitsAccord_ready {k : Skein} {x : SkeinCtx} (hr : Ready s k x e) (p : Env → Core → Bool) :
    fitsAccord s k.val p = p e x.core := by
  obtain ⟨⟨hrun, henv, -, -⟩, -⟩ := hr
  simp only [fitsAccord, hrun, henv]

end

/-! ### Stream words look at the core before them -/

theorem getStream_past (c : Core) (n : Nat) : getStream (past c) n = getStream c n := rfl
theorem openOk_past (e : Env) (c : Core) (n : Nat) (st : Stream) : openOk e (past c) n st = openOk e c n st := rfl
theorem outClear_past (c : Core) (n : Nat) (st : Stream) (k0 k1 : Nat) : outClear (past c) n st k0 k1 = outClear c n st k0 k1 := rfl
theorem ringBusy_past (e : Env) (c : Core) (st : Stream) : ringBusy e (past c) st = ringBusy e c st := rfl
theorem nbFaults_past (kind : NbKind) (w : MWord) (e : Env) (c : Core) (elems : Nat) (known : Bool) :
    nbFaults kind w e (past c) elems known = nbFaults kind w e c elems known := rfl

/-! ### What a ring reads once it has been zeroed (R308) -/

/-- Zeros written to the launch bank, and every other byte as before. -/
theorem scratchByte_zeroed (e : Env) (c : Core) {a : Nat} (ha : e.res ≤ a) (n y : Nat) :
    scratchByte e (scratchWrite e c a (zeros n)) y = if a ≤ y ∧ y < a + n then 0 else scratchByte e c y := by
  split
  case isTrue h =>
    obtain ⟨i, rfl⟩ := Nat.exists_eq_add_of_le h.1
    have hi : i < (zeros n).length := by rw [length_zeros]; omega
    rw [scratchByte_scratchWrite_self e c (zeros n) ha hi]
    simp [zeros]
  case isFalse h =>
    exact scratchByte_scratchWrite_outside e c (zeros n) ha (by rw [length_zeros]; omega)

/-! ### Words on an open stream -/

/-- The core that STMCANCEL leaves, before the stream is taken out: an IN or NB ring is zeroed. -/
def cancelled (e : Env) (c : Core) (st : Stream) : Core :=
  if st.desc.isOut then c else scratchWrite e c st.ring (zeros st.desc.ringLen)

section
variable {s : State} {k : Skein} {x : SkeinCtx} {e : Env} {w : MWord} {st : Stream}
  (hr : Ready s k x e) (hg : guardOn x.core w.hdr = true)
include hr hg

/-- A legal word on an open stream leaves what its unit answers. -/
theorem streamWord_done {legal : Bool} (hl : legal = true) {f : Env → State → Core → Stream → Issued} {c : Core}
    (ho : getStream x.core (stmNumber w) = some st) (hf : f e s (past x.core) st = .done (s, some c)) :
    issueWord s k.val legal w.hdr (onStream (stmNumber w) f) = withCore s k c :=
  word_done hr hg hl ((onStream_open (c := past x.core) ho f).trans hf)

/-- The stream that STMOPEN opens when it meets no fault and waits for nothing (R298, R299). -/
theorem stmopen_opens {d : StreamDesc} (hl : legalStmopen w = true) (hd : streamAt e.acc (stmDesc w) = some d)
    (hok : openOk e x.core (stmNumber w) (freshStream d (getX64 x.core w.sa).toNat (getX64 x.core w.sb).toNat) = true)
    (hb : ringBusy e x.core (freshStream d (getX64 x.core w.sa).toNat (getX64 x.core w.sb).toNat) = false) :
    exec (.stmopen k w) s = .next (withCore s k (setStream (past x.core) (stmNumber w)
      (some (freshStream d (getX64 x.core w.sa).toNat (getX64 x.core w.sb).toNat)))) := by
  refine congrArg Host.Outcome.next (word_done hr hg ?_ ?_)
  · rw [hl, fitsAccord_ready hr, hd]
    rfl
  · simp only [hd, getX64_past, openOk_past, ringBusy_past, hok, hb, Bool.not_true, Bool.false_eq_true, if_false]

theorem stmrearm_adds (hl : legalStmrearm w = true) (ho : getStream x.core (stmNumber w) = some st) (hnb : st.desc.dir ≠ 3)
    (hp : st.desc.persistent = true) (hm : st.armings + stmArmings w < 2 ^ 32)
    (hx : extentOk e st st.armings (st.armings + stmArmings w) = true)
    (hc : st.desc.isOut = false ∨ outClear x.core (stmNumber w) st st.armings (st.armings + stmArmings w) = true) :
    exec (.stmrearm k w) s = .next (withCore s k (setStream (past x.core) (stmNumber w)
      (some { st with armings := st.armings + stmArmings w }))) := by
  have hclear : (!st.desc.isOut || outClear x.core (stmNumber w) st st.armings (st.armings + stmArmings w)) = true := by
    rcases hc with h | h <;> simp [h]
  refine congrArg Host.Outcome.next (streamWord_done hr hg hl ho ?_)
  simp only [outClear_past, hclear, hp, hm, hx, bne_iff_ne.2 hnb, decide_true, Bool.and_self, if_true]

theorem stmclose_ends (hl : legalStmclose w = true) (ho : getStream x.core (stmNumber w) = some st)
    (hb : ringBusy e x.core st = false) (hready : closeReady st = true) :
    exec (.stmclose k w) s = .next (withCore s k (setStream (past x.core) (stmNumber w) none)) := by
  refine congrArg Host.Outcome.next (streamWord_done hr hg hl ho ?_)
  simp only [ringBusy_past, hb, hready, Bool.not_true, Bool.or_self, Bool.false_eq_true, if_false]

theorem stmcancel_ends (hl : legalStmclose w = true) (ho : getStream x.core (stmNumber w) = some st)
    (hb : ringBusy e x.core st = false) (hready : st.desc.dir = 1 ∨ closeReady st = true) :
    exec (.stmcancel k w) s = .next (withCore s k (setStream (cancelled e (past x.core) st) (stmNumber w) none)) := by
  have hgo : (if st.desc.dir = 1 then true else closeReady st) = true := by
    rcases hready with h | h <;> simp [h]
  refine congrArg Host.Outcome.next (streamWord_done hr hg hl ho ?_)
  simp only [ringBusy_past, hb, hgo, Bool.not_true, Bool.or_self, Bool.false_eq_true, if_false, cancelled]
  cases st.desc.isOut with
  | true => rfl
  | false => rfl

/-- An OUT wait sets the ready mark, and the words after it wait for the sent mark (R301). -/
theorem stmwait_out (hl : legalStmwait w = true) (ho : getStream x.core (stmNumber w) = some st)
    (hb : ringBusy e x.core st = false) (hout : st.desc.isOut = true) :
    let m := max st.q (min (min (getX64 x.core w.sb).toNat (totalBytes st)) (st.q + st.desc.ringLen))
    exec (.stmwait k w) s = .next (withCore s k { setStream (past x.core) (stmNumber w) (some { st with q := m }) with
      hold := some (stmNumber w, unitFloor st (min (getX64 x.core w.sa).toNat m)) }) := by
  refine congrArg Host.Outcome.next (streamWord_done hr hg hl ho ?_)
  simp only [ringBusy_past, hb, hout, getX64_past, Bool.false_eq_true, if_false, if_true]

/-- A wait of an IN or NB stream whose watermark is far enough moves Q, and the flags of the units it passes join (R300, R302). -/
theorem stmwait_in (hl : legalStmwait w = true) (ho : getStream x.core (stmNumber w) = some st)
    (hb : ringBusy e x.core st = false) (hin : st.desc.isOut = false) {q : Nat}
    (hq : q = max st.q (if st.desc.dir = 3 then (getX64 x.core w.sb).toNat else min (getX64 x.core w.sb).toNat (totalBytes st)))
    (hfar : max (min (if st.desc.dir = 3 then (getX64 x.core w.sa).toNat else min (getX64 x.core w.sa).toNat (totalBytes st))
      (q + st.desc.ringLen)) q ≤ st.w) :
    exec (.stmwait k w) s = .next (withCore s k (setStream (releaseFlags (past x.core) st q).1 (stmNumber w)
      (some { (releaseFlags (past x.core) st q).2 with q := q }))) := by
  subst hq
  refine congrArg Host.Outcome.next (streamWord_done hr hg hl ho ?_)
  simp only [ringBusy_past, hb, hin, getX64_past, Bool.false_eq_true, if_false, Nat.not_lt.2 hfar]

end

/-- Settles O26, word by word. -/
theorem streamWords : Obligations.StreamWords := by
  intro s k x e w hr hg
  dsimp only
  refine ⟨fun d hl hd hok hb => ?stmopen, fun st ho hb => ⟨fun hl hnb hp hm hx hc => ?stmrearm, fun hl hready => ?stmclose,
    fun hl hready => ?stmcancel, fun hl hout => ?stmwaitOut, fun hl hin hfar => ?stmwaitIn⟩⟩
  case stmopen => exact stmopen_opens hr hg hl hd hok hb
  case stmrearm => exact stmrearm_adds hr hg hl ho hnb hp hm hx hc
  case stmclose => exact stmclose_ends hr hg hl ho hb hready
  case stmcancel =>
    refine ⟨_, stmcancel_ends hr hg hl ho hb hready, fun hout => if_pos hout, fun hin => ?_⟩
    rw [cancelled, hin]
    exact ⟨⟨_, rfl⟩, fun hring y => scratchByte_zeroed e (past x.core) hring st.desc.ringLen y⟩
  case stmwaitOut => exact stmwait_out hr hg hl ho hb hout
  case stmwaitIn => exact stmwait_in hr hg hl ho hb hin rfl hfar

/-! ### Words on a closed stream (R310) -/

section
variable {s : State} {k : Skein} {x : SkeinCtx} {e : Env} {w : MWord}

/-- What a word on a closed stream leaves: it is done, a flag is raised and a STREAM-INVALID entry is made. -/
def streamRefused (s : State) (k : Skein) (x : SkeinCtx) (e : Env) (n : Nat) (f : Flags) : State :=
  withCore (logErr s Err.streamInvalid e.l.tenant e.l.id (x.core.pc % 2 ^ 24 + n * 2 ^ 24)) k
    { past x.core with flags := x.core.flags ||| f }

/-- A legal word whose unit finds its stream invalid. -/
theorem word_refused (hr : Ready s k x e) (hg : guardOn x.core w.hdr = true) {legal : Bool} (hl : legal = true)
    {f : Env → State → Core → Issued} {n : Nat} {mask : Flags} (hf : f e s (past x.core) = streamInvalid s e (past x.core) n mask) :
    issueWord s k.val legal w.hdr f = streamRefused s k x e n (flNV &&& mask) :=
  word_done hr hg hl hf

/-- The whole mask lets NV through. -/
theorem flNV_unmasked : flNV &&& BitVec.allOnes 6 = flNV := by decide

/-- A legal stream word that names a stream which is not open. -/
theorem streamWord_refused (hr : Ready s k x e) (hg : guardOn x.core w.hdr = true) (hc : getStream x.core (stmNumber w) = none)
    {legal : Bool} (hl : legal = true) (f : Env → State → Core → Stream → Issued) :
    issueWord s k.val legal w.hdr (onStream (stmNumber w) f) = streamRefused s k x e (stmNumber w) flNV := by
  rw [word_refused hr hg hl (onStream_closed (c := past x.core) hc f), flNV_unmasked]

/-- NBCOPY has no operand vector: its faults do not depend on the length of a row. -/
theorem nbFaults_copy (w : MWord) (e : Env) (c : Core) (elems elems' : Nat) (known : Bool) :
    nbFaults .copy w e c elems known = nbFaults .copy w e c elems' known := by
  have hbias (n : Nat) : nbBiasLen .copy w n = 0 := if_neg nofun
  simp only [nbFaults, nbExtents, nbVecLen, hbias]

/-- A near-bank word on a closed stream, of a table that the launch may read and with no program fault: its operands in scratch are
not waited for. -/
theorem nbIssue_closed {kind : NbKind} {c : Core} (hc : getStream c (parStream w) = none)
    (hsrc : (sourceOf s e (parHandle w)).isSome = true)
    (hfaults : firstCause (nbFaults kind w e c (nbElems w e) true) = none) :
    nbIssue kind w e s c = streamInvalid s e c (parStream w) w.hdr.fmask := by
  obtain ⟨src, hsrc⟩ := Option.isSome_iff_exists.1 hsrc
  unfold nbElems at hfaults
  simp only [nbIssue, hsrc, Option.isSome_some, hfaults, streamTakes_closed hc, Bool.not_false, if_true]

theorem nbWord_refused (hr : Ready s k x e) (hg : guardOn x.core w.hdr = true) (hc : getStream x.core (parStream w) = none)
    (hsrc : (sourceOf s e (parHandle w)).isSome = true) {kind : NbKind}
    (hfaults : firstCause (nbFaults kind w e x.core (nbElems w e) true) = none) {legal fits : Bool} (hl : legal = true)
    (hfit : fits = true) :
    issueWord s k.val (legal && fits) w.hdr (nbIssue kind w) = streamRefused s k x e (parStream w) (flNV &&& w.hdr.fmask) :=
  word_refused hr hg (by rw [hl, hfit]; rfl) (nbIssue_closed hc hsrc hfaults)

theorem rowrd_refused (hr : Ready s k x e) (hg : guardOn x.core w.hdr = true) (hc : getStream x.core (parStream w) = none)
    (hsrc : (sourceOf s e (parHandle w)).isSome = true) (hfaults : firstCause (nbFaults .copy w e x.core 0 true) = none)
    (hl : legalRowrd w = true) (hfit : nbHandleOk s k.val w = true) :
    exec (.rowrd k w) s = .next (streamRefused s k x e (parStream w) flNV) := by
  obtain ⟨src, hsrc⟩ := Option.isSome_iff_exists.1 hsrc
  have hc' : getStream (past x.core) (parStream w) = none := hc
  rw [← flNV_unmasked]
  refine congrArg Host.Outcome.next (word_refused hr hg (by rw [hl, hfit]; rfl) ?_)
  simp only [hsrc, Option.isSome_some, nbFaults_past, hfaults, streamTakes_closed hc', Bool.not_false, if_true]

theorem seqf_refused (hr : Ready s k x e) (hg : guardOn x.core w.hdr = true) (hc : getStream x.core (parStream w) = none)
    (hsrc : (sourceOf s e (parHandle w)).isSome = true) (hl : legalSeqf w = true)
    (hfit : fitsAccord s k.val (fun e _ => schemaKind e.acc (parHandle w) 3) = true) :
    exec (.seqf k w) s = .next (streamRefused s k x e (parStream w) flNV) := by
  obtain ⟨src, hsrc⟩ := Option.isSome_iff_exists.1 hsrc
  rw [← flNV_unmasked]
  refine congrArg Host.Outcome.next (word_refused hr hg (by rw [hl, hfit]; rfl) ?_)
  simp only [hsrc, getStream_past, hc]

end

/-- Settles O27: each word finds its stream closed before it waits for anything. -/
theorem wordOnClosedStreamRaisesNv : Obligations.WordOnClosedStreamRaisesNv := by
  intro s k x e w hr hg
  dsimp only
  refine ⟨fun hc => ?streamWords, fun hc hsrc => ⟨fun hl hfit => seqf_refused hr hg hc hsrc hl hfit, fun kind hfaults => ?tableWords⟩⟩
  case streamWords =>
    have refuses {legal : Bool} (hl : legal = true) (f : Env → State → Core → Stream → Issued) :
        (.next (issueWord s k.val legal w.hdr (onStream (stmNumber w) f)) : Result) =
          .next (streamRefused s k x e (stmNumber w) flNV) := congrArg _ (streamWord_refused hr hg hc hl f)
    exact ⟨fun hl => refuses hl _, fun hl => refuses hl _, fun hl => refuses hl _, fun hl => refuses hl _⟩
  case tableWords =>
    refine ⟨?nbgp, ?nbdot, ?nbsa, ?nbcopy, ?rowrd⟩
    case rowrd =>
      rintro rfl hl hfit
      exact rowrd_refused hr hg hc hsrc hfaults hl hfit
    case nbcopy =>
      rintro rfl hl hfit
      rw [if_pos rfl, nbFaults_copy w e x.core 0 (nbElems w e)] at hfaults
      exact congrArg Host.Outcome.next (nbWord_refused hr hg hc hsrc hfaults hl hfit)
    all_goals
      rintro rfl hl hfit
      exact congrArg Host.Outcome.next (nbWord_refused hr hg hc hsrc hfaults hl hfit)

end Sys2Proof.Machine
end

section
/-! SUPPORT. Units of a stream: consecutive bytes that come behind a watermark, a whole unit's arrival in the ring, and the sending of an
OUT unit (O28). -/

namespace Sys2Proof.Machine

/-! ### Consecutive bytes behind a watermark (R294) -/

/-- A number above every member goes to the end of the set. -/
theorem sadd_above {x : Nat} : ∀ {p : NSet}, (∀ y ∈ p, y < x) → sadd p x = p ++ [x]
  | [], _ => rfl
  | y :: p, h => by
    have hy : y < x := h y List.mem_cons_self
    rw [sadd, if_neg (by omega), if_neg (by omega), sadd_above (fun z hz => h z (List.mem_cons_of_mem y hz)), List.cons_append]

/-- Consecutive numbers added one after the other. -/
theorem foldl_sadd_range' (w : Nat) : ∀ n : Nat, (List.range' w n).foldl sadd [] = List.range' w n
  | 0 => rfl
  | n + 1 => by
    rw [List.range'_1_concat, List.foldl_append, foldl_sadd_range' w n]
    exact sadd_above (fun y hy => (List.mem_range'_1.1 hy).2)

/-- A watermark passes all the bytes that stand behind it. -/
theorem advance_range' : ∀ {n fuel : Nat} (w : Nat), n < fuel → advance fuel w (List.range' w n) = (w + n, [])
  | 0, _ + 1, _, _ => rfl
  | n + 1, fuel + 1, w, h => by
    have hmem : smem (List.range' w (n + 1)) w = true := by simp [smem]
    have hdel : sdel (List.range' w (n + 1)) w = List.range' (w + 1) n := by
      rw [sdel, List.range'_succ, List.filter_cons_of_neg (by simp), List.filter_eq_self]
      intro y hy
      have := (List.mem_range'_1.1 hy).1
      simp only [bne_iff_ne]
      omega
    rw [advance, if_pos hmem, hdel, advance_range' (w + 1) (by omega), Nat.add_assoc, Nat.add_comm 1 n]

/-! ### Bytes of a ring (R293) -/

theorem fit_eq_map (n : Nat) (b : Bytes) : fit n b = (List.range n).map (fun i => b.getD i 0) := by
  refine List.ext_getElem (by simp) (fun i hi _ => ?_)
  have hin : i < n := by simpa using hi
  simp only [fit, zeros, List.getElem_append, List.getElem_map, List.getElem_range, List.getD_eq_getElem?_getD]
  split
  case isTrue h => simp [List.getElem?_eq_getElem (show i < b.length by simp at h; omega)]
  case isFalse h => simp [List.getElem?_eq_none (show b.length ≤ i by simp at h; omega)]

/-- A string written to a ring is its bytes written one by one. -/
theorem ringWrite_fit (e : Env) (c : Core) (st : Stream) (w n : Nat) (b : Bytes) :
    ringWrite e c st w (fit n b) = (List.range n).foldl (fun c j => ringWrite e c st (w + j) [b.getD j 0]) c := by
  have hzip : (fit n b).zip (List.range (fit n b).length) = (List.range n).map (fun i => (b.getD i 0, i)) := by
    have h := List.zip_map' (f := fun i => b.getD i 0) (g := id) (l := List.range n)
    rw [List.map_id, ← fit_eq_map] at h
    rw [length_fit, h]
    rfl
  rw [ringWrite, hzip, List.foldl_map]
  rfl

/-! ### A unit arrives (R294, R296) -/

/-- Unit `i` stands at the watermark, nothing is present behind it, and credit lets it in whole. -/
structure UnitDue (st : Stream) (i : Nat) : Prop where
  size : 0 < unitRing st.desc
  atMark : i * unitRing st.desc = st.w
  alone : st.present = []
  credit : st.w + unitRing st.desc ≤ st.q + st.desc.ringLen

section
variable {st : Stream} {i : Nat} (h : UnitDue st i)
include h

/-- Every byte of such a unit is still to come. -/
theorem freshBytes_due : freshBytes st i = List.range' st.w (unitRing st.desc) := by
  have hcredit := h.credit
  rw [freshBytes, h.atMark, h.alone, List.range'_eq_map_range, List.filter_eq_self]
  intro b hb
  obtain ⟨j, hj, rfl⟩ := List.mem_map.1 hb
  have hj' := List.mem_range.1 hj
  simp only [smem, List.contains_nil, Bool.not_false, Bool.and_true, decide_eq_true_eq]
  omega

theorem freshBytes_due_isEmpty : (freshBytes st i).isEmpty = false := by
  rw [freshBytes_due h, List.isEmpty_eq_false_iff, ne_eq, List.range'_eq_nil_iff]
  exact Nat.ne_of_gt h.size

/-- The unit's converted bytes stand in the ring, the watermark passes it and its flags wait for Q. -/
theorem arriveUnit_due {n : Nat} {e : Env} {s : State} {c : Core} {data : Bytes} (ho : getStream c n = some st) (hdir : st.desc.dir = 1)
    (hsrc : unitSource e s st i = some data) :
    let r := convertUnit st.desc st.desc.srcFmt st.desc.dstFmt data
    arriveUnit n i e s c = setStream (ringWrite e c st st.w (fit (unitRing st.desc) r.1)) n
      (some { st with w := st.w + unitRing st.desc, flags := nput noFlags st.flags i r.2 }) := by
  have hwrites (b : Bytes) : (List.range' st.w (unitRing st.desc)).foldl
      (fun c j => ringWrite e c st j [b.getD (j - st.w) 0]) c = ringWrite e c st st.w (fit (unitRing st.desc) b) := by
    rw [ringWrite_fit, List.range'_eq_map_range, List.foldl_map]
    simp only [Nat.add_sub_cancel_left]
  have hmark : advance ((List.range' st.w (unitRing st.desc)).length + 1) st.w (List.range' st.w (unitRing st.desc)) =
      (st.w + unitRing st.desc, []) := advance_range' st.w (by simp)
  have hgo : ¬ (st.desc.dir ≠ 1 ∨ (freshBytes st i).isEmpty = true) := by simp [hdir, freshBytes_due_isEmpty h]
  simp only [arriveUnit, ho, if_neg hgo, hsrc]
  simp only [freshBytes_due h, h.atMark, h.alone, foldl_sadd_range', hwrites, hmark]

end

/-- STREAM_DATA_ARRIVAL that brings the unit at the watermark and no other. -/
theorem streamDataArrival_due {s : State} {k : Skein} {x : SkeinCtx} {e : Env} {n : Fin 32} {st : Stream} {i first count : Nat}
    {data : Bytes} (henv : envOf s x = some e) (ho : getStream x.core n.val = some st)
    (hfind : (getK s k.val).queue.find? (fun y => y.preloaded && (getStream y.core n.val).isSome) = some x)
    (h : UnitDue st i) (hdir : st.desc.dir = 1) (hunits : unitsOf st first count = [i]) (hsrc : unitSource e s st i = some data) :
    exec (.streamDataArrival k n first count) s = .next
      (modK ((sourceLines e.l st [i]).foldl (fun s line => cacheRead s e.l.id st.desc.hint 0 line) s) k.val (fun q => { q with
        queue := updFirst (fun y => y.launch == x.launch && y.ex == x.ex)
          (fun y => { y with core := arriveUnit n.val i e s x.core }) q.queue })) := by
  have hus : (unitsOf st first count).filter (fun u => !(freshBytes st u).isEmpty && (unitSource e s st u).isSome) = [i] := by
    simp [hunits, freshBytes_due_isEmpty h, hsrc]
  refine congrArg Host.Outcome.next ?_
  simp only [hfind, henv, ho, hus, hdir, if_true, List.foldl_cons, List.foldl_nil]

/-! ### A unit leaves (R297, R302, R476) -/

theorem writesHost_iff (l : Launch) (x : Exec) : writesHost l x = true ↔ x.role = .primary ∧ l.discarded = false := by
  simp [writesHost]

/-- OUT_UNIT_SEND of a whole unit below the ready mark, whose transfer waits for no page, once the host's write is done. -/
theorem outUnitSend_done {s : State} {k : Skein} {x : SkeinCtx} {e : Env} {n : Fin 32} {st : Stream} {ex : Exec}
    (hr : Running s k x e) (ho : getStream x.core n.val = some st)
    (hex : (findL s x.launch).bind (fun l => getX l x.ex) = some ex) (hout : st.desc.isOut = true)
    (hready : st.w + unitRing st.desc ≤ st.q) (hpark : isParked s x.launch (.outStream x.ex n.val) = false) :
    let off := (hostOffset st (st.w / unitRing st.desc * unitElems st.desc)).toNat
    let r := convertUnit st.desc st.desc.dstFmt st.desc.srcFmt (ringRead e x.core st st.w (unitRing st.desc))
    let sent := modX (withCore s k (setStream (addFlags x.core r.2) n.val (some { st with w := st.w + unitRing st.desc })))
      x.launch x.ex (fun ex => { ex with shadow := nputs 0 ex.shadow (2 ^ 32 * st.desc.buf + off) r.1 })
    exec (.outUnitSend k n .done) s = .next (if writesHost e.l ex = true then
      writeHost sent e.l.tenant ((dOutput e.l.desc st.desc.buf).1 + off) r.1 else sent) := by
  obtain ⟨hrun, henv⟩ := hr
  intro off r sent
  have hgo : ¬ ((!st.desc.isOut) = true ∨ st.q < st.w + unitRing st.desc ∨ isParked s x.launch (.outStream x.ex n.val) = true) := by
    simp [hout, hpark, Nat.not_lt.2 hready]
  refine congrArg Host.Outcome.next ?_
  simp only [sendUnit, hrun, henv, hex, ho, if_neg hgo, modCore_running hrun]
  cases writesHost e.l ex with
  | true => rfl
  | false => rfl

/-- Settles O28: one unit in, one unit out. -/
theorem streamUnitsMove : Obligations.StreamUnitsMove := by
  intro s k x e n st hr ho
  dsimp only
  refine ⟨fun data hfind hdir hsize hmod halone hcredit hunits hsrc => ?arrives, fun ex hex hout hready hpark => ?leaves⟩
  case arrives =>
    have hmark : st.w / unitRing st.desc * unitRing st.desc = st.w := Nat.div_mul_cancel (Nat.dvd_of_mod_eq_zero hmod)
    have hdue : UnitDue st (st.w / unitRing st.desc) := ⟨hsize, hmark, halone, by rwa [Nat.add_mul, Nat.one_mul, hmark] at hcredit⟩
    rw [streamDataArrival_due hr.2 ho hfind hdue hdir hunits hsrc, arriveUnit_due hdue ho hdir hsrc]
  case leaves =>
    rw [outUnitSend_done hr ho hex hout hready hpark]
    simp only [writesHost_iff]
    rfl

end Sys2Proof.Machine
end

section
/-! SUPPORT. Launches that start and transfers that park: what an access asks of the host, the units of a hold copy, page requests and their
ends, entry into a program, and the translation cache (O38). -/

namespace Sys2Proof.Machine

/-! ### What an access asks of the host (R370) -/

/-- Asking for translations changes nothing but what has left the chip. -/
theorem translate_eq (s : State) (t addr n : Nat) (write : Bool) :
    translate s t addr n write = { s with out := (translate s t addr n write).out } :=
  List.foldlRecOn (motive := fun u : State => u = { s with out := u.out }) (pagesOf addr n) _ rfl
    (fun u hu p _ => by
      split
      · exact hu
      · rw [hu]
        rfl)

/-- Neither does a read of host memory. -/
theorem readHost_eq (s : State) (t addr n : Nat) : ∃ out, readHost s t addr n = { s with out } :=
  ⟨_, by
    rw [readHost, translate_eq]
    rfl⟩

/-! ### Page requests (R372 to R374) -/

/-- The state with other page requests. -/
def withRequests (s : State) (l : List PageReq) : State := { s with hst := { s.hst with requests := l } }

/-- The function's next request to send: not sent and not dead. -/
def unsentOf (fn : Nat) (r : PageReq) : Bool := r.fn == fn && !r.sent && !r.dead

theorem unsentOf_eq_false {fn : Nat} {r : PageReq} (h : r.fn = fn → r.sent = true ∨ r.dead = true) : unsentOf fn r = false := by
  by_cases hfn : r.fn = fn
  · rcases h hfn with h | h <;> simp [unsentOf, h]
  · simp [unsentOf, hfn]

theorem updFirst_append_of_none {α : Type} {p : α → Bool} (f : α → α) : ∀ {l : List α} (m : List α), (∀ y ∈ l, p y = false) →
    updFirst p f (l ++ m) = l ++ updFirst p f m
  | [], _, _ => rfl
  | y :: l, m, h => by
    rw [List.cons_append, updFirst, h y List.mem_cons_self, if_neg Bool.false_ne_true,
      updFirst_append_of_none f m (fun z hz => h z (List.mem_cons_of_mem y hz)), List.cons_append]

/-- A request that waits to be sent takes no group index. -/
theorem freeGroup_append_unsent (s : State) (fn : Nat) {r : PageReq} (h : r.sent = false) :
    freeGroup (withRequests s (s.hst.requests ++ [r])) fn = freeGroup s fn := by
  simp [freeGroup, withRequests, List.any_append, h]

/-- The first request that waits is sent where the allocation has room for it. -/
theorem sendRequests_first {s : State} {fn : Nat} {r : PageReq} (hf : s.hst.requests.find? (unsentOf fn) = some r)
    (hroom : (s.hst.requests.filter (fun q => q.fn == fn && q.sent)).length < (fnConfig s fn).priAlloc) :
    sendRequests s fn = emit (withRequests s (updFirst (unsentOf fn) (fun q => { q with sent := true, group := freeGroup s fn })
      s.hst.requests)) (.pageRequest fn (rget s Reg.pasid fn) r.page (freeGroup s fn) true) := by
  unfold unsentOf at hf
  simp only [sendRequests, hf]
  exact if_pos hroom

/-- A new request behind others that are all sent or dead is sent at once where the allocation has room for it. -/
theorem sendRequests_new {s : State} {r : PageReq} (hsent : r.sent = false) (hdead : r.dead = false)
    (hothers : ∀ q, q ∈ s.hst.requests → q.fn = r.fn → q.sent = true ∨ q.dead = true)
    (hroom : (s.hst.requests.filter (fun q => q.fn == r.fn && q.sent)).length < (fnConfig s r.fn).priAlloc) :
    sendRequests (withRequests s (s.hst.requests ++ [r])) r.fn = emit
      (withRequests s (s.hst.requests ++ [{ r with sent := true, group := freeGroup s r.fn }]))
      (.pageRequest r.fn (rget s Reg.pasid r.fn) r.page (freeGroup s r.fn) true) := by
  have hnone : ∀ q ∈ s.hst.requests, unsentOf r.fn q = false := fun q hq => unsentOf_eq_false (hothers q hq)
  have hown : unsentOf r.fn r = true := by simp [unsentOf, hsent, hdead]
  have hfind : (withRequests s (s.hst.requests ++ [r])).hst.requests.find? (unsentOf r.fn) = some r := by
    rw [withRequests, List.find?_append, List.find?_eq_none.2 (fun q hq => by simp [hnone q hq]), Option.none_or,
      List.find?_cons_of_pos hown]
  have hroom' : ((withRequests s (s.hst.requests ++ [r])).hst.requests.filter (fun q => q.fn == r.fn && q.sent)).length <
      (fnConfig s r.fn).priAlloc := by
    simpa [withRequests, hsent] using hroom
  have hupd (f : PageReq → PageReq) : updFirst (unsentOf r.fn) f (s.hst.requests ++ [r]) = s.hst.requests ++ [f r] := by
    rw [updFirst_append_of_none f _ hnone]
    simp only [updFirst, hown, if_true]
  rw [sendRequests_first hfind hroom', freeGroup_append_unsent s r.fn hsent]
  exact congrArg (fun l => emit (withRequests s l) _) (hupd _)

/-- A page fault of a function that has met Response Failure, or whose PRI is off, fails at once (R374, log 87). -/
theorem park_fails {s : State} {fn : Nat} (h : smem s.hst.failed fn = true ∨ (fnConfig s fn).priOn = false) (launch : Nat)
    (what : Transfer) (addr : Nat) : park s fn launch what addr = failTransfer s launch what :=
  if_pos (h.imp_right (fun h => by simp [h]))

/-- A page request as a page fault makes it, once it is sent. -/
def pageRequested (s : State) (fn launch : Nat) (what : Transfer) (addr : Nat) : PageReq :=
  { fn, page := addr / 4096, group := freeGroup s fn, launch, what, due := s.clk.elapsed + rget s Reg.priTimeout * 1000,
    sent := true, dead := false }

/-- A page fault parks the transfer and sends one request where the allocation has room for it (R317, R372). -/
theorem park_sends {s : State} {fn : Nat} (hfailed : smem s.hst.failed fn = false) (hpri : (fnConfig s fn).priOn = true)
    (hothers : ∀ r, r ∈ s.hst.requests → r.fn = fn → r.sent = true ∨ r.dead = true)
    (hroom : (s.hst.requests.filter (fun r => r.fn == fn && r.sent)).length < (fnConfig s fn).priAlloc) (launch : Nat)
    (what : Transfer) (addr : Nat) :
    park s fn launch what addr = emit (withRequests s (s.hst.requests ++ [pageRequested s fn launch what addr]))
      (.pageRequest fn (rget s Reg.pasid fn) (addr / 4096) (freeGroup s fn) true) := by
  have hgo : ¬ (smem s.hst.failed fn = true ∨ (!(fnConfig s fn).priOn) = true) := by simp [hfailed, hpri]
  rw [park, if_neg hgo]
  exact sendRequests_new (r := { pageRequested s fn launch what addr with group := 0, sent := false }) rfl rfl hothers hroom

/-- Dropping a request is taking its first occurrence out of the list. -/
theorem takeWhile_append_drop_eq_erase {α : Type} [DecidableEq α] (r : α) : ∀ l : List α,
    l.takeWhile (· ≠ r) ++ (l.dropWhile (· ≠ r)).drop 1 = l.erase r
  | [] => rfl
  | x :: l => by
    by_cases h : x = r
    · simp [h]
    · rw [List.takeWhile_cons_of_pos (by simpa using h), List.dropWhile_cons_of_pos (by simpa using h), List.cons_append,
        takeWhile_append_drop_eq_erase r l, List.erase_cons_tail (by simpa using h)]

theorem dropRequest_eq (s : State) (r : PageReq) : dropRequest s r = withRequests s (s.hst.requests.erase r) := by
  rw [dropRequest, takeWhile_append_drop_eq_erase]
  rfl

/-- The function has met Response Failure (R374). -/
def withFailed (s : State) (fn : Nat) : State := { s with hst := { s.hst with failed := sadd s.hst.failed fn } }

section
variable {s : State} {fn : Tenant} {r : PageReq}

/-- PAGE_RESPONSE to the request of a group. -/
theorem exec_pageResponse {group : Nat} (hf : s.hst.requests.find? (fun r => r.fn == fn.val && r.group == group && r.sent) = some r)
    (ans : PageAnswer) : exec (.pageResponse fn group ans) s =
      .next (let gone := withRequests s (s.hst.requests.erase r)
        let t := if ans = .responseFailure then withFailed gone fn.val else gone
        sendRequests (if ans = .success ∨ wanted s r = false then t else failTransfer t r.launch r.what) fn.val) := by
  change execPageResponse fn group ans s = _
  simp only [execPageResponse, hf, dropRequest_eq, Bool.not_eq_true']
  rfl

/-- PRI_TIMEOUT of a request whose transfer still wants it. -/
theorem exec_priTimeout {page : Nat}
    (hf : s.hst.requests.find? (fun r => r.fn == fn.val && r.page == page && !r.dead && decide (r.due ≤ s.clk.elapsed)) = some r)
    (hw : wanted s r = true) : exec (.priTimeout fn page) s =
      .next (failTransfer (if r.sent = true then
          withRequests s (updFirst (· == r) (fun r => { r with dead := true }) s.hst.requests)
        else withRequests s (s.hst.requests.erase r)) r.launch r.what) := by
  change execPriTimeout fn page s = _
  simp only [execPriTimeout, hf, hw, if_true, dropRequest_eq]
  rfl

end

/-! ### The hold copy (R313, R317, R318) -/

/-- What the next unit of a hold copy meets, once the host has been asked for it. -/
def holdMeets (asked : State) (l : Launch) (i : Nat) : HostRead → State
  | .data b => modL asked l.id (fun m => { m with held := updAt (· ++ fit (holdNext l i).2 b) m.held i })
  | .notPresent => park asked l.tenant l.id (.hold i) (holdNext l i).1
  | .failed => failTransfer asked l.id (.hold i)

section
variable {s : State} {l : Launch} {i : Fin 8} (hl : findL s l.id = some l) (ho : holdOpen s l i.val = true)
include hl ho

/-- HOLD_COPY_UNIT of an open hold copy asks the host for the unit; what it meets decides. -/
theorem exec_holdCopyUnit (unit : HostRead) : exec (.holdCopyUnit l.id i unit) s =
    .next (holdMeets (readHost s l.tenant (holdNext l i.val).1 (holdNext l i.val).2) l i.val unit) := by
  change execHoldCopyUnit l.id i unit s = _
  simp only [execHoldCopyUnit, hl, ho, Bool.not_true, Bool.false_eq_true, if_false]
  cases unit <;> rfl

theorem exec_hostAccessError : exec (.hostAccessError l.id i) s = .next (failTransfer s l.id (.hold i.val)) := by
  change execHostAccessError l.id i s = _
  simp only [execHostAccessError, hl, ho, if_true]

end

/-! ### Entering a program (R140, R141, R153) -/

/-- Only what a change makes of the skein that is there counts. -/
theorem modK_congr {s : State} {k : Nat} {f g : SkeinSt → SkeinSt} (h : f (getK s k) = g (getK s k)) : modK s k f = modK s k g :=
  congrArg (fun q => { s with skeins := nput SkeinSt.none s.skeins k q }) h

section
variable {s : State} {k : Skein} {c : SkeinCtx} {rest : List SkeinCtx} {l : Launch}
  (hq : (getK s k.val).queue = c :: rest) (hs : c.started = false) (hc : c.launch = l.id) (hl : findL s l.id = some l)
include hl

theorem residentOk_resident (hres : (getK s k.val).resident = some l.accord.digest) : residentOk s k.val l.id = true := by
  simp [residentOk, hl, hres]

include hq hc

theorem preloadOpen_opens {core : Core} (hres : (getK s k.val).resident = some l.accord.digest) (hp : c.preloaded = false)
    (hopen : openPreloads (launchEnv l c.ex) 0 (preloads l.accord (dProg l.desc)) c.core = some core) :
    exec (.preloadOpen k l.id c.ex) s =
      .next (modK s k.val (fun q => { q with queue := { c with core := core, preloaded := true } :: rest })) := by
  have hhere : (c.launch == l.id && c.ex == c.ex) = true := by simp [hc]
  have hfront : ((getK s k.val).queue.take 2).find? (fun y => y.launch == l.id && y.ex == c.ex) = some c := by
    rw [hq, List.take_succ_cons]
    exact List.find?_cons_of_pos hhere
  have hgo : ¬ (c.preloaded = true ∨ (!residentOk s k.val l.id) = true) := by
    simp [hp, residentOk_resident hl hres]
  refine congrArg Host.Outcome.next ?_
  simp only [hfront, hl, if_neg hgo, hopen]
  refine modK_congr ?_
  rw [hq, updFirst, if_pos hhere]

include hs

theorem residentRegionLoaded_front : exec (.residentRegionLoaded k l.id) s =
    .next (modK s k.val (fun q => { q with resident := some l.accord.digest })) := by
  have hgo : ¬ (c.started = true ∨ c.launch ≠ l.id) := by simp [hs, hc]
  refine congrArg Host.Outcome.next ?_
  simp only [hq, hl, if_neg hgo]

theorem launchEntry_starts (hres : (getK s k.val).resident = some l.accord.digest) (hp : c.preloaded = true)
    (hm : mayIssue s l.id = true) : exec (.launchEntry k) s =
      .next (modK s k.val (fun q => { q with queue := { c with started := true } :: rest })) := by
  have hgo : ¬ (c.started = true ∨ (!c.preloaded) = true ∨ (!mayIssue s c.launch) = true ∨ (!residentOk s k.val c.launch) = true) := by
    simp [hs, hp, hc, hm, residentOk_resident hl hres]
  refine congrArg Host.Outcome.next ?_
  simp only [hq, if_neg hgo]
  refine modK_congr ?_
  rw [hq, updAt]

end

/-! ### Translations (R370, R371) -/

/-- A translation leaves pages alone that are another function's or PASID's, or that lie beside its own. -/
theorem touches_eq_false {e : Translation} {fn pasid page count : Nat} : e.touches fn pasid page count = false ↔
    e.fn ≠ fn ∨ e.pasid ≠ pasid ∨ page + count ≤ e.page ∨ e.page + e.pages ≤ page := by
  simp only [Translation.touches, Bool.and_eq_false_iff, beq_eq_false_iff_ne, decide_eq_false_iff_not]
  omega

theorem mem_untouched {atc : List Translation} {e : Translation} {fn pasid page count : Nat} :
    e ∈ atc.filter (fun e => !e.touches fn pasid page count) ↔
      e ∈ atc ∧ (e.fn ≠ fn ∨ e.pasid ≠ pasid ∨ page + count ≤ e.page ∨ e.page + e.pages ≤ page) := by
  rw [List.mem_filter, Bool.not_eq_true', touches_eq_false]

/-- The entries that stay when a translation of `count` pages enters the cache. -/
def atcKept (s : State) (fn pasid page count : Nat) : List Translation :=
  (s.hst.atc.filter (fun e => !e.touches fn pasid page count)).take (atcLimit - 1)

theorem length_atcKept (s : State) (fn pasid page count : Nat) : (atcKept s fn pasid page count).length < 16384 := by
  simp only [atcKept, atcLimit, List.length_take]
  omega

/-- A cache that is not full loses only what the new translation touches. -/
theorem atcKept_of_room {s : State} (h : s.hst.atc.length < 16384) (fn pasid page count : Nat) :
    atcKept s fn pasid page count = s.hst.atc.filter (fun e => !e.touches fn pasid page count) := by
  have := List.length_filter_le (fun e => !Translation.touches e fn pasid page count) s.hst.atc
  exact List.take_of_length_le (by simp only [atcLimit]; omega)

theorem page_count (i : Nat) : 2 ^ (12 + i) / 4096 = 2 ^ i := by
  rw [Nat.pow_add]
  exact Nat.mul_div_cancel_left _ (by decide)

section
variable {s : State} {fn : Tenant} {pasid : BitVec 20} {page : Nat}

/-- A writable translation of one of the nineteen sizes becomes the newest entry. -/
theorem translation_enters {i : Nat} (hi : i < 19) :
    exec (.atsTranslationCompletion fn ⟨pasid, page⟩ (some (2 ^ (12 + i), true))) s = .next { s with hst := { s.hst with
      atc := { fn := fn.val, pasid := pasid.toNat, page, pages := 2 ^ i, writable := true } ::
        atcKept s fn.val pasid.toNat page (2 ^ i) } } := by
  have hsize : ((List.range 19).all fun j => decide (2 ^ (12 + i) ≠ 2 ^ (12 + j))) = false :=
    List.all_eq_false.2 ⟨i, List.mem_range.2 hi, by simp⟩
  refine congrArg Host.Outcome.next ?_
  simp only [hsize, Bool.false_eq_true, if_false, if_true, page_count]
  rfl

theorem translation_refused {size : Nat} (h : ∀ i, i < 19 → size ≠ 2 ^ (12 + i)) (w : Bool) :
    exec (.atsTranslationCompletion fn ⟨pasid, page⟩ (some (size, w))) s = .next s := by
  have hsize : ((List.range 19).all fun j => decide (size ≠ 2 ^ (12 + j))) = true :=
    List.all_eq_true.2 (fun i hi => decide_eq_true (h i (List.mem_range.1 hi)))
  exact congrArg Host.Outcome.next (if_pos hsize)

end

/-- Settles O38: the hold copy by what its unit meets, the front launch step by step, page requests by their ends, and the
translation cache. -/
theorem launchesStartAndTransfersPark : Obligations.LaunchesStartAndTransfersPark := by
  refine ⟨fun s l i hl ho => ?holds, fun s k c rest l hq hs hc hl => ?starts, fun s fn page group r => ?requests,
    fun s fn pasid page => ?translations⟩
  case holds =>
    intro u asked c fails
    obtain ⟨out, hasked⟩ : ∃ out, asked = { s with out } := readHost_eq ..
    have hfails : failTransfer asked l.id (.hold i.val) = fails asked := by
      rw [hasked]
      rfl
    refine ⟨fun b hb => ?data, ?failed, exec_hostAccessError hl ho, fun h => ?unparked, fun hfailed hpri hothers hroom => ?parked⟩
    case data =>
      rw [exec_holdCopyUnit hl ho, holdMeets, show fit (holdNext l i.val).2 b = b from hb ▸ fit_self b]
    case failed => rw [exec_holdCopyUnit hl ho, holdMeets, ← hfails]
    case unparked =>
      rw [exec_holdCopyUnit hl ho, holdMeets, ← hfails]
      change Host.Outcome.next (park asked l.tenant l.id (.hold i.val) u.1) = _
      rw [hasked]
      exact congrArg Host.Outcome.next (park_fails (s := { s with out }) h ..)
    case parked =>
      rw [exec_holdCopyUnit hl ho, holdMeets]
      change Host.Outcome.next (park asked l.tenant l.id (.hold i.val) u.1) = _
      rw [hasked]
      exact congrArg Host.Outcome.next (park_sends (s := { s with out }) hfailed hpri hothers hroom ..)
  case starts =>
    exact ⟨residentRegionLoaded_front hq hs hc hl, fun hres => ⟨fun core hp hopen => preloadOpen_opens hq hc hl hres hp hopen,
      fun hp hm => launchEntry_starts hq hs hc hl hres hp hm⟩⟩
  case requests =>
    intro gone failed
    refine ⟨fun hf => ⟨?success, fun hw => ⟨?invalid, ?failure⟩, fun hw => ⟨?invalidUnwanted, ?failureUnwanted⟩⟩,
      fun hf hw => ⟨fun hsent => ?unsent, fun hsent => ?sent⟩⟩
    case success =>
      rw [exec_pageResponse hf]
      rfl
    case invalid | failure | invalidUnwanted | failureUnwanted =>
      rw [exec_pageResponse hf, hw]
      rfl
    case unsent | sent =>
      rw [exec_priTimeout hf hw, hsent]
      rfl
  case translations =>
    intro apart
    refine ⟨fun count => ⟨_, rfl, fun e => mem_untouched⟩, fun i hi => ⟨_, translation_enters hi, length_atcKept .., fun e he => ?_,
      fun hroom e he hapart => ?_⟩, fun size w h => translation_refused h w, fun h => congrArg Host.Outcome.next (if_neg h)⟩
    · exact mem_untouched.1 (List.mem_of_mem_take he)
    · rw [atcKept_of_room hroom]
      exact mem_untouched.2 ⟨he, hapart⟩

end Sys2Proof.Machine
end

section
/-! SUPPORT. The hang reset: what ending a launch leaves alone, the launches that a reset's start finishes, and its end once the
records have drained (O42). -/

namespace Sys2Proof.Machine

/-! ### What ending a launch leaves of a hang reset -/

/-- Where a hang reset stands: polling, the hang itself, and the completion entries that launches hold (R345, R357). -/
def haltOf (s : State) : Bool × Option Hang × (Nat → NSet) := (s.fe.polling, s.fe.hang, fun t => (getT s t).reserved)

theorem haltOf_congr {s t : State} (hfe : t.fe = s.fe) (ht : t.tenants = s.tenants) : haltOf t = haltOf s := by
  unfold haltOf getT
  rw [hfe, ht]

section
variable (s : State)

theorem haltOf_modS (i : Nat) (f : StackSt → StackSt) : haltOf (modS s i f) = haltOf s := rfl
theorem haltOf_modP (p : Nat) (f : PortSt → PortSt) : haltOf (modP s p f) = haltOf s := rfl
theorem haltOf_modK (k : Nat) (f : SkeinSt → SkeinSt) : haltOf (modK s k f) = haltOf s := rfl
theorem haltOf_modL (id : Nat) (f : Launch → Launch) : haltOf (modL s id f) = haltOf s := rfl
theorem haltOf_modX (id e : Nat) (f : Exec → Exec) : haltOf (modX s id e f) = haltOf s := rfl
theorem haltOf_learnState (id st : Nat) : haltOf (learnState s id st) = haltOf s := rfl

/-- A change of a tenant that keeps its reserved entries. -/
theorem haltOf_modT (t : Nat) {f : TenantSt → TenantSt} (hf : ∀ c, (f c).reserved = c.reserved) :
    haltOf (modT s t f) = haltOf s := by
  have hr : (fun u => (getT (modT s t f) u).reserved) = fun u => (getT s u).reserved := by
    funext u
    by_cases hu : u = t
    · rw [hu, getT_modT_self, hf]
    · rw [getT_modT_ne s f hu]
  rw [haltOf, hr]
  rfl

theorem haltOf_msix (fn e : Nat) : haltOf (msix s fn e) = haltOf s := by
  unfold msix
  split
  · exact haltOf_modT s fn (fun _ => rfl)
  · rfl

theorem haltOf_logErr (code tenant a b : Nat) : haltOf (logErr s code tenant a b) = haltOf s := by
  unfold logErr
  dsimp only
  split
  · rfl
  · exact haltOf_msix ..

theorem haltOf_putFrame (p kind flags sender seq : Nat) (payload : Bytes) :
    haltOf (putFrame s p kind flags sender seq payload) = haltOf s := by
  unfold putFrame
  dsimp only
  split <;> rfl

theorem haltOf_pumpOne (p : Nat) : haltOf (pumpOne s p) = haltOf s := by
  unfold pumpOne
  dsimp only
  split
  · rfl
  · simp only [apply_ite haltOf, haltOf_putFrame, haltOf_modP, ite_self]

theorem haltOf_queueFrame (p kind flags sender : Nat) (payload : Bytes) :
    haltOf (queueFrame s p kind flags sender payload) = haltOf s := by
  unfold queueFrame
  split
  · exact foldl_keeps haltOf _ _ (fun s _ _ => haltOf_pumpOne s p) _
  · rfl

theorem haltOf_flood (from_ kind sender : Nat) (payload : Bytes) : haltOf (flood s from_ kind sender payload) = haltOf s := by
  unfold flood
  split
  · refine foldl_keeps haltOf _ _ (fun s p _ => ?_) s
    split
    · rfl
    · exact haltOf_queueFrame ..
  · rfl

theorem haltOf_recordDurable (from_ : Nat) (spread : Bool) {r : JrnRecord} (hr : r.kind = 0x02) :
    haltOf (recordDurable s from_ spread r) = haltOf s := by
  unfold recordDurable
  rw [hr]
  exact (haltOf_flood ..).trans (foldl_keeps haltOf _ _ (fun s _ _ => haltOf_learnState s ..) s)

theorem haltOf_stageOwn {recs : List JrnRecord} (h : ∀ r ∈ recs, r.kind = 0x02) : haltOf (stageOwn s recs) = haltOf s := by
  unfold stageOwn stage
  split
  · exact foldl_keeps haltOf _ _ (fun s r hr => haltOf_recordDurable s _ _ (h r hr)) _
  · change haltOf (noteExhausted s recs.length) = haltOf s
    unfold noteExhausted
    split
    · rfl
    · exact haltOf_logErr ..

theorem haltOf_recallIds (ids : List Nat) : haltOf (recallIds s ids) = haltOf s := by
  unfold recallIds
  split
  · rfl
  · refine haltOf_stageOwn s (fun r hr => ?_)
    obtain ⟨_, _, rfl⟩ := List.mem_map.1 hr
    rfl

theorem haltOf_recallExec (id e : Nat) : haltOf (recallExec s id e) = haltOf s := by
  unfold recallExec
  split
  · rfl
  · exact haltOf_recallIds ..

theorem haltOf_orphanSteps (id e : Nat) : haltOf (orphanSteps s id e) = haltOf s :=
  foldl_keeps haltOf _ _ (fun s _ _ => haltOf_modS s ..) s

theorem haltOf_dropAddends (id e : Nat) : haltOf (dropAddends s id e) = haltOf s :=
  foldl_keeps haltOf _ _ (fun s _ _ => haltOf_modS s ..) s

theorem haltOf_releaseLedger (id : Nat) : haltOf (releaseLedger s id) = haltOf s :=
  foldl_keeps haltOf _ _ (fun s _ _ => haltOf_modS s ..) s

theorem haltOf_offSkein (k? : Option Nat) (id e : Nat) : haltOf (offSkein s k? id e) = haltOf s := by
  cases k? with
  | none => rfl
  | some k => rw [offSkein, Option.elim_some, dropCtx, haltOf_orphanSteps, haltOf_modK]

theorem haltOf_dropExec (id e : Nat) (x : Exec) : haltOf (dropExec s id e x) = haltOf s := by
  rw [dropExec, haltOf_modX, haltOf_dropAddends, haltOf_recallExec, haltOf_offSkein]

theorem haltOf_discardExec (id e : Nat) : haltOf (discardExec s id e) = haltOf s := by
  rcases exec_cases s id e with h | ⟨l, x, hl, hx⟩
  · rw [discardExec_none h]
  · rw [discardExec_eq hl hx]
    simp only [apply_ite haltOf, haltOf_modL, haltOf_dropExec, ite_self]

theorem haltOf_discardAll (id : Nat) : haltOf (discardAll s id) = haltOf s := by
  unfold discardAll
  split
  · rfl
  · exact foldl_keeps haltOf _ _ (fun s e _ => haltOf_discardExec s id e) s

theorem haltOf_pushRecord (t : Nat) (r : Record) : haltOf (pushRecord s t r) = haltOf s := haltOf_modT s t (fun _ => rfl)

theorem haltOf_endLaunch (id status detail word : Nat) (cursor : Bytes) (k : Nat) :
    haltOf (endLaunch s id status detail word cursor k) = haltOf s := by
  unfold endLaunch
  split
  · rfl
  · dsimp only
    rw [haltOf_pushRecord, haltOf_modL, haltOf_releaseLedger, haltOf_discardAll]

theorem haltOf_logHang (l : Launch) : haltOf (logHang s l) = haltOf s := by
  unfold logHang
  dsimp only
  split <;> exact haltOf_logErr ..

end

/-! ### The launches that end -/

/-- The stage of the launch with an ID. -/
def stageOf (s : State) (id : Nat) : Option Stage := (findL s id).map (·.stage)

theorem stageOf_congr {s t : State} (h : t.launches = s.launches) (id : Nat) : stageOf t id = stageOf s id := by
  rw [stageOf, findL_congr h, stageOf]

section
variable (s : State)

theorem stageOf_modL {id : Nat} {f : Launch → Launch} (hid : ∀ l, (f l).id = l.id) (j : Nat) :
    stageOf (modL s id f) j = if j = id then (findL s id).map (fun l => (f l).stage) else stageOf s j := by
  by_cases hj : j = id
  · rw [if_pos hj, hj, stageOf, findL_modL hid, Option.map_map]
    rfl
  · rw [if_neg hj, stageOf, stageOf, findL, findL, modL_launches, find?_updFirst_of_disjoint]
    intro l hl
    have h : l.id = id := by simpa using hl
    simp [hid, h, Ne.symm hj]

/-- A change of a launch that keeps its stage. -/
theorem stageOf_modL_same {id : Nat} {f : Launch → Launch} (hid : ∀ l, (f l).id = l.id) (hst : ∀ l, (f l).stage = l.stage) (j : Nat) :
    stageOf (modL s id f) j = stageOf s j := by
  rw [stageOf_modL s hid]
  split
  · rename_i hj
    simp only [hj, hst, stageOf]
  · rfl

theorem stageOf_modX (id e : Nat) (f : Exec → Exec) (j : Nat) : stageOf (modX s id e f) j = stageOf s j := by
  rw [modX, stageOf_modL_same] <;> exact fun _ => rfl

theorem stageOf_recallExec (id e j : Nat) : stageOf (recallExec s id e) j = stageOf s j := by
  unfold recallExec
  split
  · rfl
  · dsimp only
    rw [stageOf_congr (recallIds_launches ..), stageOf_modX]
    rfl

theorem stageOf_dropExec (id e : Nat) (x : Exec) (j : Nat) : stageOf (dropExec s id e x) j = stageOf s j := by
  rw [dropExec, stageOf_modX, stageOf_congr (dropAddends_launches ..), stageOf_recallExec, stageOf_congr (offSkein_launches x.skein)]

theorem stageOf_discardExec (id e j : Nat) : stageOf (discardExec s id e) j = stageOf s j := by
  rcases exec_cases s id e with h | ⟨l, x, hl, hx⟩
  · rw [discardExec_none h]
  · rw [discardExec_eq hl hx]
    split
    · rw [stageOf_modL_same, stageOf_dropExec] <;> exact fun _ => rfl
    · rw [stageOf_dropExec]

theorem stageOf_discardAll (id j : Nat) : stageOf (discardAll s id) j = stageOf s j := by
  unfold discardAll
  split
  · rfl
  · exact foldl_keeps (stageOf · j) _ _ (fun s e _ => stageOf_discardExec s id e j) s

/-- Ending a launch finishes it and no other. -/
theorem stageOf_endLaunch (id status detail word : Nat) (cursor : Bytes) (k j : Nat) :
    stageOf (endLaunch s id status detail word cursor k) j = if j = id then (stageOf s id).map (fun _ => .finished) else stageOf s j := by
  unfold endLaunch
  split
  · rename_i h
    split
    · rename_i hj
      simp [stageOf, hj, h]
    · rfl
  · dsimp only
    have ended (i : Nat) : stageOf (releaseLedger (discardAll s id) id) i = stageOf s i := by
      rw [stageOf_congr (releaseLedger_launches ..), stageOf_discardAll]
    rw [pushRecord, stageOf_congr (modT_launches ..), stageOf_modL, ended, ← ended id]
    · simp only [stageOf, Option.map_map, Function.comp_def]
    · exact fun _ => rfl

end

/-! ### The start of a hang reset (R160, R357) -/

/-- What the start of a hang reset makes of a launch (R357 steps 3 and 4). -/
def abortLaunch (hung : Nat) (s : State) (l : Launch) : State :=
  if entryReserved s l ∨ l.stage = .finished then s
  else endLaunch s l.id (if l.id = hung ∧ hung ≠ 0 then Status.hang else Status.aborted) 0 0 [] 0

/-- The state in which a hang reset has been recorded and has reached no launch. -/
def hangNoted (s : State) (hung cause : Nat) : State :=
  { s with fe := { s.fe with polling := false, hang := some ⟨hung, s.clk.elapsed, cause⟩ } }

theorem startRetaining_eq {s : State} (hh : s.fe.hang = none) (hp : s.glb.phase = 5 ∨ s.glb.phase = 6 ∨ s.glb.phase = 8)
    (hung cause : Nat) : startRetaining s hung cause = s.launches.foldl (abortLaunch hung) (hangNoted s hung cause) := by
  have up : [5, 6, 8].contains s.glb.phase.toNat = true := by
    rcases hp with hp | hp | hp <;> rw [hp] <;> rfl
  have go : ¬ (s.fe.hang.isSome = true ∨ ¬ [5, 6, 8].contains s.glb.phase.toNat) := by
    rw [hh, up]
    simp
  exact if_neg go

section
variable (s : State) (hung : Nat)

theorem haltOf_abortLaunch (l : Launch) : haltOf (abortLaunch hung s l) = haltOf s := by
  unfold abortLaunch
  split
  · rfl
  · exact haltOf_endLaunch ..

/-- A launch that has finished stays so, and one that has not is ended or left where it was. -/
theorem stageOf_abortLaunch (l : Launch) (j : Nat) : stageOf (abortLaunch hung s l) j = stageOf s j ∨
    stageOf (abortLaunch hung s l) j = (stageOf s j).map (fun _ => .finished) := by
  unfold abortLaunch
  split
  · exact .inl rfl
  · rw [stageOf_endLaunch]
    split
    · rename_i hj
      exact .inr (by rw [hj])
    · exact .inl rfl

theorem abortLaunch_keeps_finished {j : Nat} {s : State} (h : stageOf s j = some .finished) (l : Launch) :
    stageOf (abortLaunch hung s l) j = some .finished := by
  rcases stageOf_abortLaunch s hung l j with ha | ha <;> rw [ha, h]
  rfl

end

theorem entryReserved_congr {s t : State} (h : haltOf t = haltOf s) (m : Launch) : entryReserved t m = entryReserved s m := by
  have hr : (getT t m.tenant).reserved = (getT s m.tenant).reserved := congrFun (congrArg (·.2.2) h) m.tenant
  rw [entryReserved, hr, entryReserved]

/-- The turn of a launch that holds no reserved entry ends it. -/
theorem abortLaunch_ends (hung : Nat) {s : State} {m : Launch} (hr : entryReserved s m = false)
    (hst : stageOf s m.id = some m.stage ∨ stageOf s m.id = some .finished) :
    stageOf (abortLaunch hung s m) m.id = some .finished := by
  unfold abortLaunch
  split
  · rename_i h
    have hm : m.stage = .finished := by simpa [hr] using h
    rcases hst with hst | hst
    · rw [hst, hm]
    · exact hst
  · rw [stageOf_endLaunch, if_pos rfl]
    rcases hst with hst | hst <;> rw [hst] <;> rfl

/-- The start of a hang reset ends every launch in flight that holds no reserved entry. -/
theorem abortLaunches_end (hung : Nat) {s : State} {m : Launch} (hm : findL s m.id = some m) (hr : entryReserved s m = false) :
    stageOf (s.launches.foldl (abortLaunch hung) s) m.id = some .finished := by
  obtain ⟨before, after, hl⟩ := List.append_of_mem (List.mem_of_find?_eq_some hm)
  have halt : haltOf (before.foldl (abortLaunch hung) s) = haltOf s :=
    foldl_keeps haltOf _ _ (fun s l _ => haltOf_abortLaunch s hung l) s
  have reached : stageOf (before.foldl (abortLaunch hung) s) m.id = some m.stage ∨
      stageOf (before.foldl (abortLaunch hung) s) m.id = some .finished := by
    refine foldl_preserves (P := fun u => stageOf u m.id = some m.stage ∨ stageOf u m.id = some .finished)
      (fun u l h => ?_) before (.inl (by rw [stageOf, hm]; rfl))
    rcases stageOf_abortLaunch u hung l m.id with ha | ha
    · rw [ha]
      exact h
    · rcases h with h | h <;> exact .inr (by rw [ha, h]; rfl)
  rw [hl, List.foldl_append, List.foldl_cons]
  exact foldl_preserves (P := fun u => stageOf u m.id = some .finished) (fun _ l h => abortLaunch_keeps_finished hung h l) after
    (abortLaunch_ends hung ((entryReserved_congr halt m).trans hr) reached)

/-- The HANG entry changes no launch and nothing that a hang reset looks at. -/
theorem logHang_keeps (s : State) (l : Launch) :
    (logHang s l).launches = s.launches ∧ (logHang s l).glb = s.glb ∧ (logHang s l).clk = s.clk := by
  unfold logHang
  dsimp only
  split <;> exact ⟨logErr_launches .., logErr_glb .., logErr_clk ..⟩

/-- WATCHDOG_EXPIRY of a running launch past its watchdog. -/
theorem exec_watchdogExpiry {s : State} {l : Launch} (hl : findL s l.id = some l) (hst : l.stage = .running)
    (hdue : l.admitted + 1000 * l.watchdog ≤ s.clk.elapsed) (hh : s.fe.hang = none) :
    exec (.watchdogExpiry l.id) s = .next (startRetaining (logHang s l) l.id 5) := by
  have go : ¬ (l.stage ≠ .running ∨ s.clk.elapsed < l.admitted + 1000 * l.watchdog ∨ s.fe.hang.isSome = true) := by
    simp [hst, hh, hdue]
  change execWatchdogExpiry l.id s = _
  simp only [execWatchdogExpiry, hl, if_neg go]

/-- A watchdog that expires starts the hang reset. -/
theorem watchdogExpiry_starts {s : State} {l : Launch} (hl : findL s l.id = some l) (hst : l.stage = .running)
    (hdue : l.admitted + 1000 * l.watchdog ≤ s.clk.elapsed) (hh : s.fe.hang = none)
    (hp : s.glb.phase = 5 ∨ s.glb.phase = 6 ∨ s.glb.phase = 8) :
    ∃ t, exec (.watchdogExpiry l.id) s = .next t ∧ t.fe.polling = false ∧ t.fe.hang = some ⟨l.id, s.clk.elapsed, 5⟩ ∧
      ∀ m, findL s m.id = some m → entryReserved s m = false → (findL t m.id).map (·.stage) = some .finished := by
  obtain ⟨hlaunches, hglb, hclk⟩ := logHang_keeps s l
  have halt := haltOf_logHang s l
  have hhang : (logHang s l).fe.hang = none := (congrArg (·.2.1) halt).trans hh
  have hstart := startRetaining_eq hhang (by rwa [hglb]) l.id 5
  have hkept : haltOf (startRetaining (logHang s l) l.id 5) = haltOf (hangNoted (logHang s l) l.id 5) := by
    rw [hstart]
    exact foldl_keeps haltOf _ _ (fun s m _ => haltOf_abortLaunch s l.id m) _
  refine ⟨_, exec_watchdogExpiry hl hst hdue hh, congrArg (·.1) hkept, ?_, fun m hm hr => ?_⟩
  · rw [← hclk]
    exact congrArg (·.2.1) hkept
  · have hm' : findL (hangNoted (logHang s l) l.id 5) m.id = some m := (findL_congr hlaunches m.id).trans hm
    have hr' : entryReserved (hangNoted (logHang s l) l.id 5) m = false := (entryReserved_congr halt m).trans hr
    rw [hstart]
    exact abortLaunches_end l.id hm' hr'

/-! ### Its end (R357 step 5, R554) -/

/-- HANG_RESET_PROCEED of a chip that is up drains; the reset finishes once the records have drained or the time is over. -/
theorem exec_hangResetProceed {s : State} {h : Hang} (hh : s.fe.hang = some h) (hup : canRetain s = true) (hc : h.cause ≠ 6)
    (find : BootFind) : exec (.hangResetProceed find) s =
      .next (if drained (drainAll (h.cause == 4) s) = false ∧ s.clk.elapsed < h.start + 2 * millisecond then
          drainAll (h.cause == 4) s
        else finishRetaining find h.cause (drainAll (h.cause == 4) s)) := by
  change execHangResetProceed find s = _
  simp only [execHangResetProceed, hh, hup, hc, Bool.not_true, Bool.false_eq_true, false_and, if_false, Bool.not_eq_true']

/-- Settles O42: the launches that the start of a hang reset ends, and its end by whether the records have drained. -/
theorem hungLaunchesStartAndEndTheReset : Obligations.HungLaunchesStartAndEndTheReset := by
  refine ⟨fun s l hl hst hdue hh hp => watchdogExpiry_starts hl hst hdue hh hp, fun s find h hh hup hc => ?proceeds⟩
  case proceeds =>
    intro flr s1 kept
    rw [exec_hangResetProceed hh hup hc]
    refine ⟨fun hd ht => ?waits, fun hd => ?finishes⟩
    case waits => exact congrArg Host.Outcome.next (if_pos ⟨hd, ht⟩)
    case finishes =>
      have past : ¬ (drained s1 = false ∧ s.clk.elapsed < h.start + 2 * millisecond) := by
        rintro ⟨hnot, ht⟩
        rcases hd with hd | hd
        · exact absurd (hd.symm.trans hnot) (by decide)
        · exact absurd ht (Nat.not_lt.2 hd)
      exact congrArg Host.Outcome.next (if_neg past)

end Sys2Proof.Machine
end

section
/-! SUPPORT. Submission: one tenant's doorbell entry in a poll, slots read ahead, the slot at C from its checks to its launch, the turn
of a ring, and the dispatch of a primary (O37). -/

namespace Sys2Proof.Machine

/-! ### Folds in which one element acts -/

/-- A fold that starts where no step changes anything ends there. -/
theorem foldl_stays {β : Type} {f : State → β → State} {s : State} : ∀ {l : List β}, (∀ b ∈ l, f s b = s) → l.foldl f s = s
  | [], _ => rfl
  | b :: l, h => by
    rw [List.foldl_cons, h b List.mem_cons_self]
    exact foldl_stays (fun c hc => h c (List.mem_cons_of_mem b hc))

/-- Where only one number of a range acts, the fold is its step. -/
theorem foldl_range_one {f : State → Nat → State} {s : State} {n i : Nat} (hi : i < n) (before : ∀ j, j < n → j ≠ i → f s j = s)
    (after : ∀ j, j < n → j ≠ i → f (f s i) j = f s i) : (List.range n).foldl f s = f s i := by
  obtain ⟨a, b, hl⟩ := List.append_of_mem (List.mem_range.2 hi)
  have hnodup : (a ++ i :: b).Nodup := hl ▸ List.nodup_range
  obtain ⟨-, hib, hdisj⟩ := List.nodup_append'.1 hnodup
  have bound {j : Nat} (hj : j ∈ a ++ i :: b) : j < n := List.mem_range.1 (hl ▸ hj)
  rw [hl, List.foldl_append, foldl_stays (l := a), List.foldl_cons, foldl_stays (l := b)]
  · exact fun j hj => after j (bound (by simp [hj])) (fun h => (List.nodup_cons.1 hib).1 (h ▸ hj))
  · exact fun j hj => before j (bound (by simp [hj])) (fun h => hdisj hj (by simp [h]))

/-! ### Rings read back -/

section
variable (s : State) (t r : Nat) (f : RingSt → RingSt)

@[simp] theorem getR_modR_self : getR (getT (modR s t r f) t) r = f (getR (getT s t) r) := by simp [modR, getR]

theorem getR_modR_ne {j : Nat} (h : j ≠ r) : getR (getT (modR s t r f) t) j = getR (getT s t) j := by
  simp [modR, getR, nget_nmod, h]

theorem getT_modR_ne {u : Nat} (h : u ≠ t) : getT (modR s t r f) u = getT s u := getT_modT_ne s _ h

end

/-! ### Polling (R329, R330) -/

/-- A poll of a tenant depends on what is held of it. -/
theorem polledTenant_congr {s s' : State} {t : Nat} (h : getT s' t = getT s t) : polledTenant s' t = polledTenant s t := by
  unfold polledTenant
  rw [h]

theorem polledTenant_modT (s : State) (t : Nat) {f : TenantSt → TenantSt}
    (hf : ∀ c, (f c).rings = c.rings ∧ (f c).cqOn = c.cqOn ∧ (f c).d3hot = c.d3hot) (u : Nat) :
    polledTenant (modT s t f) u = polledTenant s u := by
  by_cases hu : u = t
  · obtain ⟨hr, hc, hd⟩ := hf (getT s t)
    simp [polledTenant, getR, hu, hr, hc, hd]
  · exact polledTenant_congr (getT_modT_ne s f hu)

theorem polledTenant_msix (s : State) (fn e u : Nat) : polledTenant (msix s fn e) u = polledTenant s u := by
  unfold msix
  split
  · rw [polledTenant_modT]
    exact fun _ => ⟨rfl, rfl, rfl⟩
  · rfl

theorem polledTenant_logErr (s : State) (code tenant a b u : Nat) : polledTenant (logErr s code tenant a b) u = polledTenant s u := by
  unfold logErr
  dsimp only
  split
  · rfl
  · exact polledTenant_msix ..

section
variable {s : State} {t : Nat} (h : polledTenant s t = true)
include h

/-- The entry of a polled tenant that cannot be read. -/
theorem pollTenant_unread : pollTenant [] s t = logErr (readHost s t (rget s Reg.doorbell t) 64) Err.doorbellFault t 0 0 :=
  if_neg (by simp [h])

/-- The entry of a polled tenant that is read. -/
theorem pollTenant_read {b : Bytes} (hb : b.length = 64) :
    pollTenant [(t, b)] s t = pollEntry (readHost s t (rget s Reg.doorbell t) 64) t b := by
  have hread : [(t, b)].find? (fun x => x.1 == t) = some (t, b) := by simp
  have hfit : fit 64 b = b := hb ▸ fit_self b
  unfold pollTenant
  rw [if_neg (by simp [h]), hread]
  dsimp only
  rw [hfit]

end

/-- The state as a poll begins. -/
def pollBegun (s : State) : State := { s with fe := { s.fe with lastPoll := some s.clk.elapsed } }

/-- A poll asks the host for a tenant's doorbell entry. -/
def entryAsked (s : State) (t : Nat) : State := readHost (pollBegun s) t (rget s Reg.doorbell t) 64

theorem polledTenant_pollBegun (s : State) (u : Nat) : polledTenant (pollBegun s) u = polledTenant s u := polledTenant_congr rfl

theorem polledTenant_entryAsked (s : State) (t u : Nat) : polledTenant (entryAsked s t) u = polledTenant s u := by
  obtain ⟨out, h⟩ := readHost_eq (pollBegun s) t (rget s Reg.doorbell t) 64
  exact polledTenant_congr (by rw [entryAsked, h]; rfl)

section
variable {s : State} {t : Tenant} (hpoll : s.fe.polling = true) (honly : ∀ u, u < 128 → polledTenant s u = decide (u = t.val))

theorem exec_doorbellPoll_early (h : pollDue s = false) (reads : List (Nat × Bytes)) : exec (.doorbellPoll reads) s = .next s :=
  congrArg Host.Outcome.next (if_pos (.inr (by simp [h])))

include hpoll honly

/-- DOORBELL_POLL, once it is due, of one polled tenant is that tenant's part, which leaves every other tenant unpolled. -/
theorem exec_doorbellPoll_one (hdue : pollDue s = true) {reads : List (Nat × Bytes)} {u : State}
    (hu : pollTenant reads (pollBegun s) t.val = u) (hkeep : ∀ j, j ≠ t.val → polledTenant u j = polledTenant s j) :
    exec (.doorbellPoll reads) s = .next u := by
  have go : ¬ ((!s.fe.polling) = true ∨ (!pollDue s) = true) := by simp [hpoll, hdue]
  have skip {v : State} {j : Nat} (hj : polledTenant v j = false) : pollTenant reads v j = v := if_pos (by simp [hj])
  have others (j : Nat) (hj : j < 128) (hne : j ≠ t.val) : polledTenant s j = false := by simp [honly j hj, hne]
  refine congrArg Host.Outcome.next ((if_neg go).trans ((foldl_range_one t.isLt ?_ ?_).trans hu))
  · exact fun j hj hne => skip (others j hj hne)
  · intro j hj hne
    change pollTenant reads (pollTenant reads (pollBegun s) t.val) j = pollTenant reads (pollBegun s) t.val
    rw [hu]
    exact skip ((hkeep j hne).trans (others j hj hne))

end

/-! ### A doorbell entry (R330, R347) -/

/-- A poll reads the words of one ring. -/
def pollRing (t : Nat) (b : Bytes) (s : State) (r : Nat) : State :=
  if (getR (getT s t) r).enabled then
    pollCancel (pollTail s t r (BitVec.ofNat 32 (fld b (4 * r) 4))) t r (BitVec.ofNat 32 (fld b (20 + 4 * r) 4))
  else s

theorem pollRing_disabled {s : State} {t r : Nat} (h : (getR (getT s t) r).enabled = false) (b : Bytes) : pollRing t b s r = s :=
  if_neg (by simp [h])

/-- Without a completion ring, a doorbell entry is its rings' words. -/
theorem pollEntry_eq {s : State} {t : Nat} (h : (getT s t).cqOn = false) (b : Bytes) : pollEntry s t b =
    (let u := (List.range 4).foldl (pollRing t b) s
     if (getT u t).rings = (getT s t).rings ∧ (getT u t).cqSeen = (getT s t).cqSeen then u
     else modT u t (fun c => { c with changed := some s.clk.elapsed })) := by
  have hcq : ¬ ((getT s t).cqOn = true ∧ seqAfter (BitVec.ofNat 32 (fld b 16 4)) (getT s t).cqSeen = true) := by simp [h]
  unfold pollEntry
  simp only [if_neg hcq]
  rfl

section
variable {s : State} {t r : Nat} {v : BitVec 32}

/-- A later tail within the ring is held. -/
theorem pollTail_later (hlater : seqAfter v (getR (getT s t) r).tail = true)
    (hroom : seqAfter v (getR (getT s t) r).consumed = true → (v - (getR (getT s t) r).consumed).toNat ≤ (getR (getT s t) r).size) :
    pollTail s t r v = modR s t r (fun q => { q with tail := v }) := by
  unfold pollTail
  rw [if_neg (by simp [hlater])]
  exact if_neg (fun ⟨_, hc, hs⟩ => Nat.not_le.2 hs (hroom hc))

theorem pollCancel_same (h : seqAfter v (getR (getT s t) r).cancel = false) : pollCancel s t r v = s :=
  if_pos (by simp [h])

/-- No sequence number is after itself. -/
theorem ne_of_seqAfter {a b : BitVec 32} (h : seqAfter a b = true) : a ≠ b := by
  rintro rfl
  simp [seqAfter] at h

/-- A doorbell entry of one enabled ring with a later tail. -/
theorem pollEntry_tail {b : Bytes} (hr : r < 4) (hcq : (getT s t).cqOn = false)
    (honly : ∀ j, j < 4 → (getR (getT s t) j).enabled = decide (j = r)) (hv : v = BitVec.ofNat 32 (fld b (4 * r) 4))
    (hlater : seqAfter v (getR (getT s t) r).tail = true)
    (hroom : seqAfter v (getR (getT s t) r).consumed = true → (v - (getR (getT s t) r).consumed).toNat ≤ (getR (getT s t) r).size)
    (hcancel : seqAfter (BitVec.ofNat 32 (fld b (20 + 4 * r) 4)) (getR (getT s t) r).cancel = false) :
    pollEntry s t b = modT (modR s t r (fun q => { q with tail := v })) t (fun c => { c with changed := some s.clk.elapsed }) := by
  have own : pollRing t b s r = modR s t r (fun q => { q with tail := v }) := by
    have hon : (getR (getT s t) r).enabled = true := by simp [honly r hr]
    rw [pollRing, if_pos hon, ← hv, pollTail_later hlater hroom]
    exact pollCancel_same (by rw [getR_modR_self]; exact hcancel)
  have rings : (List.range 4).foldl (pollRing t b) s = modR s t r (fun q => { q with tail := v }) := by
    rw [foldl_range_one hr, own]
    · exact fun j hj hne => pollRing_disabled (by simp [honly j hj, hne]) b
    · intro j hj hne
      rw [own]
      exact pollRing_disabled (by simp [getR_modR_ne s t r _ hne, honly j hj, hne]) b
  have changed : (getT (modR s t r (fun q => { q with tail := v })) t).rings ≠ (getT s t).rings := by
    intro h
    have htail : (getR (getT (modR s t r (fun q => { q with tail := v })) t) r).tail = (getR (getT s t) r).tail := by
      rw [getR, getR, h]
    rw [getR_modR_self] at htail
    exact ne_of_seqAfter hlater htail
  rw [pollEntry_eq hcq, rings]
  exact if_neg (fun h => changed h.1)

end

section
variable {s : State} {t : Tenant} (hpoll : s.fe.polling = true) (hdue : pollDue s = true)
  (honly : ∀ u, u < 128 → polledTenant s u = decide (u = t.val))
include honly

theorem polledTenant_own : polledTenant (pollBegun s) t.val = true := by
  rw [polledTenant_pollBegun, honly t.val t.isLt, decide_eq_true rfl]

include hpoll hdue

/-- A poll that cannot read the entry leaves a DOORBELL-FAULT (R392). -/
theorem doorbellPoll_unread : exec (.doorbellPoll []) s = .next (logErr (entryAsked s t.val) Err.doorbellFault t.val 0 0) :=
  exec_doorbellPoll_one hpoll honly hdue (pollTenant_unread (polledTenant_own honly))
    (fun j _ => by rw [polledTenant_logErr, polledTenant_entryAsked])

/-- A poll that reads a later tail of the tenant's one ring. -/
theorem doorbellPoll_tail {r : Ring} {b : Bytes} (hb : b.length = 64) (hcq : (getT s t.val).cqOn = false)
    (hring : ∀ j, j < 4 → (getR (getT s t.val) j).enabled = decide (j = r.val))
    (hlater : seqAfter (BitVec.ofNat 32 (fld b (4 * r.val) 4)) (getR (getT s t.val) r.val).tail = true)
    (hroom : seqAfter (BitVec.ofNat 32 (fld b (4 * r.val) 4)) (getR (getT s t.val) r.val).consumed = true →
      (BitVec.ofNat 32 (fld b (4 * r.val) 4) - (getR (getT s t.val) r.val).consumed).toNat ≤ (getR (getT s t.val) r.val).size)
    (hcancel : seqAfter (BitVec.ofNat 32 (fld b (20 + 4 * r.val) 4)) (getR (getT s t.val) r.val).cancel = false) :
    exec (.doorbellPoll [(t.val, b)]) s = .next (modT (modR (entryAsked s t.val) t.val r.val (fun q =>
      { q with tail := BitVec.ofNat 32 (fld b (4 * r.val) 4) })) t.val (fun c => { c with changed := some s.clk.elapsed })) := by
  refine exec_doorbellPoll_one hpoll honly hdue ((pollTenant_read (polledTenant_own honly) hb).trans ?_) (fun j hj => ?_)
  · change pollEntry (entryAsked s t.val) t.val b = _
    obtain ⟨out, h⟩ : ∃ out, entryAsked s t.val = { pollBegun s with out } := readHost_eq ..
    rw [h]
    exact pollEntry_tail r.isLt hcq hring rfl hlater hroom hcancel
  · rw [polledTenant_congr (getT_modT_ne _ _ hj), polledTenant_congr (getT_modR_ne _ _ _ _ hj), polledTenant_entryAsked]

end

/-! ### Slots read ahead (R322, R331) -/

/-- DESCRIPTOR_FETCH of a slot that is wanted asks the host for it; a slot that cannot be read halts its ring. -/
theorem exec_descriptorFetch {s : State} {t : Tenant} {r : Ring} {seq : BitVec 32} (hpoll : s.fe.polling = true)
    (hon : (getR (getT s t.val) r.val).enabled = true) (hrun : (getR (getT s t.val) r.val).halted = false)
    (htail : (seq - (getR (getT s t.val) r.val).consumed).toNat <
      ((getR (getT s t.val) r.val).tail - (getR (getT s t.val) r.val).consumed).toNat)
    (hdepth : (seq - (getR (getT s t.val) r.val).consumed).toNat < 64)
    (hnew : nget none (getR (getT s t.val) r.val).slots seq.toNat = none)
    (hkept : smem (getR (getT s t.val) r.val).dropped seq.toNat = false) (slot : Option Bytes) :
    exec (.descriptorFetch t r seq slot) s = .next
      (let asked := readHost s t.val (slotAddr (getR (getT s t.val) r.val) seq) 256
       slot.elim (msix (logErr (modR asked t.val r.val (fun q => { q with halted := true })) Err.ringFault t.val r.val seq.toNat)
           t.val 1)
         (fun b => modR asked t.val r.val (fun q => { q with slots := nput none q.slots seq.toNat (some (fit 256 b)) }))) := by
  change execDescriptorFetch t r seq slot s = _
  unfold execDescriptorFetch
  dsimp only
  rw [if_neg]
  · cases slot with
    | none => rw [Option.elim_none]
    | some b => rw [Option.elim_some]
  · rintro (h | h | h | h | h | h | h)
    · simp [hpoll] at h
    · simp [hon] at h
    · simp [hrun] at h
    · exact absurd htail (Nat.not_lt.2 h)
    · exact absurd hdepth (Nat.not_lt.2 h)
    · simp [hnew] at h
    · simp [hkept] at h

/-! ### The slot at C (R320, R337) -/

/-- A slot at C is rejected as it is where no cancelled slot waits in its ring. -/
theorem rejectSlot_eq {s : State} {t r : Nat} (h : (getR (getT s t) r).dropped = []) (d : Bytes) (status detail : Nat) :
    rejectSlot s t r d status detail = takeTurn (consume (rejectRecord s t r status detail (getR (getT s t) r).consumed.toNat
      (dTag d) (dIrq d)) t r) t r := by
  unfold rejectSlot
  dsimp only
  rw [h]
  rfl

/-- The blocks of a descriptor are asked for in turn. -/
theorem readBlocks_eq (s : State) (t : Nat) (d : Bytes) : ∃ out, readBlocks s t d = { s with out } := by
  obtain ⟨out, h⟩ := readHost_eq s t (dLcb d) 512
  unfold readBlocks
  dsimp only
  rw [h]
  split
  · exact readHost_eq { s with out } ..
  · exact ⟨out, rfl⟩

section
variable {s : State} {t : Tenant} {r : Ring} {d : Bytes} (hslot : nget none (getR (getT s t.val) r.val).slots
    (getR (getT s t.val) r.val).consumed.toNat = some d) (hturn : isTurn s t.val r.val = true)
include hslot hturn

/-- ADMISSION at a ring's turn decides the slot at C. -/
theorem exec_admission (hnew : (getR (getT s t.val) r.val).decided = none) (lcb replay : Bytes) :
    exec (.admission t r (some lcb) (some replay)) s =
      .next ((admissionCheck s t.val (getR (getT s t.val) r.val).consumed d (some lcb) (some replay)).elim
        (modR (readBlocks s t.val d) t.val r.val (fun q =>
          { q with decided := some (fit 512 lcb, if dIsReplay d then fit 128 replay else []) }))
        (fun p => rejectSlot (readBlocks s t.val d) t.val r.val d p.1 p.2)) := by
  have go : ¬ ((getR (getT s t.val) r.val).decided.isSome = true ∨ (!isTurn s t.val r.val) = true) := by simp [hnew, hturn]
  refine congrArg Host.Outcome.next ((if_neg go).trans ?_)
  simp only [hslot]
  cases admissionCheck s t.val (getR (getT s t.val) r.val).consumed d (some lcb) (some replay) <;> rfl

section
variable {lcb replay : Bytes} (hdec : (getR (getT s t.val) r.val).decided = some (lcb, replay))
include hdec

/-- ADMISSION_BIND of a replay whose head the arena no longer holds (R26). -/
theorem admissionBind_changed (hrep : dIsReplay d = true) (hmatch : replayMatches s replay = false) :
    exec (.admissionBind t r) s = .next (rejectSlot s t.val r.val d Status.replayMismatch 0) := by
  refine congrArg Host.Outcome.next ?_
  simp only [hdec, hslot, hturn, hrep, hmatch]
  rfl

/-- ADMISSION_BIND under an accord in force: an expected accord that is another, a detail of its checks, or the launch. -/
theorem exec_admissionBind {a : Accord} (hb : boundAccord s d replay = some a)
    (hmatch : dIsReplay d = true → replayMatches s replay = true) : exec (.admissionBind t r) s = .next
      (if dAccord d ≠ 0 ∧ dAccord d ≠ a.id then rejectSlot s t.val r.val d Status.accordMismatch 0
       else (badForAccord s t.val d replay a).elim
         (consumeDropped t.val r.val (getR (getT s t.val) r.val).dropped.length (takeTurn (consume (takeId
           { s with launches := s.launches ++
             [newLaunch s t.val r.val (getR (getT s t.val) r.val).consumed d lcb replay a] }) t.val r.val) t.val r.val))
         (rejectSlot s t.val r.val d Status.descriptorInvalid)) := by
  have held : ¬ (dIsReplay d = true ∧ (!replayMatches s replay) = true) := by
    rintro ⟨hrep, hnot⟩
    simp [hmatch hrep] at hnot
  have go : ¬ (!isTurn s t.val r.val) = true := by simp [hturn]
  refine congrArg Host.Outcome.next ?_
  simp only [hdec, hslot, if_neg go, if_neg held, hb]
  cases badForAccord s t.val d replay a <;> rfl

end

end

/-! ### The turn of a ring (R339) -/

/-- A key that does not read the default is listed. -/
theorem exists_mem_of_nget_ne {α : Type} {d : α} {k : Nat} : ∀ {m : NMap α}, nget d m k ≠ d → ∃ v, (k, v) ∈ m
  | [], h => absurd rfl h
  | (k', v) :: m, h => by
    by_cases hk : k = k'
    · exact ⟨v, hk ▸ List.mem_cons_self⟩
    · rw [nget, if_neg hk] at h
      obtain ⟨v', hv'⟩ := exists_mem_of_nget_ne h
      exact ⟨v', List.mem_cons_of_mem _ hv'⟩

/-- A ring with something to serve is one of the round robin. -/
theorem mem_readyRings {s : State} {t r : Nat} (hr : r < 4) (h : ringReady s t r = true) : 4 * t + r ∈ readyRings s := by
  have hon : (getR (getT s t) r).enabled = true := by
    have hready := h
    simp only [ringReady, Bool.and_eq_true] at hready
    obtain ⟨⟨⟨⟨⟨-, hon⟩, -⟩, -⟩, -⟩, -⟩ := hready
    exact hon
  have listed : getT s t ≠ TenantSt.reset := fun hreset => by
    rw [hreset] at hon
    exact Bool.false_ne_true hon
  obtain ⟨c, hc⟩ := exists_mem_of_nget_ne listed
  exact List.mem_flatMap.2 ⟨(t, c), hc, List.mem_map.2 ⟨r, List.mem_filter.2 ⟨List.mem_range.2 hr, h⟩, rfl⟩⟩

theorem isTurn_iff (s : State) (t r : Nat) : isTurn s t r = true ↔ ringReady s t r = true ∧
    ∀ y ∈ readyRings s, (4 * t + r + 511 - s.fe.turn) % 512 ≤ (y + 511 - s.fe.turn) % 512 := by
  simp [isTurn]

/-- The turn is one ring's at a time. -/
theorem isTurn_unique {s : State} {t t' : Tenant} {r r' : Ring} (hturn : s.fe.turn < 512) (h : isTurn s t.val r.val = true)
    (h' : isTurn s t'.val r'.val = true) : t = t' ∧ r = r' := by
  obtain ⟨hready, hfirst⟩ := (isTurn_iff ..).1 h
  obtain ⟨hready', hfirst'⟩ := (isTurn_iff ..).1 h'
  have hle := hfirst _ (mem_readyRings r'.isLt hready')
  have hge := hfirst' _ (mem_readyRings r.isLt hready)
  have ht := t.isLt
  have ht' := t'.isLt
  have hr := r.isLt
  have hr' := r'.isLt
  have same : t.val = t'.val ∧ r.val = r'.val := by omega
  exact ⟨Fin.ext same.1, Fin.ext same.2⟩

/-! ### Dispatch (R51, R52, R153) -/

/-- Where no section is taken, no audit stands beside. -/
theorem auditBeside_of_free {l : Launch} {ex k : Nat} {x : Exec} (h : sectionTaken l ex x k = false) : auditBeside l ex k = false := by
  obtain ⟨-, hfree⟩ := Bool.or_eq_false_iff.1 h
  refine List.any_eq_false.2 (fun y hy hboth => ?_)
  exact List.any_eq_false.1 hfree y hy (Bool.and_eq_true_iff.1 hboth).2

section
variable {s : State} {k : Skein} {l : Launch} {x : Exec}

/-- A first execution that starts at its program's entry, of a launch without an audit. -/
theorem dispatchTo_primary (hres : x.resume = false) (hrole : x.role = .primary) (haudit : l.audit = false) (k : Nat) :
    dispatchTo s l 0 x k = modX
      (modK s k (fun q => { q with queue := q.queue ++
        [⟨l.id, 0, Core.entry (fld (progEntry l.accord (dProg l.desc)) 0 4), false, false⟩] }))
      l.id 0 (fun x => { x with phase := .placed, skein := some k, ran := k, resume := false }) := by
  simp [dispatchTo, startAudit, hres, hrole, haudit]

/-- DISPATCH of a waiting primary to a skein that takes it, at a place it may run. -/
theorem exec_dispatch_primary (hl : findL s l.id = some l) (hst : l.stage = .running) (hx : l.execs[0]? = some x)
    (hwait : x.phase = .waiting) (hrole : x.role = .primary) (hh : s.fe.hang = none) (hpow : s.jrn.powerFail = false)
    (hgood : (getK s k.val).mode = .good) (hroom : (getK s k.val).queue.length < 8) (hplace : k.val ∉ x.place.skeins)
    (hsec : sectionTaken l 0 x k.val = false) : exec (.dispatch l.id 0 k) s = .next (dispatchTo s l 0 x k.val) := by
  have takes : takesDispatch s k.val = true := by simp [takesDispatch, hgood, hroom, launchQueueLimit]
  have may : mayRunOn s l 0 x k.val = true := by simp [mayRunOn, hplace, hsec]
  refine congrArg Host.Outcome.next ?_
  simp [hl, getX, hx, hst, hwait, hrole, hh, hpow, takes, may, auditBeside_of_free hsec]

end

/-- Settles O37: a poll, a slot read ahead, the slot at C from its checks to its launch, the one turn, and a dispatch. -/
theorem slotsAreReadAheadAndAdmitted : Obligations.SlotsAreReadAheadAndAdmitted := by
  refine ⟨fun s t r b => ?polls, fun s t r seq => ?fetches, fun s t r d => ?admits, fun s t t' r r' ht h h' => isTurn_unique ht h h',
    fun s k l x hl hst hx hwait hres hrole haudit hh hpow hgood hroom hplace hsec => ?dispatches⟩
  case polls =>
    intro q v polled hpoll honly hring
    exact ⟨exec_doorbellPoll_early, fun hdue => doorbellPoll_unread hpoll hdue honly,
      fun hdue hb _ hlater hroom hcancel hcq => doorbellPoll_tail hpoll hdue honly hb hcq hring hlater hroom hcancel⟩
  case fetches =>
    intro q hpoll hon hrun htail hdepth hnew hkept asked
    have fetched := exec_descriptorFetch hpoll hon hrun htail hdepth hnew hkept
    refine ⟨fun b hb => ?_, ?_⟩
    · have hfit : fit 256 b = b := hb ▸ fit_self b
      rw [fetched (some b), Option.elim_some, hfit]
      rfl
    · rw [fetched none, Option.elim_none]
      rfl
  case admits =>
    intro q hslot hturn hdropped turned rejected asked
    have rejects (status detail : Nat) : rejectSlot s t.val r.val d status detail = rejected s status detail :=
      rejectSlot_eq hdropped d status detail
    refine ⟨fun lcb replay hlcb hreplay hnew => ⟨fun hok => ?passes, fun status detail hbad => ?fails⟩,
      fun lcb replay hdec => ⟨fun hrep hmatch => ?changed, fun a hb hmatch =>
        ⟨fun hgood hacc => ?binds, fun hset hother => ?other⟩⟩⟩
    case passes =>
      have hfit : fit 512 lcb = lcb := hlcb ▸ fit_self lcb
      have hfit' : fit 128 replay = replay := hreplay ▸ fit_self replay
      rw [exec_admission hslot hturn hnew, hok, Option.elim_none, hfit, hfit']
      rfl
    case fails =>
      obtain ⟨out, hasked⟩ : ∃ out, asked = { s with out } := readBlocks_eq s t.val d
      rw [exec_admission hslot hturn hnew, hbad, Option.elim_some]
      refine congrArg Host.Outcome.next ?_
      change rejectSlot asked t.val r.val d status detail = _
      rw [hasked]
      exact rejectSlot_eq (s := { s with out }) hdropped d status detail
    case changed => rw [admissionBind_changed hslot hturn hdec hrep hmatch, rejects]
    case binds =>
      have expected : ¬ (dAccord d ≠ 0 ∧ dAccord d ≠ a.id) := fun ⟨hset, hother⟩ => hacc.elim hset hother
      refine ⟨newLaunch s t.val r.val q.consumed d lcb replay a, rfl, rfl, rfl, rfl, rfl, rfl, rfl, rfl, rfl, rfl, rfl, rfl, rfl, ?_⟩
      rw [exec_admissionBind hslot hturn hdec hb hmatch, if_neg expected, hgood, Option.elim_none, hdropped]
      rfl
    case other => rw [exec_admissionBind hslot hturn hdec hb hmatch, if_pos ⟨hset, hother⟩, rejects]
  case dispatches =>
    rw [exec_dispatch_primary hl hst hx hwait hrole hh hpow hgood hroom hplace hsec, dispatchTo_primary hres hrole haudit]
    rfl

end Sys2Proof.Machine
end

section
/-! SUPPORT. Resets: which completion entries a drained tenant still holds, what a tenant reset, a PCIe reset and a full reset leave,
and the levels of RST_CTRL with their overruns (O49). -/

namespace Sys2Proof.Machine

/-! ### Completion entries that launches hold while a tenant drains -/

section
variable (s : State)

theorem haltOf_frameStaged (p seq u : Nat) : haltOf (frameStaged s p seq u) = haltOf s := rfl

/-- A record of any type that becomes durable leaves the reserved entries, polling and the hang. -/
theorem haltOf_recordDurable_any (from_ : Nat) (spread : Bool) (r : JrnRecord) :
    haltOf (recordDurable s from_ spread r) = haltOf s := by
  unfold recordDurable
  split
  · dsimp only
    split
    · exact haltOf_flood ..
    · rfl
  · exact (haltOf_flood ..).trans (foldl_keeps haltOf _ _ (fun s _ _ => haltOf_learnState s ..) s)
  · split <;> rfl
  all_goals rfl

theorem haltOf_writeDurable (w : JrnWrite) : haltOf (writeDurable s w) = haltOf s := by
  have records := foldl_keeps haltOf (fun s r => recordDurable s ((w.frame.map (·.1)).getD 8) w.spread r) w.recs
    (fun s r _ => haltOf_recordDurable_any s ..) s
  unfold writeDurable
  dsimp only
  split
  · exact (haltOf_frameStaged ..).trans records
  · exact records

theorem haltOf_stageOwn_any (recs : List JrnRecord) : haltOf (stageOwn s recs) = haltOf s := by
  unfold stageOwn stage
  split
  · exact haltOf_writeDurable ..
  · change haltOf (noteExhausted s recs.length) = haltOf s
    unfold noteExhausted
    split
    · rfl
    · exact haltOf_logErr ..

theorem haltOf_numberSplices (id e : Nat) : haltOf (numberSplices s id e) = haltOf s := by
  unfold numberSplices
  split <;> rfl

theorem haltOf_stageOutcome (id : Nat) : haltOf (stageOutcome s id) = haltOf s := by
  unfold stageOutcome
  dsimp only
  repeat' split
  all_goals simp only [haltOf_modL, haltOf_stageOwn_any, haltOf_numberSplices]

theorem haltOf_emit (o : Out) : haltOf (emit s o) = haltOf s := rfl
theorem haltOf_countEvent (i n : Nat) : haltOf (countEvent s i n) = haltOf s := rfl

theorem haltOf_translate (t addr n : Nat) (write : Bool) : haltOf (translate s t addr n write) = haltOf s :=
  foldl_keeps haltOf _ _ (fun _ _ _ => by split <;> rfl) s

end

/-- Tenant t holds no reserved completion entry. -/
def NoneReserved (t : Nat) (s : State) : Prop := (getT s t).reserved = []

section
variable {s u : State} {t : Nat}

theorem NoneReserved.of_haltOf (h : NoneReserved t s) (hu : haltOf u = haltOf s) : NoneReserved t u := by
  have entries : (getT u t).reserved = (getT s t).reserved := congrFun (congrArg (·.2.2) hu) t
  exact entries.trans h

/-- A change of the tenant that reserves nothing, wherever its launches go. -/
theorem NoneReserved.modT (h : NoneReserved t s) {f : TenantSt → TenantSt} (hf : ∀ c, c.reserved = [] → (f c).reserved = [])
    (l : List Launch) : NoneReserved t { modT s t f with launches := l } := by
  have changed : getT { Machine.modT s t f with launches := l } t = f (getT s t) := getT_modT_self s t f
  unfold NoneReserved
  rw [changed]
  exact hf _ h

/-- A record on its way to the host, and the change of its tenant and of the launches that follows. -/
theorem putRecord_eq (s : State) (t status bits launch : Nat) (body : Bytes) (irq alert written : Bool) :
    ∃ v f l, haltOf v = haltOf s ∧ (∀ c : TenantSt, (f c).reserved = sdel c.reserved launch) ∧
      putRecord s t status bits launch body irq alert written =
        if alert then msix { Machine.modT v t f with launches := l } t 1 else { Machine.modT v t f with launches := l } := by
  refine ⟨if written then _ else _, _, _, ?_, ?_, rfl⟩
  · split
    · rw [haltOf_countEvent, haltOf_emit, haltOf_translate]
    · rw [haltOf_logErr, haltOf_translate]
  · exact fun _ => rfl

/-- Writing a record reserves nothing; it frees the launch's entry. -/
theorem NoneReserved.putRecord (h : NoneReserved t s) (status bits launch : Nat) (body : Bytes) (irq alert written : Bool) :
    NoneReserved t (putRecord s t status bits launch body irq alert written) := by
  obtain ⟨v, f, l, hv, hf, heq⟩ := putRecord_eq s t status bits launch body irq alert written
  have freed : NoneReserved t { Machine.modT v t f with launches := l } :=
    (h.of_haltOf hv).modT (fun c hc => by rw [hf, hc]; rfl) l
  rw [heq]
  split
  · exact freed.of_haltOf (haltOf_msix ..)
  · exact freed

theorem NoneReserved.writeNext (h : NoneReserved t s) (written : Bool) : NoneReserved t (writeNext s t written) := by
  unfold Machine.writeNext
  split
  · refine NoneReserved.putRecord ?_ ..
    exact h.of_haltOf (haltOf_releaseLedger ..)
  · split
    · exact h
    · split
      · exact h
      · refine NoneReserved.putRecord ?_ ..
        exact h.of_haltOf (haltOf_modT s t (fun _ => rfl))

/-- The first part of a drain: the OUTCOME records of a tenant's launches are staged. -/
def stageOutcomes (s : State) (t : Nat) : State :=
  s.launches.foldl (fun s l => if l.tenant ≠ t ∨ outcomeWaiting s l.id then s else stageOutcome s l.id) s

theorem drainTenant_eq (write : Bool) (s : State) (t : Nat) : drainTenant write s t = if write then
    (List.range ((getT (stageOutcomes s t) t).reserved.length + (getT (stageOutcomes s t) t).finished.length)).foldl
      (fun s _ => writeNext s t true) (stageOutcomes s t) else stageOutcomes s t := rfl

theorem haltOf_stageOutcomes (s : State) (t : Nat) : haltOf (stageOutcomes s t) = haltOf s :=
  foldl_keeps haltOf _ _ (fun s l _ => by
    split
    · rfl
    · exact haltOf_stageOutcome ..) s

theorem NoneReserved.drainTenant (h : NoneReserved t s) (write : Bool) : NoneReserved t (drainTenant write s t) := by
  have staged : NoneReserved t (stageOutcomes s t) := h.of_haltOf (haltOf_stageOutcomes s t)
  rw [drainTenant_eq]
  split
  · exact foldl_preserves (P := NoneReserved t) (fun _ _ hu => hu.writeNext true) _ staged
  · exact staged

/-- The launches of a tenant that its reset ends without records (R380). -/
def endedLaunches (s : State) (t : Nat) : List Launch :=
  s.launches.filter (fun l => l.tenant == t && !entryReserved s l && l.stage != .finished)

/-- The tenant's reset before its drain: those launches are discarded, and no record waits. -/
def discardEnded (s : State) (t : Nat) : State :=
  let u := (endedLaunches s t).foldl (fun s l => releaseLedger (discardAll s l.id) l.id) s
  modT { u with launches := u.launches.filter (fun l => !(endedLaunches s t).any (fun x => x.id == l.id)) } t
    (fun c => { c with finished := [] })

/-- A tenant's reset after its drain: of its launches, those that hold reserved entries stay. -/
def keepReserved (s : State) (t : Nat) : State :=
  { s with launches := s.launches.filter (fun l => l.tenant != t || smem (getT s t).reserved l.id) }

theorem endTenant_eq (s : State) (t : Nat) : endTenant s t = keepReserved (drainTenant true (discardEnded s t) t) t := rfl

theorem haltOf_discardEnded (s : State) (t : Nat) : haltOf (discardEnded s t) = haltOf s := by
  unfold discardEnded
  rw [haltOf_modT]
  · exact foldl_keeps haltOf _ _ (fun s l _ => (haltOf_releaseLedger ..).trans (haltOf_discardAll ..)) s
  · exact fun _ => rfl

/-- What ends with a tenant's reset reserves nothing for it. -/
theorem NoneReserved.endTenant (h : NoneReserved t s) : NoneReserved t (endTenant s t) := by
  have drained := (h.of_haltOf (haltOf_discardEnded s t)).drainTenant true
  rw [endTenant_eq]
  exact drained

end

/-! ### The tenant reset (R380) -/

/-- What a reset of tenant t leaves of it: launches whose reserved entries it still has to write, and nothing at all where no entry
was reserved. -/
def TenantLeft (s u : State) (t : Nat) : Prop :=
  (∀ l, l ∈ u.launches → l.tenant = t → smem (getT u t).reserved l.id = true ∧ (getT u t).resetting = true) ∧
  ((getT s t).reserved = [] → (getT u t).finished = [] ∧ (getT u t).cqOn = false ∧ (getT u t).reserved = [] ∧
    ∀ l, l ∈ u.launches → l.tenant ≠ t)

section
variable (s : State) (t : Nat)

/-- Registers that take their reset values move no tenant's rings and no launch. -/
theorem foldl_rset_keeps (l : List RegField) : (l.foldl (fun s f => rset s f f.reset t) s).tenants = s.tenants ∧
    (l.foldl (fun s f => rset s f f.reset t) s).launches = s.launches :=
  ⟨foldl_keeps (·.tenants) (fun s f => rset s f f.reset t) l (fun _ _ _ => rfl) s,
    foldl_keeps (·.launches) (fun s f => rset s f f.reset t) l (fun _ _ _ => rfl) s⟩

theorem resetPage_tenants : (resetPage s t).tenants = s.tenants := by
  unfold resetPage
  rw [(foldl_rset_keeps ..).1]

theorem resetPage_launches : (resetPage s t).launches = s.launches := by
  unfold resetPage
  rw [(foldl_rset_keeps ..).2]

/-- Steps 4 and 5 of R380: the tenant's state but for its lost tables and power state, its requests and launches, then its page. -/
theorem dropTenant_eq : ∃ hst, dropTenant s t = resetPage
    { modT s t (fun _ => { TenantSt.reset with lost := (getT s t).lost, d3hot := (getT s t).d3hot }) with
      hst, launches := s.launches.filter (fun l => l.tenant != t) } t := ⟨_, rfl⟩

theorem getT_dropTenant :
    getT (dropTenant s t) t = { TenantSt.reset with lost := (getT s t).lost, d3hot := (getT s t).d3hot } := by
  obtain ⟨hst, heq⟩ := dropTenant_eq s t
  rw [getT, heq, resetPage_tenants, modT_tenants, nget_nmod_self]

theorem dropTenant_launches : (dropTenant s t).launches = s.launches.filter (fun l => l.tenant != t) := by
  obtain ⟨hst, heq⟩ := dropTenant_eq s t
  rw [heq, resetPage_launches]

/-- A launch of the tenant that is left by the drain holds a reserved entry. -/
theorem reserved_of_mem_endTenant {l : Launch} (hl : l ∈ (endTenant s t).launches) (ht : l.tenant = t) :
    smem (getT (endTenant s t) t).reserved l.id = true := by
  have kept : (l.tenant != t || smem (getT (endTenant s t) t).reserved l.id) = true := (List.mem_filter.1 hl).2
  simpa [ht] using kept

theorem tenantReset_rings : (getT (tenantReset s t) t).rings = [] := by
  unfold tenantReset
  dsimp only
  split
  · rw [getT_dropTenant]
    rfl
  · rw [getT_modT_self]

theorem tenantReset_left : TenantLeft s (tenantReset s t) t := by
  unfold tenantReset
  dsimp only
  split
  case isTrue =>
    have gone (l : Launch) (hl : l ∈ (dropTenant (endTenant s t) t).launches) : l.tenant ≠ t := by
      rw [dropTenant_launches, List.mem_filter] at hl
      simpa using hl.2
    refine ⟨fun l hl ht => absurd ht (gone l hl), fun _ => ?_⟩
    rw [getT_dropTenant]
    exact ⟨rfl, rfl, rfl, gone⟩
  case isFalse h =>
    refine ⟨fun l hl ht => ?_, fun hnone => absurd ?_ h⟩
    · rw [getT_modT_self]
      exact ⟨reserved_of_mem_endTenant s t hl ht, rfl⟩
    · rw [List.isEmpty_iff]
      exact NoneReserved.endTenant hnone

/-- What stands outside a tenant's launches, records and reset does not matter. -/
theorem TenantLeft.congr {s u v : State} {t : Nat} (h : TenantLeft s u t) (hl : v.launches = u.launches)
    (ht : ∃ d3hot, getT v t = { getT u t with d3hot }) : TenantLeft s v t := by
  obtain ⟨d3hot, ht⟩ := ht
  unfold TenantLeft
  rw [hl, ht]
  exact h

/-- What an FLR takes of a function beside its tenant: what failed, its requests, its translations, its configuration and D3hot. -/
def resetFunction (s : State) (t : Nat) : State :=
  modT { s with hst := { s.hst with
    failed := sdel s.hst.failed t, requests := s.hst.requests.filter (fun p => p.fn != t),
    atc := s.hst.atc.filter (fun e => e.fn != t), config := nput FnConfig.reset s.hst.config t FnConfig.reset } }
    t (fun c => { c with d3hot := false })

theorem getT_resetFunction : getT (resetFunction s t) t = { getT s t with d3hot := false } := getT_modT_self ..

theorem resetFunction_launches : (resetFunction s t).launches = s.launches := rfl

theorem resetFunction_leaves : (∀ r, r ∈ (resetFunction s t).hst.requests → r.fn ≠ t) ∧
    (∀ e, e ∈ (resetFunction s t).hst.atc → e.fn ≠ t) ∧ smem (resetFunction s t).hst.failed t = false := by
  unfold resetFunction
  simp

theorem exec_vfFlr (t : Tenant) (ht : t.val ≠ 0) (hh : s.fe.hang = none) :
    exec (.vfFlr t) s = .next (resetFunction (tenantReset s t.val) t.val) := by
  have idle : ¬ s.fe.hang.isSome = true := by simp [hh]
  change execVfFlr t s = _
  unfold execVfFlr resetFunction
  rw [if_neg ht, if_neg idle]

/-- VF_FLR of a virtual function leaves its tenant as a tenant reset does, and the function without requests and translations. -/
theorem vfFlr_leaves (t : Tenant) (ht : t.val ≠ 0) (hh : s.fe.hang = none) : ∃ u, exec (.vfFlr t) s = .next u ∧
    (getT u t.val).rings = [] ∧ (getT u t.val).d3hot = false ∧ TenantLeft s u t.val ∧
    (∀ r, r ∈ u.hst.requests → r.fn ≠ t.val) ∧ (∀ e, e ∈ u.hst.atc → e.fn ≠ t.val) ∧ smem u.hst.failed t.val = false := by
  have left := (tenantReset_left s t.val).congr (resetFunction_launches ..) ⟨false, getT_resetFunction ..⟩
  refine ⟨_, exec_vfFlr s t ht hh, ?_, ?_, left, resetFunction_leaves ..⟩
  · rw [getT_resetFunction]
    exact tenantReset_rings s t.val
  · rw [getT_resetFunction]

end

/-! ### Retention and full device reset -/

/-- The stacks of a chip in retention, one after another: in self-refresh, each with its clean bit set. -/
def holdStacks (l : List Nat) (m : NMap StackSt) : NMap StackSt :=
  l.foldl (fun m i => nmod StackSt.reset m i (fun q => { q with selfRefresh := true, clean := true })) m

/-- A stack of the map that is held. -/
def CleanHeld (m : NMap StackSt) (i : Nat) : Prop :=
  (nget StackSt.reset m i).selfRefresh = true ∧ (nget StackSt.reset m i).clean = true

theorem cleanHeld_holdStacks {i : Nat} (l : List Nat) : ∀ m, i ∈ l ∨ CleanHeld m i → CleanHeld (holdStacks l m) i := by
  induction l with
  | nil => exact fun m h => h.resolve_left List.not_mem_nil
  | cons j l ih =>
    intro m h
    refine ih _ ?_
    by_cases hij : i = j
    · refine .inr ?_
      simp [CleanHeld, hij]
    · refine (h.imp_left (fun hmem => (List.mem_cons.1 hmem).resolve_left hij)).imp_right (fun held => ?_)
      simpa [CleanHeld, nget_nmod, hij] using held

section
variable (s : State)

theorem resetUnits_leaves (pcie flr : Bool) (cause level : Nat) : (resetUnits pcie flr cause level s).launches = [] ∧
    (resetUnits pcie flr cause level s).clk.cause = BitVec.ofNat 8 cause ∧
    (resetUnits pcie flr cause level s).clk.level = BitVec.ofNat 8 level := ⟨rfl, rfl, rfl⟩

/-- The chip goes down with stacks held. -/
def holdChip (l : List Nat) (s : State) : State :=
  { s with glb := { s.glb with phase := heldPhase }, hst := { s.hst with down := true },
           hbmStacks := holdStacks l s.hbmStacks }

section
variable (l : List Nat)

@[simp] theorem holdChip_down : (holdChip l s).hst.down = true := rfl
@[simp] theorem holdChip_clk : (holdChip l s).clk = s.clk := rfl
@[simp] theorem holdChip_launches : (holdChip l s).launches = s.launches := rfl

theorem getS_holdChip {i : Nat} (hi : i ∈ l) : (getS (holdChip l s) i).selfRefresh = true ∧ (getS (holdChip l s) i).clean = true :=
  cleanHeld_holdStacks l s.hbmStacks (.inl hi)

end

theorem enterRetention_eq (cause : Nat) : enterRetention cause s = holdChip (List.range 8) (resetUnits true false cause 6
    (writePersist (flushAll (endSteps (flushStaged (recallRest (dropOutcomes s))))) 0xFF cause)) := by
  unfold enterRetention holdChip
  rfl

/-- A chip in retention is down with its stacks clean in self-refresh; the cause and the level are recorded. -/
theorem enterRetention_leaves (cause : Nat) : (enterRetention cause s).hst.down = true ∧
    (enterRetention cause s).clk.cause = BitVec.ofNat 8 cause ∧ (enterRetention cause s).clk.level = 6 ∧
    (enterRetention cause s).launches = [] ∧
    ∀ i, i < 8 → (getS (enterRetention cause s) i).selfRefresh = true ∧ (getS (enterRetention cause s) i).clean = true := by
  rw [enterRetention_eq]
  generalize writePersist _ 0xFF cause = v
  rw [holdChip_down, holdChip_clk, holdChip_launches]
  obtain ⟨hlaunches, hcause, hlevel⟩ := resetUnits_leaves v true false cause 6
  exact ⟨rfl, hcause, hlevel, hlaunches, fun i hi => getS_holdChip _ _ (List.mem_range.2 hi)⟩

theorem flushStaged_empty (h : s.jrn.staged = []) : flushStaged s = s := by
  unfold flushStaged
  rw [h, List.foldl_nil, ← h]

/-- A full device reset with no record staged: only the flashes, the fuses, the module and the journal's flash survive. -/
theorem fullReset_eq (cause : Nat) (h : s.jrn.staged = []) : fullReset cause s = { State.reset with
    pending := s.pending, out := s.out, free := s.free, flash := s.flash, fuses := s.fuses, mdl := s.mdl,
    glb := { GlobalSt.reset with bootAt := s.clk.elapsed }, jrn := flashJournal s.jrn,
    clk := { ClockSt.reset with elapsed := s.clk.elapsed, cause := BitVec.ofNat 8 cause } } := by
  unfold fullReset
  rw [flushStaged_empty s h]

/-! ### PCIe resets (Table Host-4) -/

/-- The PCIe link goes down. -/
def linkLost (s : State) : State := { s with hst := { s.hst with linkUp := false } }

/-- The source of time is lost with PTM (R378). -/
def timeLost (s : State) : State := if rget s Reg.timeSrc = 1 then loseLock s else s

theorem timeLost_of_ne (h : rget s Reg.timeSrc ≠ 1) : timeLost s = s := if_neg h

theorem live_of_canRetain (h : canRetain s = true) : s.glb.phase ≠ 0 ∧ s.hst.down = false ∧ s.jrn.powerFail = false := by
  simp only [canRetain, Bool.and_eq_true, Bool.not_eq_true'] at h
  obtain ⟨⟨hphase, hdown⟩, hpower⟩ := h
  refine ⟨fun h0 => ?_, hdown, hpower⟩
  rw [h0] at hphase
  exact absurd hphase (by decide)

/-- A PCIe reset of a chip that is up, as HST_RETENTION says. -/
theorem pcieReset_eq (cause : Nat) (hup : canRetain s = true) : pcieReset cause s =
    if rget s Reg.retention = 0 then fullReset cause (linkLost (timeLost s)) else enterRetention cause (linkLost (timeLost s)) := by
  obtain ⟨hphase, hdown, hpower⟩ := live_of_canRetain s hup
  have stays : ¬ (s.glb.phase = 0 ∨ s.hst.down = true ∨ s.jrn.powerFail = true) := by
    rw [hdown, hpower]
    exact fun h => h.elim hphase (by decide)
  unfold pcieReset timeLost linkLost
  dsimp only
  rw [if_neg stays, if_pos hup]

theorem pcieReset_retains (cause : Nat) (hup : canRetain s = true) (hret : rget s Reg.retention = 1) :
    pcieReset cause s = enterRetention cause (linkLost (timeLost s)) := by
  rw [pcieReset_eq s cause hup, hret]
  rfl

theorem pcieReset_full (cause : Nat) (hup : canRetain s = true) (hret : rget s Reg.retention = 0) (hsrc : rget s Reg.timeSrc ≠ 1) :
    pcieReset cause s = fullReset cause (linkLost s) := by
  rw [pcieReset_eq s cause hup, hret, timeLost_of_ne s hsrc]
  rfl

end

/-! ### PERST# high (R383, R525) -/

section
variable (s : State) (find : BootFind)

theorem exec_perstDeassert : exec (.perstDeassert find) s = .next (if s.jrn.powerFail then s
    else if s.hst.down then leaveRetention find s
    else if s.glb.phase = 0 ∧ s.mdl.powered ∧ !s.mdl.warning then fullBoot find s else s) := rfl

end

/-! ### RST_CTRL and overruns (R555, R556, Table Reset-5) -/

section
variable (s : State)

theorem retainingReset_starts (find : BootFind) (cause : Nat) (hup : canRetain s = true) (hh : s.fe.hang = none) :
    retainingReset find cause s = finishRetaining find cause (startRetaining s 0 cause) := by
  unfold retainingReset
  rw [if_neg]
  simp [hup, hh]

/-- PF_FLR is a retaining reset with cause 4. -/
theorem exec_pfFlr (find : BootFind) (hup : canRetain s = true) (hh : s.fe.hang = none) :
    exec (.pfFlr find) s = .next (finishRetaining find 4 (startRetaining s 0 4)) :=
  congrArg Host.Outcome.next (retainingReset_starts s find 4 hup hh)

theorem exec_rstRetaining (find : BootFind) (hup : canRetain s = true) : exec (.rstRetaining find) s =
    .next (if (readBcb s).pending then activationReset find s else retainingReset find 6 s) := by
  change execRstRetaining find s = _
  unfold execRstRetaining
  rw [hup]
  rfl

theorem getK_resetSkein_self (k : Nat) : getK (resetSkein s k) k =
    { getK s k with queue := [], resident := none, mode := if (getK s k).mode = .good then .testing else (getK s k).mode } := by
  unfold resetSkein
  rw [getK_modK_self, getK_clearSkein_self]
  split <;> rfl

theorem exec_rstSkein (target : BitVec 8) (hh : s.fe.hang = none) : exec (.rstSkein target) s =
    .next (if 128 ≤ target.toNat then reservedTarget s 1 target else resetSkein s target.toNat) := by
  change execRstSkein target s = _
  unfold execRstSkein rstSkein
  rw [hh]
  rfl

theorem exec_rstSection (target : BitVec 8) (hh : s.fe.hang = none) : exec (.rstSection target) s =
    .next (if 8 ≤ target.toNat then reservedTarget s 2 target else resetSection s target.toNat) := by
  change execRstSection target s = _
  unfold execRstSection rstSection
  rw [hh]
  rfl

theorem exec_rstTenant (target : BitVec 8) (hh : s.fe.hang = none) : exec (.rstTenant target) s =
    .next (if target.toNat = 0 ∨ 128 ≤ target.toNat then reservedTarget s 3 target else tenantReset s target.toNat) := by
  change execRstTenant target s = _
  unfold execRstTenant rstTenant
  rw [hh]
  rfl

/-- Level 5 within 1 ms of a write of RST_ARM. -/
theorem exec_rstFull_armed {t : Nat} (harmed : s.clk.armed = some t) (hin : s.clk.elapsed ≤ t + 1000000) :
    exec .rstFull s = .next (fullReset 8 s) := by
  change Host.Outcome.next (rstFull s) = _
  unfold rstFull
  rw [harmed, if_pos]
  exact decide_eq_true hin

theorem exec_rstFull_notArmed (h : ∀ t, s.clk.armed = some t → t + 1000000 < s.clk.elapsed) :
    exec .rstFull s = .next (logErr s Err.resetNotArmed noTenant 0 0) := by
  change Host.Outcome.next (rstFull s) = _
  unfold rstFull
  rw [if_neg]
  cases harmed : s.clk.armed with
  | none => exact Bool.false_ne_true
  | some t =>
    have late : t + millisecond < s.clk.elapsed := h t harmed
    simpa using late

theorem exec_overrun_retaining {h : Hang} (hh : s.fe.hang = some h) (hlate : h.start + 250000000 ≤ s.clk.elapsed) :
    exec (.resetLimitOverrun .retaining) s = .next (fullReset h.cause s) := by
  have late : ¬ s.clk.elapsed < h.start + 250 * millisecond := Nat.not_lt.2 hlate
  change execResetLimitOverrun .retaining s = _
  simp only [execResetLimitOverrun, hh, if_neg late]

theorem exec_overrun_skein {k : Skein} (hk : (getK s k.val).mode = .testing) :
    exec (.resetLimitOverrun (.skein k)) s = .next (resetSection s (k.val / 16)) := by
  change execResetLimitOverrun (.skein k) s = _
  simp only [execResetLimitOverrun, hk, if_true]

end

/-- Settles O49: PCIe resets, PERST# high and retaining resets, function resets, RST_CTRL's scoped levels, its full level and the
overruns. -/
theorem resetLevels : Obligations.ResetLevels := by
  refine ⟨fun s hup => ⟨fun hret => ?retention, fun hret hsrc hstaged => ?full⟩,
    fun s find => ⟨fun hpower => ?powerFails, fun hpower hdown => ?leaves, fun hpower hdown hphase hpowered hwarning => ?boots,
      fun hup hh => ⟨exec_pfFlr s find hup hh, fun hp => ?retaining, fun hp => ?activation⟩⟩,
    vfFlr_leaves, fun _ _ => ⟨rfl, rfl⟩,
    fun s target hh => ⟨fun h => ?skeinReset, fun h => ?noSkein, fun h => ?sectionReset, fun h => ?noSection,
      fun h0 h => ?tenantReset, fun h => ?noTenant⟩,
    fun s => ⟨fun ⟨t, harmed, hin⟩ hstaged => ?armed, exec_rstFull_notArmed s, fun h => exec_overrun_retaining s,
      fun k => exec_overrun_skein s⟩⟩
  case retention =>
    have retains (n : Nat) := pcieReset_retains s n hup hret
    have kept (n : Nat) := enterRetention_leaves (linkLost (timeLost s)) n
    exact ⟨⟨_, congrArg Host.Outcome.next (retains 1), kept 1⟩, ⟨_, congrArg Host.Outcome.next (retains 2), kept 2⟩,
      ⟨_, congrArg Host.Outcome.next (retains 3), kept 3⟩⟩
  case full =>
    have resets (n : Nat) := (pcieReset_full s n hup hret hsrc).trans (fullReset_eq (linkLost s) n hstaged)
    refine ⟨⟨_, congrArg Host.Outcome.next (resets 1), ?_⟩, ⟨_, congrArg Host.Outcome.next (resets 2), ?_⟩,
      ⟨_, congrArg Host.Outcome.next (resets 3), ?_⟩⟩ <;> exact ⟨rfl, rfl, rfl, rfl, rfl, rfl, rfl, rfl, rfl⟩
  case powerFails => rw [exec_perstDeassert, if_pos hpower]
  case leaves => rw [exec_perstDeassert, if_neg (ne_true_of_eq_false hpower), if_pos hdown]
  case boots =>
    rw [exec_perstDeassert, if_neg (ne_true_of_eq_false hpower), if_neg (ne_true_of_eq_false hdown),
      if_pos ⟨hphase, hpowered, by rw [hwarning]; rfl⟩]
  case retaining => rw [exec_rstRetaining s find hup, hp, retainingReset_starts s find 6 hup hh, if_neg Bool.false_ne_true]
  case activation => rw [exec_rstRetaining s find hup, if_pos hp]
  case skeinReset =>
    refine ⟨_, (exec_rstSkein s target hh).trans (congrArg Host.Outcome.next (if_neg (Nat.not_le.2 h))), ?_⟩
    rw [getK_resetSkein_self]
    refine ⟨rfl, rfl, ?_⟩
    dsimp only
    split
    · exact nofun
    · assumption
  case noSkein => rw [exec_rstSkein s target hh, if_pos h]; rfl
  case sectionReset => rw [exec_rstSection s target hh, if_neg (Nat.not_le.2 h)]
  case noSection => rw [exec_rstSection s target hh, if_pos h]; rfl
  case tenantReset =>
    have own : ¬ (target.toNat = 0 ∨ 128 ≤ target.toNat) := by omega
    exact ⟨_, (exec_rstTenant s target hh).trans (congrArg Host.Outcome.next (if_neg own)), tenantReset_rings s target.toNat,
      tenantReset_left s target.toNat⟩
  case noTenant => rw [exec_rstTenant s target hh, if_pos h]; rfl
  case armed =>
    have resets := (exec_rstFull_armed s harmed hin).trans (congrArg Host.Outcome.next (fullReset_eq s 8 hstaged))
    exact ⟨_, resets, rfl, rfl, rfl, rfl, rfl, rfl, rfl, rfl, rfl, rfl, rfl, rfl, rfl, rfl⟩

end Sys2Proof.Machine
end

section
/-! SUPPORT. A step and the front command, and words written out from the spec's encodings (O1, O54). -/

namespace Sys2Proof.Machine

theorem step_cons (c : Instr) (rest : List Instr) (s : State) :
    step { s with pending := c :: rest } = exec c { s with pending := rest } := rfl

/-- Settles O1: a step takes the front command off the queue. -/
theorem stepRunsFrontCommand : Obligations.StepRunsFrontCommand := step_cons

/-- Settles O54, word by word: the fields of each word are cut from its bits. -/
theorem wordsWrittenOutFromTheSpecDecode : Obligations.WordsWrittenOutFromTheSpecDecode := by
  refine ⟨?mmac, ?add, ?endl, ?vadd, ?strandEnd⟩
  case mmac => decide
  case add => decide
  case endl => decide
  case vadd => decide
  case strandEnd => decide

end Sys2Proof.Machine
end

section
/-! SUPPORT. Operations that leave the fuses as they were (O56). -/


namespace Sys2Proof.Machine

section
variable (s : State)

/-! ### Shapes of a change -/

@[simp] theorem ite_fuses (c : Prop) [Decidable c] (a b : State) : (if c then a else b).fuses = if c then a.fuses else b.fuses :=
  apply_ite ..

/-- A fold whose steps leave the fuses leaves it. -/
@[simp] theorem foldl_fuses {β : Type} {f : State → β → State} (hf : ∀ s b, (f s b).fuses = s.fuses) (l : List β) (s : State) :
    (l.foldl f s).fuses = s.fuses :=
  foldl_keeps State.fuses f l (fun s b _ => hf s b) s

@[simp] theorem foldl_modS_fuses {β : Type} (i : State → β → Nat) (f : State → β → StackSt → StackSt) (l : List β) (s : State) :
    (l.foldl (fun s b => modS s (i s b) (f s b)) s).fuses = s.fuses :=
  foldl_fuses (fun s b => modS_fuses s (i s b) (f s b)) l s

@[simp] theorem foldl_modP_fuses {β : Type} (p : State → β → Nat) (f : State → β → PortSt → PortSt) (l : List β) (s : State) :
    (l.foldl (fun s b => modP s (p s b) (f s b)) s).fuses = s.fuses :=
  foldl_fuses (fun s b => modP_fuses s (p s b) (f s b)) l s

@[simp] theorem elim_fuses {α : Type} {f : α → State} (hf : ∀ a, (f a).fuses = s.fuses) (o : Option α) : (o.elim s f).fuses = s.fuses := by
  cases o <;> simp [hf]

/-! ### Registers -/

@[simp] theorem rset_fuses (f : RegField) (v : Nat) (i : Nat := 0) : (rset s f v i).fuses = s.fuses := by simp [rset]

/-! ### Host memory -/

@[simp] theorem translate_fuses (t addr n : Nat) (write : Bool) : (translate s t addr n write).fuses = s.fuses := by simp [translate]
@[simp] theorem readHost_fuses (t addr n : Nat) : (readHost s t addr n).fuses = s.fuses := by simp [readHost]
@[simp] theorem writeHost_fuses (t addr : Nat) (b : Bytes) : (writeHost s t addr b).fuses = s.fuses := by simp [writeHost]

/-! ### Lanyard ports -/

@[simp] theorem portRetrain_fuses (p : Nat) : (portRetrain s p).fuses = s.fuses := by simp [portRetrain]
@[simp] theorem violation_fuses (p : Nat) : (violation s p).fuses = s.fuses := by simp [violation]
@[simp] theorem putFrame_fuses (p kind flags sender seq : Nat) (payload : Bytes) :
    (putFrame s p kind flags sender seq payload).fuses = s.fuses := by
  simp [putFrame]
@[simp] theorem pumpOne_fuses (p : Nat) : (pumpOne s p).fuses = s.fuses := by
  unfold pumpOne
  dsimp only
  split <;> simp
@[simp] theorem pump_fuses (p : Nat) : (pump s p).fuses = s.fuses := by simp [pump]
@[simp] theorem queueFrame_fuses (p kind flags sender : Nat) (payload : Bytes) :
    (queueFrame s p kind flags sender payload).fuses = s.fuses := by
  simp [queueFrame]
@[simp] theorem flood_fuses (from_ kind sender : Nat) (payload : Bytes) : (flood s from_ kind sender payload).fuses = s.fuses := by
  simp [flood]
@[simp] theorem sendRequest_fuses (p kind epoch : Nat) (items : List Nat) : (sendRequest s p kind epoch items).fuses = s.fuses := by
  simp [sendRequest]
@[simp] theorem sendFetch_fuses (kind epoch : Nat) (items : List Nat) : (sendFetch s kind epoch items).fuses = s.fuses := by
  unfold sendFetch
  dsimp only
  split <;> simp
@[simp] theorem oweLink_fuses (p : Nat) : (oweLink s p).fuses = s.fuses := by simp [oweLink]
@[simp] theorem frameStaged_fuses (p seq u : Nat) : (frameStaged s p seq u).fuses = s.fuses := by simp [frameStaged]

/-! ### The journal and its records -/

@[simp] theorem noteWear_fuses (n : Nat) : (noteWear s n).fuses = s.fuses := by simp [noteWear]
@[simp] theorem appendRecord_fuses (r : JrnRecord) : (appendRecord s r).fuses = s.fuses := by simp [appendRecord]
@[simp] theorem closeSegment_fuses : (closeSegment s).fuses = s.fuses := by
  unfold closeSegment
  split <;> simp
@[simp] theorem newSegment_fuses : (newSegment s).fuses = s.fuses := by simp [newSegment]
@[simp] theorem raiseFull_fuses : (raiseFull s).fuses = s.fuses := by simp [raiseFull]
/-- A record that is written to flash leaves the fuses. -/
theorem writeFlash_fuses {s t : State} {r : JrnRecord} (h : writeFlash s r = some t) : t.fuses = s.fuses := by
  unfold writeFlash at h
  split_ifs at h <;> simp only [Option.some.injEq] at h <;> subst h <;> simp
@[simp] theorem modSplice_fuses (id : Nat) (f : SpliceRec → SpliceRec) : (modSplice s id f).fuses = s.fuses := by simp [modSplice]
@[simp] theorem learnBody_fuses (id : Nat) (body : Bytes) : (learnBody s id body).fuses = s.fuses := by simp [learnBody]
@[simp] theorem learnState_fuses (id st : Nat) : (learnState s id st).fuses = s.fuses := by simp [learnState]
@[simp] theorem recordDurable_fuses (from_ : Nat) (spread : Bool) (r : JrnRecord) :
    (recordDurable s from_ spread r).fuses = s.fuses := by
  unfold recordDurable
  split <;> simp
@[simp] theorem writeDurable_fuses (w : JrnWrite) : (writeDurable s w).fuses = s.fuses := by
  unfold writeDurable
  split <;> simp
@[simp] theorem acceptWrite_fuses (w : JrnWrite) : (acceptWrite s w).fuses = s.fuses := by simp [acceptWrite]
@[simp] theorem noteExhausted_fuses (n : Nat) : (noteExhausted s n).fuses = s.fuses := by simp [noteExhausted]
@[simp] theorem stage_fuses (w : JrnWrite) : (stage s w).fuses = s.fuses := by simp [stage]
@[simp] theorem stageOwn_fuses (recs : List JrnRecord) : (stageOwn s recs).fuses = s.fuses := by simp [stageOwn]
@[simp] theorem recallIds_fuses (ids : List Nat) : (recallIds s ids).fuses = s.fuses := by simp [recallIds]
@[simp] theorem recallExec_fuses (launch ex : Nat) : (recallExec s launch ex).fuses = s.fuses := by
  unfold recallExec
  split <;> simp

/-! ### Row cache and plane maps -/

@[simp] theorem resizeCaches_fuses : (resizeCaches s).fuses = s.fuses := by simp [resizeCaches]
@[simp] theorem cacheRead_fuses (launch hint use line : Nat) : (cacheRead s launch hint use line).fuses = s.fuses := by simp [cacheRead]
@[simp] theorem releaseLedger_fuses (launch : Nat) : (releaseLedger s launch).fuses = s.fuses := by simp [releaseLedger]

/-! ### Defects and degraded units -/

@[simp] theorem persistMap_fuses : (persistMap s).fuses = s.fuses := by simp [persistMap]

/-! ### Ending and running launches again -/

@[simp] theorem pushRecord_fuses (t : Nat) (r : Record) : (pushRecord s t r).fuses = s.fuses := by simp [pushRecord]
@[simp] theorem orphanSteps_fuses (launch ex : Nat) : (orphanSteps s launch ex).fuses = s.fuses := by simp [orphanSteps]
@[simp] theorem dropCtx_fuses (k launch ex : Nat) : (dropCtx s k launch ex).fuses = s.fuses := by simp [dropCtx]
@[simp] theorem dropAddends_fuses (launch ex : Nat) : (dropAddends s launch ex).fuses = s.fuses := by simp [dropAddends]
@[simp] theorem discardExec_fuses (launch ex : Nat) : (discardExec s launch ex).fuses = s.fuses := by
  unfold discardExec
  dsimp only
  repeat' split
  all_goals simp
@[simp] theorem discardAll_fuses (launch : Nat) : (discardAll s launch).fuses = s.fuses := by
  unfold discardAll
  split <;> simp
@[simp] theorem endLaunch_fuses (id status detail word : Nat) (cursor : Bytes) (k : Nat) :
    (endLaunch s id status detail word cursor k).fuses = s.fuses := by
  unfold endLaunch
  split <;> simp
@[simp] theorem event_fuses (kind index : Nat) : (event s kind index).1.fuses = s.fuses := by
  unfold event
  dsimp only
  split <;> rfl
@[simp] theorem skeinEvent_fuses (k : Nat) : (skeinEvent s k).fuses = s.fuses := by simp [skeinEvent]
@[simp] theorem moveUnstarted_fuses (k : Nat) : (moveUnstarted s k).fuses = s.fuses := by simp [moveUnstarted]
@[simp] theorem retireSkein_fuses (k : Nat) : (retireSkein s k).fuses = s.fuses := by simp [retireSkein]
@[simp] theorem addExec_fuses (launch : Nat) (r : Role) (p : Place) : (addExec s launch r p).fuses = s.fuses := by simp [addExec]
@[simp] theorem restartExec_fuses (away : Place) (launch ex : Nat) : (restartExec s away launch ex).fuses = s.fuses := by
  rcases exec_cases s launch ex with h | ⟨l, x, hl, hx⟩
  · rw [restartExec_none away h]
  cases hc : x.ckpts with
  | nil => rw [restartExec_replaces away hl hx hc, replaceExec, modL_fuses, addExec_fuses, discardExec_fuses, releaseLedger_fuses]
  | cons c cs => rw [restartExec_resumes away hl hx hc, resumeExec, modL_fuses, modX_fuses, dropAddends_fuses,
      orphanSteps_fuses, recallIds_fuses, releaseLedger_fuses]
@[simp] theorem clearSkein_fuses (away : Place) (k : Nat) : (clearSkein s away k).fuses = s.fuses := by simp [clearSkein]
@[simp] theorem failSkein_fuses (k : Nat) : (failSkein s k).fuses = s.fuses := by simp [failSkein]
@[simp] theorem resetSkein_fuses (k : Nat) : (resetSkein s k).fuses = s.fuses := by simp [resetSkein]
@[simp] theorem reexecLaunch_fuses (id : Nat) : (reexecLaunch s id).fuses = s.fuses := by
  unfold reexecLaunch
  split <;> simp
@[simp] theorem programFault_fuses (k launch ex cause word : Nat) : (programFault s k launch ex cause word).fuses = s.fuses := by
  unfold programFault
  split <;> simp

/-! ### Issue -/

@[simp] theorem unitStep_fuses (k : Nat) (f : Env → Core → Core) : (unitStep s k f).fuses = s.fuses := by
  unfold unitStep
  repeat' split
  all_goals simp
@[simp] theorem logWord_fuses (e : Env) (code a c : Nat) (core : Core) : (logWord s e code a c core).fuses = s.fuses := by
  simp [logWord]

/-! ### Table entries -/

@[simp] theorem modTable_fuses (h epoch : Nat) (f : Table → Table) : (modTable s h epoch f).fuses = s.fuses := by simp [modTable]
@[simp] theorem noteReader_fuses (launch : Nat) (lost : List Nat) : (noteReader s launch lost).fuses = s.fuses := by simp [noteReader]
@[simp] theorem noteLost_fuses (e : Env) (lost : List Nat) : (noteLost s e lost).fuses = s.fuses := by simp [noteLost]

/-! ### Table generations -/

@[simp] theorem markApplied_fuses (ids : List Nat) : (markApplied s ids).fuses = s.fuses := by simp [markApplied]
@[simp] theorem relearnRec_fuses (recs : List JrnRecord) (upTo : Nat) (r : JrnRecord) : (relearnRec recs upTo s r).fuses = s.fuses := by
  unfold relearnRec
  split <;> simp
@[simp] theorem relearn_fuses (upTo : Nat) : (relearn s upTo).fuses = s.fuses := by simp [relearn]

/-! ### Flash -/

@[simp] theorem writeBcb_fuses (b : Bcb) : (writeBcb s b).fuses = s.fuses := by simp [writeBcb]
@[simp] theorem writeStore_fuses : (writeStore s).fuses = s.fuses := by simp [writeStore]

/-! ### Streams and transfers -/

@[simp] theorem failTransfer_fuses (launch : Nat) (what : Transfer) : (failTransfer s launch what).fuses = s.fuses := by
  simp [failTransfer]
@[simp] theorem modConfig_fuses (fn : Nat) (f : FnConfig → FnConfig) : (modConfig s fn f).fuses = s.fuses := by simp [modConfig]
@[simp] theorem sendRequests_fuses (fn : Nat) : (sendRequests s fn).fuses = s.fuses := by
  unfold sendRequests
  split <;> simp
@[simp] theorem park_fuses (fn launch : Nat) (what : Transfer) (addr : Nat) : (park s fn launch what addr).fuses = s.fuses := by
  simp [park]

/-! ### Stream words -/

@[simp] theorem sendUnit_fuses (k n : Nat) (res : HostWrite) : (sendUnit s k n res).fuses = s.fuses := by
  unfold sendUnit
  dsimp only
  repeat' split
  all_goals simp

/-! ### Submission -/

@[simp] theorem modR_fuses (t r : Nat) (f : RingSt → RingSt) : (modR s t r f).fuses = s.fuses := by simp [modR]
@[simp] theorem rejectRecord_fuses (t r status detail seq : Nat) (tag : Nat) (irq : Bool) :
    (rejectRecord s t r status detail seq tag irq).fuses = s.fuses := by
  simp [rejectRecord]
@[simp] theorem consume_fuses (t r : Nat) : (consume s t r).fuses = s.fuses := by simp [consume]
@[simp] theorem consumeDropped_fuses (t r : Nat) : ∀ (n : Nat) (s : State), (consumeDropped t r n s).fuses = s.fuses
  | 0, _ => rfl
  | n + 1, s => by
    unfold consumeDropped
    dsimp only
    split <;> simp [consumeDropped_fuses t r n]
@[simp] theorem cancelRange_fuses (t r : Nat) : ∀ (n : Nat) (q : BitVec 32) (s : State), (cancelRange t r n q s).fuses = s.fuses
  | 0, _, _ => rfl
  | n + 1, q, s => by
    unfold cancelRange
    dsimp only
    rw [cancelRange_fuses t r n]
    split
    · simp
    · split <;> simp
@[simp] theorem pollTail_fuses (t r : Nat) (v : BitVec 32) : (pollTail s t r v).fuses = s.fuses := by simp [pollTail]
@[simp] theorem pollCancel_fuses (t r : Nat) (v : BitVec 32) : (pollCancel s t r v).fuses = s.fuses := by
  unfold pollCancel
  dsimp only
  split <;> simp
@[simp] theorem pollEntry_fuses (t : Nat) (b : Bytes) : (pollEntry s t b).fuses = s.fuses := by simp [pollEntry]
@[simp] theorem pollTenant_fuses (reads : List (Nat × Bytes)) (t : Nat) : (pollTenant reads s t).fuses = s.fuses := by
  unfold pollTenant
  dsimp only
  repeat' split
  all_goals simp
@[simp] theorem takeTurn_fuses (t r : Nat) : (takeTurn s t r).fuses = s.fuses := by simp [takeTurn]
@[simp] theorem rejectSlot_fuses (t r : Nat) (d : Bytes) (status detail : Nat) :
    (rejectSlot s t r d status detail).fuses = s.fuses := by
  simp [rejectSlot]
@[simp] theorem readBlocks_fuses (t : Nat) (d : Bytes) : (readBlocks s t d).fuses = s.fuses := by simp [readBlocks]
@[simp] theorem takeId_fuses : (takeId s).fuses = s.fuses := by simp [takeId]

/-! ### Launches and page requests -/

@[simp] theorem skipAudit_fuses (l : Launch) : (skipAudit s l).fuses = s.fuses := by simp [skipAudit]
@[simp] theorem startAudit_fuses (l : Launch) (k : Nat) : (startAudit s l k).fuses = s.fuses := by simp [startAudit]
@[simp] theorem dispatchTo_fuses (l : Launch) (ex : Nat) (x : Exec) (k : Nat) : (dispatchTo s l ex x k).fuses = s.fuses := by
  simp [dispatchTo]
@[simp] theorem dropRequest_fuses (r : PageReq) : (dropRequest s r).fuses = s.fuses := by simp [dropRequest]
@[simp] theorem parkAt_fuses (fn page : Nat) (inToo : Bool) : (parkAt s fn page inToo).fuses = s.fuses := by
  refine foldl_fuses (fun s l => ?_) ..
  split
  · rfl
  dsimp only
  rw [foldl_fuses]
  · simp
  · intro s p
    split
    · rfl
    split
    · rfl
    refine foldl_fuses (fun s q => ?_) ..
    split <;> simp

/-! ### Stack controllers -/

@[simp] theorem holdAccess_fuses (w : Waiter) (line : Nat) : (holdAccess w s line).fuses = s.fuses := by simp [holdAccess]
@[simp] theorem holdLines_fuses (w : Waiter) (l : List Nat) : (holdLines s w l).fuses = s.fuses := by simp [holdLines]
@[simp] theorem dropAccess_fuses (w : Waiter) : (dropAccess s w).fuses = s.fuses := by simp [dropAccess]
@[simp] theorem loseBurst_fuses (burst : Nat) : (loseBurst s burst).fuses = s.fuses := by simp [loseBurst]
@[simp] theorem memoryDegraded_fuses (st lpc : Nat) : (memoryDegraded s st lpc).fuses = s.fuses := by simp [memoryDegraded]
@[simp] theorem pcPermanent_fuses (st lpc : Nat) : (pcPermanent s st lpc).fuses = s.fuses := by
  unfold pcPermanent
  split <;> simp
@[simp] theorem memoryEvent_fuses (st lpc : Nat) : (memoryEvent s st lpc).fuses = s.fuses := by
  unfold memoryEvent
  dsimp only
  split <;> simp
@[simp] theorem correctedError_fuses (st lpc burst : Nat) : (correctedError s st lpc burst).fuses = s.fuses := by simp [correctedError]
@[simp] theorem bcuEvent_fuses (st lpc phys bank : Nat) : (bcuEvent s st lpc phys bank).fuses = s.fuses := by
  unfold bcuEvent
  dsimp only
  split <;> simp

/-! ### Near-bank words -/

@[simp] theorem modEntry_fuses (o : StepOwner) (f : NbEntry → NbEntry) : (modEntry s o f).fuses = s.fuses := by
  unfold modEntry
  split <;> simp
@[simp] theorem modStep_fuses (i lpc bank : Nat) (f : NbStep → NbStep) : (modStep s i lpc bank f).fuses = s.fuses := by simp [modStep]
@[simp] theorem toPolled_fuses (i lpc : Nat) : (toPolled s i lpc).fuses = s.fuses := by simp [toPolled]

/-! ### Table words -/

@[simp] theorem applyAddend_fuses (a : Addend) : (applyAddend s a).fuses = s.fuses := by simp [applyAddend]
@[simp] theorem settleTally_fuses (launch ex : Nat) : (settleTally s launch ex).fuses = s.fuses := by simp [settleTally]

/-! ### The first steps of a retaining reset -/

@[simp] theorem startRetaining_fuses (hung cause : Nat) : (startRetaining s hung cause).fuses = s.fuses := by simp [startRetaining]
@[simp] theorem logHang_fuses (l : Launch) : (logHang s l).fuses = s.fuses := by
  unfold logHang
  dsimp only
  split <;> simp

/-! ### Skein and section events -/

@[simp] theorem clearResults_fuses (n : Nat) : (clearResults s n).fuses = s.fuses := by simp [clearResults]
@[simp] theorem resetSection_fuses (n : Nat) : (resetSection s n).fuses = s.fuses := by
  unfold resetSection
  dsimp only
  split <;> simp
@[simp] theorem settleRoutes_fuses (link : Nat) : (settleRoutes s link).fuses = s.fuses := by simp [settleRoutes]
@[simp] theorem linkEvent_fuses (link : Nat) : (linkEvent s link).fuses = s.fuses := by simp [linkEvent]
@[simp] theorem rerun_fuses (launch ex : Nat) (x : Exec) : (rerun s launch ex x).fuses = s.fuses := by simp [rerun]
@[simp] theorem failTransaction_fuses (launch ex : Nat) : (failTransaction s launch ex).fuses = s.fuses := by
  unfold failTransaction
  repeat' split
  all_goals simp

/-! ### Output integrity -/

@[simp] theorem chooseExec_fuses (l : Launch) (p : Exec × Nat) (audited : Bool) : (chooseExec s l p audited).fuses = s.fuses := by
  simp [chooseExec]
@[simp] theorem silentError_fuses (l : Launch) (execs : List (Exec × Nat)) : (silentError s l execs).fuses = s.fuses := by
  simp [silentError]
@[simp] theorem decideOne_fuses (l : Launch) (p : Exec × Nat) : (decideOne s l p).fuses = s.fuses := by simp [decideOne]
@[simp] theorem decideTwo_fuses (l : Launch) (p q : Exec × Nat) : (decideTwo s l p q).fuses = s.fuses := by simp [decideTwo]
@[simp] theorem decideMore_fuses (l : Launch) (c : List (Exec × Nat)) : (decideMore s l c).fuses = s.fuses := by
  unfold decideMore
  dsimp only
  split <;> simp
@[simp] theorem decideLaunch_fuses (l : Launch) : (decideLaunch s l).fuses = s.fuses := by
  unfold decideLaunch
  repeat' split
  all_goals simp

/-! ### Strands -/

@[simp] theorem issueStrand_fuses (k i : Nat) (legal : Bool) (f : StrEnv → Core → StrandSt → Eff (Core × StrandSt)) :
    (issueStrand s k i legal f).fuses = s.fuses := by
  unfold issueStrand
  dsimp only
  repeat' split
  all_goals simp
@[simp] theorem issueLane_fuses (k i : Nat) (legal : Bool) (f : StrandSt → StrandSt) : (issueLane s k i legal f).fuses = s.fuses := by
  simp [issueLane]

/-! ### Accord staging -/

@[simp] theorem refuseStage_fuses (code id b state : Nat) : (refuseStage s code id b state).fuses = s.fuses := by simp [refuseStage]

/-! ### The replication group -/

@[simp] theorem enterGroup_fuses : (enterGroup s).fuses = s.fuses := by simp [enterGroup]
@[simp] theorem resumeGroup_fuses : (resumeGroup s).fuses = s.fuses := by simp [resumeGroup]
@[simp] theorem fallBehind_fuses (epoch : Nat) : (fallBehind s epoch).fuses = s.fuses := by simp [fallBehind]
@[simp] theorem chainMismatch_fuses (epoch : Nat) : (chainMismatch s epoch).fuses = s.fuses := by simp [chainMismatch]
@[simp] theorem rejoin_fuses : (rejoin s).fuses = s.fuses := by simp [rejoin]
@[simp] theorem fetchBodies_fuses (ids : List Nat) : (fetchBodies s ids).fuses = s.fuses := by simp [fetchBodies]
@[simp] theorem fetchManifest_fuses (epoch : Nat) : (fetchManifest s epoch).fuses = s.fuses := by simp [fetchManifest]
@[simp] theorem startBoundary_fuses (m : Bytes) : (startBoundary s m).fuses = s.fuses := by simp [startBoundary]
@[simp] theorem beginBoundary_fuses (m : Bytes) : (beginBoundary s m).fuses = s.fuses := by simp [beginBoundary]
@[simp] theorem maybeBegin_fuses : (maybeBegin s).fuses = s.fuses := by
  unfold maybeBegin
  split <;> simp
@[simp] theorem tryConfirm_fuses : (tryConfirm s).fuses = s.fuses := by simp [tryConfirm]
@[simp] theorem issueManifest_fuses (m : Bytes) : (issueManifest s m).fuses = s.fuses := by simp [issueManifest]
@[simp] theorem acknowledge_fuses (m : Bytes) : (acknowledge s m).fuses = s.fuses := by simp [acknowledge]
@[simp] theorem catchUp_fuses : (catchUp s).fuses = s.fuses := by simp [catchUp]
@[simp] theorem acceptTerm_fuses (term anchor : Nat) : (acceptTerm s term anchor).fuses = s.fuses := by simp [acceptTerm]
@[simp] theorem takeOld_fuses (m : Bytes) : (takeOld s m).fuses = s.fuses := by
  unfold takeOld
  split <;> simp
@[simp] theorem reissueNow_fuses (m : Bytes) : (reissueNow s m).fuses = s.fuses := by simp [reissueNow]
@[simp] theorem holdManifest_fuses (m : Bytes) : (holdManifest s m).fuses = s.fuses := by simp [holdManifest]
@[simp] theorem takeManifest_fuses (m : Bytes) (fetched : Bool) : (takeManifest s m fetched).fuses = s.fuses := by simp [takeManifest]
@[simp] theorem putReport_fuses (m : Nat) (b : Bytes) : (putReport s m b).fuses = s.fuses := by simp [putReport]
@[simp] theorem checkHead_fuses : (checkHead s).fuses = s.fuses := by
  unfold checkHead
  repeat' split
  all_goals simp
@[simp] theorem putVote_fuses (b : Bytes) : (putVote s b).fuses = s.fuses := by simp [putVote]
@[simp] theorem tryReissue_fuses : (tryReissue s).fuses = s.fuses := by
  unfold tryReissue
  repeat' split
  all_goals simp
@[simp] theorem tryElect_fuses (term : Nat) : (tryElect s term).fuses = s.fuses := by simp [tryElect]
@[simp] theorem tableInvalid_fuses (h : Nat) : (tableInvalid s h).fuses = s.fuses := by simp [tableInvalid]

/-! ### Table registration -/

@[simp] theorem modStanding_fuses (h : Nat) (f : Table → Table) : (modStanding s h f).fuses = s.fuses := by simp [modStanding]
@[simp] theorem touch_fuses (h r : Nat) : (touch s h r).fuses = s.fuses := by simp [touch]
@[simp] theorem applySeq_fuses (t : Table) (b : Bytes) : (applySeq s t b).fuses = s.fuses := by simp [applySeq]

/-! ### Epoch boundaries -/

@[simp] theorem sequence_fuses (q : Queued) (rest : List Queued) : (sequence s q rest).fuses = s.fuses := by simp [sequence]
@[simp] theorem askBodies_fuses (b : Boundary) : (askBodies s b).fuses = s.fuses := by simp [askBodies]
@[simp] theorem commitIfDone_fuses : (commitIfDone s).fuses = s.fuses := by
  unfold commitIfDone
  split <;> simp
@[simp] theorem settleTable_fuses (id code : Nat) : (settleTable s id code).fuses = s.fuses := by simp [settleTable]
@[simp] theorem nextPosition_fuses (id : Nat) (refused : Bool) : (nextPosition s id refused).fuses = s.fuses := by simp [nextPosition]
@[simp] theorem leavePorts_fuses : (leavePorts s).fuses = s.fuses := by simp [leavePorts]
@[simp] theorem rotate_fuses (a : Accord) : (rotate s a).fuses = s.fuses := by simp [rotate]
@[simp] theorem refuseSwap_fuses (id : Nat) : (refuseSwap s id).fuses = s.fuses := by simp [refuseSwap]
@[simp] theorem doSwap_fuses (b : Boundary) : (doSwap s b).fuses = s.fuses := by
  unfold doSwap
  split <;> simp
@[simp] theorem relabel_fuses (k : Nat) : (relabel s k).fuses = s.fuses := by simp [relabel]
@[simp] theorem stepEight_fuses (b : Boundary) : (stepEight s b).fuses = s.fuses := by simp [stepEight]
@[simp] theorem askResync_fuses : (askResync s).fuses = s.fuses := by simp [askResync]
@[simp] theorem cutOver_fuses (b : Boundary) (head : Bytes) : (cutOver s b head).fuses = s.fuses := by simp [cutOver]
@[simp] theorem closeBoundary_fuses : (closeBoundary s).fuses = s.fuses := by
  unfold closeBoundary
  split <;> simp
@[simp] theorem queueTable_fuses (body : Bytes) : (queueTable s body).fuses = s.fuses := by simp [queueTable]

/-! ### Completion -/

@[simp] theorem writeOutputs_fuses (l : Launch) (x : Exec) (from_ upTo : Nat × Nat) :
    (writeOutputs s l x from_ upTo).fuses = s.fuses := by
  simp [writeOutputs]
@[simp] theorem numberSplices_fuses (launch ex : Nat) : (numberSplices s launch ex).fuses = s.fuses := by
  unfold numberSplices
  split <;> simp
@[simp] theorem stageOutcome_fuses (launch : Nat) : (stageOutcome s launch).fuses = s.fuses := by
  unfold stageOutcome
  dsimp only
  repeat' split
  all_goals simp
@[simp] theorem putRecord_fuses (t status bits launch : Nat) (body : Bytes) (irq alert written : Bool) :
    (putRecord s t status bits launch body irq alert written).fuses = s.fuses := by
  obtain ⟨s1, h1, f, g, h⟩ : ∃ s1 : State, s1.fuses = s.fuses ∧ ∃ f g, putRecord s t status bits launch body irq alert written =
      if alert then msix { modT s1 t f with launches := g } t 1 else { modT s1 t f with launches := g } := by
    refine ⟨if written then _ else _, ?_, _, _, rfl⟩
    split
    · rw [countEvent_fuses, emit_fuses, translate_fuses]
    · rw [logErr_fuses, translate_fuses]
  rw [h]
  split <;> simp [h1]
@[simp] theorem writeNext_fuses (t : Nat) (written : Bool) : (writeNext s t written).fuses = s.fuses := by
  unfold writeNext
  dsimp only
  repeat' split
  all_goals simp
@[simp] theorem resetPage_fuses (t : Nat) : (resetPage s t).fuses = s.fuses := by simp [resetPage]
@[simp] theorem dropTenant_fuses (t : Nat) : (dropTenant s t).fuses = s.fuses := by simp [dropTenant]
@[simp] theorem settleReset_fuses (t : Nat) : (settleReset s t).fuses = s.fuses := by simp [settleReset]
@[simp] theorem drainTenant_fuses (write : Bool) (t : Nat) : (drainTenant write s t).fuses = s.fuses := by simp [drainTenant]

/-! ### Memory events -/

@[simp] theorem poolLoss_fuses (burst : Nat) : (poolLoss s burst).fuses = s.fuses := by
  unfold poolLoss
  dsimp only
  split <;> simp
@[simp] theorem burstLost_fuses (burst : Nat) : (burstLost s burst).fuses = s.fuses := by simp [burstLost]
@[simp] theorem tableLost_fuses (t : Table) (line : Nat) : (tableLost s t line).fuses = s.fuses := by simp [tableLost]
@[simp] theorem rebuildSubjects_fuses (v : Versions) (t : Table) (bit : Nat → Nat) (rs : List Nat) :
    (rebuildSubjects s v t bit rs).fuses = s.fuses := by
  simp [rebuildSubjects]
@[simp] theorem lineFound_fuses (line : Nat) : (lineFound s line).fuses = s.fuses := by simp [lineFound]
@[simp] theorem walkRebuild_fuses (i : Nat) : (walkRebuild s i).fuses = s.fuses := by
  unfold walkRebuild
  split <;> simp

/-! ### Rebuilds -/

@[simp] theorem settleOwed_fuses (a : Accord) : (settleOwed s a).fuses = s.fuses := by simp [settleOwed]
@[simp] theorem enterService_fuses : (enterService s).fuses = s.fuses := by simp [enterService]
@[simp] theorem endRebuild_fuses : (endRebuild s).fuses = s.fuses := by simp [endRebuild]
@[simp] theorem resumeBoundary_fuses : (resumeBoundary s).fuses = s.fuses := by
  unfold resumeBoundary
  dsimp only
  split <;> simp
@[simp] theorem rebuilt_fuses : (rebuilt s).fuses = s.fuses := by simp [rebuilt]
@[simp] theorem endResync_fuses : (endResync s).fuses = s.fuses := by simp [endResync]

/-! ### Journal upkeep -/

@[simp] theorem endFull_fuses : (endFull s).fuses = s.fuses := by simp [endFull]
@[simp] theorem reclaim_fuses : (reclaim s).fuses = s.fuses := by simp [reclaim]
@[simp] theorem noteFull_fuses (l : List JrnRecord) : (noteFull l s).fuses = s.fuses := by
  unfold noteFull
  split <;> simp
@[simp] theorem checkSegment_fuses (g : Segment) : (checkSegment s g).fuses = s.fuses := by simp [checkSegment]
@[simp] theorem readDrydown_fuses : (readDrydown s).fuses = s.fuses := by simp [readDrydown]
@[simp] theorem placeImage_fuses (epoch : Nat) (head : Bytes) (tables : List ArenaTable) (carried : List (Nat × Nat × Bytes)) :
    (placeImage s epoch head tables carried).fuses = s.fuses := by
  have h := congrFun (congrFun (congrFun (congrFun (congrFun placeImage_def s) epoch) head) tables) carried
  beta_reduce at h
  obtain ⟨base, hbase⟩ : ∃ f, f = freeBase := ⟨_, rfl⟩
  rw [← hbase] at h
  dsimp only at h
  rw [h]
  split <;> simp
@[simp] theorem setExport_fuses (state done : Nat) : (setExport s state done).fuses = s.fuses := by simp [setExport]
@[simp] theorem sealNamed_fuses (image : Bool) (sel : Nat) : (sealNamed s image sel).fuses = s.fuses := by simp [sealNamed]
@[simp] theorem failArena_fuses (reason : Nat) : (failArena s reason).fuses = s.fuses := by simp [failArena]
@[simp] theorem loadArena_fuses (req touch parts : Bytes) : (loadArena s req touch parts).fuses = s.fuses := by
  unfold loadArena
  dsimp only
  repeat' split
  all_goals simp

/-! ### Lanyard frames -/

@[simp] theorem retrainPort_fuses (p : Nat) : (retrainPort s p).fuses = s.fuses := by
  unfold retrainPort
  split <;> simp
@[simp] theorem linkError_fuses (p : Nat) : (linkError s p).fuses = s.fuses := by simp [linkError]
@[simp] theorem frameDone_fuses (r : Rcv) : (frameDone s r).fuses = s.fuses := by simp [frameDone]
@[simp] theorem malformed_fuses (r : Rcv) : (malformed s r).fuses = s.fuses := by simp [malformed]
@[simp] theorem takeChunk_fuses (epoch term count index : Nat) (b : Bytes) (fetched : Bool) :
    (takeChunk s epoch term count index b fetched).fuses = s.fuses := by
  simp [takeChunk]
@[simp] theorem holdConfirm_fuses (b : Bytes) : (holdConfirm s b).fuses = s.fuses := by simp [holdConfirm]
@[simp] theorem serveBodies_fuses (r : Rcv) (epoch : Nat) (ids : List Nat) : (serveBodies s r epoch ids).fuses = s.fuses := by
  unfold serveBodies
  split
  · split
    · rfl
    · simp
  · exact foldl_fuses (fun s id => by split <;> simp) ..

/-! ### Persistent records -/

@[simp] theorem writePersist_fuses (clean cause : Nat) : (writePersist s clean cause).fuses = s.fuses := by simp [writePersist]
@[simp] theorem confirmClean_fuses (clean : Nat) : (confirmClean clean s).fuses = s.fuses := by simp [confirmClean]
@[simp] theorem settlePersist_fuses : (settlePersist s).fuses = s.fuses := by simp [settlePersist]

/-! ### Boot -/

@[simp] theorem enterRecovery_fuses : (enterRecovery s).fuses = s.fuses := by simp [enterRecovery]
@[simp] theorem loadFirmware_fuses : (loadFirmware s).fuses = s.fuses := by simp [loadFirmware]
@[simp] theorem trainStack_fuses (find : BootFind) (fenced : NSet) (i : Nat) : (trainStack find fenced s i).fuses = s.fuses := by
  simp [trainStack]
@[simp] theorem retrainStack_fuses (find : BootFind) (i : Nat) : (retrainStack find s i).fuses = s.fuses := by simp [retrainStack]
@[simp] theorem loadBudget_fuses : (loadBudget s).fuses = s.fuses := by simp [loadBudget]
@[simp] theorem readClass_fuses (find : BootFind) : (readClass find s).fuses = s.fuses := by simp [readClass]
@[simp] theorem selfTest_fuses (find : BootFind) : (selfTest find s).fuses = s.fuses := by simp [selfTest]
@[simp] theorem loadMaps_fuses : (loadMaps s).fuses = s.fuses := by simp [loadMaps]
@[simp] theorem mapRoutes_fuses : (mapRoutes s).fuses = s.fuses := by simp [mapRoutes]
@[simp] theorem keepNumber_fuses (n : Nat) : (keepNumber s n).fuses = s.fuses := by simp [keepNumber]
@[simp] theorem loadSkeins_fuses : (loadSkeins s).fuses = s.fuses := by simp [loadSkeins]
@[simp] theorem loadPorts_fuses : (loadPorts s).fuses = s.fuses := by simp [loadPorts]
@[simp] theorem mapPhase_fuses (find : BootFind) : (mapPhase find s).fuses = s.fuses := by simp [mapPhase]
@[simp] theorem remapPhase_fuses (find : BootFind) : (remapPhase find s).fuses = s.fuses := by simp [remapPhase]
@[simp] theorem returnToGroup_fuses : (returnToGroup s).fuses = s.fuses := by simp [returnToGroup]
@[simp] theorem joinGroup_fuses : (joinGroup s).fuses = s.fuses := by simp [joinGroup]
@[simp] theorem numberIds_fuses : (numberIds s).fuses = s.fuses := by simp [numberIds]
@[simp] theorem loadSequencer_fuses : (loadSequencer s).fuses = s.fuses := by
  unfold loadSequencer
  split <;> simp
@[simp] theorem undoApply_fuses : (undoApply s).fuses = s.fuses := by simp [undoApply]
@[simp] theorem enterHold_fuses (schema : Nat) : (enterHold s schema).fuses = s.fuses := by simp [enterHold]
@[simp] theorem standingConds_fuses : (standingConds s).fuses = s.fuses := by simp [standingConds]
@[simp] theorem becomeReady_fuses : (becomeReady s).fuses = s.fuses := by simp [becomeReady]
@[simp] theorem recallKnown_fuses : (recallKnown s).fuses = s.fuses := by simp [recallKnown]
@[simp] theorem findModref_fuses (find : BootFind) : (findModref find s).fuses = s.fuses := by simp [findModref]

/-! ### What a reset clears -/

@[simp] theorem flushStaged_fuses : (flushStaged s).fuses = s.fuses := by
  refine (foldl_fuses (fun s r => ?_) ..).trans rfl
  split
  · exact writeFlash_fuses ‹_›
  · rfl
@[simp] theorem dropOutcomes_fuses : (dropOutcomes s).fuses = s.fuses := by simp [dropOutcomes]
@[simp] theorem recallRest_fuses : (recallRest s).fuses = s.fuses := foldl_fuses (fun s l => by split <;> simp) ..
@[simp] theorem drainAll_fuses (flr : Bool) : (drainAll flr s).fuses = s.fuses := by simp [drainAll]
@[simp] theorem endSteps_fuses : (endSteps s).fuses = s.fuses := by simp [endSteps]
@[simp] theorem keepRegs_fuses : (keepRegs s).fuses = s.fuses := by simp [keepRegs]
@[simp] theorem resetUnits_fuses (pcie flr : Bool) (cause level : Nat) : (resetUnits pcie flr cause level s).fuses = s.fuses := by
  simp [resetUnits]
@[simp] theorem endTenant_fuses (t : Nat) : (endTenant s t).fuses = s.fuses := by simp [endTenant]
@[simp] theorem tenantReset_fuses (t : Nat) : (tenantReset s t).fuses = s.fuses := by simp [tenantReset]

/-! ### Clocks -/

@[simp] theorem stepBy_fuses (ns : Int) : (stepBy s ns).fuses = s.fuses := by simp [stepBy]
@[simp] theorem correct_fuses (ns : Int) : (correct s ns).fuses = s.fuses := by simp [correct]
@[simp] theorem setQuality_fuses (q : BitVec 2) : (setQuality s q).fuses = s.fuses := by simp [setQuality]
@[simp] theorem lock_fuses : (lock s).fuses = s.fuses := by simp [lock]
@[simp] theorem loseLock_fuses : (loseLock s).fuses = s.fuses := by simp [loseLock]
@[simp] theorem setSource_fuses (v : Nat) : (setSource s v).fuses = s.fuses := by simp [setSource]
@[simp] theorem ppsEdge_fuses (e : Nat) : (ppsEdge s e).fuses = s.fuses := by
  unfold ppsEdge
  split <;> simp
@[simp] theorem timeSet_fuses (ns : BitVec 64) : (timeSet s ns).fuses = s.fuses := by
  unfold timeSet
  split <;> simp
@[simp] theorem holdDown_fuses (p : Nat) : (holdDown s p).fuses = s.fuses := by simp [holdDown]

/-! ### Scoped resets -/

@[simp] theorem reservedTarget_fuses (level : Nat) (target : BitVec 8) : (reservedTarget s level target).fuses = s.fuses := by
  simp [reservedTarget]
@[simp] theorem rstSkein_fuses (target : BitVec 8) : (rstSkein s target).fuses = s.fuses := by simp [rstSkein]
@[simp] theorem rstSection_fuses (target : BitVec 8) : (rstSection s target).fuses = s.fuses := by simp [rstSection]
@[simp] theorem rstTenant_fuses (target : BitVec 8) : (rstTenant s target).fuses = s.fuses := by simp [rstTenant]

/-! ### Firmware -/

@[simp] theorem priControl_fuses (fn : Nat) (on reset : Bool) (alloc : Nat) : (priControl s fn on reset alloc).fuses = s.fuses := by
  simp [priControl]
@[simp] theorem setPending_fuses (p : Bool) : (setPending s p).fuses = s.fuses := by simp [setPending]
@[simp] theorem fwActivate_fuses : (fwActivate s).fuses = s.fuses := by simp [fwActivate]
@[simp] theorem writeSlot_fuses (slot : Nat) (b : Bytes) : (writeSlot s slot b).fuses = s.fuses := by simp [writeSlot]
@[simp] theorem fwStart_fuses : (fwStart s).fuses = s.fuses := by simp [fwStart]
@[simp] theorem refuseHold_fuses (id : Nat) : (refuseHold s id).fuses = s.fuses := by simp [refuseHold]
@[simp] theorem confirm_fuses : (confirm s).fuses = s.fuses := by simp [confirm]
@[simp] theorem rebuild_fuses : (rebuild s).fuses = s.fuses := by simp [rebuild]

/-! ### Media -/

@[simp] theorem modMedia_fuses (k : Nat) (f : Media → Media) : (modMedia s k f).fuses = s.fuses := by simp [modMedia]

/-! ### Power -/

@[simp] theorem recallUnstaged_fuses : (recallUnstaged s).fuses = s.fuses := foldl_fuses (fun s l => by split <;> simp) ..
@[simp] theorem takeWarning_fuses : (takeWarning s).fuses = s.fuses := by simp [takeWarning]
@[simp] theorem writeStagedRecords_fuses (t : Nat) : (writeStagedRecords s t).fuses = s.fuses := by simp [writeStagedRecords]
@[simp] theorem flushSequence_fuses : (flushSequence s).fuses = s.fuses := by
  simp only [flushSequence, closeSegment_fuses]
  cases h : writeFlash (flushStaged s) _ with
  | none => simp
  | some t => simp [writeFlash_fuses h]
@[simp] theorem report_fuses (mj : Nat) : (report s mj).fuses = s.fuses := by simp [report]
@[simp] theorem readSensor_fuses (sensor : Sensor) (c : Int) : (readSensor s sensor c).fuses = s.fuses := by
  unfold readSensor
  split <;> simp
@[simp] theorem setDerates_fuses (d : NSet) : (setDerates s d).fuses = s.fuses := by simp [setDerates]
@[simp] theorem startDerates_fuses (sensor : Sensor) (c : Int) : (startDerates s sensor c).fuses = s.fuses := by simp [startDerates]

/-! ### Register reads -/

@[simp] theorem latch_fuses (off : Nat) : (latch s off).fuses = s.fuses := by
  unfold latch
  split <;> simp
@[simp] theorem bar0Read_fuses (fn off size : Nat) : (bar0Read s fn off size).fuses = s.fuses := by
  unfold bar0Read
  split <;> simp

/-! ### Register writes -/

@[simp] theorem enableRing_fuses (t r : Nat) : (enableRing s t r).fuses = s.fuses := by simp [enableRing]
@[simp] theorem disableRing_fuses (t r : Nat) : (disableRing s t r).fuses = s.fuses := by simp [disableRing]
@[simp] theorem enableCq_fuses (t : Nat) : (enableCq s t).fuses = s.fuses := by simp [enableCq]
@[simp] theorem disableCq_fuses (t : Nat) : (disableCq s t).fuses = s.fuses := by simp [disableCq]
@[simp] theorem setLock_fuses : (setLock s).fuses = s.fuses := by
  have h := congrFun setLock_def s
  beta_reduce at h
  obtain ⟨overlap, ho⟩ : ∃ f, f = setupOverlap := ⟨_, rfl⟩
  rw [← ho] at h
  rw [h]
  split <;> simp
@[simp] theorem disableField_fuses (w : RegWrite) (x : RegField × Nat) : (disableField w s x).fuses = s.fuses := by
  unfold disableField
  repeat' split
  all_goals simp
@[simp] theorem noteWrite_fuses (w : RegWrite) (n : WriteNote) : (noteWrite w s n).fuses = s.fuses := by
  unfold noteWrite
  dsimp only
  split <;> simp
@[simp] theorem windowRange_fuses (fn off : Nat) : (windowRange s fn off).fuses = s.fuses := by simp [windowRange]

/-! ### The idle step -/

@[simp] theorem runCounters_fuses : (runCounters s).fuses = s.fuses := by simp [runCounters]
@[simp] theorem tick_fuses : (tick s).fuses = s.fuses := by simp [tick]
end

end Sys2Proof.Machine
end

section
/-! SUPPORT. Operations that write device memory, and every word and command but COMMIT-SVN, leave the fuses as they were (O56). -/

namespace Sys2Proof.Machine

section
variable (s : State)

/-! ### Lines flushed and read, near-bank steps -/

@[simp] theorem flushEntry_fuses (w : WcEntry) : (flushEntry s w).fuses = s.fuses :=
  foldl_fuses (fun s b => by dsimp only; repeat' split
                             all_goals simp) ..
@[simp] theorem flushWhere_fuses (i : Nat) (p : WcEntry → Bool) : (flushWhere s i p).fuses = s.fuses := by simp [flushWhere]
@[simp] theorem flushLine_fuses (line : Nat) : (flushLine s line).fuses = s.fuses := by simp [flushLine]
@[simp] theorem flushAll_fuses : (flushAll s).fuses = s.fuses := by simp [flushAll]
@[simp] theorem wcWrite_fuses (fn line off : Nat) (b : Bytes) : (wcWrite s fn line off b).fuses = s.fuses := by
  unfold wcWrite
  dsimp only
  repeat' split
  all_goals simp
@[simp] theorem hostRead_fuses (fn : Nat) (addrs : List Nat) : (hostRead s fn addrs).fuses = s.fuses := by
  simp [hostRead, bar2Bytes]
@[simp] theorem serveEntry_fuses (o : StepOwner) : (serveEntry s o).fuses = s.fuses := by
  unfold serveEntry
  split <;> simp
@[simp] theorem takeEntry_fuses (o : StepOwner) : (takeEntry s o).fuses = s.fuses := by
  unfold takeEntry
  split <;> simp
@[simp] theorem serveAccess_fuses (w : Waiter) : (serveAccess s w).fuses = s.fuses := by
  unfold serveAccess
  split <;> simp
@[simp] theorem stepIssue_fuses (i k word entry : Nat) : (stepIssue s i k word entry).fuses = s.fuses := by
  unfold stepIssue
  dsimp only
  repeat' split
  all_goals simp
@[simp] theorem freeBank_fuses (i lpc bank : Nat) : (freeBank s i lpc bank).fuses = s.fuses := by simp [freeBank]
@[simp] theorem stepEffect_fuses (i : Nat) (x : NbStep) (res : StepEnd) : (stepEffect s i x res).fuses = s.fuses := by
  unfold stepEffect
  split <;> simp
@[simp] theorem stepEnd_fuses (i : Nat) (x : NbStep) (res : StepEnd) : (stepEnd s i x res).fuses = s.fuses := by simp [stepEnd]

/-! ### Splices (Table Tables-5) -/

@[simp] theorem flushTable_fuses (d : Bytes) : (flushTable s d).fuses = s.fuses := by simp [flushTable]
@[simp] theorem zeroRange_fuses (a n : Nat) : (zeroRange s a n).fuses = s.fuses := rfl
@[simp] theorem writeClear_fuses (a : Nat) (b : Bytes) : (writeClear s a b).fuses = s.fuses := rfl
@[simp] theorem foldl_writeClear_fuses {β : Type} (a : β → Nat) (b : β → Bytes) (l : List β) (s : State) :
    (l.foldl (fun s x => writeClear s (a x) (b x)) s).fuses = s.fuses :=
  foldl_fuses (fun s x => writeClear_fuses s (a x) (b x)) l s
@[simp] theorem foldl_memWrite_fuses {β : Type} (a : β → Nat) (b : β → Bytes) (l : List β) (s : State) :
    (l.foldl (fun s x => memWrite s (a x) (b x)) s).fuses = s.fuses :=
  foldl_fuses (fun s x => memWrite_fuses s (a x) (b x)) l s
@[simp] theorem applyRow_fuses (t : Table) (b : Bytes) : (applyRow s t b).fuses = s.fuses := by simp [applyRow]
@[simp] theorem applyCell_fuses (t : Table) (r : Nat) (v : Val) : (applyCell s t r v).fuses = s.fuses := by simp [applyCell]
@[simp] theorem applyTally_fuses (i : Nat) (b : Bytes) : (applyTally s i b).fuses = s.fuses :=
  foldl_fuses (fun s j => by split <;> simp) ..

theorem registrationImage_fuses {t : State} {epoch : Nat} {head d : Bytes} (h : registrationImage s epoch head d = some t) :
    t.fuses = s.fuses := by
  obtain ⟨_, _, rfl⟩ := Option.map_eq_some_iff.1 h
  rw [stageOwn_fuses, noteWear_fuses]

/-- Every state that applying a splice leaves has the fuses of state s. -/
def Applied.SameFuses (s : State) (a : Applied) : Prop := a.Leaves (fun t => t.fuses = s.fuses)

theorem registrationImage_sameFuses (epoch : Nat) (head d : Bytes) :
    ((registrationImage s epoch head d).elim Applied.waits Applied.done).SameFuses s := by
  cases hr : registrationImage s epoch head d with
  | none => trivial
  | some t => exact registrationImage_fuses s hr

theorem applyRegister_sameFuses (epoch : Nat) (head b : Bytes) : (applyRegister s epoch head b).SameFuses s := by
  unfold applyRegister
  extract_lets d digest s1 t s2 t' s2'
  have flushed : s1.fuses = s.fuses := flushTable_fuses s d
  clear_value s1
  unfold Applied.SameFuses
  rw [← flushed]
  split
  · exact (tableInvalid_fuses ..).trans flushed.symm
  split
  · exact registrationImage_sameFuses { s2 with tables := s2.tables ++ [t] } epoch head d
  split
  · exact (stopAdmit_fuses _ stopTable).trans (tableInvalid_fuses ..)
  · exact tableInvalid_fuses ..

theorem applyData_sameFuses (b : Bytes) : (applyData s b).SameFuses s := by
  unfold applyData Applied.SameFuses
  split
  · exact rfl
  split
  · exact rfl
  split
  · simp [Applied.Leaves]
  split
  · trivial
  split
  · exact applyTally_fuses ..
  · dsimp only
    split <;> simp [Applied.Leaves]
  · exact applyRow_fuses ..

@[simp] theorem flushTouched_fuses (b : Bytes) : (flushTouched s b).fuses = s.fuses := by
  unfold flushTouched
  split <;> simp
@[simp] theorem flipPlane_fuses (d : Bytes) (r : Nat) : (flipPlane s d r).fuses = s.fuses := memWrite_fuses ..
@[simp] theorem fold_fuses : (fold s).fuses = s.fuses := by simp [fold]

theorem applyOne_sameFuses (b : Boundary) (body : Bytes) : (applyOne s b body).SameFuses s := by
  unfold applyOne
  split
  · exact applyRegister_sameFuses ..
  · unfold applyRetire Applied.SameFuses
    split <;> exact rfl
  · exact applyData_sameFuses ..

@[simp] theorem applyNext_fuses : (applyNext s).fuses = s.fuses := by
  unfold applyNext
  split
  · rfl
  rename_i b _
  split
  · split
    · rfl
    rename_i body _
    have applied := applyOne_sameFuses (flushTouched s body) b body
    unfold Applied.SameFuses at applied
    rw [flushTouched_fuses] at applied
    split
    · rfl
    · rename_i he
      rw [he] at applied
      rw [commitIfDone_fuses, nextPosition_fuses]
      exact applied
    · rename_i he
      rw [he] at applied
      rw [commitIfDone_fuses, nextPosition_fuses, logErr_fuses]
      exact applied
  · rfl

/-! ### Lines, tables and accords laid in memory -/

theorem reconLine_fuses {v : Versions} {t : Table} {line : Nat} {u : State} (hu : reconLine s v t line = some u) :
    u.fuses = s.fuses := by
  unfold reconLine at hu
  dsimp only at hu
  split at hu
  all_goals obtain ⟨w, _, rfl⟩ := Option.map_eq_some_iff.1 hu
  · rw [rebuildSubjects_fuses, foldl_memWrite_fuses]
  · rw [rebuildSubjects_fuses, foldl_memWrite_fuses, memWrite_fuses]

theorem rebuildLine_fuses {t : Table} {line : Nat} {copy : Option Bytes} {u : State} (hu : rebuildLine s t line copy = some u) :
    u.fuses = s.fuses := by
  unfold rebuildLine at hu
  split at hu
  · rw [← Option.some.inj hu, lineFound_fuses, memWrite_fuses]
  · obtain ⟨v, _, hv⟩ := Option.bind_eq_some_iff.1 hu
    obtain ⟨r, hr, rfl⟩ := Option.map_eq_some_iff.1 hv
    rw [lineFound_fuses, reconLine_fuses s hr]

@[simp] theorem layTable_fuses (d : Bytes) (t : ArenaTable) (epoch : Nat) : (layTable s d t epoch).fuses = s.fuses :=
  foldl_fuses (fun s p => by repeat' split
                             all_goals simp) ..
@[simp] theorem takeRecon_fuses (q : Recon) : (takeRecon s q).fuses = s.fuses := by simp [takeRecon]
@[simp] theorem stagedImage_fuses : (stagedImage s).1.fuses = s.fuses := by
  unfold stagedImage
  dsimp only
  split <;> simp
@[simp] theorem copyImage_fuses (i : Nat) (a : Option Accord) : (copyImage s i a).fuses = s.fuses := by cases a <;> rfl
@[simp] theorem fillStaged_fuses (a : Accord) : (fillStaged s a).fuses = s.fuses := by simp [fillStaged]
@[simp] theorem stageImage_fuses (b : Bytes) : (stageImage s b).fuses = s.fuses := by
  unfold stageImage
  dsimp only
  repeat' split
  all_goals simp
@[simp] theorem serveLines_fuses (r : Rcv) (request epoch : Nat) (lines : List Nat) :
    (serveLines s r request epoch lines).fuses = s.fuses :=
  foldl_fuses (fun s a => by rw [queueFrame_fuses]; split <;> simp) ..
@[simp] theorem takeLine_fuses (a : Nat) (b : Bytes) : (takeLine s a b).fuses = s.fuses := by simp [takeLine]
@[simp] theorem takeResync_fuses (a : Nat) (b : Bytes) : (takeResync s a b).fuses = s.fuses := by
  unfold takeResync
  dsimp only
  repeat' split
  all_goals simp

/-! ### Boot and reset -/

@[simp] theorem finishBoundary_fuses : (finishBoundary s).fuses = s.fuses := by
  unfold finishBoundary
  split <;> simp
@[simp] theorem finishStore_fuses : (finishStore s).fuses = s.fuses := by simp [finishStore]
@[simp] theorem putSlots_fuses (l : List (Option Accord)) : (putSlots s l).fuses = s.fuses := by simp [putSlots]
@[simp] theorem storePhase_fuses : (storePhase s).fuses = s.fuses := by
  unfold storePhase
  dsimp only
  repeat' split
  all_goals simp
theorem chooseSlot_fuses {t : State} (h : chooseSlot s = some t) : t.fuses = s.fuses := by
  unfold chooseSlot at h
  dsimp only at h
  split at h
  · cases h
  · rw [← Option.some.inj h]
    simp
@[simp] theorem fullBoot_fuses (find : BootFind) : (fullBoot find s).fuses = s.fuses := by
  unfold fullBoot
  split
  · simp
  · rename_i h
    simp [chooseSlot_fuses _ h]
@[simp] theorem finishRetaining_fuses (find : BootFind) (cause : Nat) : (finishRetaining find cause s).fuses = s.fuses := by
  simp [finishRetaining]
@[simp] theorem retainingReset_fuses (find : BootFind) (cause : Nat) : (retainingReset find cause s).fuses = s.fuses := by
  simp [retainingReset]
@[simp] theorem activationReset_fuses (find : BootFind) : (activationReset find s).fuses = s.fuses := by
  unfold activationReset
  dsimp only
  split
  · simp
  · rename_i h
    simp [chooseSlot_fuses _ h]
@[simp] theorem fullReset_fuses (cause : Nat) : (fullReset cause s).fuses = s.fuses := flushStaged_fuses s
@[simp] theorem enterRetention_fuses (cause : Nat) : (enterRetention cause s).fuses = s.fuses := by simp [enterRetention]
@[simp] theorem leaveRetention_fuses (find : BootFind) : (leaveRetention find s).fuses = s.fuses := by simp [leaveRetention]
@[simp] theorem pcieReset_fuses (cause : Nat) : (pcieReset cause s).fuses = s.fuses := by simp [pcieReset]
@[simp] theorem rstFull_fuses : (rstFull s).fuses = s.fuses := by simp [rstFull]
@[simp] theorem acceptHold_fuses (l : List (Option Accord)) : (acceptHold s l).fuses = s.fuses := by simp [acceptHold]
@[simp] theorem removePower_fuses : (removePower s).fuses = s.fuses := fullReset_fuses s 7
@[simp] theorem rstCtrl_fuses (level target : Nat) : (rstCtrl s level target).fuses = s.fuses := by
  unfold rstCtrl
  split <;> simp
@[simp] theorem bar2Store_fuses (fn : Nat) (addrs : List Nat) (data : Bytes) : (bar2Store s fn addrs data).fuses = s.fuses := by
  simp [bar2Store]

end

end Sys2Proof.Machine
end

section
/-! SUPPORT. What words and commands leave of the fuses, and the security counter (O56). -/

namespace Sys2Proof.Machine

section
variable (s : State)

/-! ### Words of a control core -/

/-- The state that the outcome of a word leaves: the one before it where it waits or faults. -/
def Issued.state (s : State) : Issued → State
  | .done p | .parked p => p.1
  | .wait | .fault _ => s

@[simp] theorem state_done (t : State) (c : Option Core) : Issued.state s (.done (t, c)) = t := rfl
@[simp] theorem state_parked (t : State) (c : Option Core) : Issued.state s (.parked (t, c)) = t := rfl
@[simp] theorem state_wait : Issued.state s .wait = s := rfl
@[simp] theorem state_fault (n : Nat) : Issued.state s (.fault n) = s := rfl
@[simp] theorem state_ite (p : Prop) [Decidable p] (a b : Issued) :
    Issued.state s (if p then a else b) = if p then Issued.state s a else Issued.state s b := apply_ite ..

theorem choice_fuses {p : Prop} [Decidable p] {a b : Issued} (ha : (Issued.state s a).fuses = s.fuses)
    (hb : (Issued.state s b).fuses = s.fuses) : (Issued.state s (if p then a else b)).fuses = s.fuses := by
  split
  · exact ha
  · exact hb

theorem issueWord_fuses {k : Nat} {legal : Bool} {hd : Hdr} {f : Env → State → Core → Issued}
    (hf : ∀ e c, (Issued.state s (f e s c)).fuses = s.fuses) : (issueWord s k legal hd f).fuses = s.fuses := by
  unfold issueWord
  split
  · rfl
  split
  · rfl
  rename_i x _ _ e _
  split
  · rfl
  split
  · exact failSkein_fuses ..
  dsimp only
  have stop (cause word : Nat) (b : Bool) :
      (if b = true then programFault s k x.launch x.ex cause word else s).fuses = s.fuses := by split <;> simp
  split
  · exact stop ..
  split
  · exact stop ..
  split
  · rfl
  have effect := hf e { x.core with hold := none, pc := x.core.pc + 1, words := x.core.words + 1 }
  split
  · rfl
  all_goals
    rename_i he
    rw [he] at effect
  · exact effect
  · exact stop ..
  · exact (modCore_fuses ..).trans effect
  · exact effect

@[simp] theorem issueCore_fuses {k : Nat} {legal : Bool} {hd : Hdr} (f : Env → Core → Eff Core) :
    (issueCore s k legal hd f).fuses = s.fuses :=
  issueWord_fuses s (fun e c => by split <;> rfl)

@[simp] theorem streamInvalid_fuses (u : State) (e : Env) (c : Core) (n : Nat) (m : Flags) :
    (Issued.state u (streamInvalid s e c n m)).fuses = s.fuses := by simp [streamInvalid]
@[simp] theorem mediaInvalid_fuses (u : State) (e : Env) (c : Core) (m : Flags) :
    (Issued.state u (mediaInvalid s e c m)).fuses = s.fuses := by simp [mediaInvalid]
@[simp] theorem arenaAbsent_fuses (u : State) (e : Env) (n r : Nat) : (Issued.state u (arenaAbsent s e n r)).fuses = s.fuses := by
  simp [arenaAbsent]
@[simp] theorem deadTable_fuses (u : State) (e : Env) : (Issued.state u (deadTable s e)).fuses = s.fuses := by simp [deadTable]

theorem onStream_fuses {n : Nat} {f : Env → State → Core → Stream → Issued} {e : Env} {c : Core}
    (hf : ∀ st, (Issued.state s (f e s c st)).fuses = s.fuses) : (Issued.state s (onStream n f e s c)).fuses = s.fuses := by
  unfold onStream
  split
  · exact streamInvalid_fuses ..
  · exact hf _

theorem afterRead_fuses {known : List (Bool × Nat)} {ready late : Bool} {f : Issued} (hf : (Issued.state s f).fuses = s.fuses) :
    (Issued.state s (afterRead known ready late f)).fuses = s.fuses := by
  unfold afterRead
  repeat' split
  all_goals first | exact hf | rfl

theorem afterBanks_fuses {e : Env} {maps rows : List Nat} {f : State → Issued}
    (hf : ∀ t, t.fuses = s.fuses → (Issued.state s (f t)).fuses = s.fuses) :
    (Issued.state s (afterBanks s e maps rows f)).fuses = s.fuses := by
  unfold afterBanks
  dsimp only
  split
  · rfl
  split
  · exact hf _ (dropAccess_fuses ..)
  · exact holdLines_fuses ..

/-! ### Commands -/

@[simp] theorem after_next (t : State) : after s (.next t) = t := rfl
@[simp] theorem after_ite (p : Prop) [Decidable p] (a b : Result) :
    after s (if p then a else b) = if p then after s a else after s b := apply_ite ..

theorem word_fuses {k : Nat} {legal : Bool} {hd : Hdr} {f : Env → State → Core → Issued}
    (hf : ∀ e c, (Issued.state s (f e s c)).fuses = s.fuses) : (after s (.next (issueWord s k legal hd f))).fuses = s.fuses :=
  issueWord_fuses s hf

theorem execStmopen_fuses (k : Skein) (w : MWord) : (after s (execStmopen k w s)).fuses = s.fuses := by
  refine word_fuses s (fun e c => ?_)
  split
  · rfl
  · simp

theorem execStmrearm_fuses (k : Skein) (w : MWord) : (after s (execStmrearm k w s)).fuses = s.fuses := by
  refine word_fuses s (fun e c => onStream_fuses s (fun st => ?_))
  dsimp only
  split
  · rfl
  · simp

theorem execStmclose_fuses (k : Skein) (w : MWord) : (after s (execStmclose k w s)).fuses = s.fuses :=
  word_fuses s (fun e c => onStream_fuses s (fun st => by simp))

theorem execStmcancel_fuses (k : Skein) (w : MWord) : (after s (execStmcancel k w s)).fuses = s.fuses :=
  word_fuses s (fun e c => onStream_fuses s (fun st => by simp))

theorem execStmwait_fuses (k : Skein) (w : MWord) : (after s (execStmwait k w s)).fuses = s.fuses :=
  word_fuses s (fun e c => onStream_fuses s (fun st => by simp))

@[simp] theorem nbResolve_fuses (w : MWord) (e : Env) (word : Nat) (src : Source) (g : NbGather) (x : Nat × Nat) :
    (nbResolve w e word src g x).s.fuses = g.s.fuses := by
  unfold nbResolve
  dsimp only
  repeat' split
  all_goals simp

theorem foldl_nbResolve_fuses (w : MWord) (e : Env) (word : Nat) (src : Source) (l : List (Nat × Nat)) (g : NbGather) :
    (l.foldl (nbResolve w e word src) g).s.fuses = g.s.fuses := by
  induction l generalizing g with
  | nil => rfl
  | cons x l ih => rw [List.foldl_cons, ih, nbResolve_fuses]

theorem nbIssue_fuses (kind : NbKind) (w : MWord) (e : Env) (c : Core) :
    (Issued.state s (nbIssue kind w e s c)).fuses = s.fuses := by
  unfold nbIssue
  dsimp only
  split
  · rfl
  · rfl
  refine choice_fuses s (by simp) (choice_fuses s rfl ?_)
  split
  · rfl
  refine choice_fuses s (by simp) (choice_fuses s (by simp) (choice_fuses s rfl ?_))
  refine afterBanks_fuses s (fun t ht => ?_)
  split
  · rw [arenaAbsent_fuses, ht]
  · exact (foldl_nbResolve_fuses ..).trans ht

theorem execNbgp_fuses (k : Skein) (w : MWord) : (after s (execNbgp k w s)).fuses = s.fuses :=
  word_fuses s (nbIssue_fuses s .gp w)

theorem execNbdot_fuses (k : Skein) (w : MWord) : (after s (execNbdot k w s)).fuses = s.fuses :=
  word_fuses s (nbIssue_fuses s .dot w)

theorem execNbsa_fuses (k : Skein) (w : MWord) : (after s (execNbsa k w s)).fuses = s.fuses :=
  word_fuses s (nbIssue_fuses s .sa w)

theorem execNbcopy_fuses (k : Skein) (w : MWord) : (after s (execNbcopy k w s)).fuses = s.fuses :=
  word_fuses s (nbIssue_fuses s .copy w)

theorem execTally_fuses (k : Skein) (w : MWord) : (after s (execTally k w s)).fuses = s.fuses := by
  refine word_fuses s (fun e c => afterRead_fuses s ?_)
  simp

theorem execTalrd_fuses (k : Skein) (w : MWord) : (after s (execTalrd k w s)).fuses = s.fuses := by
  refine word_fuses s (fun e c => afterRead_fuses s (choice_fuses s rfl (choice_fuses s (by simp) ?_)))
  refine afterBanks_fuses s (fun t ht => ?_)
  dsimp only
  split
  · rw [arenaAbsent_fuses, ht]
  · rw [state_done, foldl_fuses (fun s g => by split <;> simp), foldl_fuses (fun _ _ => cacheRead_fuses ..), ht]

theorem execRowrd_fuses (k : Skein) (w : MWord) : (after s (execRowrd k w s)).fuses = s.fuses := by
  refine word_fuses s (fun e c => ?_)
  dsimp only
  split
  · rfl
  · rfl
  split
  · simp
  split
  · rfl
  split
  · rfl
  split
  · simp
  refine afterBanks_fuses s (fun t ht => ?_)
  split
  · rw [arenaAbsent_fuses, ht]
  · rw [state_done, foldl_fuses (fun _ _ => cacheRead_fuses ..), foldl_fuses (fun s g => by split <;> simp), ht]

theorem execSeqf_fuses (k : Skein) (w : MWord) : (after s (execSeqf k w s)).fuses = s.fuses := by
  refine word_fuses s (fun e c => ?_)
  split
  · rfl
  dsimp only
  split
  · simp
  split
  · simp
  split
  · simp
  refine afterBanks_fuses s (fun t ht => ?_)
  split
  · rw [arenaAbsent_fuses, ht]
  · exact ht
  · rw [state_done, foldl_fuses (fun _ _ => cacheRead_fuses ..), noteLost_fuses, ht]

theorem execSplice_fuses (k : Skein) (w : MWord) : (after s (execSplice k w s)).fuses = s.fuses := by
  refine word_fuses s (fun e c => afterRead_fuses s ?_)
  simp

theorem execCkpt_fuses (k : Skein) (w : MWord) : (after s (execCkpt k w s)).fuses = s.fuses := by
  refine word_fuses s (fun e c => ?_)
  dsimp only
  split
  · rfl
  split <;> simp

theorem execEndl_fuses (k : Skein) (w : SWord) : (after s (execEndl k w s)).fuses = s.fuses :=
  word_fuses s (fun e c => by simp)

theorem execFrameOpen_fuses (k : Skein) (w : MWord) : (after s (execFrameOpen k w s)).fuses = s.fuses :=
  word_fuses s (fun e c => by simp)

theorem execFrameNext_fuses (k : Skein) (w : MWord) : (after s (execFrameNext k w s)).fuses = s.fuses := by
  refine word_fuses s (fun e c => ?_)
  dsimp only
  repeat' split
  all_goals simp

theorem execFrameRead_fuses (k : Skein) (w : MWord) : (after s (execFrameRead k w s)).fuses = s.fuses := by
  refine word_fuses s (fun e c => ?_)
  dsimp only
  repeat' split
  all_goals simp

theorem execFrameClose_fuses (k : Skein) (w : MWord) : (after s (execFrameClose k w s)).fuses = s.fuses := by
  refine word_fuses s (fun e c => ?_)
  split <;> simp

end

end Sys2Proof.Machine
end

section
/-! SUPPORT. Every command leaves the fuses as they were, but COMMIT-SVN, which raises the security counter (O56). -/

namespace Sys2Proof.Machine

section
variable (s : State)

/-! ### Frames on a lanyard port -/

theorem receive_fuses {p kind : Nat} {b : Bytes} {f : State → Rcv → State} (hf : ∀ t r, (f t r).fuses = t.fuses) :
    (after s (.next (receive s p kind b f))).fuses = s.fuses := by
  rw [after_next]
  unfold receive
  dsimp only
  repeat' split
  all_goals simp [hf]

theorem inSequence_fuses {kind : Nat} {r : Rcv} {f : State → Rcv → State} (hf : ∀ t r, (f t r).fuses = t.fuses) :
    (inSequence s kind r f).fuses = s.fuses := by
  simp [inSequence, hf]

theorem sequenced_fuses {p kind : Nat} {b : Bytes} {f : State → Rcv → State} (hf : ∀ t r, (f t r).fuses = t.fuses) :
    (after s (.next (sequenced s p kind b f))).fuses = s.fuses :=
  receive_fuses s (f := fun s r => inSequence s kind r f) (fun t _ => inSequence_fuses t hf)

theorem firstTime_fuses {r : Rcv} {kind sender epoch term : Nat} {f : State → State} (hf : ∀ t, (f t).fuses = t.fuses) :
    (firstTime s r kind sender epoch term f).fuses = s.fuses := by
  simp [firstTime, hf]

theorem execSpliceFrame_fuses (p : Port) (b : Bytes) : (after s (execSpliceFrame p b s)).fuses = s.fuses :=
  sequenced_fuses s (fun t r => by split <;> simp)

theorem execStateFrame_fuses (p : Port) (b : Bytes) : (after s (execStateFrame p b s)).fuses = s.fuses :=
  sequenced_fuses s (fun t r => by simp)

theorem execManifestFrame_fuses (p : Port) (b : Bytes) : (after s (execManifestFrame p b s)).fuses = s.fuses := by
  refine sequenced_fuses s (fun t r => ?_)
  dsimp only
  split
  · exact malformed_fuses ..
  split
  · simp
  split
  · simp
  split
  · simp
  · exact (firstTime_fuses _ (fun u => by simp)).trans (modP_fuses ..)

theorem execManifestAckFrame_fuses (p : Port) (b : Bytes) : (after s (execManifestAckFrame p b s)).fuses = s.fuses := by
  refine sequenced_fuses s (fun t r => ?_)
  dsimp only
  split
  · simp
  · exact firstTime_fuses _ (fun u => by simp)

theorem execConfirmFrame_fuses (p : Port) (b : Bytes) : (after s (execConfirmFrame p b s)).fuses = s.fuses := by
  refine sequenced_fuses s (fun t r => ?_)
  dsimp only
  split
  · simp
  split
  · simp
  split
  · simp
  · exact firstTime_fuses _ (fun u => by simp)

theorem execReportFrame_fuses (p : Port) (b : Bytes) : (after s (execReportFrame p b s)).fuses = s.fuses := by
  refine sequenced_fuses s (fun t r => ?_)
  split
  · simp
  · exact firstTime_fuses _ (fun u => by simp)

theorem execVoteFrame_fuses (p : Port) (b : Bytes) : (after s (execVoteFrame p b s)).fuses = s.fuses := by
  refine sequenced_fuses s (fun t r => ?_)
  dsimp only
  split
  · simp
  · exact firstTime_fuses _ (fun u => by simp)

theorem execLinkFrame_fuses (p : Port) (b : Bytes) : (after s (execLinkFrame p b s)).fuses = s.fuses := by
  refine receive_fuses s (fun t r => ?_)
  dsimp only
  split <;> simp

theorem execFetchFrame_fuses (p : Port) (b : Bytes) : (after s (execFetchFrame p b s)).fuses = s.fuses :=
  sequenced_fuses s (fun t r => by simp)

theorem execRebuildFrame_fuses (p : Port) (b : Bytes) : (after s (execRebuildFrame p b s)).fuses = s.fuses := by
  refine sequenced_fuses s (fun t r => ?_)
  dsimp only
  split
  · simp
  split
  · simp
  split
  · simp
  · rw [foldl_fuses (fun s i => (takeResync_fuses ..).trans (takeLine_fuses ..))]
    simp

/-! ### Commands with lemmas of their own -/

theorem writeAll_fuses {t : State} : ∀ {l : List JrnRecord} {s : State}, writeAll l s = some t → t.fuses = s.fuses
  | [], s, h => by simp [writeAll] at h; simp [h]
  | r :: l, s, h => by
    obtain ⟨u, hu, ht⟩ := Option.bind_eq_some_iff.mp h
    rw [writeAll_fuses ht, writeFlash_fuses hu]

theorem writeWaiting_fuses {w : JrnWrite} {t : State} (h : writeWaiting s w = some t) : t.fuses = s.fuses := by
  obtain ⟨u, hu, rfl⟩ := Option.map_eq_some_iff.mp h
  rw [reclaim_fuses, writeDurable_fuses, writeAll_fuses hu]

theorem findSome_writeWaiting_fuses (l : List JrnWrite) : ((l.findSome? (writeWaiting s)).getD s).fuses = s.fuses := by
  cases hl : l.findSome? (writeWaiting s) with
  | none => rfl
  | some t =>
    obtain ⟨w, -, hw⟩ := List.exists_of_findSome?_eq_some hl
    exact writeWaiting_fuses s hw

theorem execFlashWriteDone_fuses : (after s (execFlashWriteDone s)).fuses = s.fuses := by
  unfold execFlashWriteDone
  rw [after_next]
  split
  · split
    · rfl
    split
    · rename_i hw
      exact writeWaiting_fuses s hw
    · rw [findSome_writeWaiting_fuses, noteFull_fuses]
  · dsimp only
    split
    · simp
    split
    · simp
    · rename_i hw
      rw [reclaim_fuses, noteFull_fuses, writeFlash_fuses hw, noteFull_fuses]

theorem damageCheck_fuses (sel : Nat) : (damageCheck s sel).1.fuses = s.fuses := by
  unfold damageCheck
  split
  · rfl
  · simp

theorem execExportStart_fuses : (after s (execExportStart s)).fuses = s.fuses := by
  unfold execExportStart
  simp only [after_next, apply_ite Prod.fst]
  repeat' split
  all_goals simp [damageCheck_fuses]

theorem takeReaders_fuses (line : Nat) : (takeReaders s line).1.fuses = s.fuses := rfl

theorem execLineRebuildDone_fuses (line : Nat) (copy : Option Bytes) :
    (after s (execLineRebuildDone line copy s)).fuses = s.fuses := by
  unfold execLineRebuildDone
  rw [after_next]
  split
  · rfl
  split
  · rfl
  dsimp only
  split
  · rename_i hr
    rw [foldl_fuses (fun _ _ => reexecLaunch_fuses ..), rebuildLine_fuses _ hr, takeReaders_fuses]
  · rw [foldl_fuses (fun _ _ => endLaunch_fuses ..), tableLost_fuses, takeReaders_fuses]

theorem countSkeinEvents_fuses (k : Nat) : ∀ (n : Nat) (s : State), (countSkeinEvents k n s).1.fuses = s.fuses
  | 0, _ => rfl
  | n + 1, s => by
    unfold countSkeinEvents
    dsimp only
    split
    · exact event_fuses ..
    · rw [countSkeinEvents_fuses k n, event_fuses]

theorem configEffect_fuses (fn : Nat) (op : ConfigOp) : (configEffect s fn op).fuses = s.fuses := by
  cases op with
  | pfBar2 full => exact ite_fuses ..  |>.trans (ite_self _)
  | numVfs n => exact ite_fuses ..  |>.trans (ite_self _)
  | d3hot | pageRequests on reset alloc | requestSizes payload readReq relaxed => simp [configEffect]
  | other | feature f | bar n | aerCounts => rfl

theorem execAccordStageStart_fuses : (after s (execAccordStageStart s)).fuses = s.fuses := by
  unfold execAccordStageStart
  rw [after_next]
  dsimp only
  split <;> simp

theorem storeField_fuses (w : RegWrite) (p : State × WriteNote) (x : RegField × Nat) :
    (storeField w p x).1.fuses = p.1.fuses := by
  unfold storeField
  dsimp only
  repeat' split
  all_goals simp

theorem foldl_storeField_fuses (w : RegWrite) : ∀ (l : List (RegField × Nat)) (p : State × WriteNote),
    (l.foldl (storeField w) p).1.fuses = p.1.fuses
  | [], _ => rfl
  | x :: l, p => by rw [List.foldl_cons, foldl_storeField_fuses w l, storeField_fuses]

theorem execBootLimitExpiry_fuses : (after s (execBootLimitExpiry s)).fuses = s.fuses := by
  unfold execBootLimitExpiry
  rw [after_next]
  split
  · rfl
  split
  · exact enterRecovery_fuses s
  · rename_i h
    exact (fullReset_fuses ..).trans (chooseSlot_fuses s h)

/-! ### Every command -/

theorem strandWord_fuses {k i : Nat} {legal : Bool} {f : StrEnv → Core → StrandSt → Eff (Core × StrandSt)} :
    (after s (.next (issueStrand s k i legal f))).fuses = s.fuses := issueStrand_fuses ..

/-- Every command but COMMIT-SVN and a register write leaves the fuses. -/
theorem exec_fuses (c : Instr) (hc : c ≠ .commitSvn) (hw : ∀ fn off size v, c ≠ .registerWrite fn off size v) :
    (after s (exec c s)).fuses = s.fuses := by
  cases c with
  | nop k w | add k w | sub k w | mul k w | mulhs k w | mulhu k w | and k w | or k w | xor k w | shl k w | shr k w | sar k w
    | min k w | max k w | minu k w | maxu k w | cmpeq k w | cmplt k w | cmpltu k w | pand k w | por k w | pnot k w | lds k w
    | sts k w | ldc k w | br k w | bri k w | call k w | loop k w | fence k w | rdflags k w | mmul k w | mmac k w | asplit k w
    | tld k w | tst k w | tzero k w | tcvt k w | tcopy k w | strgo k w | strwait k w =>
    exact word_fuses s (fun e c => by split <;> rfl)
  | sAdd k j w | sSub k j w | sMul k j w | sMulhs k j w | sMulhu k j w | sAnd k j w | sOr k j w | sXor k j w | sShl k j w
    | sShr k j w | sSar k j w | sMin k j w | sMax k j w | sMinu k j w | sMaxu k j w | vcurve k j w | trd k j w | twr k j w
    | trdx k j w | ldw k j w | stw k j w | vld k j w | vst k j w | strandEnd k j w | strandRdflags k j w | strandLdc k j w
    | perm k j w | rot k j w | bcast k j w | ziplo k j w | ziphi k j w | unzipe k j w | unzipo k j w | branch k j w
    | vadd k j w | vsub k j w | vmul k j w | vfma k j w | vdiv k j w | vsqrt k j w | vmin k j w | vmax k j w | vabs k j w
    | vneg k j w | vcmpeq k j w | vcmplt k j w | vcmple k j w | vcmpun k j w | vsel k j w | vdot k j w | vsum k j w
    | vrmin k j w | vrmax k j w | vcvt k j w | pack k j w | unpack k j w | sort k j w | movx k j w | lane k j w =>
    exact strandWord_fuses s
  | ckpt k w => exact execCkpt_fuses ..
  | endl k w => exact execEndl_fuses ..
  | stmopen k w => exact execStmopen_fuses ..
  | stmrearm k w => exact execStmrearm_fuses ..
  | stmclose k w => exact execStmclose_fuses ..
  | stmcancel k w => exact execStmcancel_fuses ..
  | stmwait k w => exact execStmwait_fuses ..
  | nbgp k w => exact execNbgp_fuses ..
  | nbdot k w => exact execNbdot_fuses ..
  | nbsa k w => exact execNbsa_fuses ..
  | nbcopy k w => exact execNbcopy_fuses ..
  | tally k w => exact execTally_fuses ..
  | talrd k w => exact execTalrd_fuses ..
  | rowrd k w => exact execRowrd_fuses ..
  | splice k w => exact execSplice_fuses ..
  | seqf k w => exact execSeqf_fuses ..
  | frameOpen k w => exact execFrameOpen_fuses ..
  | frameNext k w => exact execFrameNext_fuses ..
  | frameRead k w => exact execFrameRead_fuses ..
  | frameClose k w => exact execFrameClose_fuses ..
  | spliceFrame p frame => exact execSpliceFrame_fuses ..
  | stateFrame p frame => exact execStateFrame_fuses ..
  | manifestFrame p frame => exact execManifestFrame_fuses ..
  | manifestAckFrame p frame => exact execManifestAckFrame_fuses ..
  | confirmFrame p frame => exact execConfirmFrame_fuses ..
  | reportFrame p frame => exact execReportFrame_fuses ..
  | voteFrame p frame => exact execVoteFrame_fuses ..
  | fetchFrame p frame => exact execFetchFrame_fuses ..
  | rebuildFrame p frame => exact execRebuildFrame_fuses ..
  | linkFrame p frame => exact execLinkFrame_fuses ..
  | flashWriteDone => exact execFlashWriteDone_fuses ..
  | exportStart => exact execExportStart_fuses ..
  | lineRebuildDone line data => exact execLineRebuildDone_fuses ..
  | accordStageStart => exact execAccordStageStart_fuses ..
  | bootLimitExpiry => exact execBootLimitExpiry_fuses ..
  | commitSvn => exact absurd rfl hc
  | registerWrite fn off size value => exact (hw _ _ _ _ rfl).elim
  | descriptorFetch t r seq slot | admission t r lcb replay | admissionBind t r | dispatch launch ex k
    | holdCopyUnit launch buf unit | residentRegionLoaded k launch | preloadOpen k launch ex | launchEntry k
    | streamDataArrival k stream first count | pageResponse fn group ans | priTimeout fn page | hostAccessError launch buf
    | atsTranslationCompletion fn page present | doorbellPoll reads | outUnitSend k stream res
    | atsInvalidation fn page count =>
    simp only [exec, execDescriptorFetch, execAdmission, execAdmissionBind, execDispatch, execHoldCopyUnit,
      execResidentRegionLoaded, execPreloadOpen, execLaunchEntry, execStreamDataArrival, execPageResponse, execPriTimeout,
      execHostAccessError, execAtsTranslationCompletion, execDoorbellPoll, execOutUnitSend, execAtsInvalidation, after_next]
    repeat' split
    all_goals simp
  | nbStepIssue st k word entry | nbReadyFrame st lpc bank res | nbStatusPoll st lpc bank ended res
    | nbStepTimeout st lpc bank | nbAbortTimeout st lpc bank | tallyApply st | wcIdleFlush st line
    | patrolScrub st burst check | pcRebuildDone st | pcRetrain st lpc cause | pcRetrainEnd st res
    | poolRingPartial src k word bag | nbResultDelivery k word | selfRefreshExcursion st =>
    simp only [exec, execNbStepIssue, execNbReadyFrame, execNbStatusPoll, execNbStepTimeout, execNbAbortTimeout,
      execTallyApply, execWcIdleFlush, execPatrolScrub, execPcRebuildDone, execPcRetrain, execPcRetrainEnd,
      execPoolRingPartial, execNbResultDelivery, execSelfRefreshExcursion, after_next]
    repeat' split
    all_goals simp
  | skeinFault k ev | sectionFault n | skeinSelfTestDone k passed | flitDoubleError link errors
    | waitBound site number cls | watchdogExpiry launch | hangResetProceed find | engineFailure engine
    | tileTokenGrant k tile | arrayPassDone k job pass | mvpChunkDone k job m n chunk | strandGroupStart k group
    | mediaContextGrant k | frameDecodeDone k engine =>
    simp only [exec, execSkeinFault, execSectionFault, execSkeinSelfTestDone, execFlitDoubleError, execWaitBound,
      execWatchdogExpiry, execHangResetProceed, execEngineFailure, execTileTokenGrant, execArrayPassDone, execMvpChunkDone,
      execStrandGroupStart, execMediaContextGrant, execFrameDecodeDone, after_next]
    repeat' split
    all_goals simp [countSkeinEvents_fuses]
  | integrityCheck launch ex | sealForm work | outcomeStage launch | completionWrite t written | msixSend t
    | msixUnmask t entry =>
    simp only [exec, execIntegrityCheck, execSealForm, execOutcomeStage, execCompletionWrite, execMsixSend, execMsixUnmask,
      after_next]
    repeat' split
    all_goals simp
  | spliceSequence | anchorClose | boundaryGatherDone | boundaryDrainDone | spliceApply | boundaryRecordDurable
    | boundaryLimitExpiry | tableCtrlRegister block | tableCtrlRetire | tableRebuildDone =>
    simp only [exec, execSpliceSequence, execAnchorClose, execBoundaryGatherDone, execBoundaryDrainDone, execSpliceApply,
      execBoundaryRecordDurable, execBoundaryLimitExpiry, execTableCtrlRegister, execTableCtrlRetire, execTableRebuildDone,
      after_next]
    repeat' split
    all_goals simp
  | portTrained p lanes r | helloSend p nonce | helloFrame p frame | linkSend p | goBack p | retryEpisodeFailure p
    | replicationTimeout p seq | anchorTimeout | laneEvent p lane | release p | retrain p | portEnable p enable =>
    simp only [exec, execPortTrained, execHelloSend, execHelloFrame, execLinkSend, execGoBack, execRetryEpisodeFailure,
      execReplicationTimeout, execAnchorTimeout, execLaneEvent, execRelease, execRetrain, execPortEnable, after_next]
    repeat' split
    all_goals simp
  | journalRecordAccept | drydownStart | drydownDone | exportDone res | arenaLoad request | arenaLoadDone request touch parts =>
    simp only [exec, execJournalRecordAccept, execDrydownStart, execDrydownDone, execExportDone, execArenaLoad,
      execArenaLoadDone, after_next]
    repeat' split
    all_goals simp
  | powerFailWarning | powerFailFlushDone linkUp | inputPowerRestore | holdupReport milliJoule | capacitanceTest milliJoule
    | holdupMonitorSilent | powerLimitExceeded watt | powerLimitRecovery watt | pwrbrkAssert | pwrbrkRelease
    | thermalDerate sensor celsius | thermalDerateEnd sensor celsius | thermalTrip sensor celsius =>
    simp only [exec, execPowerFailWarning, execPowerFailFlushDone, execInputPowerRestore, execHoldupReport,
      execCapacitanceTest, execHoldupMonitorSilent, execPowerLimitExceeded, execPowerLimitRecovery, execPwrbrkAssert,
      execPwrbrkRelease, execThermalDerate, execThermalDerateEnd, execThermalTrip, after_next]
    repeat' split
    all_goals simp
  | clockMonitorTrip ref | holdoverExit ref ppm | odoMismatch keepSecond | pllLockFailure pll | ptmDialogue correction
    | tbppsEdge offset | tbppsMissing | holdoverMaxExpiry | clkTimeSet ns =>
    simp only [exec, execClockMonitorTrip, execHoldoverExit, execOdoMismatch, execPllLockFailure, execPtmDialogue,
      execTbppsEdge, execTbppsMissing, execHoldoverMaxExpiry, execClkTimeSet, after_next]
    repeat' split
    all_goals simp
  | perstAssert | hotReset | dlDown | perstDeassert find | pfFlr find | vfFlr t | d3hotToD0 fn | rstSkein target
    | rstSection target | rstTenant target | rstRetaining find | rstFull | rstArm | resetLimitOverrun what | powerOn find =>
    simp only [exec, execPerstAssert, execHotReset, execDlDown, execPerstDeassert, execPfFlr, execVfFlr, execD3hotToD0,
      execRstSkein, execRstSection, execRstTenant, execRstRetaining, execRstFull, execRstArm, execResetLimitOverrun,
      execPowerOn, after_next]
    repeat' split
    all_goals simp
  | configRequest fn op | activate | revert | cancel | fwUpdateStart | fwUpdateDone image | pldmFwUpdate slotB image
    | getMeasurements index | holdLoadStart image | confirm | rebuild =>
    simp only [exec, execConfigRequest, execActivate, execRevert, execCancel, execFwUpdateStart, execFwUpdateDone,
      execPldmFwUpdate, execGetMeasurements, execHoldLoadStart, execConfirm, execRebuild, after_next]
    repeat' split
    all_goals simp [configEffect_fuses]
  | sqEnable t r | cqEnable t | setupLock | feEpochRead | jrnArenaEpochRead | clkTimeRead | regAccess fn off size
    | bar2Read fn off len | bar2Write fn off data | poisonedWrite fn | pcieLinkUp rate width =>
    simp only [exec, execSqEnable, execCqEnable, execSetupLock, execFeEpochRead, execJrnArenaEpochRead, execClkTimeRead,
      execRegAccess, execBar2Read, execBar2Write, execPoisonedWrite, execPcieLinkUp, after_next]
    repeat' split
    all_goals simp

end

/-! ### The security counter -/

/-- Fuses after which the security counter is no lower, and nothing else different. -/
def FusesFrom (f g : FuseSt) : Prop :=
  f.counter ≤ g.counter ∧ g.keys = f.keys ∧ g.revoked = f.revoked ∧ g.map = f.map

theorem fusesFrom_of_eq {f g : FuseSt} (h : g = f) : FusesFrom f g := h ▸ ⟨le_rfl, rfl, rfl, rfl⟩

theorem FusesFrom.trans {f g h : FuseSt} (hg : FusesFrom f g) (hh : FusesFrom g h) : FusesFrom f h := by
  obtain ⟨hcounter, hkeys, hrevoked, hmap⟩ := hg
  obtain ⟨hcounter', hkeys', hrevoked', hmap'⟩ := hh
  exact ⟨hcounter.trans hcounter', hkeys'.trans hkeys, hrevoked'.trans hrevoked, hmap'.trans hmap⟩

/-- COMMIT-SVN raises the counter to the running image's version, and lowers it never (R541). -/
theorem fwCommit_fusesFrom (s : State) : FusesFrom s.fuses (fwCommit s).fuses := ⟨le_max_left .., rfl, rfl, rfl⟩

section
variable (s : State)

/-- What the write of a field starts; FW_CTRL can be COMMIT-SVN. -/
theorem actOn_fusesFrom (w : RegWrite) (f : RegField) (i v : Nat) : FusesFrom s.fuses (actOn w s f i v).fuses := by
  unfold actOn
  dsimp only
  split
  case h_2 =>
    split
    case h_3 => exact fwCommit_fusesFrom s
    all_goals exact fusesFrom_of_eq (by simp)
  case h_4 => exact fusesFrom_of_eq (execAccordStageStart_fuses s)
  case h_10 => exact fusesFrom_of_eq (execExportStart_fuses s)
  all_goals
    refine fusesFrom_of_eq ?_
    try simp only [execTableCtrlRetire, execRelease, execRetrain, execPortEnable, execArenaLoad, after_next, after_ite]
    repeat' split
    all_goals simp

theorem foldl_actField_fusesFrom (w : RegWrite) (l : List (RegField × Nat)) :
    FusesFrom s.fuses (l.foldl (actField w) s).fuses := by
  refine List.foldlRecOn (motive := fun (t : State) => FusesFrom s.fuses t.fuses) l _ (fusesFrom_of_eq rfl) (fun t ht x _ => ht.trans ?_)
  unfold actField
  dsimp only
  split
  · exact fusesFrom_of_eq rfl
  · exact actOn_fusesFrom ..

theorem writeWord_fusesFrom (w : RegWrite) : FusesFrom s.fuses (writeWord w s).fuses := by
  unfold writeWord
  dsimp only
  split
  · exact fusesFrom_of_eq (by simp)
  · refine (fusesFrom_of_eq ?_).trans (foldl_actField_fusesFrom _ w _)
    rw [noteWrite_fuses, foldl_storeField_fuses, foldl_fuses (fun _ _ => disableField_fuses ..)]

theorem execRegisterWrite_fusesFrom (fn : Tenant) (off : BitVec 25) (size : Nat) (value : BitVec 64) :
    FusesFrom s.fuses (after s (execRegisterWrite fn off size value s)).fuses := by
  unfold execRegisterWrite bar0Write
  rw [after_next]
  split
  · exact fusesFrom_of_eq rfl
  split
  · exact fusesFrom_of_eq rfl
  split
  · exact fusesFrom_of_eq (by simp)
  split
  · exact fusesFrom_of_eq rfl
  · exact writeWord_fusesFrom ..

theorem exec_fusesFrom (c : Instr) : FusesFrom s.fuses (after s (exec c s)).fuses := by
  by_cases hc : c = .commitSvn
  · subst hc
    exact fwCommit_fusesFrom s
  by_cases hw : ∃ fn off size v, c = .registerWrite fn off size v
  · obtain ⟨fn, off, size, v, rfl⟩ := hw
    exact execRegisterWrite_fusesFrom ..
  · exact fusesFrom_of_eq (exec_fuses s c hc (fun fn off size v h => hw ⟨fn, off, size, v, h⟩))

end

/-- Settles O56: of all commands only COMMIT-SVN, alone or as a write of FW_CTRL, touches the fuses, and it takes a maximum. -/
theorem stepNeverLowersTheSecurityCounter : Obligations.StepNeverLowersTheSecurityCounter := by
  intro s t hs
  unfold step at hs
  split at hs
  · cases hs
    exact fusesFrom_of_eq (tick_fuses s)
  · rename_i c rest _
    have kept := exec_fusesFrom { s with pending := rest } c
    rw [hs] at kept
    exact kept

end Sys2Proof.Machine
end

section
/-! SUPPORT. Control-core words as 256 bits: the header, the three body forms and the operand descriptor, each read back from its
fields and laid out again, and the words by opcode (O52). -/

namespace Sys2Proof

open Sys2Proof.Machine

/-! ### Operand descriptors (Table Core-5) -/

theorem readOpd_opdBits (o : Opd) : readOpd (opdBits o) = o := by
  have hbase := o.base.isLt
  have hstride := o.stride.isLt
  obtain ⟨kind, trans, base, stride⟩ := o
  simp only [readOpd, opdBits, packFields, bits] at *
  rw [Opd.mk.injEq]
  refine ⟨?_, ?_, ?_, ?_⟩
  · cases kind <;> cases trans <;> simp [bitNat]
  · cases kind <;> cases trans <;> simp [bitNat] <;> omega
  · apply BitVec.eq_of_toNat_eq
    cases kind <;> cases trans <;> simp [bitNat] <;> omega
  · apply BitVec.eq_of_toNat_eq
    cases kind <;> cases trans <;> simp [bitNat] <;> omega

theorem opdBits_lt (o : Opd) : opdBits o < 2 ^ 40 := packFields_lt _

theorem opdBits_readOpd {n : Nat} (hn : n < 2 ^ 40) : opdBits (readOpd n) = n := by
  have hkind : bits n 0 0 < 2 := Nat.mod_lt _ (by decide)
  have htrans : bits n 1 1 < 2 := Nat.mod_lt _ (by decide)
  simp only [readOpd, opdBits, packFields, bitNat_beq_one hkind, bitNat_beq_one htrans, BitVec.toNat_ofNat]
  simp only [bits]
  omega

/-! ### Header and body, read back from their fields -/

/-- A field list with nothing above it, as `cutFields` gives it back: each value cut to its width. -/
def cutTo (ws vs : List Nat) : List Nat := (ws.zip vs).map (fun p => p.2 % 2 ^ p.1)

theorem readHdr_cutTo (h : Hdr) : readHdr (cutTo hdrWidths (hdrFields h)) = some h := by
  simp [cutTo, hdrWidths, hdrFields, readHdr, bitNat_eq_one, -Nat.reducePow]

theorem readS_cutTo (w : SWord) : readS w.hdr (cutTo sWidths (sFields w) ++ [0]) = some w := by
  simp [cutTo, sWidths, sFields, readS, -Nat.reducePow]

theorem readM_cutTo (w : MWord) : readM w.hdr (cutTo mWidths (mFields w) ++ [0]) = some w := by
  simp [cutTo, mWidths, mFields, readM, -Nat.reducePow]

theorem readT_cutTo (w : TWord) : readT w.hdr (cutTo tWidths (tFields w) ++ [0]) = some w := by
  have cut (o : Opd) : opdBits o % 2 ^ 40 = opdBits o := Nat.mod_eq_of_lt (opdBits_lt o)
  simp [cutTo, tWidths, tFields, readT, cut, readOpd_opdBits, -Nat.reducePow]

section
variable {opc : Nat} {h : Hdr} {ws vs : List Nat}

@[simp] theorem packWord_mod (opc : Nat) (h : Hdr) (ws vs : List Nat) : packWord opc h ws vs % 256 = opc % 256 := by
  rw [packWord, packFields, show (2 : Nat) ^ 8 = 256 from rfl, Nat.add_mul_mod_self_left, Nat.mod_mod]

theorem map_fst_fields (h : Hdr) (hl : ws.length = vs.length) :
    (hdrWidths.zip (hdrFields h) ++ ws.zip vs).map (·.1) = hdrWidths ++ ws := by
  rw [List.map_append, List.map_fst_zip (by rfl), List.map_fst_zip hl.le]

theorem packWord_lt (opc : Nat) (h : Hdr) (hl : ws.length = vs.length) (hws : ws.sum = 192) :
    packWord opc h ws vs < 2 ^ 256 := by
  have total : totalWidth ((8, opc) :: (hdrWidths.zip (hdrFields h) ++ ws.zip vs)) = 256 := by
    rw [totalWidth, List.map_cons, map_fst_fields h hl, List.sum_cons, List.sum_append, hws]
    rfl
  rw [← total]
  exact packFields_lt _

/-- Above the opcode lie the fields of the header, then those of the body. -/
theorem cutWord_packWord (opc : Nat) (h : Hdr) (hl : ws.length = vs.length) :
    cutWord ws (packWord opc h ws vs) = (cutTo hdrWidths (hdrFields h), cutTo ws vs ++ [0]) := by
  have above : packWord opc h ws vs / 256 = packFields (hdrWidths.zip (hdrFields h) ++ ws.zip vs) := by
    rw [packWord, packFields, show (2 : Nat) ^ 8 = 256 from rfl, Nat.add_mul_div_left _ _ (by decide),
      Nat.div_eq_of_lt (Nat.mod_lt _ (by decide)), Nat.zero_add]
  unfold cutWord
  rw [above, ← map_fst_fields h hl, cutFields_packFields, List.map_append, List.append_assoc]
  rfl

end

theorem cutS_packWord (opc : Nat) (w : SWord) : cutS (packWord opc w.hdr sWidths (sFields w)) = some w := by
  unfold cutS
  rw [cutWord_packWord (ws := sWidths) (vs := sFields w) opc w.hdr rfl]
  simp only [readHdr_cutTo, Option.bind_some, readS_cutTo]

theorem cutM_packWord (opc : Nat) (w : MWord) : cutM (packWord opc w.hdr mWidths (mFields w)) = some w := by
  unfold cutM
  rw [cutWord_packWord (ws := mWidths) (vs := mFields w) opc w.hdr rfl]
  simp only [readHdr_cutTo, Option.bind_some, readM_cutTo]

theorem cutT_packWord (opc : Nat) (w : TWord) : cutT (packWord opc w.hdr tWidths (tFields w)) = some w := by
  unfold cutT
  rw [cutWord_packWord (ws := tWidths) (vs := tFields w) opc w.hdr rfl]
  simp only [readHdr_cutTo, Option.bind_some, readT_cutTo]

/-! ### Header and body, laid out again from what was read -/

/-- Each value of a field list fits its width. -/
def Fits : List Nat → List Nat → Prop
  | w :: ws, v :: vs => v < 2 ^ w ∧ Fits ws vs
  | _, _ => True

theorem fits_cutFields : ∀ (ws : List Nat) (n : Nat), Fits ws (cutFields ws n)
  | [], _ => trivial
  | w :: ws, n => ⟨Nat.mod_lt _ (Nat.two_pow_pos w), fits_cutFields ws (n / 2 ^ w)⟩

theorem fits_append : ∀ {ws vs ws' vs' : List Nat}, ws.length = vs.length → Fits (ws ++ ws') (vs ++ vs') →
    Fits ws vs ∧ Fits ws' vs'
  | [], [], _, _, _, h => ⟨trivial, h⟩
  | _ :: _, _ :: _, _, _, hl, ⟨hfield, h⟩ =>
    have ⟨hhead, htail⟩ := fits_append (Nat.succ.inj hl) h
    ⟨⟨hfield, hhead⟩, htail⟩

theorem hdrFields_of_readHdr {vs : List Nat} {h : Hdr} (hr : readHdr vs = some h) (hv : Fits hdrWidths vs) :
    hdrFields h = vs := by
  unfold readHdr at hr
  split at hr
  · rename_i pred pneg rnd fmask sat r1 scale fd fa fb fc r2
    split at hr
    · cases hr
    · rename_i hres
      obtain ⟨hr1, hr2⟩ : r1 = 0 ∧ r2 = 0 := by omega
      cases hr
      obtain ⟨hpred, hpneg, hrnd, hfmask, hsat, -, hscale, hfd, hfa, hfb, hfc, -⟩ := hv
      simp only [hdrFields, BitVec.toNat_ofNat, Nat.mod_eq_of_lt, bitNat_beq_one hpneg, bitNat_beq_one hsat, *]
  · cases hr

theorem sFields_of_readS {h : Hdr} {vs : List Nat} {w : SWord} (hr : readS h vs = some w) (hv : Fits sWidths vs) :
    w.hdr = h ∧ sFields w ++ [0] = vs := by
  unfold readS at hr
  split at hr
  · rename_i sd sa sb r1 imm r2 top
    split at hr
    · cases hr
    · rename_i hres
      obtain ⟨hr1, hr2, htop⟩ : r1 = 0 ∧ r2 = 0 ∧ top = 0 := by omega
      cases hr
      obtain ⟨hsd, hsa, hsb, -, himm, -⟩ := hv
      refine ⟨rfl, ?_⟩
      simp only [sFields, BitVec.toNat_ofNat, Nat.mod_eq_of_lt, List.cons_append, List.nil_append, *]
  · cases hr

theorem mFields_of_readM {h : Hdr} {vs : List Nat} {w : MWord} (hr : readM h vs = some w) (hv : Fits mWidths vs) :
    w.hdr = h ∧ mFields w ++ [0] = vs := by
  unfold readM at hr
  split at hr
  · rename_i sd sa sb sc r1 imm32 param top
    split at hr
    · cases hr
    · rename_i hres
      obtain ⟨hr1, htop⟩ : r1 = 0 ∧ top = 0 := by omega
      cases hr
      obtain ⟨hsd, hsa, hsb, hsc, -, himm, hparam, -⟩ := hv
      refine ⟨rfl, ?_⟩
      simp only [mFields, BitVec.toNat_ofNat, Nat.mod_eq_of_lt, List.cons_append, List.nil_append, *]
  · cases hr

theorem tFields_of_readT {h : Hdr} {vs : List Nat} {w : TWord} (hr : readT h vs = some w) (hv : Fits tWidths vs) :
    w.hdr = h ∧ tFields w ++ [0] = vs := by
  unfold readT at hr
  split at hr
  · rename_i mm1 nm1 km1 engine r1 d a b c top
    split at hr
    · cases hr
    · rename_i hres
      obtain ⟨hr1, htop⟩ : r1 = 0 ∧ top = 0 := by omega
      cases hr
      obtain ⟨hmm1, hnm1, hkm1, hengine, -, hd, ha, hb, hc, -⟩ := hv
      refine ⟨rfl, ?_⟩
      simp only [tFields, BitVec.toNat_ofNat, Nat.mod_eq_of_lt, opdBits_readOpd, List.cons_append, List.nil_append, *]
  · cases hr

/-- Bits whose fields above the opcode are those of a header and a body are the word of that header and body. -/
theorem packWord_of_cutWord {n : Nat} {h : Hdr} {ws vs : List Nat}
    (hc : cutFields (hdrWidths ++ ws) (n / 256) = hdrFields h ++ (vs ++ [0])) : packWord (n % 256) h ws vs = n := by
  have whole : cutFields (8 :: (hdrWidths ++ ws)) n = (n % 256 :: (hdrFields h ++ vs)) ++ [0] := by
    rw [cutFields, show (2 : Nat) ^ 8 = 256 from rfl, hc]
    simp
  rw [packWord, ← List.zip_append (l₁ := hdrWidths) (l₂ := hdrFields h) rfl]
  exact packFields_cutFields (8 :: (hdrWidths ++ ws)) (n % 256 :: (hdrFields h ++ vs)) n whole

theorem length_cutFields : ∀ (ws : List Nat) (n : Nat), (cutFields ws n).length = ws.length + 1
  | [], _ => rfl
  | w :: ws, n => congrArg Nat.succ (length_cutFields ws (n / 2 ^ w))

section
variable {n : Nat} {ws : List Nat}

/-- The header's fields and the body's, each fitting its widths. -/
theorem fits_cutWord (ws : List Nat) (n : Nat) : Fits hdrWidths (cutWord ws n).1 ∧ Fits ws (cutWord ws n).2 := by
  refine fits_append ?_ ?_
  · simp [cutWord, hdrWidths, length_cutFields]
  · unfold cutWord
    rw [List.take_append_drop]
    exact fits_cutFields ..

/-- A word cut from bits, with its header and body read, is what those bits are. -/
theorem packWord_of_read {h : Hdr} {vs : List Nat} (hh : readHdr (cutWord ws n).1 = some h)
    (hb : vs ++ [0] = (cutWord ws n).2) : packWord (n % 256) h ws vs = n := by
  refine packWord_of_cutWord ?_
  rw [hdrFields_of_readHdr hh (fits_cutWord ws n).1, hb]
  exact (List.take_append_drop 12 _).symm

theorem packWord_of_cutS {w : SWord} (hw : cutS n = some w) : packWord (n % 256) w.hdr sWidths (sFields w) = n := by
  obtain ⟨h, hh, hs⟩ := Option.bind_eq_some_iff.1 hw
  obtain ⟨hhdr, hbody⟩ := sFields_of_readS hs (fits_cutWord sWidths n).2
  exact packWord_of_read (hhdr ▸ hh) hbody

theorem packWord_of_cutM {w : MWord} (hw : cutM n = some w) : packWord (n % 256) w.hdr mWidths (mFields w) = n := by
  obtain ⟨h, hh, hs⟩ := Option.bind_eq_some_iff.1 hw
  obtain ⟨hhdr, hbody⟩ := mFields_of_readM hs (fits_cutWord mWidths n).2
  exact packWord_of_read (hhdr ▸ hh) hbody

theorem packWord_of_cutT {w : TWord} (hw : cutT n = some w) : packWord (n % 256) w.hdr tWidths (tFields w) = n := by
  obtain ⟨h, hh, hs⟩ := Option.bind_eq_some_iff.1 hw
  obtain ⟨hhdr, hbody⟩ := tFields_of_readT hs (fits_cutWord tWidths n).2
  exact packWord_of_read (hhdr ▸ hh) hbody

end

/-! ### The words by opcode (Table Core-7) -/

/-- Command `i` is a control-core word on skein `k`, and `n` its encoding: one case for each body form. -/
inductive CoreBits (k : Skein) : Instr → Nat → Prop
  | formS {opc : Nat} {f : SWord → Instr} (h : opcodeS k opc = some f) {w : SWord} {n : Nat}
      (hn : packWord opc w.hdr sWidths (sFields w) = n) : CoreBits k (f w) n
  | formT {opc : Nat} {f : TWord → Instr} (h : opcodeT k opc = some f) {w : TWord} {n : Nat}
      (hn : packWord opc w.hdr tWidths (tFields w) = n) : CoreBits k (f w) n
  | formM {opc : Nat} {f : MWord → Instr} {w : MWord} (h : opcodeM k opc (frameFunc w) = some f) {n : Nat}
      (hn : packWord opc w.hdr mWidths (mFields w) = n) : CoreBits k (f w) n

section
variable {k : Skein} {opc : Nat}

theorem opcodeS_some {f : SWord → Instr} (h : opcodeS k opc = some f) (w : SWord) :
    opc < 256 ∧ encodeWord (f w) = some (packWord opc w.hdr sWidths (sFields w)) := by
  unfold opcodeS at h
  split at h <;> cases h <;> exact ⟨by decide, rfl⟩

theorem opcodeT_some {f : TWord → Instr} (h : opcodeT k opc = some f) (w : TWord) :
    opc < 256 ∧ opcodeS k opc = none ∧ encodeWord (f w) = some (packWord opc w.hdr tWidths (tFields w)) := by
  unfold opcodeT at h
  split at h <;> cases h <;> exact ⟨by decide, rfl, rfl⟩

theorem opcodeM_some {func : Nat} {f : MWord → Instr} (h : opcodeM k opc func = some f) (w : MWord) :
    opc < 256 ∧ opcodeS k opc = none ∧ opcodeT k opc = none ∧
      encodeWord (f w) = some (packWord opc w.hdr mWidths (mFields w)) := by
  unfold opcodeM at h
  split at h <;> cases h <;> exact ⟨by decide, rfl, rfl, rfl⟩

theorem encodeWord_of_coreBits {i : Instr} {n : Nat} (h : CoreBits k i n) : encodeWord i = some n := by
  cases h with
  | formS h hn => exact hn ▸ (opcodeS_some h _).2
  | formT h hn =>
    obtain ⟨-, -, hencode⟩ := opcodeT_some h _
    exact hn ▸ hencode
  | formM h hn =>
    obtain ⟨-, -, -, hencode⟩ := opcodeM_some h _
    exact hn ▸ hencode

/-- The bits that encode a control-core word decode to it. -/
theorem decodeWord_of_coreBits {i : Instr} {n : Nat} (h : CoreBits k i n) : n < 2 ^ 256 ∧ decodeWord k n = some i := by
  cases h with
  | @formS opc f h w n hn =>
    obtain ⟨hlt, -⟩ := opcodeS_some h w
    rw [← hn]
    refine ⟨packWord_lt opc w.hdr rfl rfl, ?_⟩
    unfold decodeWord
    simp only [packWord_mod, Nat.mod_eq_of_lt hlt, h, cutS_packWord, Option.map_some]
  | @formT opc f h w n hn =>
    obtain ⟨hlt, hS, -⟩ := opcodeT_some h w
    rw [← hn]
    refine ⟨packWord_lt opc w.hdr rfl rfl, ?_⟩
    unfold decodeWord
    simp only [packWord_mod, Nat.mod_eq_of_lt hlt, hS, h, cutT_packWord, Option.map_some]
  | @formM opc f w h n hn =>
    obtain ⟨hlt, hS, hT, -⟩ := opcodeM_some h w
    rw [← hn]
    refine ⟨packWord_lt opc w.hdr rfl rfl, ?_⟩
    unfold decodeWord
    simp only [packWord_mod, Nat.mod_eq_of_lt hlt, hS, hT, cutM_packWord, h, Option.map_some]

/-- Bits that decode to a command are those of a control-core word. -/
theorem coreBits_of_decodeWord {i : Instr} {n : Nat} (h : decodeWord k n = some i) : CoreBits k i n := by
  unfold decodeWord at h
  dsimp only at h
  split at h
  next f hf =>
    obtain ⟨w, hw, rfl⟩ := Option.map_eq_some_iff.1 h
    exact .formS hf (packWord_of_cutS hw)
  next =>
    split at h
    next f hf =>
      obtain ⟨w, hw, rfl⟩ := Option.map_eq_some_iff.1 h
      exact .formT hf (packWord_of_cutT hw)
    next =>
      split at h
      next w hw =>
        obtain ⟨f, hf, rfl⟩ := Option.map_eq_some_iff.1 h
        exact .formM hf (packWord_of_cutM hw)
      next => cases h

/-! ### The functions of FRAME (Table Media-2) -/

theorem frameFunc_of_legalOpen {w : MWord} (h : legalFrameOpen w = true) : frameFunc w = 0 := by
  simp only [legalFrameOpen, Bool.and_eq_true, beq_iff_eq] at h
  obtain ⟨⟨⟨-, himm⟩, -⟩, -⟩ := h
  rw [frameFunc, immBits, himm]
  rfl

theorem frameFunc_of_legalNext {w : MWord} (h : legalFrameNext w = true) : frameFunc w = 1 := by
  simp only [legalFrameNext, Bool.and_eq_true, beq_iff_eq] at h
  obtain ⟨⟨-, himm⟩, -⟩ := h
  rw [frameFunc, immBits, himm]
  rfl

theorem frameFunc_of_legalRead {w : MWord} (h : legalFrameRead w = true) : frameFunc w = 2 := by
  simp only [legalFrameRead, Bool.and_eq_true, beq_iff_eq] at h
  obtain ⟨⟨⟨⟨⟨-, hfunc⟩, -⟩, -⟩, -⟩, -⟩ := h
  exact hfunc

theorem frameFunc_of_legalClose {w : MWord} (h : legalFrameClose w = true) : frameFunc w = 3 := by
  simp only [legalFrameClose, Bool.and_eq_true, beq_iff_eq] at h
  obtain ⟨⟨-, himm⟩, -⟩ := h
  rw [frameFunc, immBits, himm]
  rfl

/-- A well-formed command that has an encoding is a control-core word of one of the forms; the function of a FRAME word is the one
its opcode row names. -/
theorem coreBits_of_encodeWord {i : Instr} {n : Nat} (hwf : i.wf = true) (h : encodeWord i = some n) : ∃ k, CoreBits k i n := by
  unfold encodeWord at h
  split at h
  case h_62 => cases h
  case h_1 | h_2 | h_3 | h_4 | h_5 | h_6 | h_7 | h_8 | h_9 | h_10 | h_11 | h_12 | h_13 | h_14 | h_15 | h_16 | h_17 | h_18 |
      h_19 | h_20 | h_21 | h_22 | h_23 | h_24 | h_25 | h_26 | h_27 | h_28 | h_29 | h_30 | h_31 | h_32 | h_33 =>
    exact ⟨_, .formS (by rfl) (Option.some.inj h)⟩
  case h_34 | h_35 | h_36 | h_37 | h_38 | h_39 | h_40 =>
    exact ⟨_, .formT (by rfl) (Option.some.inj h)⟩
  case h_58 =>
    exact ⟨_, .formM (by rw [frameFunc_of_legalOpen hwf]; rfl) (Option.some.inj h)⟩
  case h_59 =>
    exact ⟨_, .formM (by rw [frameFunc_of_legalNext hwf]; rfl) (Option.some.inj h)⟩
  case h_60 =>
    exact ⟨_, .formM (by rw [frameFunc_of_legalRead hwf]; rfl) (Option.some.inj h)⟩
  case h_61 =>
    exact ⟨_, .formM (by rw [frameFunc_of_legalClose hwf]; rfl) (Option.some.inj h)⟩
  all_goals exact ⟨_, .formM (by rfl) (Option.some.inj h)⟩

end

/-- Every control-core word has an encoding. -/
theorem encodeWord_isSome {i : Instr} (h : (coreWord i).isSome = true) : (encodeWord i).isSome = true := by
  unfold coreWord at h
  split at h
  all_goals first | rfl | cases h

/-- Settles O52, through the three body forms. -/
theorem coreWordsDecodeAsEncoded : Obligations.CoreWordsDecodeAsEncoded := by
  refine ⟨fun i => encodeWord_isSome, fun i n hwf h => ?_, fun k n i _ h => encodeWord_of_coreBits (coreBits_of_decodeWord h)⟩
  obtain ⟨k, hbits⟩ := coreBits_of_encodeWord hwf h
  obtain ⟨hlt, hdecode⟩ := decodeWord_of_coreBits hbits
  exact ⟨hlt, k, hdecode⟩

end Sys2Proof
end

section
/-! SUPPORT. One idle microsecond: device time with its corrections, the cycle counters, and what a rebuild's walk and a change of
quality leave alone (O60). -/

namespace Sys2Proof.Machine

/-! ### Device time (R564, R581) -/

theorem toNat_timeNat {n : Nat} (h : n < 2 ^ 64) : (timeNat n).toNat = n := by
  rw [timeNat, if_pos h, BitVec.toNat_ofNat, Nat.mod_eq_of_lt h]

/-- Device time holds at its last value, and never goes back. -/
theorem le_toNat_timeNat (v : BitVec 64) {n : Nat} (h : v.toNat ≤ n) : v.toNat ≤ (timeNat n).toNat := by
  by_cases hn : n < 2 ^ 64
  · rwa [toNat_timeNat hn]
  · have hv := v.isLt
    rw [timeNat, if_neg hn, BitVec.toNat_allOnes]
    omega

/-- Picoseconds of one microsecond with its corrections. -/
def idlePs (c : ClockSt) : Int := c.frac + 1000000 + slewPart c.slew - debtPart c.debt

theorem idlePs_nonneg (c : ClockSt) : 0 ≤ idlePs c := by
  unfold idlePs slewPart debtPart
  omega

/-- The clock after one idle microsecond. -/
def idleClock (c : ClockSt) : ClockSt := runTime { c with elapsed := c.elapsed + 1000 }

theorem idleClock_time (c : ClockSt) : (idleClock c).time = timeNat (c.time.toNat + (idlePs c).toNat / 1000) := by
  have order : (c.frac + 1000000 - debtPart c.debt + slewPart c.slew : Int) = idlePs c := by
    unfold idlePs
    omega
  rw [← order]
  rfl

/-- Device time goes on by the whole nanoseconds of the microsecond and what it keeps below them. -/
theorem idleClock_time_exact {c : ClockSt} (h : c.time.toNat + idlePs c / 1000 < 2 ^ 64) :
    ((idleClock c).time.toNat : Int) = c.time.toNat + idlePs c / 1000 := by
  have hps := idlePs_nonneg c
  rw [idleClock_time, toNat_timeNat (by omega)]
  omega

theorem idleClock_time_le (c : ClockSt) : c.time.toNat ≤ (idleClock c).time.toNat := by
  rw [idleClock_time]
  exact le_toNat_timeNat _ (Nat.le_add_right ..)

section
variable (s : State)

/-! ### What one idle microsecond leaves alone -/

/-- Time, device memory, launches, the queue and the counters: what a walk of a rebuild and a change of quality do not touch but for
the quality. -/
def idleOf (s : State) : ClockSt × NMap Byte × List Launch × List Instr × NMap Nat :=
  (s.clk, s.mem, s.launches, s.pending, s.tlm.counters)

theorem idleOf_walkRebuild (i : Nat) : idleOf (walkRebuild s i) = idleOf s := by
  unfold walkRebuild
  split
  · rfl
  split <;> rfl

/-- The chip after one idle microsecond, but for the quality of a device time that has reached its end. -/
def idleRun (s : State) : State :=
  (List.range 8).foldl walkRebuild (runCounters { s with clk := idleClock s.clk })

theorem idleOf_idleRun : idleOf (idleRun s) =
    idleOf (runCounters { s with clk := idleClock s.clk }) :=
  foldl_keeps idleOf walkRebuild _ (fun s i _ => idleOf_walkRebuild s i) _

theorem tick_powered (h : s.mdl.powered = true) :
    tick s = if (idleRun s).clk.time = BitVec.allOnes 64 then setQuality (idleRun s) 2 else idleRun s := by
  simp only [tick, h, Bool.not_true, Bool.false_eq_true, if_false]
  rfl

theorem tick_unpowered (h : s.mdl.powered = false) :
    tick s = { s with clk := { s.clk with elapsed := s.clk.elapsed + 1000 } } := by
  simp [tick, h]

/-- A change of quality leaves time and its corrections. -/
theorem setQuality_keeps (q : BitVec 2) : ∃ quality qualityAt lockedOnce,
    idleOf (setQuality s q) = idleOf { s with clk := { s.clk with quality, qualityAt, lockedOnce } } := by
  unfold setQuality
  split
  · exact ⟨s.clk.quality, s.clk.qualityAt, s.clk.lockedOnce, rfl⟩
  · exact ⟨q, s.clk.elapsed, s.clk.lockedOnce || q == 0, by simp [idleOf]⟩

/-- Time, device memory, launches, the queue and the counters after one idle microsecond of a powered module. -/
theorem idleOf_tick (h : s.mdl.powered = true) : ∃ quality qualityAt lockedOnce,
    idleOf (tick s) = ({ idleClock s.clk with quality, qualityAt, lockedOnce }, s.mem, s.launches, s.pending,
      (runCounters s).tlm.counters) := by
  obtain ⟨quality, qualityAt, lockedOnce, htick⟩ : ∃ quality qualityAt lockedOnce,
      idleOf (tick s) = idleOf { idleRun s with clk := { (idleRun s).clk with quality, qualityAt, lockedOnce } } := by
    rw [tick_powered s h]
    generalize idleRun s = u
    split
    · exact setQuality_keeps ..
    · exact ⟨u.clk.quality, u.clk.qualityAt, u.clk.lockedOnce, rfl⟩
  have hrun := idleOf_idleRun s
  refine ⟨quality, qualityAt, lockedOnce, htick.trans ?_⟩
  generalize idleRun s = u at hrun
  simp only [idleOf, Prod.mk.injEq] at hrun ⊢
  obtain ⟨hclk, hmem, hlaunches, hpending, hcounters⟩ := hrun
  rw [hclk, hmem, hlaunches, hpending, hcounters]
  exact ⟨rfl, rfl, rfl, rfl, rfl⟩

/-! ### The cycle counters (Table Reg-11) -/

/-- An event counter counts its own events only. -/
theorem nget_countEvent (i n j : Nat) : nget 0 (countEvent s i n).tlm.counters j =
    if j = i then (nget 0 s.tlm.counters i + n) % 2 ^ 48 else nget 0 s.tlm.counters j := by
  rw [countEvent_tlm, nget_nmod]

end

/-- Settles O60: the clock of a powered module runs and counts, an unpowered die's only tells how long it has been so. -/
theorem idleMicrosecondRunsTheClocks : Obligations.IdleMicrosecondRunsTheClocks := by
  intro s hp
  refine ⟨tick s, by simp [step, hp], ?_⟩
  cases hpow : s.mdl.powered with
  | false =>
    rw [tick_unpowered s hpow]
    exact ⟨rfl, rfl, rfl, hp, fun _ => rfl, nofun⟩
  | true =>
    obtain ⟨quality, qualityAt, lockedOnce, htick⟩ := idleOf_tick s hpow
    simp only [idleOf, Prod.mk.injEq] at htick
    obtain ⟨hclk, hmem, hlaunches, hpending, hcounters⟩ := htick
    rw [hclk, hmem, hlaunches, hpending, hcounters]
    refine ⟨rfl, rfl, rfl, hp, nofun, fun _ => ⟨idleClock_time_exact, idleClock_time_le _, rfl, rfl, ?_⟩⟩
    simp only [runCounters, nget_countEvent]
    exact ⟨rfl, rfl, rfl⟩

end Sys2Proof.Machine
end

section
/-! SUPPORT. A frame sealed under the session's key passes every check and opens to its payload (O59). -/

namespace Sys2Proof.Machine

/-- A slice of a frame's header is a slice of the frame. -/
theorem slice_sealFrame (k h p : Bytes) (hh : h.length = 32) {off n : Nat} (ho : off + n ≤ 32) :
    slice (sealFrame k h p) off n = slice h off n := by
  unfold sealFrame
  simp only [List.append_assoc]
  exact slice_append_left _ (by omega)

section
variable {s : State} {p : Nat} {gk h payload : Bytes}

/-- A frame opens under the first group key where it was sealed under the link key that this key gives. -/
theorem openPayload_sealFrame (hgk : (groupKeys s).head? = some gk) (hh : h.length = 32) (hlen : fld h 24 2 = payload.length) :
    openPayload s p (sealFrame (linkKey gk (fld h 16 8) (getP s p).partner (ownMember s) (getP s p).theirs (getP s p).own) h payload) =
      some payload := by
  obtain ⟨rest, hkeys⟩ : ∃ rest, groupKeys s = gk :: rest := List.head?_eq_some_iff.1 hgk
  have opens := gcmOpen_sealFrame
    (linkKey gk (fld h 16 8) (getP s p).partner (ownMember s) (getP s p).theirs (getP s p).own) h payload hh
  unfold openPayload
  rw [hkeys, List.findSome?_cons]
  simp only [fld_sealFrame _ h payload hh (show 16 + 8 ≤ 32 by decide), fld_sealFrame _ h payload hh (show 24 + 2 ≤ 32 by decide),
    slice_sealFrame _ h payload hh (show 8 + 8 ≤ 32 by decide), hlen, opens]

end

/-- Settles O59: the header's fields are those it was made of, and sealing and opening are inverse. -/
theorem framesOpenAsTheyWereSealed : Obligations.FramesOpenAsTheyWereSealed := by
  intro s p gk payload kind flags sender receiver seq counter epoch q h frame
  have hh : h.length = 32 := length_frameHeader ..
  have hlength : frame.length = payload.length + 52 := length_sealFrame _ h payload hh
  have hcrc : crcOk frame = true := crcOk_sealFrame _ h payload hh
  refine ⟨hlength, hcrc, fun hup hpower hgk hkind hlen hcounter hepoch holder hnewer hcount => ?_⟩
  have field {off n v : Nat} (ho : off + n ≤ 32) (hv : fld h off n = v) : fld frame off n = v :=
    (fld_sealFrame _ h payload hh ho).trans hv
  obtain ⟨fkind, -, -, -, fcounter, fepoch, flen⟩ := frameHeader_fields kind flags sender receiver seq counter epoch payload.length
  rw [Nat.mod_eq_of_lt (by omega)] at fkind fcounter fepoch flen
  have kindField : fld frame 0 1 = kind := field (by decide) fkind
  have counterField : fld frame 8 8 = counter := field (by decide) fcounter
  have epochField : fld frame 16 8 = epoch := field (by decide) fepoch
  have lenField : fld frame 24 2 = payload.length := field (by decide) flen
  have opened : openPayload s p.val frame = some payload := by
    have opens := openPayload_sealFrame (s := s) (p := p.val) hgk hh flen
    rwa [show fld h 16 8 = epoch from fepoch] at opens
  refine ⟨hup, hpower, hcrc, kindField, ?_, ?_, ?_, ?_, ?_, opened⟩
  · rwa [lenField]
  · rw [lenField, hlength, Nat.add_comm]
  · rwa [epochField]
  · rwa [epochField]
  · rwa [counterField]

end Sys2Proof.Machine
end

section
/-! SUPPORT. Lanyard ports: the mode that a port rests in, and what training again leaves (O44, O48). -/

namespace Sys2Proof.Machine

section
variable {s : State} {p : Nat}

/-! ### The mode a port rests in (R430, R431, R563) -/

theorem restMode_noWidth (h : usableLanes (getP s p).retired = 0) : restMode s p = .outOfService := if_pos h

theorem restMode_down (hw : usableLanes (getP s p).retired ≠ 0)
    (h : rget s Reg.portEnable p = 0 ∨ s.clk.tripped.getLsbD (2 + p) = true) : restMode s p = .down := by
  rw [restMode, if_neg hw, if_pos h]

theorem restMode_training (hw : usableLanes (getP s p).retired ≠ 0) (he : rget s Reg.portEnable p ≠ 0)
    (ht : s.clk.tripped.getLsbD (2 + p) = false) : restMode s p = .training := by
  rw [restMode, if_neg hw, if_neg]
  simp [he, ht]

/-! ### Training again (R409, R430) -/

variable (s p)

theorem portRetrain_mode : (getP (portRetrain s p) p).mode = restMode s p := by
  unfold portRetrain
  rw [getP_modP_self]

theorem portRetrain_retired : (getP (portRetrain s p) p).retired = (getP s p).retired := by
  unfold portRetrain
  rw [getP_modP_self]
  change (overEpisode s.clk.elapsed (getP s p)).retired = _
  unfold overEpisode
  split <;> rfl

theorem getP_portRetrain_ne {j : Nat} (h : j ≠ p) : getP (portRetrain s p) j = getP s j := getP_modP_ne _ _ h

@[simp] theorem portRetrain_clk : (portRetrain s p).clk = s.clk := rfl
@[simp] theorem portRetrain_regs : (portRetrain s p).regs = s.regs := rfl
@[simp] theorem portRetrain_hst : (portRetrain s p).hst = s.hst := rfl

variable {s p}

/-- A port in quarantine or out of service stays there; another one trains again. -/
theorem retrainPort_eq (hq : (getP s p).mode ≠ .quarantined) (ho : (getP s p).mode ≠ .outOfService) :
    retrainPort s p = portRetrain s p := by
  unfold retrainPort
  split
  · exact absurd ‹_› hq
  · exact absurd ‹_› ho
  · rfl

@[simp] theorem retrainPort_clk : (retrainPort s p).clk = s.clk := by
  unfold retrainPort
  split <;> rfl

end

end Sys2Proof.Machine
end

section
/-! SUPPORT. Clocks: a change of quality, of device time and of its correction, the monitors, and each source's events (O48). -/

namespace Sys2Proof.Machine

section
variable (s : State)

/-! ### The quality of device time (R567) -/

@[simp] theorem setQuality_quality (q : BitVec 2) : (setQuality s q).clk.quality = q := by
  unfold setQuality
  split
  · assumption
  · rw [msix_clk]

/-- Device time, its correction and its source's state: what a change of quality leaves. -/
def sourceOfTime (c : ClockSt) : BitVec 64 × Int × Nat × Nat × Option Nat × Bool × BitVec 12 × List (Nat × Nat) :=
  (c.time, c.slew, c.debt, c.good, c.lastPps, c.stepDue, c.tripped, c.trips)

theorem setQuality_source (q : BitVec 2) : sourceOfTime (setQuality s q).clk = sourceOfTime s.clk := by
  unfold setQuality
  split
  · rfl
  · rw [msix_clk]
    rfl

@[simp] theorem setQuality_hst (q : BitVec 2) : (setQuality s q).hst = s.hst := by
  unfold setQuality
  split
  · rfl
  · rw [msix_hst]

/-- A chip that loses its lock counts no good edge; it is in HOLDOVER where it was LOCKED. -/
theorem loseLock_eq : loseLock s =
    if s.clk.quality = 0 then setQuality { s with clk := { s.clk with good := 0 } } 1 else { s with clk := { s.clk with good := 0 } } :=
  rfl

theorem loseLock_quality (h : s.clk.quality = 0) : (loseLock s).clk.quality = 1 := by
  rw [loseLock_eq, if_pos h, setQuality_quality]

theorem loseLock_source : sourceOfTime (loseLock s).clk = sourceOfTime { s.clk with good := 0 } := by
  rw [loseLock_eq]
  split
  · exact setQuality_source ..
  · rfl

@[simp] theorem loseLock_hst : (loseLock s).hst = s.hst := by
  rw [loseLock_eq]
  split
  · exact setQuality_hst ..
  · rfl

/-! ### Corrections and steps (R564, R565) -/

theorem correct_slews {ns : Int} (h : ns.natAbs ≤ 1000) :
    correct s ns = { s with clk := { s.clk with slew := ns * 1000, debt := 0 } } := if_pos h

/-- A step forward is taken at once, a step back absorbed. -/
theorem stepBy_forward {v w : Nat} (h : v < w) (hv : s.clk.time.toNat = v) (hw : w < 2 ^ 64) :
    (stepBy s ((w : Int) - v)).clk.time.toNat = w ∧ (stepBy s ((w : Int) - v)).clk.debt = 0 := by
  have forward : 0 < (w : Int) - v := by omega
  have steps : s.clk.time.toNat + ((w : Int) - v).toNat = w := by omega
  unfold stepBy
  rw [logErr_clk]
  dsimp only
  rw [if_pos forward, if_neg (by omega), steps, timeNat, if_pos hw, BitVec.toNat_ofNat, Nat.mod_eq_of_lt hw]
  exact ⟨rfl, rfl⟩

theorem stepBy_back {v w : Nat} (h : w ≤ v) :
    (stepBy s ((w : Int) - v)).clk.time = s.clk.time ∧ (stepBy s ((w : Int) - v)).clk.debt = (v - w) * 1000 := by
  have back : ¬ 0 < (w : Int) - v := by omega
  unfold stepBy
  rw [logErr_clk]
  dsimp only
  rw [if_neg back]
  refine ⟨rfl, ?_⟩
  split <;> omega

/-! ### Clock monitors (R558, R561, R563) -/

/-- The clock of a chip whose reference n has tripped. -/
def trippedClock (c : ClockSt) (n : Nat) : ClockSt :=
  { c with tripped := c.tripped ||| BitVec.twoPow 12 n,
           trips := (n, c.elapsed) :: c.trips.filter (fun t => decide (c.elapsed ≤ t.2 + 60 * second)) }

/-- A reference in trip, with its entries in the log. -/
def tripLogged (n : Nat) : State :=
  let s1 := logErr { s with clk := trippedClock s.clk n } Err.clockTrip noTenant n 0
  if (tripsOf s1 n).length < 3 then s1 else logErr s1 Err.clockUnstable noTenant n 0

section
variable (n : Nat)

@[simp] theorem tripLogged_clk : (tripLogged s n).clk = trippedClock s.clk n := by unfold tripLogged; dsimp only; split <;> simp
@[simp] theorem tripLogged_hst : (tripLogged s n).hst = s.hst := by unfold tripLogged; dsimp only; split <;> simp
@[simp] theorem tripLogged_glb : (tripLogged s n).glb = s.glb := by unfold tripLogged; dsimp only; split <;> simp
@[simp] theorem tripLogged_jrn : (tripLogged s n).jrn = s.jrn := by unfold tripLogged; dsimp only; split <;> simp
@[simp] theorem tripLogged_regs : (tripLogged s n).regs = s.regs := by unfold tripLogged; dsimp only; split <;> simp
@[simp] theorem tripLogged_ports : (tripLogged s n).ports = s.ports := by unfold tripLogged; dsimp only; split <;> simp

end

theorem rget_congr {s t : State} (h : t.regs = s.regs) (f : RegField) (i : Nat) : rget t f i = rget s f i := by
  unfold rget
  rw [h]

theorem rget_tripLogged (n : Nat) (f : RegField) (i : Nat) : rget (tripLogged s n) f i = rget s f i :=
  rget_congr (tripLogged_regs ..) f i

theorem getP_tripLogged (n p : Nat) : getP (tripLogged s n) p = getP s p := by
  unfold getP
  rw [tripLogged_ports]

/-- The next TBPPS edge steps device time to a whole second (R566). -/
def stepAtNextEdge (u : State) : State := { u with clk := { u.clk with stepDue := true } }

/-- MODREF is gone: the chip runs in holdover (R559). -/
def enterHoldover (u : State) : State := { u with clk := { u.clk with holdover := true } }

theorem exec_clockMonitorTrip (ref : Ref) : exec (.clockMonitorTrip ref) s = .next (
    let u := tripLogged s (refBit ref)
    match ref with
    | .modref => enterHoldover u
    | .pcie => pcieReset 3 u
    | .lny p => holdDown u p.val
    | .tbclk => if rget u Reg.timeSrc = 2 then loseLock (stepAtNextEdge u) else stepAtNextEdge u
    | .tbpps => u) := by
  cases ref <;> rfl

/-- What a trip leaves of the monitors. -/
def InTrip (s t : State) (n : Nat) : Prop :=
  t.clk.tripped = s.clk.tripped ||| BitVec.twoPow 12 n ∧ (n, s.clk.elapsed) ∈ t.clk.trips

theorem inTrip_of_clk {t : State} {n : Nat} (h : t.clk.tripped = (trippedClock s.clk n).tripped)
    (ht : t.clk.trips = (trippedClock s.clk n).trips) : InTrip s t n := by
  refine ⟨h, ?_⟩
  rw [ht]
  exact List.mem_cons_self

/-- TBCLK in trip: the next edge is a step, and a locked TB chip loses its lock. -/
theorem tbclk_trips : ∃ t, exec (.clockMonitorTrip .tbclk) s = .next t ∧ InTrip s t 10 ∧ t.clk.stepDue = true ∧
    (rget s Reg.timeSrc = 2 → s.clk.quality = 0 → t.clk.quality = 1) := by
  refine ⟨_, exec_clockMonitorTrip s .tbclk, ?_⟩
  have hclk : (stepAtNextEdge (tripLogged s 10)).clk = { trippedClock s.clk 10 with stepDue := true } := by
    rw [stepAtNextEdge, tripLogged_clk]
  simp only [refBit, rget_tripLogged]
  split
  · have kept := loseLock_source (stepAtNextEdge (tripLogged s 10))
    simp only [sourceOfTime, hclk, Prod.mk.injEq] at kept
    obtain ⟨-, -, -, -, -, hstep, htripped, htrips⟩ := kept
    exact ⟨inTrip_of_clk s htripped htrips, hstep, fun _ hq => loseLock_quality _ (by rw [hclk]; exact hq)⟩
  · exact ⟨inTrip_of_clk s (by rw [hclk]) (by rw [hclk]), by rw [hclk], fun h => absurd h ‹_›⟩

/-- A port whose reference trips goes down, where it has lanes left and is in service. -/
theorem lny_trips (p : Port) : ∃ t, exec (.clockMonitorTrip (.lny p)) s = .next t ∧ InTrip s t (2 + p.val) ∧
    ((getP s p.val).mode ≠ .quarantined → (getP s p.val).mode ≠ .outOfService →
      usableLanes (getP s p.val).retired ≠ 0 → (getP t p.val).mode = .down) := by
  refine ⟨_, exec_clockMonitorTrip s (.lny p), ?_, fun hq ho hw => ?_⟩
  · exact inTrip_of_clk s (by simp [holdDown, refBit]) (by simp [holdDown, refBit])
  · rw [← getP_tripLogged s (2 + p.val)] at hq ho hw
    simp only [refBit, holdDown]
    rw [retrainPort_eq hq ho, portRetrain_mode, restMode_down hw (.inr ?_)]
    have hp := p.isLt
    simp [trippedClock]
    omega

theorem trips (ref : Ref) (href : ref ≠ .pcie) : ∃ t, exec (.clockMonitorTrip ref) s = .next t ∧
    t.clk.tripped = s.clk.tripped ||| BitVec.twoPow 12 (refBit ref) ∧ (refBit ref, s.clk.elapsed) ∈ t.clk.trips ∧
    (ref = .modref → t.clk.holdover = true) ∧
    (ref = .tbclk → t.clk.stepDue = true ∧ (rget s Reg.timeSrc = 2 → s.clk.quality = 0 → t.clk.quality = 1)) ∧
    ∀ p, ref = .lny p → (getP s p.val).mode ≠ .quarantined → (getP s p.val).mode ≠ .outOfService →
      usableLanes (getP s p.val).retired ≠ 0 → (getP t p.val).mode = .down := by
  cases ref with
  | modref =>
    obtain ⟨htripped, htrips⟩ := inTrip_of_clk s (n := 0)
      (t := enterHoldover (tripLogged s 0)) (by simp [enterHoldover]) (by simp [enterHoldover])
    exact ⟨_, exec_clockMonitorTrip s .modref, htripped, htrips, fun _ => rfl, nofun, nofun⟩
  | pcie => exact absurd rfl href
  | lny p =>
    obtain ⟨t, hexec, ⟨htripped, htrips⟩, hdown⟩ := lny_trips s p
    exact ⟨t, hexec, htripped, htrips, nofun, nofun, fun p' hp' => Ref.lny.inj hp' ▸ hdown⟩
  | tbclk =>
    obtain ⟨t, hexec, ⟨htripped, htrips⟩, hstep, hlost⟩ := tbclk_trips s
    exact ⟨t, hexec, htripped, htrips, nofun, fun _ => ⟨hstep, hlost⟩, nofun⟩
  | tbpps =>
    obtain ⟨htripped, htrips⟩ := inTrip_of_clk s (n := 11) (t := tripLogged s 11) (by simp) (by simp)
    exact ⟨_, exec_clockMonitorTrip s .tbpps, htripped, htrips, nofun, nofun, nofun⟩

/-! ### The PCIe reference in trip (R562) -/

theorem canRetain_congr {u : State} (hg : u.glb = s.glb) (hh : u.hst = s.hst) (hj : u.jrn = s.jrn) : canRetain u = canRetain s := by
  unfold canRetain
  rw [hg, hh, hj]

theorem fullReset_cause (cause : Nat) : (fullReset cause s).clk.cause = BitVec.ofNat 8 cause := rfl

/-- A PCIe reset of a live chip that keeps nothing over it. -/
theorem pcieReset_keepsNothing (cause : Nat) (hlive : ¬ (s.glb.phase = 0 ∨ s.hst.down = true ∨ s.jrn.powerFail = true))
    (hret : rget s Reg.retention = 0) : pcieReset cause s = fullReset cause (linkLost (timeLost s)) := by
  unfold pcieReset
  dsimp only
  rw [if_neg hlive, if_pos hret]
  rfl

theorem pcieReset_cause (cause : Nat) (h : canRetain s = true ∨
    (rget s Reg.retention = 0 ∧ s.glb.phase ≠ 0 ∧ s.hst.down = false ∧ s.jrn.powerFail = false)) :
    (pcieReset cause s).clk.cause = BitVec.ofNat 8 cause := by
  rcases h with hup | ⟨hret, hphase, hdown, hpower⟩
  · rw [pcieReset_eq s cause hup]
    split
    · exact fullReset_cause ..
    · obtain ⟨-, hcause, -⟩ := enterRetention_leaves (linkLost (timeLost s)) cause
      exact hcause
  · rw [pcieReset_keepsNothing s cause (fun h => ?_) hret, fullReset_cause]
    rw [hdown, hpower] at h
    exact h.elim hphase (by decide)

/-- A chip that is down, or in a power-fail sequence, only loses the link and its source of time. -/
theorem pcieReset_notLive (cause : Nat) (h : s.glb.phase = 0 ∨ s.hst.down = true ∨ s.jrn.powerFail = true) :
    pcieReset cause s = linkLost (timeLost s) := if_pos h

theorem timeLost_tripped : (timeLost s).clk.tripped = s.clk.tripped := by
  unfold timeLost
  split
  · have kept := loseLock_source s
    simp only [sourceOfTime, Prod.mk.injEq] at kept
    obtain ⟨-, -, -, -, -, -, htripped, -⟩ := kept
    exact htripped
  · rfl

/-! ### A reference that is clean again (R561) -/

/-- The clock of a chip whose reference n is in trip no longer. -/
def outOfTrip (s : State) (n : Nat) : State :=
  { s with clk := { s.clk with tripped := s.clk.tripped &&& ~~~(BitVec.twoPow 12 n) } }

/-- The reference's own return to use. -/
def backInUse (s : State) : Ref → State
  | .modref => { s with clk := { s.clk with holdover := false } }
  | .lny p => if (getP s p.val).mode = .down then portRetrain s p.val else s
  | .tbclk => { s with clk := { s.clk with stepDue := true } }
  | .pcie | .tbpps => s

theorem exec_holdoverExit {ref : Ref} {ppm : Int} (ht : s.clk.tripped.getLsbD (refBit ref) = true)
    (hc : refClean s (refBit ref) = true) (hppm : ppm.natAbs ≤ 200) :
    exec (.holdoverExit ref ppm) s = .next (backInUse (outOfTrip s (refBit ref)) ref) := by
  change execHoldoverExit ref ppm s = _
  unfold execHoldoverExit
  dsimp only
  rw [if_neg (by simp [ht, hc]), if_neg (by omega)]
  cases ref <;> rfl

theorem backInUse_tripped (ref : Ref) : (backInUse s ref).clk.tripped = s.clk.tripped := by
  cases ref with
  | lny p =>
    unfold backInUse
    dsimp only
    split <;> rfl
  | modref | pcie | tbclk | tbpps => rfl

theorem holdoverExit_leaves {ref : Ref} {ppm : Int} (ht : s.clk.tripped.getLsbD (refBit ref) = true)
    (hc : refClean s (refBit ref) = true) (hppm : ppm.natAbs ≤ 200) :
    ∃ t, exec (.holdoverExit ref ppm) s = .next t ∧ t.clk.tripped = s.clk.tripped &&& ~~~(BitVec.twoPow 12 (refBit ref)) ∧
      (ref = .modref → t.clk.holdover = false) ∧
      ∀ p, ref = .lny p → (getP s p.val).mode = .down → rget s Reg.portEnable p.val ≠ 0 →
        usableLanes (getP s p.val).retired ≠ 0 → (getP t p.val).mode = .training := by
  refine ⟨_, exec_holdoverExit s ht hc hppm, backInUse_tripped .., ?_, ?_⟩
  · rintro rfl
    rfl
  · rintro p rfl hdown henable hlanes
    have clean : (outOfTrip s (2 + p.val)).clk.tripped.getLsbD (2 + p.val) = false := by simp [outOfTrip]
    have trains := (portRetrain_mode (outOfTrip s (2 + p.val)) p.val).trans
      (restMode_training (s := outOfTrip s (2 + p.val)) hlanes henable clean)
    have back : backInUse (outOfTrip s (2 + p.val)) (.lny p) = portRetrain (outOfTrip s (2 + p.val)) p.val := if_pos hdown
    exact back ▸ trains

/-! ### PTM and TB (R378, R566) -/

/-- The next PTM dialogue is due one interval from now; the number of failed ones. -/
def dialogueEnds (s : State) (fails : Nat) : State :=
  { s with hst := { s.hst with ptmAt := s.clk.elapsed + 1000 * rget s Reg.ptmInterval, ptmFails := fails } }

/-- A correction starts to be slewed. -/
def slews (s : State) (ns : Int) : State := { s with clk := { s.clk with slew := ns * 1000, debt := 0 } }

/-- The chip that locks keeps device time, its correction and the source's state. -/
theorem lock_slews (ns : Int) : (lock (slews s ns)).clk.quality = 0 ∧ (lock (slews s ns)).clk.slew = ns * 1000 ∧
    (lock (slews s ns)).clk.debt = 0 ∧ (lock (slews s ns)).clk.time = s.clk.time ∧
    (lock (slews s ns)).clk.good = s.clk.good ∧ (lock (slews s ns)).clk.lastPps = s.clk.lastPps := by
  have kept := setQuality_source (slews s ns) 0
  simp only [sourceOfTime, Prod.mk.injEq] at kept
  obtain ⟨htime, hslew, hdebt, hgood, hpps, -⟩ := kept
  exact ⟨setQuality_quality .., hslew, hdebt, htime, hgood, hpps⟩

theorem ptmDialogue_good (hsrc : rget s Reg.timeSrc = 1) (hdue : s.hst.ptmAt ≤ s.clk.elapsed) {ns : Int} (hns : ns.natAbs ≤ 1000)
    (hup : s.hst.linkUp = true) : ∃ t, exec (.ptmDialogue (some ns)) s = .next t ∧ t.clk.quality = 0 ∧
      t.clk.slew = ns * 1000 ∧ t.clk.debt = 0 ∧ t.clk.time = s.clk.time ∧ t.hst.ptmFails = 0 := by
  have due : ¬ (rget s Reg.timeSrc ≠ 1 ∨ s.clk.elapsed < s.hst.ptmAt) := by omega
  have locks : exec (.ptmDialogue (some ns)) s = .next (lock (slews (dialogueEnds s 0) ns)) := by
    change execPtmDialogue (some ns) s = _
    unfold execPtmDialogue
    rw [if_neg due]
    dsimp only
    split
    · rename_i ns' _ hns' _
      cases hns'
      rw [correct_slews _ hns]
      rfl
    · rename_i hno
      exact absurd hup (hno ns rfl)
  obtain ⟨hquality, hslew, hdebt, htime, -⟩ := lock_slews (dialogueEnds s 0) ns
  exact ⟨_, locks, hquality, hslew, hdebt, htime, congrArg HostSt.ptmFails (setQuality_hst (slews (dialogueEnds s 0) ns) 0)⟩

/-- The third dialogue in a row that fails loses the lock. -/
theorem ptmDialogue_thirdFailure (hsrc : rget s Reg.timeSrc = 1) (hdue : s.hst.ptmAt ≤ s.clk.elapsed) (hfails : s.hst.ptmFails = 2)
    (hq : s.clk.quality = 0) : ∃ t, exec (.ptmDialogue none) s = .next t ∧ t.clk.quality = 1 := by
  have due : ¬ (rget s Reg.timeSrc ≠ 1 ∨ s.clk.elapsed < s.hst.ptmAt) := by omega
  refine ⟨loseLock (dialogueEnds s (s.hst.ptmFails + 1)), ?_, loseLock_quality _ hq⟩
  change execPtmDialogue none s = _
  unfold execPtmDialogue
  rw [if_neg due]
  dsimp only
  rw [if_pos (by omega)]
  rfl

/-- An edge of TBPPS, counted as good. -/
def goodEdge (s : State) : State := { s with clk := { s.clk with lastPps := some s.clk.elapsed, good := s.clk.good + 1 } }

/-- A good edge of TBPPS: its correction is slewed, and the third one locks. -/
theorem tbppsEdge_good (hsrc : rget s Reg.timeSrc = 2) (offset : Fin 1000) (hclean : s.clk.tripped.getLsbD 10 = false)
    (hset : s.clk.nextSet = none) (hstep : s.clk.stepDue = false)
    (hdev : (toSecond (s.clk.time.toNat + offset.val / 2 * 2)).natAbs ≤ 100) :
    ∃ t, exec (.tbppsEdge offset) s = .next t ∧ t.clk.good = s.clk.good + 1 ∧
      t.clk.slew = toSecond (s.clk.time.toNat + offset.val / 2 * 2) * 1000 ∧ t.clk.debt = 0 ∧
      t.clk.lastPps = some s.clk.elapsed ∧ (2 ≤ s.clk.good → t.clk.quality = 0) := by
  generalize hd : toSecond (s.clk.time.toNat + offset.val / 2 * 2) = dev at hdev
  have edge : exec (.tbppsEdge offset) s =
      .next (if 3 ≤ s.clk.good + 1 then lock (slews (goodEdge s) dev) else slews (goodEdge s) dev) := by
    change execTbppsEdge offset s = _
    unfold execTbppsEdge ppsEdge
    rw [if_neg (not_not_intro hsrc)]
    dsimp only
    rw [if_neg (ne_true_of_eq_false hclean), hd]
    split
    · rename_i _ hsome
      exact absurd (hset.symm.trans hsome) nofun
    · rename_i _ hdue
      exact absurd (hstep.symm.trans hdue) nofun
    · rw [if_pos hdev, correct_slews _ (by omega)]
      rfl
  refine ⟨_, edge, ?_⟩
  split
  · obtain ⟨hquality, hslew, hdebt, -, hgood, hpps⟩ := lock_slews (goodEdge s) dev
    exact ⟨hgood, hslew, hdebt, hpps, fun _ => hquality⟩
  · rename_i few
    exact ⟨rfl, rfl, rfl, rfl, fun h => absurd (Nat.succ_le_succ h) few⟩

/-- No edge of TBPPS is known. -/
def noEdge (s : State) : State := { s with clk := { s.clk with lastPps := none } }

/-- 1.5 s without an edge lose the lock. -/
theorem tbppsMissing_late (hsrc : rget s Reg.timeSrc = 2) {t0 : Nat} (hpps : s.clk.lastPps = some t0)
    (hlate : t0 + 1500000000 ≤ s.clk.elapsed) (hq : s.clk.quality = 0) :
    ∃ t, exec .tbppsMissing s = .next t ∧ t.clk.quality = 1 ∧ t.clk.lastPps = none := by
  have kept := loseLock_source (noEdge s)
  simp only [sourceOfTime, Prod.mk.injEq] at kept
  obtain ⟨-, -, -, -, hnone, -⟩ := kept
  refine ⟨loseLock (noEdge s), ?_, loseLock_quality _ hq, hnone⟩
  change execTbppsMissing s = _
  unfold execTbppsMissing
  rw [if_pos]
  · rfl
  · rw [hpps, Option.any_some]
    exact ⟨hsrc, decide_eq_true hlate⟩

/-! ### Holdover and a set of the time (R565, R567) -/

theorem holdoverMaxExpiry_ends (hq : s.clk.quality = 1)
    (hlate : s.clk.qualityAt + rget s Reg.holdoverMax * 1000000000 ≤ s.clk.elapsed) :
    ∃ t, exec .holdoverMaxExpiry s = .next t ∧ t.clk.quality = 2 := by
  refine ⟨setQuality s 2, ?_, setQuality_quality s 2⟩
  change execHoldoverMaxExpiry s = _
  unfold execHoldoverMaxExpiry
  rw [if_pos ⟨hq, hlate⟩]

section
variable (ns : BitVec 64)

theorem exec_clkTimeSet_free (hsrc : rget s Reg.timeSrc = 0) :
    exec (.clkTimeSet ns) s = .next (stepBy s ((ns.toNat : Int) - s.clk.time.toNat)) := by
  change Host.Outcome.next (timeSet s ns) = _
  unfold timeSet
  rw [hsrc]
  rfl

theorem exec_clkTimeSet_ptm (hsrc : rget s Reg.timeSrc = 1) :
    exec (.clkTimeSet ns) s = .next (logErr s Err.timeSetIgnored 0xFF ns.toNat 0) := by
  change Host.Outcome.next (timeSet s ns) = _
  unfold timeSet
  rw [hsrc]
  rfl

theorem exec_clkTimeSet_tb (hsrc : rget s Reg.timeSrc = 2) :
    exec (.clkTimeSet ns) s = .next { s with clk := { s.clk with nextSet := some ns } } := by
  change Host.Outcome.next (timeSet s ns) = _
  unfold timeSet
  rw [hsrc]
  rfl

end

end

/-- Settles O48, event by event: the monitors, the oscillators and PLLs, PTM, TB, and CLK_TIME_SET. -/
theorem clocksKeepDeviceTime : Obligations.ClocksKeepDeviceTime := by
  refine ⟨fun s ref => ⟨trips s ref, fun hlive => ?reset, fun hdead => ?linkOnly, fun ppm ht hc hppm => holdoverExit_leaves s ht hc hppm⟩,
    fun s => ⟨fun ht b => ?odoTripped, fun ht b => ?odo, fun n => rfl, fun i => rfl, rfl⟩,
    fun s hsrc hdue => ⟨fun ns hns hup => ptmDialogue_good s hsrc hdue hns hup, ptmDialogue_thirdFailure s hsrc hdue⟩,
    fun s hsrc => ⟨fun offset => tbppsEdge_good s hsrc offset, fun ⟨t0, hpps, hlate⟩ hq => tbppsMissing_late s hsrc hpps hlate hq⟩,
    fun s ns => ⟨holdoverMaxExpiry_ends s, fun hsrc => ⟨_, exec_clkTimeSet_free s ns hsrc, fun hlt => ?forward, fun hle => ?back⟩,
      exec_clkTimeSet_ptm s ns, exec_clkTimeSet_tb s ns⟩⟩
  case reset =>
    refine ⟨_, exec_clockMonitorTrip s .pcie, pcieReset_cause (tripLogged s 1) 3 ?_⟩
    rwa [canRetain_congr s (tripLogged_glb s 1) (tripLogged_hst s 1) (tripLogged_jrn s 1), rget_tripLogged, tripLogged_glb,
      tripLogged_hst, tripLogged_jrn]
  case linkOnly =>
    refine ⟨_, exec_clockMonitorTrip s .pcie, ?_⟩
    have down : pcieReset 3 (tripLogged s 1) = linkLost (timeLost (tripLogged s 1)) :=
      pcieReset_notLive _ 3 (by rwa [tripLogged_glb, tripLogged_hst, tripLogged_jrn])
    simp only [refBit, down]
    exact ⟨rfl, (timeLost_tripped _).trans (by rw [tripLogged_clk]; rfl)⟩
  case odoTripped =>
    change execOdoMismatch b s = _
    unfold execOdoMismatch
    rw [if_pos ht]
    rfl
  case odo =>
    change execOdoMismatch b s = _
    unfold execOdoMismatch
    rw [if_neg (by rw [ht]; exact Bool.false_ne_true), logErr_clk]
    rfl
  case forward =>
    obtain ⟨htime, hdebt⟩ := stepBy_forward s hlt rfl ns.isLt
    exact ⟨BitVec.eq_of_toNat_eq htime, hdebt⟩
  case back => exact stepBy_back s hle

end Sys2Proof.Machine
end

section
/-! SUPPORT. Power fail, hold-up energy and heat: what the recall of launches, staging and flash writes leave of a power-fail sequence,
and each event of the module (O47). -/

namespace Sys2Proof.Machine

/-! ### What records and launches leave of a power-fail sequence -/

/-- The warning, the sequence, the superblocks written and what admission stops for. -/
def powerOf (s : State) : Bool × Bool × Nat × NSet := (s.mdl.warning, s.jrn.powerFail, s.jrn.superblocks, s.glb.stopped)

theorem powerOf_of_besideFrames {s t : State} (h : besideFrames t = besideFrames s) : powerOf t = powerOf s :=
  (congrArg powerOf h :)

section
variable (s : State)

@[simp] theorem powerOf_logErr (code tenant a b : Nat) : powerOf (logErr s code tenant a b) = powerOf s := by simp [powerOf]
@[simp] theorem powerOf_msix (fn e : Nat) : powerOf (msix s fn e) = powerOf s := by simp [powerOf]

theorem powerOf_modS (i : Nat) (f : StackSt → StackSt) : powerOf (modS s i f) = powerOf s := rfl
theorem powerOf_modK (k : Nat) (f : SkeinSt → SkeinSt) : powerOf (modK s k f) = powerOf s := rfl
theorem powerOf_modL (id : Nat) (f : Launch → Launch) : powerOf (modL s id f) = powerOf s := rfl
theorem powerOf_modX (id e : Nat) (f : Exec → Exec) : powerOf (modX s id e f) = powerOf s := rfl
theorem powerOf_learnState (id st : Nat) : powerOf (learnState s id st) = powerOf s := rfl
theorem powerOf_learnBody (id : Nat) (body : Bytes) : powerOf (learnBody s id body) = powerOf s := rfl

theorem powerOf_flood (from_ kind sender : Nat) (payload : Bytes) : powerOf (flood s from_ kind sender payload) = powerOf s :=
  powerOf_of_besideFrames (besideFrames_flood ..)

theorem powerOf_recordDurable (from_ : Nat) (spread : Bool) (r : JrnRecord) :
    powerOf (recordDurable s from_ spread r) = powerOf s := by
  unfold recordDurable
  split
  · dsimp only
    split
    · rw [powerOf_flood, powerOf_learnBody]
    · rfl
  · dsimp only
    rw [powerOf_flood]
    exact foldl_keeps powerOf _ _ (fun s _ _ => powerOf_learnState s ..) s
  · split <;> rfl
  all_goals rfl

theorem powerOf_writeDurable (w : JrnWrite) : powerOf (writeDurable s w) = powerOf s := by
  have records := foldl_keeps powerOf (fun s r => recordDurable s ((w.frame.map (·.1)).getD 8) w.spread r) w.recs
    (fun s r _ => powerOf_recordDurable s ..) s
  unfold writeDurable
  dsimp only
  split <;> exact records

theorem powerOf_stageOwn (recs : List JrnRecord) : powerOf (stageOwn s recs) = powerOf s := by
  unfold stageOwn stage
  split
  · exact powerOf_writeDurable ..
  · change powerOf (noteExhausted s recs.length) = powerOf s
    unfold noteExhausted
    split
    · rfl
    · exact powerOf_logErr ..

theorem powerOf_recallExec (id e : Nat) : powerOf (recallExec s id e) = powerOf s := by
  unfold recallExec
  split
  · rfl
  · unfold recallIds
    split
    · rfl
    · exact powerOf_stageOwn ..

theorem powerOf_orphanSteps (id e : Nat) : powerOf (orphanSteps s id e) = powerOf s :=
  foldl_keeps powerOf _ _ (fun s _ _ => powerOf_modS s ..) s

theorem powerOf_dropAddends (id e : Nat) : powerOf (dropAddends s id e) = powerOf s :=
  foldl_keeps powerOf _ _ (fun s _ _ => powerOf_modS s ..) s

theorem powerOf_offSkein (k? : Option Nat) (id e : Nat) : powerOf (offSkein s k? id e) = powerOf s := by
  cases k? with
  | none => rfl
  | some k => rw [offSkein, Option.elim_some, dropCtx, powerOf_orphanSteps, powerOf_modK]

theorem powerOf_dropExec (id e : Nat) (x : Exec) : powerOf (dropExec s id e x) = powerOf s := by
  rw [dropExec, powerOf_modX, powerOf_dropAddends, powerOf_recallExec, powerOf_offSkein]

theorem powerOf_discardExec (id e : Nat) : powerOf (discardExec s id e) = powerOf s := by
  rcases exec_cases s id e with h | ⟨l, x, hl, hx⟩
  · rw [discardExec_none h]
  · rw [discardExec_eq hl hx]
    simp only [apply_ite powerOf, powerOf_modL, powerOf_dropExec, ite_self]

theorem powerOf_discardAll (id : Nat) : powerOf (discardAll s id) = powerOf s := by
  unfold discardAll
  split
  · rfl
  · exact foldl_keeps powerOf _ _ (fun s e _ => powerOf_discardExec s id e) s

/-! ### The warning (R446, R617) -/

theorem powerOf_recallUnstaged : powerOf (recallUnstaged s) = powerOf s :=
  foldl_keeps powerOf _ _ (fun s l _ => by
    split
    · exact powerOf_discardAll s l.id
    · exact powerOf_discardAll s l.id
    · rfl) s

theorem polling_recallUnstaged : (recallUnstaged s).fe.polling = s.fe.polling := by
  have halts := foldl_keeps haltOf (fun s (l : Launch) => match l.stage with
    | .decided _ => discardAll s l.id
    | .sealed _ => discardAll s l.id
    | _ => s) s.launches (fun s l _ => by
      split
      · exact haltOf_discardAll s l.id
      · exact haltOf_discardAll s l.id
      · rfl) s
  exact congrArg (·.1) halts

/-- The chip at a power-fail warning, before it recalls what no OUTCOME covers. -/
def warned (s : State) : State :=
  dropOutcomes (stopAdmit (emit { s with mdl := { s.mdl with warning := true }, jrn := { s.jrn with powerFail := true }, fe := { s.fe with polling := false }, hbmStacks := nmap StackSt.reset (fun q => { q with clean := false }) s.hbmStacks } (.pin pinWarning false)) stopPower)

theorem takeWarning_eq (hp : s.mdl.powered = true) (hw : s.mdl.warning = false) : takeWarning s = recallUnstaged (warned s) := by
  unfold takeWarning
  rw [if_neg (by simp [hp, hw])]
  rfl

theorem takeWarning_leaves (hp : s.mdl.powered = true) (hw : s.mdl.warning = false) :
    (takeWarning s).mdl.warning = true ∧ (takeWarning s).jrn.powerFail = true ∧ (takeWarning s).fe.polling = false ∧
      smem (takeWarning s).glb.stopped stopPower = true := by
  rw [takeWarning_eq s hp hw]
  have kept := powerOf_recallUnstaged (warned s)
  simp only [powerOf, Prod.mk.injEq] at kept
  obtain ⟨hwarning, hfail, -, hstopped⟩ := kept
  refine ⟨hwarning, hfail, polling_recallUnstaged _, ?_⟩
  rw [hstopped]
  exact smem_sadd_self ..

/-- Without launches nothing is recalled: PFW_OUT# is all that leaves the chip. -/
theorem takeWarning_out (hp : s.mdl.powered = true) (hw : s.mdl.warning = false) (hl : s.launches = []) :
    (takeWarning s).out = .pin 0 false :: s.out := by
  have idle : (warned s).launches = [] := hl
  rw [takeWarning_eq s hp hw, recallUnstaged, idle]
  rfl

/-! ### The sequence and the end of power (R446, R604) -/

theorem superblocks_raiseFull : (raiseFull s).jrn.superblocks = s.jrn.superblocks := by
  unfold raiseFull
  split
  · rfl
  · rw [logErr_jrn]
    rfl

theorem noteWear_jrn (n : Nat) : (noteWear s n).jrn = s.jrn := by
  unfold noteWear
  dsimp only
  split
  · rw [msix_jrn]
  · rfl

theorem superblocks_appendRecord (r : JrnRecord) : (appendRecord s r).jrn.superblocks = s.jrn.superblocks := by
  unfold appendRecord
  rw [noteWear_jrn]

theorem superblocks_closeSegment : (closeSegment s).jrn.superblocks = s.jrn.superblocks := by
  unfold closeSegment
  split
  · rfl
  · exact superblocks_appendRecord ..

theorem superblocks_newSegment : (newSegment s).jrn.superblocks = s.jrn.superblocks := superblocks_appendRecord ..

theorem superblocks_writeFlash {u : State} {r : JrnRecord} (h : writeFlash s r = some u) : u.jrn.superblocks = s.jrn.superblocks := by
  unfold writeFlash at h
  split at h
  · cases h
    exact superblocks_appendRecord ..
  · split at h
    · cases h
      rw [superblocks_appendRecord, superblocks_newSegment, superblocks_closeSegment]
    · split at h
      · cases h
        rw [superblocks_appendRecord, superblocks_newSegment, superblocks_closeSegment, superblocks_raiseFull]
      · cases h

theorem superblocks_flushStaged : (flushStaged s).jrn.superblocks = s.jrn.superblocks := by
  refine foldl_keeps (fun u : State => u.jrn.superblocks) _ _ (fun u r _ => ?_) _
  dsimp only
  split
  next h => exact superblocks_writeFlash u h
  next => rfl

theorem translate_jrn (t addr n : Nat) (write : Bool) : (translate s t addr n write).jrn = s.jrn :=
  foldl_keeps State.jrn _ _ (fun _ _ _ => by split <;> rfl) s

/-- The state that a record leaves on its way to the host, with its journal as it was. -/
theorem putRecord_superblocks (t status bits launch : Nat) (body : Bytes) (irq alert written : Bool) :
    ∃ (v : State) (f : TenantSt → TenantSt) (l : List Launch), v.jrn.superblocks = s.jrn.superblocks ∧
      putRecord s t status bits launch body irq alert written =
        if alert then msix { modT v t f with launches := l } t 1 else { modT v t f with launches := l } := by
  refine ⟨if written then _ else _, _, _, ?_, rfl⟩
  split
  · rw [countEvent_jrn, emit_jrn, translate_jrn]
  · rw [logErr_jrn, translate_jrn]

theorem superblocks_putRecord (t status bits launch : Nat) (body : Bytes) (irq alert written : Bool) :
    (putRecord s t status bits launch body irq alert written).jrn.superblocks = s.jrn.superblocks := by
  obtain ⟨v, f, l, hv, heq⟩ := putRecord_superblocks s t status bits launch body irq alert written
  have kept : ({ modT v t f with launches := l } : State).jrn = v.jrn := modT_jrn v t f
  rw [heq, apply_ite State.jrn, msix_jrn, ite_self, kept, hv]

theorem superblocks_releaseLedger (id : Nat) : (releaseLedger s id).jrn.superblocks = s.jrn.superblocks :=
  foldl_keeps (fun u : State => u.jrn.superblocks) _ _ (fun u _ _ => congrArg JournalSt.superblocks (modS_jrn u ..)) s

theorem superblocks_writeNext (t : Nat) (written : Bool) : (writeNext s t written).jrn.superblocks = s.jrn.superblocks := by
  unfold writeNext
  split
  · rw [superblocks_putRecord, superblocks_releaseLedger]
  · split
    · rfl
    · split
      · rfl
      · exact superblocks_putRecord ..

theorem superblocks_writeStagedRecords (t : Nat) : (writeStagedRecords s t).jrn.superblocks = s.jrn.superblocks := by
  refine foldl_keeps (fun u : State => u.jrn.superblocks) _ _ (fun u _ _ => ?_) s
  split
  · exact superblocks_writeNext ..
  · rfl

theorem superblocks_flushSequence : (flushSequence s).jrn.superblocks = s.jrn.superblocks + 1 := by
  unfold flushSequence
  dsimp only
  rw [superblocks_closeSegment]
  cases h : writeFlash (flushStaged s) { kind := 0x09, body := leBytes 8 s.clk.time.toNat ++ leBytes 8 (stagedBytes s) } with
  | none => rw [Option.getD_none, superblocks_flushStaged]
  | some u => rw [Option.getD_some, superblocks_writeFlash _ h, superblocks_flushStaged]

/-- An unpowered die, as a full reset leaves it. -/
theorem removePower_leaves : (removePower s).mdl.powered = false ∧ (removePower s).glb.phase = 0 ∧ (removePower s).launches = [] ∧
    (removePower s).mem = [] ∧ (removePower s).clk.cause = 7 ∧ (removePower s).jrn.powerFail = false ∧
    (removePower s).jrn.staged = [] ∧ (removePower s).jrn.superblocks = s.jrn.superblocks ∧ (removePower s).fuses = s.fuses :=
  ⟨rfl, rfl, rfl, rfl, rfl, rfl, rfl, superblocks_flushStaged s, removePower_fuses s⟩

theorem execPowerFailFlushDone_leaves (linkUp : Bool) (hp : s.jrn.powerFail = true) :
    ∃ t, execPowerFailFlushDone linkUp s = .next t ∧ t.mdl.powered = false ∧ t.glb.phase = 0 ∧ t.launches = [] ∧ t.mem = [] ∧
      t.clk.cause = 7 ∧ t.jrn.powerFail = false ∧ t.jrn.staged = [] ∧ t.jrn.superblocks = s.jrn.superblocks + 1 ∧
      t.fuses = s.fuses := by
  obtain ⟨u, hu, hblocks, hfuses⟩ : ∃ u : State, execPowerFailFlushDone linkUp s = .next (removePower (flushSequence u)) ∧
      u.jrn.superblocks = s.jrn.superblocks ∧ u.fuses = s.fuses := by
    refine ⟨if linkUp then (List.range 128).foldl writeStagedRecords s else s, ?_, ?_, ?_⟩
    · unfold execPowerFailFlushDone
      rw [hp]
      rfl
    · split
      · exact foldl_keeps (fun u : State => u.jrn.superblocks) _ _ (fun u t _ => superblocks_writeStagedRecords u t) s
      · rfl
    · split
      · exact foldl_fuses writeStagedRecords_fuses ..
      · rfl
  obtain ⟨hpowered, hphase, hlaunches, hmem, hcause, hfail, hstaged, hsuper, hf⟩ := removePower_leaves (flushSequence u)
  refine ⟨_, hu, hpowered, hphase, hlaunches, hmem, hcause, hfail, hstaged, ?_, ?_⟩
  · rw [hsuper, superblocks_flushSequence, hblocks]
  · rw [hf, flushSequence_fuses, hfuses]

/-! ### Heat (R612, R613, R615) -/

theorem readSensor_keeps (sensor : Sensor) (c : Int) : (readSensor s sensor c).mdl.powered = s.mdl.powered ∧
    (readSensor s sensor c).mdl.warning = s.mdl.warning ∧ (readSensor s sensor c).mdl.derates = s.mdl.derates ∧
    (readSensor s sensor c).launches = s.launches := by
  cases sensor <;> exact ⟨rfl, rfl, rfl, rfl⟩

theorem setDerates_keeps (d : NSet) : (setDerates s d).mdl.powered = s.mdl.powered ∧ (setDerates s d).mdl.warning = s.mdl.warning ∧
    (setDerates s d).mdl.derates = d ∧ (setDerates s d).launches = s.launches := by
  unfold setDerates
  dsimp only
  split <;> exact ⟨rfl, rfl, rfl, rfl⟩

/-- Power is on, a warning stands: what derating leaves. -/
def supplyOf (s : State) : Bool × Bool := (s.mdl.powered, s.mdl.warning)

theorem supplyOf_startDerates (sensor : Sensor) (c : Int) : supplyOf (startDerates s sensor c) = supplyOf s := by
  obtain ⟨hp, hw, -, -⟩ := readSensor_keeps s sensor c
  refine (foldl_keeps supplyOf _ _ (fun u r _ => ?_) _).trans (Prod.ext hp hw)
  obtain ⟨hp, hw, -, -⟩ := setDerates_keeps u (sadd u.mdl.derates r.1)
  refine Prod.ext ?_ ?_
  · exact (congrArg ModuleSt.powered (msix_mdl ..)).trans hp
  · exact (congrArg ModuleSt.warning (msix_mdl ..)).trans hw

/-- Each row that is reached joins the actions under way. -/
theorem smem_foldl_start (n : Nat) : ∀ (rows : List (Nat × Int)) (s : State),
    smem (rows.foldl (fun s r => msix (setDerates s (sadd s.mdl.derates r.1)) 0 6) s).mdl.derates n =
      (smem s.mdl.derates n || rows.any (fun r => r.1 == n))
  | [], s => by simp
  | r :: rows, s => by
    obtain ⟨-, -, hd, -⟩ := setDerates_keeps s (sadd s.mdl.derates r.1)
    rw [List.foldl_cons, smem_foldl_start n rows, msix_mdl, hd, smem_sadd, List.any_cons]
    by_cases h : n = r.1
    · simp [h]
    · have hne : (r.1 == n) = false := beq_eq_false_iff_ne.2 (Ne.symm h)
      simp [h, hne]

theorem smem_startDerates (sensor : Sensor) (c : Int) (n : Nat) : smem (startDerates s sensor c).mdl.derates n =
    (smem s.mdl.derates n || (derateRows sensor).any (fun r => r.1 == n && decide (r.2 ≤ c))) := by
  obtain ⟨-, -, hd, -⟩ := readSensor_keeps s sensor c
  unfold startDerates
  dsimp only
  rw [smem_foldl_start, hd, Bool.eq_iff_iff]
  simp only [Bool.or_eq_true, List.any_eq_true, List.mem_filter, Bool.and_eq_true, decide_eq_true_eq, beq_iff_eq, Bool.not_eq_true']
  constructor
  · rintro (h | ⟨r, ⟨hr, hc, -⟩, hn⟩)
    · exact .inl h
    · exact .inr ⟨r, hr, hn, hc⟩
  · rintro (h | ⟨r, hr, hn, hc⟩)
    · exact .inl h
    · cases hs : smem s.mdl.derates n with
      | true => exact .inl rfl
      | false => exact .inr ⟨r, ⟨hr, hc, hn ▸ hs⟩, hn⟩

/-- Each row that is left ends its action, and nothing else changes. -/
theorem foldl_end (n : Nat) : ∀ (rows : List (Nat × Int)) (s : State),
    (rows.foldl (fun s r => setDerates s (sdel s.mdl.derates r.1)) s).launches = s.launches ∧
      smem (rows.foldl (fun s r => setDerates s (sdel s.mdl.derates r.1)) s).mdl.derates n =
        (smem s.mdl.derates n && !rows.any (fun r => r.1 == n))
  | [], s => by simp
  | r :: rows, s => by
    obtain ⟨-, -, hd, hl⟩ := setDerates_keeps s (sdel s.mdl.derates r.1)
    obtain ⟨il, id⟩ := foldl_end n rows (setDerates s (sdel s.mdl.derates r.1))
    rw [List.foldl_cons, il, id, hd, hl, smem_sdel, List.any_cons]
    refine ⟨rfl, ?_⟩
    by_cases h : n = r.1
    · simp [h]
    · have hne : (r.1 == n) = false := beq_eq_false_iff_ne.2 (Ne.symm h)
      simp [h, hne]

theorem execThermalTrip_leaves (sensor : Sensor) (c : Int) (hp : s.mdl.powered = true) (hw : s.mdl.warning = false)
    (hc : tripAt sensor ≤ c) : ∃ t, execThermalTrip sensor c s = .next t ∧ t.mdl.warning = true ∧ t.jrn.powerFail = true := by
  have kept := supplyOf_startDerates s sensor c
  simp only [supplyOf, Prod.mk.injEq, hp, hw] at kept
  obtain ⟨hpowered, hwarning⟩ := kept
  obtain ⟨warning, fail, -⟩ := takeWarning_leaves (msix (startDerates s sensor c) 0 6)
    ((congrArg ModuleSt.powered (msix_mdl ..)).trans hpowered) ((congrArg ModuleSt.warning (msix_mdl ..)).trans hwarning)
  refine ⟨_, ?_, warning, fail⟩
  unfold execThermalTrip
  rw [if_neg (by simp [hp]; omega)]
  simp only [hwarning, Bool.false_eq_true, if_false]

theorem execThermalDerateEnd_leaves (sensor : Sensor) (c : Int) (hp : s.mdl.powered = true) :
    ∃ t, execThermalDerateEnd sensor c s = .next t ∧ t.launches = s.launches ∧
      ∀ n, smem t.mdl.derates n = (smem s.mdl.derates n && !(derateRows sensor).any (fun r => r.1 == n && decide (c + 5 ≤ r.2))) := by
  obtain ⟨-, -, hd, hl⟩ := readSensor_keeps s sensor c
  refine ⟨_, congrArg Host.Outcome.next (if_neg (by simp [hp])), ?_, fun n => ?_⟩
  · exact (foldl_end 0 _ _).1.trans hl
  · rw [(foldl_end n _ _).2, hd, List.any_filter]
    simp only [Bool.and_comm]

/-! ### Hold-up energy (R604, R606, R607) -/

/-- A report as it stands: the energy, its time and the staging that it covers. -/
def reported (s : State) (mj : Nat) : State :=
  { s with mdl := { s.mdl with energy := mj, reportAt := s.clk.elapsed },
           jrn := { s.jrn with covered := BitVec.ofNat 27 (coveredBytes mj) } }

theorem report_enough (mj : Nat) (h : 20000 ≤ mj) (hs : 20000 ≤ s.mdl.energy) : report s mj = reported s mj := by
  have hlow : ¬ (mj < 20000 ∧ 20000 ≤ s.mdl.energy) := by omega
  have hback : ¬ (20000 ≤ mj ∧ s.mdl.energy < 20000) := by omega
  have hzero : ¬ (mj = 0 ∧ s.mdl.energy ≠ 0) := by omega
  simp only [report, hlow, hback, hzero, decide_false, Bool.false_eq_true, if_false, or_false]
  rfl

theorem report_fall (mj : Nat) (h : mj < 20000) (hs : 20000 ≤ s.mdl.energy) :
    report s mj = msix (emit (reported s mj) (.pin 1 false)) 0 6 := by
  simp only [report, h, hs, and_self, decide_true, if_true, true_or]
  rfl

theorem report_rise (mj : Nat) (h : 20000 ≤ mj) (hs : s.mdl.energy < 20000) :
    report s mj = emit (reported s mj) (.pin 1 true) := by
  have hlow : ¬ (mj < 20000 ∧ 20000 ≤ s.mdl.energy) := by omega
  have hzero : ¬ (mj = 0 ∧ s.mdl.energy ≠ 0) := by omega
  simp only [report, hlow, hzero, h, hs, and_self, decide_false, Bool.false_eq_true, if_false, if_true, or_false]
  rfl

theorem execHoldupMonitorSilent_eq (hp : s.mdl.powered = true) (hlate : s.mdl.reportAt + 1000000000 ≤ s.clk.elapsed)
    (hs : 20000 ≤ s.mdl.energy) : execHoldupMonitorSilent s = .next (msix
      (emit { s with mdl := { s.mdl with energy := 0 }, jrn := { s.jrn with covered := 0 } } (.pin 1 false)) 0 6) := by
  have hwait : ¬ s.clk.elapsed < s.mdl.reportAt + second := by
    simp only [second]
    omega
  have hsome : ¬ (s.mdl.energy = 0 ∧ s.jrn.covered = 0) := by omega
  unfold execHoldupMonitorSilent
  simp only [hp, hwait, hsome, hs, Bool.not_true, Bool.false_eq_true, or_self, if_false, if_true]
  rfl

end

/-- Settles O47, part by part: the warning through what recalling the launches leaves, the end of the sequence through the
journal writes and the full reset, the heat by induction on the rows of a sensor. -/
theorem powerAndHeatEvents : Obligations.PowerAndHeatEvents := by
  refine ⟨fun s hp hw => ⟨?_, fun sensor c hc => execThermalTrip_leaves s sensor c hp hw hc⟩,
    fun s linkUp hp => execPowerFailFlushDone_leaves s linkUp hp, fun s hp => ?_,
    fun s mj hp => ⟨fun h hs => ⟨?_, ?_⟩, fun h hs => ?_, fun h hs => ?_, fun hlate hs => execHoldupMonitorSilent_eq s hp hlate hs⟩,
    fun s w => ⟨fun h => ?_, fun h => ?_, rfl, rfl⟩,
    fun s sensor c hp => ⟨?_, execThermalDerateEnd_leaves s sensor c hp⟩⟩
  · obtain ⟨hwarning, hfail, hpolling, hstopped⟩ := takeWarning_leaves s hp hw
    exact ⟨_, rfl, hwarning, hfail, hpolling, hstopped, takeWarning_out s hp hw⟩
  · exact congrArg Host.Outcome.next (if_neg (by simp [hp]))
  · exact congrArg Host.Outcome.next ((if_pos hp).trans (report_enough s mj h hs))
  · exact congrArg Host.Outcome.next ((if_pos hp).trans (report_enough s mj h hs))
  · exact congrArg Host.Outcome.next ((if_pos hp).trans (report_fall s mj h hs))
  · exact congrArg Host.Outcome.next ((if_pos hp).trans (report_rise s mj h hs))
  · change Host.Outcome.next _ = _
    simp only [h, decide_true, Bool.or_true]
  · change Host.Outcome.next _ = _
    simp only [h, decide_true, Bool.not_true, Bool.and_false]
  · exact ⟨_, congrArg Host.Outcome.next (if_pos hp), smem_startDerates s sensor c⟩

end Sys2Proof.Machine
end

section
/-! SUPPORT. Receiving a frame that passes every check, and each event of a lanyard port (O44). -/

namespace Sys2Proof.Machine

/-- Ports are what they were where the table of ports is. -/
theorem getP_congr {s t : State} (h : t.ports = s.ports) (p : Nat) : getP t p = getP s p := by rw [getP, h, getP]

theorem rget_rset (s : State) (f : RegField) (v i : Nat) : rget (rset s f v i) f i = v := by
  unfold rget rset
  rw [nget_nput_self]
  split
  · rw [Option.getD_none, ‹v = f.reset›]
  · rfl

/-! ### Receiving (R401 to R404, R407) -/

section
variable {s : State} {p kind : Nat} {frame b : Bytes}

theorem rcvOf_payload (p : Nat) (frame b : Bytes) : (rcvOf p frame b).payload = b := rfl

/-- An accepted frame reaches the effect of its type. -/
theorem receive_accepted (h : FrameAccepted s p kind frame b) (hk : knownType kind = true) (f : State → Rcv → State) :
    receive s p kind frame f = f (acceptedAt s p frame) (rcvOf p frame b) := by
  obtain ⟨hup, hpower, hcrc, hkind, hlen, hframe, hkey, hepoch, hcount, hopen⟩ := h
  have fresh : (getP s p).rxCount.any (fun c => decide (fld frame 8 8 ≤ c)) = false := by
    cases hc : (getP s p).rxCount with
    | none => rfl
    | some c => simpa using hcount c hc
  unfold receive
  simp only [hup, hpower, hcrc, hkind, hk, hopen, fresh, ne_eq, not_true_eq_false, false_and, Bool.false_eq_true, or_self,
    if_false, Bool.not_true, reduceCtorEq, not_lt.2 hlen, hframe, not_lt.2 hkey, not_lt.2 hepoch]
  rfl

theorem acceptedAt_port : getP (acceptedAt s p frame) p =
    { getP s p with keyEpoch := fld frame 16 8, rxCount := some (fld frame 8 8) } := getP_modP_self ..

end

/-! ### Training, HELLO and sessions (R409 to R411, R414) -/

section
variable (s : State) (p : Port)

/-- The HELLO of a port. -/
def helloFrameOf (nonce : Bytes) : Bytes :=
  let h := frameHeader 0x0E 0 (ownMember s) 0xFF 0 0 0 40
  h ++ helloBody s p.val nonce ++ helloTag (ownKey s) h (helloBody s p.val nonce)

theorem length_helloFrameOf (nonce : Bytes) : (helloFrameOf s p nonce).length = 88 := by
  simp [helloFrameOf, helloBody, helloTag, length_frameHeader]

theorem fld_helloFrameOf_kind (nonce : Bytes) : fld (helloFrameOf s p nonce ++ leBytes 4 (crc32 (helloFrameOf s p nonce))) 0 1 = 0x0E := by
  obtain ⟨hkind, -⟩ := frameHeader_fields 0x0E 0 (ownMember s) 0xFF 0 0 0 40
  have hh := length_frameHeader 0x0E 0 (ownMember s) 0xFF 0 0 0 40
  rw [fld_append_left _ (by rw [length_helloFrameOf]; omega), helloFrameOf, List.append_assoc, fld_append_left _ (by omega)]
  exact hkind

theorem execHelloSend_sends (nonce : Bytes) (hm : (getP s p.val).mode = .hello) (hg : inGroup s = true)
    (hp : s.jrn.powerFail = false) (hr : replicates s = true)
    (hlate : ∀ t, (getP s p.val).helloAt = some t → t + 10000 ≤ s.clk.elapsed) :
    ∃ f : Bytes, f.length = 92 ∧ fld f 0 1 = 0x0E ∧ crcOk f = true ∧ execHelloSend p nonce s =
      .next (emit (modP s p.val (fun q => { q with helloAt := some s.clk.elapsed })) (.frame p.val f)) := by
  have hlen := length_helloFrameOf s p nonce
  have late : (getP s p.val).helloAt.any (fun t => decide (s.clk.elapsed < t + 10000)) = false := by
    cases ht : (getP s p.val).helloAt with
    | none => rfl
    | some t => simpa using hlate t ht
  refine ⟨helloFrameOf s p nonce ++ leBytes 4 (crc32 (helloFrameOf s p nonce)), by simp [hlen], fld_helloFrameOf_kind s p nonce,
    crcOk_appended _ (by omega), ?_⟩
  unfold execHelloSend
  dsimp only
  rw [if_neg (by simp [hm, hg, hp, hr, late])]
  rfl

/-- A HELLO reaches its checks. -/
theorem execHelloFrame_eq (f : Bytes) (hm : (getP s p.val).mode = .hello ∨ (getP s p.val).mode = .up) (hp : s.jrn.powerFail = false)
    (hr : replicates s = true) (hcrc : crcOk f = true) (hkind : fld f 0 1 = 0x0E) : execHelloFrame p f s =
      .next (if !helloOk s p.val f then violation s p.val
        else if (getP s p.val).mode = .up ∨ !inGroup s then s
        else pump (modP s p.val (fun q => { newSession q with mode := .up, accepted := true, partner := fld f 36 1,
                                                              theirs := slice f 40 16, progress := s.clk.elapsed })) p.val) := by
  unfold execHelloFrame
  dsimp only
  rw [if_neg]
  simp only [hp, hr, hcrc, hkind]
  rcases hm with hm | hm <;> simp [hm]

theorem newSession_empty {q : PortSt} (hw : q.waiting = []) (hs : q.sent = []) : (newSession q).waiting = [] := by
  simp [newSession, hw, hs]

theorem pump_empty {s : State} {p : Nat} (h : (getP s p).waiting = []) : pump s p = s := by
  rw [pump, h]
  rfl

theorem execHelloFrame_up (f : Bytes) (hm : (getP s p.val).mode = .hello) (hg : inGroup s = true) (hp : s.jrn.powerFail = false)
    (hr : replicates s = true) (hcrc : crcOk f = true) (hkind : fld f 0 1 = 0x0E) (hok : helloOk s p.val f = true)
    (hw : (getP s p.val).waiting = []) (hs : (getP s p.val).sent = []) : ∃ t, execHelloFrame p f s = .next t ∧
      (getP t p.val).mode = .up ∧ (getP t p.val).partner = fld f 36 1 ∧ (getP t p.val).theirs = slice f 40 16 ∧
      (getP t p.val).credits = (1024, 512) ∧ (getP t p.val).txSeq = 0 ∧ (getP t p.val).rxCount = none ∧
      ∀ j, j ≠ p.val → getP t j = getP s j := by
  refine ⟨modP s p.val (fun q => { newSession q with
    mode := .up, accepted := true, partner := fld f 36 1, theirs := slice f 40 16, progress := s.clk.elapsed }), ?_, ?_⟩
  · rw [execHelloFrame_eq s p f (.inl hm) hp hr hcrc hkind, if_neg (by simp [hok]), if_neg (by simp [hm, hg]), pump_empty]
    rw [getP_modP_self]
    exact newSession_empty hw hs
  · rw [getP_modP_self]
    exact ⟨rfl, rfl, rfl, rfl, rfl, rfl, fun j hj => getP_modP_ne _ _ hj⟩

/-! ### Enabling and lanes (R430, R431, R563) -/

theorem execPortEnable_one (hm : (getP s p.val).mode = .down) : ∃ t, execPortEnable p true s = .next t ∧ (getP t p.val).mode =
    if usableLanes (getP s p.val).retired = 0 then .outOfService
    else if s.clk.tripped.getLsbD (2 + p.val) = true then .down else .training := by
  refine ⟨portRetrain (rset s Reg.portEnable 1 p.val) p.val, ?_, ?_⟩
  · unfold execPortEnable
    rw [hm]
    rfl
  · rw [portRetrain_mode, restMode, rget_rset]
    simp only [Nat.one_ne_zero, false_or]
    rfl

theorem execPortEnable_zero (hq : (getP s p.val).mode ≠ .quarantined) (ho : (getP s p.val).mode ≠ .outOfService)
    (hw : usableLanes (getP s p.val).retired ≠ 0) : ∃ t, execPortEnable p false s = .next t ∧ (getP t p.val).mode = .down := by
  refine ⟨portRetrain (rset s Reg.portEnable 0 p.val) p.val, ?_, ?_⟩
  · unfold execPortEnable
    clear hw
    generalize (getP s p.val).mode = m at hq ho
    cases m with
    | quarantined => exact absurd rfl hq
    | outOfService => exact absurd rfl ho
    | _ => rfl
  · rw [portRetrain_mode]
    exact restMode_down hw (.inl (rget_rset ..))

theorem event_ports (kind index : Nat) : (event s kind index).1.ports = s.ports := by
  unfold event
  dsimp only
  split <;> rfl

theorem persistMap_ports : (persistMap s).ports = s.ports := by
  unfold persistMap
  dsimp only
  split
  · rfl
  · split <;> rfl

/-- The chip once the third event of a lane has retired it. -/
def laneRetired (lane : Fin 8) : State :=
  modP (event s chLane (8 * p.val + lane.val)).1 p.val (fun q => { q with retired := q.retired ||| BitVec.twoPow 8 lane.val })

theorem laneRetired_port (lane : Fin 8) : getP (laneRetired s p lane) p.val =
    { getP s p.val with retired := (getP s p.val).retired ||| BitVec.twoPow 8 lane.val } := by
  unfold laneRetired
  rw [getP_modP_self, getP_congr (event_ports ..)]

/-- Entries and conditions beside it, a lane's retirement is the retraining of its port. -/
theorem execLaneEvent_third (lane : Fin 8) (h : (event s chLane (8 * p.val + lane.val)).2 = true) :
    ∃ t, execLaneEvent p lane s = .next t ∧
      getP t p.val = getP (retrainPort (persistMap (laneRetired s p lane)) p.val) p.val := by
  unfold execLaneEvent
  dsimp only
  rw [if_neg (by simp [h])]
  refine ⟨_, rfl, ?_⟩
  split
  · exact getP_congr ((logErr_ports ..).trans ((raiseCond_ports ..).trans (msix_ports ..))) _
  · exact getP_congr (msix_ports ..) _

theorem retrainPort_retired (p : Nat) : (getP (retrainPort s p) p).retired = (getP s p).retired := by
  unfold retrainPort
  split
  · rfl
  · rfl
  · exact portRetrain_retired ..

theorem retrainPort_quarantined {p : Nat} (h : (getP s p).mode = .quarantined) : retrainPort s p = s := by
  unfold retrainPort
  rw [h]

theorem retrainPort_noWidth {p : Nat} (hw : usableLanes (getP s p).retired = 0) (hq : (getP s p).mode ≠ .quarantined) :
    (getP (retrainPort s p) p).mode = .outOfService := by
  by_cases ho : (getP s p).mode = .outOfService
  · unfold retrainPort
    rw [ho]
    exact ho
  · rw [retrainPort_eq hq ho, portRetrain_mode, restMode_noWidth hw]

theorem execLaneEvent_leaves (lane : Fin 8) (h : (event s chLane (8 * p.val + lane.val)).2 = true) :
    ∃ t, execLaneEvent p lane s = .next t ∧ (getP t p.val).retired = (getP s p.val).retired ||| BitVec.twoPow 8 lane.val ∧
      ((getP s p.val).mode = .quarantined → (getP t p.val).mode = .quarantined) ∧
      (usableLanes ((getP s p.val).retired ||| BitVec.twoPow 8 lane.val) = 0 → (getP s p.val).mode ≠ .quarantined →
        (getP t p.val).mode = .outOfService) := by
  obtain ⟨t, ht, hport⟩ := execLaneEvent_third s p lane h
  have before : getP (persistMap (laneRetired s p lane)) p.val =
      { getP s p.val with retired := (getP s p.val).retired ||| BitVec.twoPow 8 lane.val } :=
    (getP_congr (persistMap_ports _) _).trans (laneRetired_port s p lane)
  refine ⟨t, ht, ?_, fun hq => ?_, fun hw hq => ?_⟩
  · rw [hport, retrainPort_retired, before]
  · rw [hport, retrainPort_quarantined _ (by rw [before]; exact hq), before]
    exact hq
  · rw [hport, retrainPort_noWidth _ (by rw [before]; exact hw) (by rw [before]; exact hq)]

/-! ### Retry and replication timers (R399, R400, R437 to R439) -/

theorem execGoBack_first (hdue : goBackDue s (getP s p.val) = true) (hnone : (getP s p.val).episode = none) :
    execGoBack p s = .next (((getP s p.val).sent.filter (fun f => !f.acked)).foldl
      (fun s f => putFrame s p.val f.kind (f.flags / 2 * 2 + 1) f.sender f.seq f.payload)
      (countEvent (modP s p.val (fun q => { q with
        episode := some { goBacks := 1, start := s.clk.elapsed, covers := ((getP s p.val).sent.filter (fun f => !f.acked)).map (·.seq) },
        goBack := false, progress := s.clk.elapsed })) 6 1)) := by
  unfold execGoBack
  dsimp only
  rw [if_neg (by simp [hdue]), if_neg (by simp [episodeOver, hnone]), hnone]

theorem execReplicationTimeout_up (f : SentFrame) (hf : (getP s p.val).sent.find? (fun g => g.seq == f.seq) = some f)
    (hout : timerOut s (getP s p.val) f = true) (hup : (getP s p.val).mode = .up) : execReplicationTimeout p f.seq s =
      .next (portRetrain (modP (logErr s Err.lanyardSlow 0xFF p.val f.seq) p.val (fun q =>
        { q with sent := q.sent.map (fun g => if g.seq = f.seq then { g with due := s.clk.elapsed + 1000 * rget s Reg.replTimeout } else g) })) p.val) := by
  unfold execReplicationTimeout
  simp only [hf, hout, hup, Bool.not_true, Bool.false_eq_true, if_false, if_true]
  rfl

theorem execLinkFrame_taken (frame b : Bytes) (h : FrameAccepted s p.val 0x0F frame b) (hb : b.length = 16) (hnak : fld b 3 1 ≤ 1)
    (h7 : zeroAt b 7 1 = true) (h11 : zeroAt b 11 1 = true) (hrate : (getP s p.val).links.1 ≠ s.clk.elapsed) :
    execLinkFrame p frame s = .next (pump (modP (modP (acceptedAt s p.val frame) p.val (fun q =>
      { q with links := (s.clk.elapsed, 1) })) p.val (takeLink s.clk.elapsed b)) p.val) := by
  have hup : (getP s p.val).mode = .up := h.1
  have counted : (acceptedAt s p.val frame).clk = s.clk := rfl
  unfold execLinkFrame
  rw [receive_accepted h (by decide)]
  have inRate : ¬ linkLimit < 1 := by decide
  simp only [rcvOf_payload, acceptedAt_port, counted, hrate, inRate, if_false]
  rw [if_neg (by simp [hb, h7, h11, hnak]), if_neg]
  rw [getP_modP_self, acceptedAt_port, hup]
  simp

end

/-- Settles O44: each clause is an event of the port, by the branch that its hypotheses choose. -/
theorem lanyardPortsTrainAndRetry : Obligations.LanyardPortsTrainAndRetry := by
  refine ⟨fun s p => ⟨fun r hm hw ht => ?_, fun hm hg hp hr => ⟨fun nonce hlate => execHelloSend_sends s p nonce hm hg hp hr hlate,
    fun f hcrc hkind => ⟨fun hbad => ?_, fun hok hw hs => execHelloFrame_up s p f hm hg hp hr hcrc hkind hok hw hs⟩⟩,
    fun f hm hp hr hcrc hkind => ?_, execPortEnable_one s p,
    fun hq ho => ⟨execPortEnable_zero s p hq ho, congrArg Host.Outcome.next (retrainPort_eq hq ho)⟩,
    fun hq => congrArg Host.Outcome.next (if_pos hq), fun lane => ⟨fun h => ?_, execLaneEvent_leaves s p lane⟩,
    fun hm howed => congrArg Host.Outcome.next (if_neg (by simp [hm, howed])), execGoBack_first s p, fun e he hlate => ?_,
    execReplicationTimeout_up s p⟩, execLinkFrame_taken⟩
  · exact congrArg Host.Outcome.next (if_neg (by simp [hm, hw, ht]))
  · refine (execHelloFrame_eq s p f (.inl hm) hp hr hcrc hkind).trans ?_
    rw [if_pos (by simp [hbad])]
  · refine (execHelloFrame_eq s p f (.inr hm) hp hr hcrc hkind).trans ?_
    cases helloOk s p.val f <;> simp [hm]
  · exact congrArg Host.Outcome.next (if_pos (by simp [h]))
  · refine congrArg Host.Outcome.next ?_
    simp only [he, hlate, true_or, if_true]

end Sys2Proof.Machine
end

section
/-! SUPPORT. What each in-turn frame of a replica group does (O45). -/

namespace Sys2Proof.Machine

/-! ### Taking a frame in (R408, R415) -/

section
variable {s : State} {p : Nat} {kind : Nat} {frame b : Bytes}

/-- A frame that is in turn reaches the effect of its type with the chip as it was taken in. -/
theorem sequenced_inTurn (h : FrameInTurn s p kind frame b) (hk : knownType kind = true) (f : State → Rcv → State) :
    sequenced s p kind frame f = f (takenIn s p kind frame b) (rcvOf p frame b) := by
  obtain ⟨haccepted, hseq, hcredit⟩ := h
  unfold sequenced
  rw [receive_accepted haccepted hk]
  unfold inSequence
  dsimp only
  rw [show (rcvOf p frame b).port = p from rfl]
  have seq : (rcvOf p frame b).seq = (getP (acceptedAt s p frame) p).rxSeq := by
    rw [acceptedAt_port]
    exact hseq
  have room : ¬ (if isRebuild kind then 512 else 1024) <
      (if isRebuild kind then (getP (acceptedAt s p frame) p).held.2 else (getP (acceptedAt s p frame) p).held.1) +
        (rcvOf p frame b).units := by
    rw [acceptedAt_port]
    change ¬ _ < _ + units b.length
    cases hk : isRebuild kind with
    | true =>
      rw [hk] at hcredit
      exact not_lt.2 hcredit
    | false =>
      rw [hk] at hcredit
      exact not_lt.2 hcredit
  rw [if_neg (not_not.2 seq), if_neg room]
  congr 1

end

/-! ### What a frame taken in leaves of the group -/

section
variable (s : State) (p kind : Nat) (frame b : Bytes)

@[simp] theorem takenIn_group : (takenIn s p kind frame b).group = s.group := rfl
@[simp] theorem takenIn_jrn : (takenIn s p kind frame b).jrn = s.jrn := rfl
@[simp] theorem takenIn_fe : (takenIn s p kind frame b).fe = s.fe := rfl

theorem takenIn_naming : (getP (takenIn s p kind frame b) p).naming = (getP s p).naming := by
  unfold takenIn
  rw [getP_modP_self, acceptedAt_port]

variable {s} {t : State}

theorem freshSplices_congr (hg : t.group = s.group) (hj : t.jrn = s.jrn) (fetched : Bool) :
    ∀ l, freshSplices t fetched l = freshSplices s fetched l
  | [] => rfl
  | x :: l => by
    have same : remembered t x.1 = remembered s x.1 := by rw [remembered, findSplice, hg, hj, remembered, findSplice]
    rw [freshSplices, freshSplices, same, freshSplices_congr hg hj fetched l]

theorem stateSeen_congr (hg : t.group = s.group) (hj : t.jrn = s.jrn) (id : Nat) : stateSeen t id = stateSeen s id := by
  rw [stateSeen, findSplice, hg, hj, stateSeen, findSplice]

theorem splitStates_congr (hg : t.group = s.group) (hj : t.jrn = s.jrn) :
    ∀ l fresh n, splitStates t fresh l n = splitStates s fresh l n
  | [], _, _ => rfl
  | e :: l, fresh, n => by
    simp only [splitStates, stateSeen_congr hg hj, splitStates_congr hg hj l]

end

/-! ### STATE entries (R420) -/

/-- Entries whose IDs are all new and different are all fresh, in their order. -/
theorem splitStates_new (s : State) : ∀ (l fresh : List Bytes), (∀ e ∈ l, stateSeen s (fld e 0 8) = 0) →
    ((fresh ++ l).map (fun e => fld e 0 8)).Nodup → splitStates s fresh l 0 = (fresh ++ l, 0)
  | [], fresh, _, _ => by simp [splitStates]
  | e :: l, fresh, hnew, hnodup => by
    have unseen : fresh.find? (fun x => fld x 0 8 == fld e 0 8) = none := by
      rw [List.find?_eq_none]
      intro x hx heq
      rw [List.map_append, List.nodup_append] at hnodup
      exact hnodup.2.2 _ (List.mem_map_of_mem hx) _ (List.mem_map_of_mem List.mem_cons_self) (by simpa using heq)
    rw [splitStates, unseen]
    dsimp only
    rw [if_pos (hnew e List.mem_cons_self), splitStates_new s l (fresh ++ [e]) (fun x hx => hnew x (List.mem_cons_of_mem _ hx))
      (by simpa using hnodup)]
    simp

/-- The pieces of a string, one after another, are the string. -/
theorem flatten_pieces (n : Nat) (hn : 0 < n) : ∀ (fuel : Nat) (b : Bytes), b.length ≤ fuel * n → (pieces n fuel b).flatMap id = b
  | 0, b, h => by
    rw [Nat.zero_mul, Nat.le_zero, List.length_eq_zero_iff] at h
    rw [h]
    rfl
  | fuel + 1, [], _ => rfl
  | fuel + 1, x :: b, h => by
    have fewer : ((x :: b).drop n).length ≤ fuel * n := by
      rw [List.length_drop]
      rw [Nat.add_mul, Nat.one_mul] at h
      simp only [List.length_cons] at h ⊢
      omega
    change ((x :: b).take n :: pieces n fuel ((x :: b).drop n)).flatMap id = _
    rw [List.flatMap_cons, flatten_pieces n hn fuel _ fewer]
    exact List.take_append_drop n _

theorem flatten_chunksOf (n : Nat) (hn : 0 < n) (b : Bytes) : (chunksOf n b).flatMap id = b := by
  refine flatten_pieces n hn _ b ?_
  have := Nat.lt_div_mul_add hn (a := b.length)
  rw [Nat.succ_mul]
  exact this.le

/-! ### A record that comes for the first time (R417) -/

theorem firstTime_new {s : State} {kind sender epoch term : Nat} (r : Rcv) (h : isHeard s kind sender epoch term = false)
    (f : State → State) : firstTime s r kind sender epoch term f = frameDone (f (spreadOn s r kind sender epoch term)) r :=
  if_neg (by simp [h])

theorem firstTime_heard {s : State} {kind sender epoch term : Nat} (r : Rcv) (h : isHeard s kind sender epoch term = true)
    (f : State → State) : firstTime s r kind sender epoch term f = frameDone s r := if_pos h

theorem spreadOn_fe (s : State) (r : Rcv) (kind sender epoch term : Nat) : (spreadOn s r kind sender epoch term).fe = s.fe :=
  (congrArg State.fe (besideFrames_flood _ r.port kind r.sender r.payload) :)

theorem acceptTerm_fe (s : State) (term anchor : Nat) : (acceptTerm s term anchor).fe = s.fe := by
  unfold acceptTerm
  split <;> rfl

theorem holdConfirm_later {s : State} {b : Bytes} (h : s.fe.epoch.toNat < fld b 0 8) : holdConfirm s b =
    maybeBegin { s with group := { s.group with confirm := some (fld b 0 8, slice b 16 32) } } := if_neg (by omega)

theorem lowTerm_congr {s t : State} (h : t.group = s.group) (term : Nat) : lowTerm t term = lowTerm s term := by
  rw [lowTerm, h, lowTerm]

theorem isHeard_congr {s t : State} (h : t.group = s.group) (kind sender epoch term : Nat) :
    isHeard t kind sender epoch term = isHeard s kind sender epoch term := by rw [isHeard, h, isHeard]

theorem awaits_congr {s t : State} (h : t.group = s.group) (p epoch : Nat) : awaits t p epoch = awaits s p epoch := by
  rw [awaits, h, awaits]

/-- A field past the first bytes. -/
theorem fld_drop (b : Bytes) (k off n : Nat) : fld (b.drop k) off n = fld b (k + off) n := by
  rw [fld, slice, List.drop_drop, fld, slice]

/-! ### Each type of frame -/

section
variable {s : State} {p : Port} {frame b : Bytes}

theorem execSpliceFrame_stages {l : List (Nat × Bytes)} (h : FrameInTurn s p.val 0x01 frame b)
    (hl : readSplices (b.length / 40 + 1) b = some l) : execSpliceFrame p frame s = .next (stage (takenIn s p.val 0x01 frame b)
      { recs := (freshSplices s (rcvOf p.val frame b).fetched l).map (fun x => { kind := 0x01, body := spliceRecord x.1 x.2 }),
        frame := some (p.val, (rcvOf p.val frame b).seq, units b.length), spread := !(rcvOf p.val frame b).fetched }) := by
  unfold execSpliceFrame
  rw [sequenced_inTurn h (by decide), rcvOf_payload, hl]
  dsimp only
  rw [freshSplices_congr (takenIn_group ..) (takenIn_jrn ..)]
  rfl

theorem execStateFrame_stages (h : FrameInTurn s p.val 0x02 frame b) (hb : b ≠ []) (hlen : b.length % 16 = 0)
    (hwell : ∀ e, e ∈ chunksOf 16 b → (fld e 8 1 = 1 ∨ fld e 8 1 = 2) ∧ zeroAt e 9 7 = true) :
    execStateFrame p frame s = .next (stage ((List.range (splitStates s [] (chunksOf 16 b) 0).2).foldl (fun s _ => violation s p.val)
        (takenIn s p.val 0x02 frame b))
      { recs := if (splitStates s [] (chunksOf 16 b) 0).1.isEmpty then []
          else [{ kind := 0x02, body := (splitStates s [] (chunksOf 16 b) 0).1.flatMap id }],
        frame := some (p.val, (rcvOf p.val frame b).seq, units b.length) }) := by
  have legal : (chunksOf 16 b).any (fun e => !inRange 1 2 (fld e 8 1) || !zeroAt e 9 7) = false := by
    rw [List.any_eq_false]
    intro e he
    obtain ⟨hstate, hzero⟩ := hwell e he
    rcases hstate with hstate | hstate <;> simp [hstate, hzero, inRange]
  unfold execStateFrame
  rw [sequenced_inTurn h (by decide)]
  dsimp only
  rw [rcvOf_payload, if_neg (by simp [hb, hlen, legal]), splitStates_congr (takenIn_group ..) (takenIn_jrn ..)]
  rfl

/-- The chip with its port's manifest named by a chunk. -/
def manifestNamed (s : State) (p : Port) (frame b : Bytes) (e t : Nat) : State :=
  modP (takenIn s p.val 0x03 frame b) p.val (fun q => { q with naming := some (e, t) })

theorem manifestNamed_group (e t : Nat) : (manifestNamed s p frame b e t).group = s.group := by
  rw [manifestNamed, modP_group, takenIn_group]

/-- A manifest chunk that is well-formed is named and then judged. -/
theorem execManifestFrame_named {e t : Nat} (h : FrameInTurn s p.val 0x03 frame b) (hmin : 8 < b.length) (hmax : b.length ≤ 2048)
    (hindex : fld b 0 4 < fld b 4 4) (hhead : fld b 0 4 = 0 → 112 ≤ b.length)
    (hname : (if fld b 0 4 = 0 then some (fld b 16 8, fld b 24 4) else (getP s p.val).naming) = some (e, t)) :
    let named := manifestNamed s p frame b e t
    let r := rcvOf p.val frame b
    execManifestFrame p frame s = .next (
      if r.fetched then frameDone (if awaits s p.val e then takeChunk named e t (fld b 4 4) (fld b 0 4) (b.drop 8) true else named) r
      else if lowTerm s t then frameDone named r
      else firstTime named r 0x03 (fld b 0 4) e t (fun s => takeChunk s e t (fld b 4 4) (fld b 0 4) (b.drop 8) false)) := by
  intro named r
  have hname' : (if fld b 0 4 = 0 then some (fld (b.drop 8) 8 8, fld (b.drop 8) 16 4)
      else (getP (takenIn s p.val 0x03 frame b) p.val).naming) = some (e, t) := by
    rw [fld_drop, fld_drop, takenIn_naming]
    exact hname
  unfold execManifestFrame
  rw [sequenced_inTurn h (by decide)]
  dsimp only
  rw [rcvOf_payload, hname', if_neg]
  · rfl
  · have : b.drop 8 ≠ [] := by simpa using hmin
    simp only [List.isEmpty_iff, this, List.length_drop, false_or, not_or, not_and, not_lt, not_le]
    exact ⟨hindex, by omega, fun h0 => by have := hhead h0; omega⟩

theorem execManifestAckFrame_counts (h : FrameInTurn s p.val 0x04 frame b) (hlen : b.length = 48)
    (hnew : isHeard s 0x04 (fld b 12 1) (fld b 0 8) (fld b 8 4) = false) :
    let r := rcvOf p.val frame b
    let u := spreadOn (takenIn s p.val 0x04 frame b) r 0x04 (fld b 12 1) (fld b 0 8) (fld b 8 4)
    isAnchor u = true → u.group.issuing ≠ [] → slice b 16 32 = sha256 u.group.issuing → bit (roster u) (fld b 12 1) = true →
      execManifestAckFrame p frame s =
        .next (frameDone (tryConfirm { u with group := { u.group with acks := sadd u.group.acks (fld b 12 1) } }) r) := by
  intro r u hanchor hissuing hdigest hmember
  unfold execManifestAckFrame
  rw [sequenced_inTurn h (by decide)]
  dsimp only
  rw [rcvOf_payload, if_neg (not_not.2 hlen), firstTime_new _ ((isHeard_congr (takenIn_group ..) ..).trans hnew), if_pos]
  exact ⟨hanchor, by simpa using hissuing, hdigest, hmember⟩

/-- A CONFIRM of a later epoch is judged by its term, or by the request that it answers. -/
theorem execConfirmFrame_judged (h : FrameInTurn s p.val 0x05 frame b) (hlen : b.length = 48) :
    let u := takenIn s p.val 0x05 frame b
    let r := rcvOf p.val frame b
    execConfirmFrame p frame s = .next (
      if r.fetched then
        frameDone (if awaits s p.val (fld b 0 8) then
          holdConfirm { u with group := { u.group with asked := u.group.asked.filter (· != (p.val, fld b 0 8)) } } b else u) r
      else if lowTerm s (fld b 8 4) then frameDone u r
      else firstTime u r 0x05 (fld b 12 1) (fld b 0 8) (fld b 8 4) (fun s => holdConfirm (acceptTerm s (fld b 8 4) (fld b 12 1)) b)) := by
  intro u r
  unfold execConfirmFrame
  rw [sequenced_inTurn h (by decide)]
  dsimp only
  rw [rcvOf_payload, if_neg (not_not.2 hlen)]
  rfl

theorem execReportFrame_stores (h : FrameInTurn s p.val 0x06 frame b) (hlen : b.length = 80)
    (hnew : isHeard s 0x06 (rcvOf p.val frame b).sender (fld b 0 8) 0 = false) : execReportFrame p frame s = .next (frameDone
      (catchUp (checkHead (putReport (spreadOn (takenIn s p.val 0x06 frame b) (rcvOf p.val frame b) 0x06 (rcvOf p.val frame b).sender
        (fld b 0 8) 0) (rcvOf p.val frame b).sender b))) (rcvOf p.val frame b)) := by
  unfold execReportFrame
  rw [sequenced_inTurn h (by decide)]
  rw [rcvOf_payload, if_neg (not_not.2 hlen), firstTime_new _ ((isHeard_congr (takenIn_group ..) ..).trans hnew)]

theorem execVoteFrame_counts (h : FrameInTurn s p.val 0x07 frame b) (hlen : b.length = 64)
    (hnew : isHeard s 0x07 (fld b 5 1) (fld b 8 8) (fld b 0 4) = false) : execVoteFrame p frame s = .next (frameDone
      (tryElect (putVote (spreadOn (takenIn s p.val 0x07 frame b) (rcvOf p.val frame b) 0x07 (fld b 5 1) (fld b 8 8) (fld b 0 4)) b)
        (fld b 0 4)) (rcvOf p.val frame b)) := by
  unfold execVoteFrame
  rw [sequenced_inTurn h (by decide)]
  dsimp only
  rw [rcvOf_payload, if_neg (not_not.2 hlen), firstTime_new _ ((isHeard_congr (takenIn_group ..) ..).trans hnew)]

theorem execFetchFrame_serves (h : FrameInTurn s p.val 0x08 frame b) (hmin : 24 ≤ b.length) (hlen : b.length % 8 = 0)
    (hmax : (b.length - 24) / 8 ≤ 252) (hzero : zeroAt b 9 7 = true) (hkind : fld b 8 1 = 1 ∨ fld b 8 1 = 2) :
    let items := (List.range ((b.length - 24) / 8)).map (fun i => fld b (24 + 8 * i) 8)
    let r := rcvOf p.val frame b
    let u := frameDone (takenIn s p.val 0x08 frame b) r
    execFetchFrame p frame s = .next (
      if fld b 8 1 = 1 then serveBodies u r (fld b 16 8) items else serveLines u r (fld b 0 8) (fld b 16 8) items) := by
  intro items r u
  have known : inRange 1 2 (fld b 8 1) = true := by rcases hkind with hkind | hkind <;> simp [hkind, inRange]
  unfold execFetchFrame
  rw [sequenced_inTurn h (by decide)]
  dsimp only
  rw [rcvOf_payload, if_neg]
  simp only [known, hzero, hlen, Bool.not_true, Bool.false_eq_true, ne_eq, not_true_eq_false, or_false, false_or, not_or, not_lt]
  exact ⟨hmin, hmax⟩

end

/-! ### REBUILD (R406) -/

/-- Memory, what of it is lost and for whom, and the group. -/
def rebuildOf (s : State) : NMap Byte × NSet × List (Nat × Nat) × GroupSt := (s.mem, s.lostBursts, s.lostReaders, s.group)

/-- Staging a write of no records changes none of it. -/
theorem rebuildOf_stage_empty (s : State) (frame : Option (Nat × Nat × Nat)) (spread : Bool) :
    rebuildOf (stage s { recs := [], frame, spread }) = rebuildOf s := by
  unfold stage acceptWrite writeDurable
  split
  · dsimp only [List.foldl_nil]
    split <;> rfl
  · change rebuildOf (noteExhausted s 0) = rebuildOf s
    unfold noteExhausted
    split
    · rfl
    · simp [rebuildOf]

/-- Its line given back its bytes, a chip that resynchronises nothing has only that line changed. -/
theorem takeResync_takeLine {s : State} {a : Nat} (line : Bytes) (hlost : s.lostBursts.any (fun x => x / 8 == a / 256) = true)
    (hreaders : s.lostReaders = []) (hlines : s.group.lines = []) : takeResync (takeLine s a line) a line =
      { memWrite s (256 * (a / 256)) line with lostBursts := s.lostBursts.filter (fun x => x / 8 != a / 256), lostReaders := [] } := by
  have taken : takeLine s a line =
      { memWrite s (256 * (a / 256)) line with lostBursts := s.lostBursts.filter (fun x => x / 8 != a / 256), lostReaders := [] } := by
    unfold takeLine
    dsimp only
    rw [if_neg (by simp [hlost]), hreaders]
    rfl
  rw [taken]
  exact if_pos (by simp [hlines])

/-- A byte of a line that has been written. -/
theorem nget_memWrite_line (s : State) (n a : Nat) {b : Bytes} (hb : b.length = 24 + 256) :
    nget 0 (memWrite s (256 * n) (slice b 24 256)).mem a = if a / 256 = n then b.getD (24 + a % 256) 0 else nget 0 s.mem a := by
  have hlen : (slice b 24 256).length = 256 := length_slice (by omega)
  change nget 0 (nputs 0 s.mem (256 * n) (slice b 24 256)) a = _
  rw [nget_nputs]
  by_cases hin : a / 256 = n
  · have hrange : 256 * n ≤ a ∧ a < 256 * n + (slice b 24 256).length := by omega
    have hbound : a - 256 * n < (slice b 24 256).length := by omega
    rw [dif_pos hrange, if_pos hin]
    have hoff : a - 256 * n = a % 256 := by omega
    simp only [slice, List.getElem_take, List.getElem_drop, hoff]
    rw [List.getD_eq_getElem _ _ (by omega)]
  · rw [dif_neg (by rw [hlen]; omega), if_neg hin]

/-- The chip once a REBUILD has been given its room back and stands as staged. -/
def rebuildStaged (s : State) (p : Nat) (r : Rcv) : State :=
  stage (modP s p (fun q => { q with held := (q.held.1, q.held.2 - r.units), owed := (q.owed.1, q.owed.2 + r.units) }))
    { recs := [], frame := some (p, r.seq, 0), spread := false }

theorem rebuildOf_modP (s : State) (p : Nat) (f : PortSt → PortSt) : rebuildOf (modP s p f) = rebuildOf s := rfl

theorem rebuildOf_rebuildStaged (s : State) (p : Nat) (r : Rcv) : rebuildOf (rebuildStaged s p r) = rebuildOf s := by
  rw [rebuildStaged, rebuildOf_stage_empty, rebuildOf_modP]

theorem rebuildOf_takenIn (s : State) (p kind : Nat) (frame b : Bytes) : rebuildOf (takenIn s p kind frame b) = rebuildOf s := by
  rw [takenIn, rebuildOf_modP, acceptedAt, rebuildOf_modP]

/-- The chip with a request for lines answered. -/
def requestMet (s : State) (f : Nat × Nat) : State := { s with group := { s.group with fetches := s.group.fetches.filter (· != f) } }

/-- A REBUILD of one line that answers a request of this chip. -/
theorem execRebuildFrame_line {s : State} {p : Port} {frame b : Bytes} (h : FrameInTurn s p.val 0x0A frame b)
    (hlen : b.length = 24 + 256) (hstatus : fld b 8 1 = 0) (hzero : zeroAt b 9 7 = true) :
    let v := rebuildStaged (takenIn s p.val 0x0A frame b) p.val (rcvOf p.val frame b)
    let a := fld b 16 8
    v.group.fetches.contains (fld b 0 8, a) = true → execRebuildFrame p frame s = 
      .next (takeResync (takeLine (requestMet v (fld b 0 8, a)) a (slice b 24 256)) a (slice b 24 256)) := by
  intro v a hasked
  have one : (b.length - 24) / 256 = 1 := by omega
  have mine : (v.group.fetches.any fun f => f.1 == fld b 0 8 && (f.2 == a || [a].contains f.2)) = true := by
    rw [List.any_eq_true]
    exact ⟨_, List.mem_of_elem_eq_true hasked, by simp⟩
  have others : (fun f : Nat × Nat => f.1 != fld b 0 8 || !(f.2 == a || [a].contains f.2)) = (· != (fld b 0 8, a)) := by
    funext f
    rw [Bool.eq_iff_iff]
    simp [Prod.ext_iff, imp_iff_not_or]
  unfold execRebuildFrame
  rw [sequenced_inTurn h (by decide)]
  dsimp only
  rw [rcvOf_payload, one, List.range_one, List.map_singleton, Nat.mul_zero, Nat.add_zero]
  rw [if_neg (by simp [hlen, hstatus, hzero, inRange]), if_neg (by rw [Bool.not_eq_true', Bool.not_eq_false]; exact mine),
    if_neg (by rw [hstatus]; decide), List.foldl_cons, List.foldl_nil]
  exact congrArg (fun g => Host.Outcome.next (takeResync (takeLine { v with group := { v.group with fetches := v.group.fetches.filter g } }
    a (slice b 24 256)) a (slice b 24 256))) others

theorem execRebuildFrame_writes {s : State} {p : Port} {frame b : Bytes} (h : FrameInTurn s p.val 0x0A frame b)
    (hlen : b.length = 24 + 256) (hstatus : fld b 8 1 = 0) (hzero : zeroAt b 9 7 = true)
    (hasked : s.group.fetches.contains (fld b 0 8, fld b 16 8) = true) (hlines : s.group.lines = [])
    (hlost : s.lostBursts.any (fun x => x / 8 == fld b 16 8 / 256) = true) (hreaders : s.lostReaders = []) :
    ∃ t, execRebuildFrame p frame s = .next t ∧ (∀ a, nget 0 t.mem a =
        if a / 256 = fld b 16 8 / 256 then b.getD (24 + a % 256) 0 else nget 0 s.mem a) ∧
      (∀ x, x ∈ t.lostBursts ↔ x ∈ s.lostBursts ∧ x / 8 ≠ fld b 16 8 / 256) ∧
      t.group.fetches = s.group.fetches.filter (· != (fld b 0 8, fld b 16 8)) := by
  have kept := (rebuildOf_rebuildStaged (takenIn s p.val 0x0A frame b) p.val (rcvOf p.val frame b)).trans (rebuildOf_takenIn ..)
  simp only [rebuildOf, Prod.mk.injEq] at kept
  obtain ⟨hmem, hbursts, hrd, hgroup⟩ := kept
  have line := execRebuildFrame_line h hlen hstatus hzero (by rw [hgroup]; exact hasked)
  have written := takeResync_takeLine (slice b 24 256) (a := fld b 16 8)
    (s := requestMet (rebuildStaged (takenIn s p.val 0x0A frame b) p.val (rcvOf p.val frame b)) (fld b 0 8, fld b 16 8))
    (hbursts.symm ▸ hlost) (hrd.trans hreaders) ((congrArg GroupSt.lines hgroup).trans hlines)
  refine ⟨_, line.trans (congrArg Host.Outcome.next written), fun a => ?_, fun x => ?_, ?_⟩
  · exact (nget_memWrite_line _ _ a hlen).trans (by rw [requestMet, hmem])
  · refine List.mem_filter.trans (and_congr ?_ bne_iff_ne)
    exact iff_of_eq (congrArg (x ∈ ·) hbursts)
  · exact congrArg (fun g : GroupSt => g.fetches.filter (· != (fld b 0 8, fld b 16 8))) hgroup

/-- Settles O45: every frame in turn reaches the effect of its type, and what a record of no bytes leaves shows that effect. -/
theorem groupFramesTakeEffect : Obligations.GroupFramesTakeEffect := by
  refine ⟨fun s p frame b => ⟨fun l => execSpliceFrame_stages, fun h hb hlen hwell => ⟨execStateFrame_stages h hb hlen hwell, fun hnew hnodup => ?_⟩,
    fun e t h hmin hmax hindex hhead hname => ?_, execManifestAckFrame_counts, fun h hlen hlater => ?_, execReportFrame_stores,
    execVoteFrame_counts, fun h hmin hlen hmax hzero => ⟨fun hone => ?_, fun htwo => ?_⟩,
    fun h hlen hstatus hzero hasked _ hlines hlost hreaders _ =>
      execRebuildFrame_writes h hlen hstatus hzero hasked hlines hlost hreaders⟩,
    fun s hg ha hc hdue => congrArg Host.Outcome.next (if_neg (by simp [hg, ha, hc]; omega))⟩
  · have stages := execStateFrame_stages h hb hlen hwell
    have fresh : splitStates s [] (chunksOf 16 b) 0 = (chunksOf 16 b, 0) := splitStates_new s _ [] hnew hnodup
    have some_ : (chunksOf 16 b).isEmpty = false := by
      cases hchunks : chunksOf 16 b with
      | nil => exact absurd (flatten_chunksOf 16 (by decide) b).symm (by simpa [hchunks] using hb)
      | cons _ _ => rfl
    rw [fresh, some_, flatten_chunksOf 16 (by decide)] at stages
    exact stages
  · have judged := execManifestFrame_named h hmin hmax hindex hhead hname
    refine ⟨fun hfetched => judged.trans ?_, fun hfetched hlow => judged.trans ?_, fun hfetched hterm hnew => judged.trans ?_⟩
    · rw [if_pos hfetched]
      rfl
    · rw [if_neg (by simp [hfetched])]
      split
      · rfl
      · next hterm => 
        rw [firstTime_heard _ ((isHeard_congr (manifestNamed_group ..) ..).trans (hlow.resolve_left hterm))]
        rfl
    · rw [if_neg (by simp [hfetched]), if_neg (by simp [hterm]),
        firstTime_new _ ((isHeard_congr (manifestNamed_group ..) ..).trans hnew)]
      rfl
  · have judged := execConfirmFrame_judged h hlen
    refine ⟨fun hfetched hlow => judged.trans ?_, fun hfetched hterm hnew => judged.trans ?_, fun hfetched hawaits => judged.trans ?_⟩
    · rw [if_neg (by simp [hfetched]), if_pos hlow]
    · rw [if_neg (by simp [hfetched]), if_neg (by simp [hterm]),
        firstTime_new _ ((isHeard_congr (takenIn_group ..) ..).trans hnew), holdConfirm_later]
      rw [acceptTerm_fe, spreadOn_fe]
      exact hlater
    · rw [if_pos hfetched, if_pos hawaits, holdConfirm_later]
      · rfl
      · exact hlater
  · exact (execFetchFrame_serves h hmin hlen hmax hzero (.inl hone)).trans (by rw [if_pos hone])
  · exact (execFetchFrame_serves h hmin hlen hmax hzero (.inr htwo)).trans (by rw [if_neg (by rw [htwo]; decide)])

end Sys2Proof.Machine
end

section
/-! SUPPORT. What the journal's commands do to staging, ring, images, exports and the replay arena (O46). -/

namespace Sys2Proof.Machine

/-! ### What becoming durable leaves of the journal (R444) -/

/-- The journal but for the time of the last image and the frames of the writes that wait, with how many wait. -/
def journalOf (s : State) : JournalSt × Nat × List (List JrnRecord) :=
  ({ s.jrn with waiting := [], lastImage := 0 }, s.jrn.waiting.length, s.jrn.waiting.map (·.recs))

section
variable (s : State)

theorem journalOf_modP (p : Nat) (f : PortSt → PortSt) : journalOf (modP s p f) = journalOf s := rfl
theorem journalOf_modL (id : Nat) (f : Launch → Launch) : journalOf (modL s id f) = journalOf s := rfl
theorem journalOf_emit (o : Out) : journalOf (emit s o) = journalOf s := rfl
theorem journalOf_learnState (id st : Nat) : journalOf (learnState s id st) = journalOf s := rfl
theorem journalOf_learnBody (id : Nat) (body : Bytes) : journalOf (learnBody s id body) = journalOf s := rfl

theorem journalOf_congr {t : State} (h : t.jrn = s.jrn) : journalOf t = journalOf s := by rw [journalOf, h, journalOf]

/-- A port that trains again forgets the frames of the writes that wait, not the writes. -/
theorem journalOf_portRetrain (p : Nat) : journalOf (portRetrain s p) = journalOf s := by
  refine Prod.ext rfl (Prod.ext (List.length_map _) ?_)
  refine (List.map_map ..).trans (List.map_congr_left (fun w _ => ?_))
  simp only [Function.comp_apply]
  split <;> rfl

theorem journalOf_putFrame (p kind flags sender seq : Nat) (payload : Bytes) :
    journalOf (putFrame s p kind flags sender seq payload) = journalOf s := by
  unfold putFrame
  dsimp only
  split
  · exact journalOf_portRetrain ..
  · rfl

theorem journalOf_pumpOne (p : Nat) : journalOf (pumpOne s p) = journalOf s := by
  unfold pumpOne
  dsimp only
  split
  · rfl
  · simp only [apply_ite journalOf, journalOf_putFrame, journalOf_modP, ite_self]

theorem journalOf_queueFrame (p kind flags sender : Nat) (payload : Bytes) :
    journalOf (queueFrame s p kind flags sender payload) = journalOf s := by
  unfold queueFrame
  split
  · exact (foldl_keeps journalOf _ _ (fun s _ _ => journalOf_pumpOne s p) _).trans (journalOf_modP ..)
  · rfl

theorem journalOf_flood (from_ kind sender : Nat) (payload : Bytes) : journalOf (flood s from_ kind sender payload) = journalOf s := by
  unfold flood
  split
  · refine foldl_keeps journalOf _ _ (fun s p _ => ?_) s
    split
    · rfl
    · exact journalOf_queueFrame s ..
  · rfl

theorem journalOf_recordDurable (from_ : Nat) (spread : Bool) (r : JrnRecord) :
    journalOf (recordDurable s from_ spread r) = journalOf s := by
  unfold recordDurable
  split
  · dsimp only
    split
    · rw [journalOf_flood, journalOf_learnBody]
    · rfl
  · dsimp only
    rw [journalOf_flood]
    exact foldl_keeps journalOf _ _ (fun s _ _ => journalOf_learnState s ..) s
  · split <;> rfl
  all_goals rfl

theorem journalOf_writeDurable (w : JrnWrite) : journalOf (writeDurable s w) = journalOf s := by
  have records := foldl_keeps journalOf (fun s r => recordDurable s ((w.frame.map (·.1)).getD 8) w.spread r) w.recs
    (fun s r _ => journalOf_recordDurable s ..) s
  unfold writeDurable
  dsimp only
  split
  · exact (journalOf_modP ..).trans records
  · exact records

/-! ### Reclaiming (R454) -/

/-- What reclaiming never changes: staging, what waits, the numbers, drydown and exports. -/
theorem reclaim_keeps : (reclaim s).jrn.staged = s.jrn.staged ∧ (reclaim s).jrn.waiting = s.jrn.waiting ∧
    (reclaim s).jrn.nextSeq = s.jrn.nextSeq ∧ (reclaim s).jrn.drydown = s.jrn.drydown ∧
    (reclaim s).jrn.exportState = s.jrn.exportState ∧ (reclaim s).jrn.exportDone = s.jrn.exportDone ∧ (reclaim s).out = s.out := by
  unfold reclaim
  split
  · exact ⟨rfl, rfl, rfl, rfl, rfl, rfl, rfl⟩
  · unfold endFull
    dsimp only
    split
    · split <;> exact ⟨rfl, rfl, rfl, rfl, rfl, rfl, rfl⟩
    · exact ⟨rfl, rfl, rfl, rfl, rfl, rfl, rfl⟩

theorem reclaim_images : (reclaim s).jrn.images = if kindWaits s 0x05 then s.jrn.images else keepImages s.jrn.images := by
  unfold reclaim
  split
  · rfl
  · unfold endFull
    dsimp only
    split
    · split <;> rfl
    · rfl

theorem reclaim_ring : (reclaim s).jrn.ring = s.jrn.ring ∨ (reclaim s).jrn.ring = s.jrn.ring.filter (fun g => !reclaimable s g) := by
  unfold reclaim
  split
  · exact .inl rfl
  · refine .inr ?_
    unfold endFull
    dsimp only
    split
    · split <;> rfl
    · rfl

/-- The open segment is not reclaimed. -/
theorem openSegment_reclaim : openSegment (reclaim s) = openSegment s := by
  unfold openSegment
  rcases reclaim_ring s with h | h
  · rw [h]
  · rw [h, List.find?_filter]
    congr 1
    funext g
    cases hg : g.closed with
    | true => simp
    | false => simp [reclaimable, hg]

/-! ### Acceptance and flash writes (R443, R444) -/

theorem execJournalRecordAccept_stages {w : JrnWrite} {rest : List JrnWrite} (hw : s.jrn.waiting = w :: rest)
    (hfits : acceptable s w = true) : ∃ t, execJournalRecordAccept s = .next t ∧ t.jrn.staged = s.jrn.staged ++ w.recs ∧
      t.jrn.waiting.length = rest.length := by
  let v : State := { s with jrn := { s.jrn with waiting := rest, staged := s.jrn.staged ++ w.recs } }
  obtain ⟨hstaged, hwaiting, -⟩ := reclaim_keeps (writeDurable v w)
  have kept := journalOf_writeDurable v w
  refine ⟨reclaim (writeDurable v w), ?_, hstaged.trans ?_, (congrArg List.length hwaiting).trans ?_⟩
  · unfold execJournalRecordAccept
    rw [hw]
    dsimp only
    rw [if_pos hfits]
    rfl
  · exact (congrArg (fun j => j.1.staged) kept :)
  · exact (congrArg (fun j => j.2.1) kept :)

theorem execFlashWriteDone_uncovered {w : JrnWrite} {rest : List JrnWrite} {u : State} (hw : s.jrn.waiting = w :: rest)
    (hstaged : s.jrn.staged = []) (hcovered : s.jrn.covered = 0)
    (hu : writeAll w.recs { s with jrn := { s.jrn with waiting := rest } } = some u) :
    execFlashWriteDone s = .next (reclaim (writeDurable u w)) := by
  have whole : writeWaiting s w = some (reclaim (writeDurable u w)) := by
    unfold writeWaiting
    rw [hw, List.erase_cons_head, hu]
    rfl
  unfold execFlashWriteDone
  rw [hstaged, hw]
  dsimp only
  rw [if_neg (not_not.2 hcovered), whole]

/-- With records staged, the oldest that flash takes goes to flash. -/
theorem execFlashWriteDone_staged {r : JrnRecord} (hr : s.jrn.staged = [r]) : execFlashWriteDone s = .next (
    let s0 := noteFull s.jrn.staged s
    match s0.jrn.staged.find? (fun r => (writeFlash s0 r).isSome) with
      | none => s0
      | some r => match writeFlash s0 r with
        | none => s0
        | some s1 =>
          let left := s1.jrn.staged.erase r
          reclaim (noteFull left { s1 with jrn := { s1.jrn with staged := left } })) := by
  unfold execFlashWriteDone
  rw [hr] <;> rfl

theorem writeFlash_fits {r : JrnRecord} (hfits : fitsOpen s r = true) (hfree : 0 < freeSegments s ∨ reservedType r.kind = true) :
    writeFlash s r = some (appendRecord s r) := if_pos ⟨hfits, hfree⟩

theorem writeFlash_noSegment {r : JrnRecord} (hfree : freeSegments s = 0) (hkind : reservedType r.kind = false) :
    writeFlash s r = none := by
  unfold writeFlash
  rw [if_neg (by simp [hfree, hkind]), if_neg (by omega), if_neg (by omega)]

theorem appendRecord_jrn (r : JrnRecord) : (appendRecord s r).jrn = { s.jrn with
    nextSeq := s.jrn.nextSeq + 1, ring := updFirst (fun g => !g.closed) (fun g => { g with data := g.data ++ recBytes s.jrn.nextSeq r }) s.jrn.ring } := by
  unfold appendRecord
  rw [noteWear_jrn]

/-- The open segment of a chip that has appended a record. -/
theorem openSegment_appendRecord (r : JrnRecord) : openSegment (appendRecord s r) =
    (openSegment s).map (fun g => { g with data := g.data ++ recBytes s.jrn.nextSeq r }) := by
  unfold openSegment
  rw [appendRecord_jrn]
  exact find?_updFirst (p := fun g : Segment => !g.closed) (f := fun g => { g with data := g.data ++ recBytes s.jrn.nextSeq r })
    (fun _ => rfl) _

theorem execFlashWriteDone_appends {r : JrnRecord} {g : Segment} (hr : s.jrn.staged = [r]) (hg : openSegment s = some g)
    (hfits : fitsOpen s r = true) (hfree : 0 < freeSegments s ∨ reservedType r.kind = true) :
    ∃ t h, execFlashWriteDone s = .next t ∧ t.jrn.staged = [] ∧ openSegment t = some h ∧
      h.data = g.data ++ recBytes s.jrn.nextSeq r ∧ h.serial = g.serial ∧ t.jrn.nextSeq = s.jrn.nextSeq + 1 := by
  have taken := writeFlash_fits s hfits hfree
  have room : noteFull [r] s = s := if_pos (by rw [taken]; rfl)
  have staged : (appendRecord s r).jrn.staged = [r] := (congrArg JournalSt.staged (appendRecord_jrn s r)).trans hr
  let v : State := { appendRecord s r with jrn := { (appendRecord s r).jrn with staged := [] } }
  obtain ⟨hstaged, -, hseq, -⟩ := reclaim_keeps v
  refine ⟨reclaim v, { g with data := g.data ++ recBytes s.jrn.nextSeq r }, ?_, hstaged, ?_, rfl, rfl, hseq.trans ?_⟩
  · have first : s.jrn.staged.find? (fun r => (writeFlash s r).isSome) = some r := by simp [hr, taken]
    rw [execFlashWriteDone_staged s hr]
    dsimp only
    rw [hr, room, first]
    dsimp only
    rw [taken]
    dsimp only
    rw [staged, List.erase_cons_head]
    rfl
  · rw [openSegment_reclaim]
    exact (openSegment_appendRecord s r).trans (by rw [hg]; rfl)
  · exact congrArg JournalSt.nextSeq (appendRecord_jrn s r)

theorem raiseFull_staged : (raiseFull s).jrn.staged = s.jrn.staged ∧ freeSegments (raiseFull s) = freeSegments s := by
  unfold raiseFull freeSegments
  split
  · exact ⟨rfl, rfl⟩
  · rw [logErr_jrn]
    exact ⟨rfl, rfl⟩

theorem execFlashWriteDone_full {r : JrnRecord} (hr : s.jrn.staged = [r]) (hfree : freeSegments s = 0) (hkind : reservedType r.kind = false) :
    execFlashWriteDone s = .next (raiseFull s) := by
  obtain ⟨hstaged, hsegments⟩ := raiseFull_staged s
  have noted : noteFull [r] s = raiseFull s := by
    unfold noteFull
    dsimp only
    rw [if_neg (by simp [writeFlash_noSegment s hfree hkind]), if_neg (c := 0 < freeSegments s ∨ reservedType r.kind = true) (by simp [hfree, hkind]), if_neg (by simp [hkind])]
  rw [execFlashWriteDone_staged s hr, hr, noted]
  dsimp only
  rw [hstaged, hr]
  simp [writeFlash_noSegment (raiseFull s) (hsegments.trans hfree) hkind]

/-! ### Drydown (R448 to R450, R466) -/

theorem execDrydownStart_due (hidle : drydownRuns s = false) (hpower : s.jrn.powerFail = false) (hepoch : flashEpoch s ≠ 0)
    (hdue : rget s Reg.drydownHigh * 1726 < 100 * s.jrn.ring.length ∨
      s.jrn.lastImage + rget s Reg.drydownPeriod * 1000000000 ≤ s.clk.elapsed) :
    execDrydownStart s = .next { readDrydown s with jrn := { (readDrydown s).jrn with
      drydown := some (if drydownDamaged (readDrydown s) then (s.fe.epoch.toNat, true) else (flashEpoch s, false)) } } := by
  have due : (decide (rget s Reg.drydownHigh * ringSegments < 100 * s.jrn.ring.length) ||
      decide (s.jrn.lastImage + rget s Reg.drydownPeriod * 1000000000 ≤ s.clk.elapsed)) = true := by
    rw [Bool.or_eq_true, decide_eq_true_eq, decide_eq_true_eq]
    exact hdue
  unfold execDrydownStart
  dsimp only
  rw [if_neg (by simp only [hidle, hpower, hepoch, due]; decide)]

/-- The images and the drydown of a journal. -/
def imagesOf (s : State) : List Image × Option (Nat × Bool) := (s.jrn.images, s.jrn.drydown)

theorem imagesOf_noteExhausted (n : Nat) : imagesOf (noteExhausted s n) = imagesOf s := by
  unfold noteExhausted
  split
  · rfl
  · unfold imagesOf
    rw [logErr_jrn]
    rfl

theorem imagesOf_acceptWrite (w : JrnWrite) : imagesOf (acceptWrite s w) = imagesOf s :=
  congrArg (fun j : JournalSt × Nat × List (List JrnRecord) => (j.1.images, j.1.drydown))
    (journalOf_writeDurable { s with jrn := { s.jrn with staged := s.jrn.staged ++ w.recs } } w)

/-- Staging a record leaves the images and the drydown. -/
theorem imagesOf_stageOwn (recs : List JrnRecord) : imagesOf (stageOwn s recs) = imagesOf s := by
  unfold stageOwn stage
  rw [apply_ite imagesOf, imagesOf_acceptWrite]
  refine (congrArg₂ (ite _) rfl ?_).trans (ite_self _)
  exact imagesOf_noteExhausted ..

theorem kindWaits_reclaim (kind : Nat) : kindWaits (reclaim s) kind = kindWaits s kind := by
  obtain ⟨-, hwaiting, -⟩ := reclaim_keeps s
  rw [kindWaits, hwaiting, kindWaits]

/-- The chip with an image in the base area, its record not yet staged. -/
def imagePlaced (s : State) (i : Image) : State :=
  noteWear { s with jrn := { s.jrn with images := s.jrn.images ++ [i], drydown := none } } i.bytes.length

theorem imagesOf_imagePlaced (i : Image) : imagesOf (imagePlaced s i) = (s.jrn.images ++ [i], none) := by
  unfold imagesOf imagePlaced
  rw [noteWear_jrn]

theorem imagesOf_placed (i : Image) (recs : List JrnRecord) :
    let t := reclaim (stageOwn (imagePlaced s i) recs)
    t.jrn.drydown = none ∧ t.jrn.images = if kindWaits t 0x05 then s.jrn.images ++ [i] else keepImages (s.jrn.images ++ [i]) := by
  intro t
  obtain ⟨himages, hdrydown⟩ := Prod.ext_iff.1 ((imagesOf_stageOwn (imagePlaced s i) recs).trans (imagesOf_imagePlaced s i))
  obtain ⟨-, -, -, hkeeps, -⟩ := reclaim_keeps (stageOwn (imagePlaced s i) recs)
  refine ⟨hkeeps.trans hdrydown, ?_⟩
  rw [reclaim_images, kindWaits_reclaim]
  rw [show (stageOwn (imagePlaced s i) recs).jrn.images = s.jrn.images ++ [i] from himages]

theorem placeImage_eq {epoch first : Nat} {head : Bytes} {tables : List ArenaTable} {carried : List (Nat × Nat × Bytes)}
    (hfirst : freeBase s (imageBytes epoch head (serialOf s epoch) tables carried).length = some first) :
    let i : Image := ⟨first, epoch, head, serialOf s epoch, imageBytes epoch head (serialOf s epoch) tables carried, false⟩
    placeImage s epoch head tables carried = reclaim (stageOwn (imagePlaced s i) [{ kind := 0x05, body := baseNoteBody i }]) := by
  have unfolded := congrFun (congrFun (congrFun (congrFun (congrFun placeImage_def s) epoch) head) tables) carried
  beta_reduce at unfolded
  obtain ⟨base, hbase⟩ : ∃ f, f = freeBase := ⟨_, rfl⟩
  rw [← hbase] at unfolded hfirst
  dsimp only at unfolded
  rw [unfolded, hfirst]
  rfl

/-! ### Export (R455, R465) -/

theorem execExportStart_image (hidle : s.jrn.exportState ≠ 1) (hkind : rget s Reg.exportKind = 1) : execExportStart s = .next (
    match exportBytes s true (rget s Reg.exportSel) with
    | none => setExport s 4 0
    | some b => if rget s Reg.exportLen < b.length then setExport s 5 0
      else { s with jrn := { s.jrn with exportState := 1, exportDone := 0, exporting := some (true, rget s Reg.exportSel, rget s Reg.exportAddr) } }) := by
  unfold execExportStart
  rw [if_neg hidle, hkind]
  rfl

/-- The chip once the bytes that the host asked for are in its memory: a ring segment is marked. -/
def exported (s : State) (image : Bool) (sel addr : Nat) (b : Bytes) : State :=
  let s1 := setExport (writeHost s 0 addr b) 2 b.length
  if image then s1
  else { s1 with jrn := { s1.jrn with ring := updFirst (fun g => g.serial == sel) (fun g => { g with exported := true }) s1.jrn.ring } }

theorem execExportDone_done {image : Bool} {sel addr : Nat} {b : Bytes} (he : s.jrn.exporting = some (image, sel, addr))
    (hb : exportBytes s image sel = some b) : ∃ t, execExportDone .done s = .next t ∧ t.jrn.exportState = 2 ∧
      t.jrn.exportDone = BitVec.ofNat 64 b.length ∧ Out.dma (hostReq s 0 addr true) b ∈ t.out := by
  have ends : execExportDone .done s = .next (reclaim (exported s image sel addr b)) := by
    unfold execExportDone
    rw [he]
    dsimp only
    rw [hb]
    rfl
  obtain ⟨-, -, -, -, hstate, hdone, hout⟩ := reclaim_keeps (exported s image sel addr b)
  refine ⟨_, ends, ?_⟩
  rw [hstate, hdone, hout]
  unfold exported
  dsimp only
  split <;> exact ⟨rfl, rfl, List.mem_cons_self⟩

/-! ### The replay arena (R458) -/

/-- A load that has its parts ends FAILED, or READY as it was asked. -/
theorem loadArena_ends (q t p : Bytes) : (loadArena s q t p).jrn.arena.state = 3 ∨ ((loadArena s q t p).jrn.arena.state = 2 ∧
    (loadArena s q t p).jrn.arena.head = slice q 16 32 ∧ (loadArena s q t p).jrn.arena.epoch = BitVec.ofNat 64 (fld q 8 8)) := by
  unfold loadArena
  dsimp only
  split
  · split
    · exact .inl rfl
    · split
      · exact .inl rfl
      next hhead =>
        split
        · exact .inl rfl
        · split
          · exact .inl rfl
          · exact .inr ⟨rfl, not_not.1 hhead, rfl⟩
  · exact .inl rfl

theorem execArenaLoadDone_ends (hbusy : s.jrn.arena.state = 1) (q t p : Bytes) :
    ∃ u, execArenaLoadDone (.data q) (.data t) (.data p) s = .next u ∧
      (u.jrn.arena.state = 3 ∨ (u.jrn.arena.state = 2 ∧ requestOk q = true ∧ u.jrn.arena.head = slice q 16 32 ∧
        u.jrn.arena.epoch = BitVec.ofNat 64 (fld q 8 8))) := by
  have judged : execArenaLoadDone (.data q) (.data t) (.data p) s =
      .next (if requestOk q && touchOk (fld q 48 4) t then loadArena s q t p else failArena s failGap) := by
    unfold execArenaLoadDone
    rw [if_neg (not_not.2 hbusy)]
  refine ⟨_, judged, ?_⟩
  split
  next hok =>
    obtain ⟨hrequest, -⟩ := Bool.and_eq_true_iff.1 hok
    exact (loadArena_ends s q t p).imp id (fun ⟨hstate, hhead, hepoch⟩ => ⟨hstate, hrequest, hhead, hepoch⟩)
  next => exact .inl rfl

end

/-- Settles O46: what becoming durable and reclaiming leave of the journal shows acceptance, flash writes, drydown and exports; the
rest are branches of their commands. -/
theorem journalKeepsItsRecords : Obligations.JournalKeepsItsRecords := by
  refine ⟨fun s w rest hw => ⟨execJournalRecordAccept_stages s hw, fun u => execFlashWriteDone_uncovered s hw⟩,
    fun s r g hr hg hfits hfree _ => execFlashWriteDone_appends s hr hg hfits hfree, fun s r => execFlashWriteDone_full s,
    fun s => execDrydownStart_due s, fun s e he => ⟨fun q hq => ?_, fun x hx => ?_⟩,
    fun s hidle hkind => ⟨fun hnone => ?_, fun b hb => ⟨fun hshort => ?_, fun hfits => ?_⟩⟩,
    fun s image sel addr he => ⟨?_, fun last => ?_, fun b hb => execExportDone_done s he hb⟩,
    fun s request halign => ⟨fun hbusy => ?_, fun huse hidle => ?_⟩,
    fun s hbusy => ⟨fun t p => congrArg Host.Outcome.next (if_neg (not_not.2 hbusy)), execArenaLoadDone_ends s hbusy⟩⟩
  · intro bytes first hfirst
    obtain ⟨hdrydown, himages⟩ := imagesOf_placed s ⟨first, e, q.head, serialOf s e, bytes, false⟩ _
    refine ⟨_, ?_, hdrydown, himages⟩
    change execDrydownDone s = _
    unfold execDrydownDone
    rw [he]
    dsimp only
    rw [hq]
    exact congrArg Host.Outcome.next (placeImage_eq s hfirst)
  · change execDrydownDone s = _
    unfold execDrydownDone
    rw [he]
    dsimp only
    rw [hx]
  · refine (execExportStart_image s hidle hkind).trans ?_
    rw [hnone]
  · refine (execExportStart_image s hidle hkind).trans ?_
    rw [hb]
    exact congrArg Host.Outcome.next (if_pos hshort)
  · refine (execExportStart_image s hidle hkind).trans ?_
    rw [hb]
    exact congrArg Host.Outcome.next (if_neg (not_lt.2 hfits))
  · change execExportDone .failed s = _
    unfold execExportDone
    rw [he]
  · change execExportDone (.notPresent last) s = _
    unfold execExportDone
    rw [he]
  · exact congrArg Host.Outcome.next ((if_neg (not_not.2 halign)).trans (if_pos hbusy))
  · exact congrArg Host.Outcome.next ((if_neg (not_not.2 halign)).trans (if_neg (by simp [huse, hidle])))

end Sys2Proof.Machine
end

section
/-! SUPPORT. The checker and a lone execution that passes: the copy of its outputs starts again from their first byte (O41). -/

namespace Sys2Proof.Machine

/-! ### A lone execution (R476, R480) -/

section
variable {s : State} {l : Launch} {x : Exec}

/-- The checker takes a result of a running launch that holds its inputs and has read no lost line. -/
theorem checkReady_result (hrun : l.stage = .running) (hheld : ∀ i, i < dInputs l.desc → holdDone l i = true)
    (hlost : readsLost s l.id = false) (hroom : (sealQueue s).length < 64) (hx : x.phase = .result) : checkReady s l x = true := by
  have held : (List.range (dInputs l.desc)).all (holdDone l) = true :=
    List.all_eq_true.2 (fun i hi => hheld i (List.mem_range.1 hi))
  simp [checkReady, hrun, held, hlost, hx, sealQueueLimit, hroom]

/-- An execution with its verdict. -/
def checkedWith (l : Launch) (x : Exec) : Exec := { x with verdict := verdictOf l x, phase := .checked }

/-- A lone passing execution without a fault is chosen, and nothing of it has been copied. -/
theorem chooseExec_lone (y : Exec) (he : l.execs = [y]) (hf : y.fault = none) (hpass : rejects y = false) :
    chooseExec s l (y, 0) false = modL s l.id (fun l => { l with stage := .decided 0, audited := false, copied := (0, 0) }) := by
  have one : indexed l = [(y, 0)] := by rw [indexed, he]; rfl
  have agree : (checkedExecs l).filter (fun q => sealedMessage l q.1 != sealedMessage l y) = [] := by
    rw [checkedExecs, one, List.filter_eq_nil_iff]
    intro q hq
    obtain rfl := List.mem_singleton.1 (List.mem_filter.1 hq).1
    simp
  have sound : l.execs.filter (fun x => x.fault.isSome) = [] := by simp [he, hf]
  unfold chooseExec
  simp only [agree, sound, one, hpass, List.map_nil, List.append_nil, List.foldl_nil, List.foldl_cons, true_or, if_true,
    Bool.false_eq_true, if_false]

theorem decideLaunch_lone (y : Exec) (he : l.execs = [y]) (hc : y.phase = .checked) (hpass : rejects y = false) :
    decideLaunch s l = chooseExec s l (y, 0) false := by
  have one : indexed l = [(y, 0)] := by rw [indexed, he]; rfl
  have ended : liveExecs l = [] := by simp [liveExecs, one, hc]
  have checked : checkedExecs l = [(y, 0)] := by simp [checkedExecs, one, hc]
  unfold decideLaunch
  rw [ended, checked]
  change decideOne s l (y, 0) = _
  exact if_pos (Or.inl (by rw [hpass]; rfl))

theorem execIntegrityCheck_lone (hl : findL s l.id = some l) (hrun : l.stage = .running)
    (hheld : ∀ i, i < dInputs l.desc → holdDone l i = true) (hlost : readsLost s l.id = false) (hroom : (sealQueue s).length < 64)
    (he : l.execs = [x]) (hx : x.phase = .result) (hf : x.fault = none) (hpass : bit (verdictOf l x) 0 = false) :
    execIntegrityCheck l.id 0 s = .next (modL (modX s l.id 0 (fun x => { x with verdict := verdictOf l x, phase := .checked })) l.id
      (fun l => { l with stage := .decided 0, audited := false, copied := (0, 0) })) := by
  have hx0 : getX l 0 = some x := by rw [getX, he]; rfl
  have after : findL (modX s l.id 0 (fun x => { x with verdict := verdictOf l x, phase := .checked })) l.id =
      some { l with execs := [checkedWith l x] } := by
    rw [findL_modX, hl, Option.map_some, he]
    rfl
  have passes : rejects (checkedWith l x) = false := hpass
  unfold execIntegrityCheck
  rw [hl]
  dsimp only
  rw [hx0]
  dsimp only
  rw [checkReady_result hrun hheld hlost hroom hx, if_neg (by decide), after]
  dsimp only
  rw [decideLaunch_lone (checkedWith l x) rfl rfl passes]
  exact congrArg Host.Outcome.next (chooseExec_lone (checkedWith l x) rfl hf passes)

/-! ### A launch whose cursor stands elsewhere -/

/-- A running launch with one result, no inputs and no envelopes, whose copy cursor stands in its buffer 1. -/
def strayCursor : Launch :=
  { id := 1, tenant := 0, ring := 0, seq := 0, desc := [], lcb := [], replay := [], held := [], epoch := 0, head := [],
    accord := ⟨0, [], []⟩, audit := false, watchdog := 0, admitted := 0,
    execs := [{ Exec.fresh .primary ⟨[], []⟩ with phase := .result }],
    stage := .running, reexecuted := false, audited := false, discarded := false, digestSeal := [], ids := [], copied := (1, 0) }

/-- The device with that launch. -/
def strayDevice : State := { State.reset with launches := [strayCursor] }

/-- The cursor of launch 1 after a command. -/
def cursorAfter (r : Result) : Option (Nat × Nat) := (findL (after State.reset r) 1).map (·.copied)

theorem cursor_started : cursorAfter (exec (.integrityCheck 1 0) strayDevice) = some (0, 0) := by
  have lone := execIntegrityCheck_lone (s := strayDevice) (l := strayCursor) rfl rfl (fun i hi => absurd hi (Nat.not_lt_zero i))
    rfl (by decide) rfl rfl rfl (by decide)
  change cursorAfter (execIntegrityCheck strayCursor.id 0 strayDevice) = _
  rw [lone]
  rfl

end

/-- Refutes O41: where a passing execution is chosen the copy of its outputs starts from their first byte (`chooseExec` sets the
cursor), but the clause on a lone execution has the launch keep the cursor it had. Of a running launch whose cursor stands at byte 0 of
buffer 1, the model gives (0, 0), the statement (1, 0). -/
theorem not_resultsAreCheckedSealedAndRecorded : ¬ Obligations.ResultsAreCheckedSealedAndRecorded := by
  intro ⟨check, _⟩
  obtain ⟨lone, -⟩ := check strayDevice strayCursor rfl rfl (fun i hi => absurd hi (Nat.not_lt_zero i)) rfl (by decide)
  obtain ⟨passes, -⟩ := lone _ rfl rfl rfl rfl
  have chosen := passes (by decide)
  have kept := (cursor_started.symm.trans (congrArg cursorAfter chosen) : some (0, 0) = _)
  exact absurd kept (by decide)

end Sys2Proof.Machine
end

section
/-! SUPPORT. The FRAME words and the decoder's grant and decode (O35). -/

namespace Sys2Proof.Machine

theorem past_media (c : Core) : (past c).media = c.media := rfl

section
variable {s : State} {k : Skein} {x : SkeinCtx} {e : Env} {w : MWord} {m : Media} {fs : List MediaFrame}

/-! ### The words (R503 to R510) -/

theorem execFrameOpen_opens (hr : Ready s k x e) (hg : guardOn x.core w.hdr = true) (hl : legalFrameOpen w = true)
    (hnone : x.core.media = none) (hbuf : frameBuf w < dInputs e.l.desc)
    (hin : (getX64 x.core w.sb).toNat + (getX64 x.core w.sc).toNat ≤ (dInput e.l.desc (frameBuf w)).2)
    (hcap : mediaBytes (frameWMax w) (frameHMax w) (frameDpb w) (frameDeep w) ≤ 512 * 2 ^ 20) :
    execFrameOpen k w s = .next (withCore s k { past x.core with
      media := some { codec := frameCodec w, buf := frameBuf w, off := (getX64 x.core w.sb).toNat, len := (getX64 x.core w.sc).toNat,
                      wMax := frameWMax w, hMax := frameHMax w, dpb := frameDpb w, deep := frameDeep w, granted := false,
                      decoded := 0, taken := 0, cur := none } }) := by
  have fits : ¬ ((past x.core).media.isSome = true ∨ dInputs e.l.desc ≤ frameBuf w ∨
      (dInput e.l.desc (frameBuf w)).2 < (getX64 x.core w.sb).toNat + (getX64 x.core w.sc).toNat ∨
      mediaCap < mediaBytes (frameWMax w) (frameHMax w) (frameDpb w) (frameDeep w)) := by
    rw [past_media, hnone, mediaCap]
    simp only [Option.isSome_none, Bool.false_eq_true, false_or, not_or, not_le, not_lt]
    exact ⟨hbuf, hin, hcap⟩
  unfold execFrameOpen
  rw [issueWord_ready hr hl hg]
  simp only [getX64_past, fits, if_false]

theorem execFrameClose_closes (hr : Ready s k x e) (hg : guardOn x.core w.hdr = true) (hm : x.core.media = some m)
    (hl : legalFrameClose w = true) : execFrameClose k w s = .next (withCore s k { past x.core with media := none }) := by
  unfold execFrameClose
  rw [issueWord_ready hr hl hg]
  simp only [past_media, hm]

theorem execFrameNext_end (hr : Ready s k x e) (hg : guardOn x.core w.hdr = true) (hm : x.core.media = some m)
    (hfs : mediaFrames s e.l.id m = some fs) (hl : legalFrameNext w = true) (hgrant : m.granted = true) (hend : fs[m.taken]? = none) :
    execFrameNext k w s = .next (withCore s k
      { setX64 (past x.core) w.sd (BitVec.ofNat 64 (2 ^ 38)) with media := some { m with cur := none } }) := by
  unfold execFrameNext
  rw [issueWord_ready hr hl hg]
  simp only [past_media, hm, hfs, hgrant, hend, ite_self, Bool.not_true, Bool.false_eq_true, if_false]
  rfl

theorem execFrameNext_takes {f : MediaFrame} (hr : Ready s k x e) (hg : guardOn x.core w.hdr = true) (hm : x.core.media = some m)
    (hfs : mediaFrames s e.l.id m = some fs) (hl : legalFrameNext w = true) (hgrant : m.granted = true) (hf : fs[m.taken]? = some f)
    (hdecoded : m.taken < m.decoded) (hcount : m.taken < 2 ^ 32) : execFrameNext k w s = .next (withCore
      (modX s e.l.id e.ex (fun x => { x with evidence := x.evidence ++ [frameDigest m.codec m.taken f] })) k
      { setX64 (past x.core) w.sd (BitVec.ofNat 64 (frameInfo f)) with
        media := some { m with cur := some m.taken, taken := m.taken + 1 } }) := by
  unfold execFrameNext
  rw [issueWord_ready hr hl hg]
  simp only [past_media, hm, hfs, hgrant, hf, if_pos hcount, Bool.not_true, Bool.false_eq_true, if_false, not_le.2 hdecoded]

/-- The accesses of a READ are in order. -/
theorem frameRead_faultless {a size : Nat} {rows : List Extent} (hsize : a % size = 0)
    (hrows : rows.all (fun y => decide (e.res ≤ y.1 ∧ y.1 + y.2 ≤ e.top)) = true) :
    firstCause [(rows.any (fun x => outside e x.1 x.2), pfRange), (rows.any (fun x => intoResident e x.1 x.2), pfResident),
      (a % size != 0, pfAlign)] = none := by
  rw [List.all_eq_true] at hrows
  simp only [decide_eq_true_eq] at hrows
  have inside : rows.any (fun x => outside e x.1 x.2) = false := by
    rw [List.any_eq_false]
    intro y hy
    obtain ⟨-, htop⟩ := hrows y hy
    simp only [outside, decide_eq_true_eq]
    omega
  have beyond : rows.any (fun x => intoResident e x.1 x.2) = false := by
    rw [List.any_eq_false]
    intro y hy
    obtain ⟨hres, -⟩ := hrows y hy
    simp only [intoResident, decide_eq_true_eq]
    omega
  refine firstCause_none (fun p hp => ?_)
  simp only [List.mem_cons, List.not_mem_nil, or_false] at hp
  rcases hp with rfl | rfl | rfl
  · exact inside
  · exact beyond
  · simp [hsize]

theorem execFrameRead_writes {f : MediaFrame} {i : Nat} (hr : Ready s k x e) (hg : guardOn x.core w.hdr = true)
    (hm : x.core.media = some m) (hfs : mediaFrames s e.l.id m = some fs) (hl : legalFrameRead w = true) (hcur : m.cur = some i)
    (hf : fs[i]? = some f) (hdecoded : i < m.decoded) :
    ∀ {a b size wd ht : Nat} {rows : List Extent}, (getX64 x.core w.sa).toNat = a → (getX64 x.core w.sb).toNat = b →
    codeWidth (frameFmt w) / 8 = size → (getX64 x.core w.sc).toNat % 2 ^ 16 = wd → (getX64 x.core w.sc).toNat / 2 ^ 16 % 2 ^ 16 = ht →
    (List.range ht).map (fun r => (a + r * frameStride w, wd * size)) = rows → wd ≠ 0 → ht ≠ 0 → a % size = 0 →
    rows.all (fun y => decide (e.res ≤ y.1 ∧ y.1 + y.2 ≤ e.top)) = true → hazard e x.core [] rows = false →
    rows.all (fun y => extentReady x.core y.1 y.2) = true →
    let out := (List.range ht).map (fun r => (List.range wd).map (fun j =>
      sampleOut f.depth (frameFmt w) (codeRnd w.hdr.rnd.toNat)
        (sampleAt f (framePlane w) (b % 2 ^ 16 + j) (b / 2 ^ 16 % 2 ^ 16 + r))))
    execFrameRead k w s = .next (withCore s k (addFlags
      ((out.zip rows).foldl (fun c p => scratchWrite e c p.2.1 (p.1.flatMap (fun v => leBytes size v.1))) (past x.core))
      (flagUnion (out.map (fun r => flagUnion (r.map (·.2)))) &&& w.hdr.fmask))) := by
  intro a b size wd ht rows ha hb hsize hwd hht hrows hwide htall halign hinside hhazard hready out
  have goes : (hazard e (past x.core) [] rows || !rows.all (fun y => extentReady (past x.core) y.1 y.2) ||
      decide (m.decoded ≤ i)) = false := by
    simp only [hazard_past, extentReady_past, hhazard, hready, not_le.2 hdecoded]
    rfl
  unfold execFrameRead
  rw [issueWord_ready hr hl hg]
  simp only [past_media, hm, Option.bind_some, hcur, getX64_past, ha, hb, hsize, hwd, hht, hrows]
  rw [if_neg (not_or.2 ⟨hwide, htall⟩), frameRead_faultless halign hinside]
  dsimp only
  rw [goes, hfs]
  simp only [Option.bind_some, hf, Bool.false_eq_true, if_false]
  rfl

/-! ### The decoder (R504, R511, R517) -/

theorem modMedia_running (h : running s k.val = some x) (hm : x.core.media = some m) (f : Media → Media) :
    modMedia s k.val f = withCore s k { x.core with media := some (f m) } := by
  rw [modMedia, modCore_running h, hm, Option.map_some]

theorem execMediaContextGrant_grants (h : running s k.val = some x) (hm : x.core.media = some m) (hwait : m.granted = false)
    (hfree : (mediaUse s).1 < 256)
    (hpool : (mediaUse s).2 + mediaBytes m.wMax m.hMax m.dpb m.deep ≤ rget s Reg.emdSize * 2 ^ 30) :
    execMediaContextGrant k s = .next (withCore s k { x.core with media := some { m with granted := true } }) := by
  unfold execMediaContextGrant
  rw [h, Option.bind_some, hm]
  dsimp only
  rw [if_pos ⟨by rw [hwait]; rfl, hfree, hpool⟩, modMedia_running h hm]

theorem execFrameDecodeDone_decodes {n : Fin 4} (h : running s k.val = some x) (hm : x.core.media = some m)
    (hfs : mediaFrames s x.launch m = some fs) (hgrant : m.granted = true) (hruns : engineRuns s n.val = true)
    (hmore : m.decoded < fs.length) (hroom : m.decoded + (if m.cur.isSome then 1 else 0) < m.taken + m.dpb + 2) :
    execFrameDecodeDone k n s = .next (withCore s k { x.core with media := some { m with decoded := m.decoded + 1 } }) := by
  unfold execFrameDecodeDone
  rw [h]
  dsimp only
  rw [hm]
  dsimp only
  rw [hfs]
  dsimp only
  rw [if_pos ⟨hgrant, hruns, hmore, hroom⟩, modMedia_running h hm]

end

/-- Settles O35: a ready skein runs the word, and each word's effect is the branch that its hypotheses choose. -/
theorem frameWords : Obligations.FrameWords := by
  refine fun s k x e w => ⟨fun hr hg => ⟨execFrameOpen_opens hr hg, fun m hm => ⟨execFrameClose_closes hr hg hm, fun fs hfs =>
    ⟨execFrameNext_end hr hg hm hfs, fun f hl hgrant hf => execFrameNext_takes hr hg hm hfs hl hgrant hf,
      fun f i hl hcur hf hdecoded => execFrameRead_writes hr hg hm hfs hl hcur hf hdecoded rfl rfl rfl rfl rfl rfl⟩⟩⟩,
    fun m h hm => ⟨execMediaContextGrant_grants h hm, fun fs n hfs => execFrameDecodeDone_decodes h hm hfs⟩⟩

end Sys2Proof.Machine
end

section
/-! SUPPORT. Boot, configuration requests, firmware slots, HOLD and attaching, command by command (O50). -/

namespace Sys2Proof.Machine

section
variable (s : State)

/-! ### Booting (R526 to R528) -/

theorem execPowerOn_boots (find : BootFind) (h0 : s.glb.phase = 0) (hp : s.mdl.powered = true) (hw : s.mdl.warning = false) :
    execPowerOn find s = .next (fullBoot find s) := by
  unfold execPowerOn
  rw [if_pos ⟨hp, by rw [hw]; rfl, h0⟩]

theorem fullBoot_recovery {s : State} {find : BootFind} (h : chooseSlot (findModref find s) = none) :
    fullBoot find s = enterRecovery (findModref find s) := by
  unfold fullBoot
  rw [h]

theorem fullBoot_slot {s u : State} {find : BootFind} (h : chooseSlot (findModref find s) = some u) :
    fullBoot find s = storePhase (closeSegment (mapPhase find ((List.range 8).foldl
      (trainStack find (mapFenced (readClass find (loadFirmware u))))
      { readClass find (loadFirmware u) with mem := [], lostBursts := [], lostReaders := [] }))) := by
  unfold fullBoot
  rw [h]

/-- A boot past its limit goes on from the slot that the ROM chooses, if there is one. -/
theorem execBootLimitExpiry_due {o : Option State} (hphase : s.glb.phase.toNat < 5) (hdown : s.hst.down = false)
    (hp : s.mdl.powered = true) (hlate : s.glb.bootAt + 1000000 * rget s Reg.bootLimit ≤ s.clk.elapsed) (h : chooseSlot s = o) :
    execBootLimitExpiry s = .next (o.elim (enterRecovery s) (fullReset 9)) := by
  have hnow : ¬ s.clk.elapsed < s.glb.bootAt + millisecond * rget s Reg.bootLimit := by
    simp only [millisecond]
    omega
  unfold execBootLimitExpiry
  rw [if_neg (by simp [hphase, hdown, hp, hnow]), h]
  cases o <;> rfl

/-! ### Configuration requests (R535, R551) -/

theorem execConfigRequest_answered (fn : Tenant) (op : ConfigOp) (h : answersConfig s = true) : execConfigRequest fn op s =
    .next (configEffect (emit s (.configured fn.val (configAnswer s fn.val op))) fn.val op) := by
  unfold execConfigRequest
  rw [if_neg (by rw [h]; decide)]

theorem sendRequests_config (fn : Nat) : (sendRequests s fn).hst.config = s.hst.config ∧
    (sendRequests s fn).hst.failed = s.hst.failed := by
  unfold sendRequests
  dsimp only
  split
  · exact ⟨rfl, rfl⟩
  · split <;> exact ⟨rfl, rfl⟩

theorem fnConfig_modConfig (fn : Nat) (f : FnConfig → FnConfig) : fnConfig (modConfig s fn f) fn = f (fnConfig s fn) := by
  unfold fnConfig modConfig
  exact nget_nmod_self ..

/-- Page requests that are turned on: no fault of the function fails at once any more. -/
theorem priControl_on (fn n : Nat) (hoff : (fnConfig s fn).priOn = false) :
    (fnConfig (priControl s fn true false n) fn).priOn = true ∧
      (fnConfig (priControl s fn true false n) fn).priAlloc = min n 256 ∧
      smem (priControl s fn true false n).hst.failed fn = false := by
  let v : State := modConfig s fn (fun c => { c with priOn := true, priAlloc := min n 256 })
  let u : State := { v with hst := { v.hst with failed := sdel v.hst.failed fn } }
  have sent : priControl s fn true false n = sendRequests u fn := by
    unfold priControl
    exact (if_pos rfl).trans (congrArg (sendRequests · fn) (if_pos (.inl ⟨rfl, by rw [hoff]; rfl⟩)))
  obtain ⟨hconfig, hfailed⟩ := sendRequests_config u fn
  have config : fnConfig (sendRequests u fn) fn = { fnConfig s fn with priOn := true, priAlloc := min n 256 } := by
    have set_ : fnConfig v fn = { fnConfig s fn with priOn := true, priAlloc := min n 256 } := fnConfig_modConfig s fn _
    rw [← set_, fnConfig, hconfig, fnConfig]
  rw [sent, config, hfailed]
  refine ⟨rfl, rfl, ?_⟩
  change smem (sdel v.hst.failed fn) fn = false
  simp

/-! ### Firmware slots (R540, R541, R551) -/

theorem slotImage_writeSlot (slot : Nat) (b : Bytes) (h : slot = 0 ∨ slot = 1) :
    slotImage (writeSlot s slot b) slot = b ∧ slotImage (writeSlot s slot b) (1 - slot) = slotImage s (1 - slot) ∧
      (writeSlot s slot b).glb = s.glb := by
  rcases h with rfl | rfl <;> exact ⟨rfl, rfl, rfl⟩

theorem inactiveSlot_cases : inactiveSlot s = 0 ∨ inactiveSlot s = 1 := by
  unfold inactiveSlot
  omega

theorem take_slotBytes {b : Bytes} (h : b.length ≤ 2 ^ 25) : b.take slotBytes = b := List.take_of_length_le h

theorem execFwUpdateDone_data (hbusy : s.glb.fwState = 1) (b : Bytes) (hb : b.length ≤ 2 ^ 25) :
    ∃ t, execFwUpdateDone (.data b) s = .next t ∧ slotImage t (inactiveSlot s) = b ∧
      slotImage t (1 - inactiveSlot s) = slotImage s (1 - inactiveSlot s) ∧ t.glb.fwState = if fwAccepted s b = true then 2 else 3 := by
  obtain ⟨hslot, hother, -⟩ := slotImage_writeSlot s (inactiveSlot s) b (inactiveSlot_cases s)
  refine ⟨setFwState (writeSlot s (inactiveSlot s) b) (if installable s b then 2 else 3), ?_, hslot, hother, ?_⟩
  · unfold execFwUpdateDone
    rw [if_neg (not_not.2 hbusy)]
    dsimp only
    rw [take_slotBytes hb]
  · have fits : decide (b.length ≤ slotBytes) = true := decide_eq_true hb
    change (if installable s b then 2 else 3) = _
    rw [installable, fits, Bool.true_and]

theorem execPldmFwUpdate_writes (slotB : Bool) (b : Bytes) (h0 : s.glb.phase ≠ 0) (h9 : s.glb.phase ≠ 9)
    (hslot : (if slotB then 1 else 0) ≠ (readBcb s).active) (hb : b.length ≤ 2 ^ 25) :
    ∃ t, execPldmFwUpdate slotB b s = .next t ∧ slotImage t (if slotB then 1 else 0) = b ∧ t.glb = s.glb := by
  obtain ⟨himage, -, hglb⟩ := slotImage_writeSlot s (if slotB then 1 else 0) b (by cases slotB <;> simp)
  refine ⟨_, ?_, himage, hglb⟩
  unfold execPldmFwUpdate
  dsimp only
  rw [if_neg (by simp only [h0, h9, hslot, ne_eq, not_false_eq_true, and_false, or_self]), if_neg (fun h => h9 h.1), take_slotBytes hb]

theorem execGetMeasurements_answers (index : BitVec 8) (b : Bytes) (h0 : s.glb.phase ≠ 0) (hb : measurement s index.toNat = some b) :
    execGetMeasurements index s = .next (emit s (.spdm b)) := by
  unfold execGetMeasurements
  rw [hb, decide_eq_false h0]

/-! ### HOLD and attaching (R549, R385 to R387) -/

theorem execHoldLoadStart_judged (h8 : s.glb.phase = 8) {b : Bytes} {l : List (Option Accord)} {a : Accord}
    (hl : holdAccords s b = some l) (ha : l.head? = some (some a)) : execHoldLoadStart (.data b) s = .next (
      if (expectedAccord s).any (fun e => e.1 == a.id && e.2 == a.digest) then acceptHold s l else refuseHold s a.id) := by
  have first : l.getD 0 none = some a := by
    cases l with
    | nil => cases ha
    | cons x l => exact Option.some.inj ha
  unfold execHoldLoadStart
  rw [if_neg (not_not.2 h8)]
  dsimp only
  rw [hl]
  dsimp only
  rw [first]
  rfl

/-- The phase and the answer to HST_ATTACH. -/
def attachOf (s : State) : Phase × Nat := (s.glb.phase, s.glb.attach)

theorem attachOf_sendFetch (kind epoch : Nat) (items : List Nat) : attachOf (sendFetch s kind epoch items) = attachOf s :=
  (congrArg attachOf (besideFetches_sendFetch s kind epoch items) :)

theorem attachOf_fallBehind (epoch : Nat) : attachOf (fallBehind s epoch) = attachOf s := by
  unfold fallBehind
  split
  · rfl
  · unfold attachOf
    rw [logErr_glb]
    rfl

theorem attachOf_catchUp : attachOf (catchUp s) = attachOf s := by
  unfold catchUp
  split
  · unfold fetchManifest
    rw [attachOf_sendFetch]
    split
    · exact attachOf_fallBehind ..
    · rfl
  · rfl

theorem attachOf_enterService : attachOf (enterService s) = (6, 1) := by
  unfold enterService
  dsimp only
  split
  · rfl
  · unfold writeBcb
    dsimp only
    split <;> rfl

theorem execConfirm_enters (h5 : s.glb.phase = 5) (h0 : s.glb.attach = 0) (hr : s.glb.retained = true) :
    ∃ t, execConfirm s = .next t ∧ t.glb.phase = 6 ∧ t.glb.attach = 1 := by
  have attached := (attachOf_catchUp (enterService s)).trans (attachOf_enterService s)
  refine ⟨catchUp (enterService s), ?_, congrArg Prod.fst attached, congrArg Prod.snd attached⟩
  unfold execConfirm confirm
  rw [if_neg (by simp [h5, h0, hr])]

end

/-- Settles O50, command by command: each clause is the branch that its hypotheses choose. -/
theorem bootAndFirmwareCommands : Obligations.BootAndFirmwareCommands := by
  refine ⟨fun s find h0 hp hw => ⟨fun hnone => ?_, fun u hu => ?_⟩, fun s hphase hdown hp hlate => ⟨fun hnone => ?_, fun u hu => ?_⟩,
    fun s fn op => ⟨fun hoff => congrArg Host.Outcome.next (if_pos (by simp [hoff])), fun hon => ?_⟩,
    fun s => ⟨fun hok => congrArg Host.Outcome.next (if_pos hok), fun hbad => congrArg Host.Outcome.next (if_neg (by simp [inactiveSlot, hbad])),
      rfl, rfl, ⟨fwCommit s, rfl, le_max_left .., le_max_right .., rfl⟩, fun hidle => congrArg Host.Outcome.next (if_neg hidle),
      fun hbusy => ⟨congrArg Host.Outcome.next (if_neg (not_not.2 hbusy)), execFwUpdateDone_data s hbusy⟩,
      fun slotB b => execPldmFwUpdate_writes s slotB b, fun index b => execGetMeasurements_answers s index b⟩,
    fun s => ⟨fun h8 => ⟨fun b l a hl ha => ⟨fun hexp => ?_, fun hexp => ?_⟩, congrArg Host.Outcome.next (if_neg (not_not.2 h8))⟩,
      fun h5 h0 => ⟨execConfirm_enters s h5 h0, congrArg Host.Outcome.next (if_neg (by simp [h5, h0]))⟩⟩⟩
  · exact (execPowerOn_boots s find h0 hp hw).trans (congrArg Host.Outcome.next (fullBoot_recovery hnone))
  · exact (execPowerOn_boots s find h0 hp hw).trans (congrArg Host.Outcome.next (fullBoot_slot hu))
  · exact (execBootLimitExpiry_due s hphase hdown hp hlate hnone)
  · exact (execBootLimitExpiry_due s hphase hdown hp hlate hu)
  · have answered (op : ConfigOp) := execConfigRequest_answered s fn op hon
    refine ⟨answered op, answered _, fun f => answered _, fun n => answered _, fun n hfn hn => ⟨_, answered _, ?_⟩,
      fun n hoff => ⟨_, answered _, priControl_on (emit s _) fn.val n hoff⟩, ⟨_, answered _, ?_, rfl⟩⟩
    · rw [configEffect, if_pos ⟨hfn, hn⟩]
    · rw [configEffect, getT_modT_self]
  · refine (execHoldLoadStart_judged s h8 hl ha).trans ?_
    rw [hexp]
    simp
  · refine (execHoldLoadStart_judged s h8 hl ha).trans ?_
    rw [hexp]
    rfl

end Sys2Proof.Machine
end
